-- ==== Sys2Proof/Word.lean ====
section
/-! DEFINITION. The word types of the manual (spec/00_scope.md R18): bits are numbered from 0 at the least
significant end and every structure is little-endian. -/

namespace Sys2Proof

/-- One byte of memory, of a DOMAIN or of a frame. -/
abbrev Byte := BitVec 8

/-- One 32-bit word, the unit of SECDED protection and of poison (R42). -/
abbrev Word32 := BitVec 32

/-- A dictionary cell: 16 bytes (R46). -/
abbrev Cell128 := BitVec 128

/-- One 32-byte sector of stack memory: the burst of one pseudo-channel (R231). -/
abbrev Sector256 := BitVec 256

end Sys2Proof
end

