-- ==== Sys2Proof/Syntax.lean ====
section
/-! DEFINITION. The commands of the block: one constructor of `Instr` for each row of spec/opcode_table.json.
The table gives no bits, so the operands are those that the rule of the row names. -/

namespace Sys2Proof

/-- A port through which the dictionary is reached (R48): HST, MGT, DBG, or one of the cores CP0 to CP3. -/
inductive Port where
  | h
  | m
  | d
  | f (core : Fin 4)
  deriving DecidableEq, Repr

/-- What a command about a reset sequence concerns: the whole block, or a part reset alone (R378, R383). -/
inductive Target where
  | block
  | station (s : Fin 48)
  | agent (n : Fin 24)
  | link (p : Fin 2)
  deriving DecidableEq, Repr

/-- What the host answers to a read that HST issued (R287, R296, R413): bytes, poisoned where EP is set, or an
error completion. -/
inductive HostAnswer where
  | data (bytes : List Byte) (ep : Bool)
  | error
  deriving DecidableEq, Repr

/-- What a core does at an address (R361). -/
inductive AccessKind where
  | fetch
  | load
  | store
  deriving DecidableEq, Repr

/-- A boundary whose receiving stage checks words (R264). -/
inductive Boundary where
  | crossing (n : Fin 24)
  | stitch (k : Fin 3)
  deriving DecidableEq, Repr

/-- How the SECDED check of a Hand entry ends when a frame reads it (R229). -/
inductive EccResult where
  | clean
  | corrected
  | uncorrectable
  deriving DecidableEq, Repr

/-- An entry of a Hand or of a spine Hand that a frame reads (R229): by agent, slot and group, or by segment, slot and
direction. -/
inductive HandSlot where
  | card (n : Fin 24) (slot : Fin 512) (g : Fin 4)
  | spine (k : Fin 3) (slot : Fin 512) (dir : Bool)
  deriving DecidableEq, Repr

/-- What a frame's boundary brings from outside its rules (R229, R233): the refresh-rate indications of the 24 stacks, two
bits each, and the Hand entries that the frame reads with an error, each corrected or uncorrectable. -/
structure FrameReport where
  rates : BitVec 48
  errs : List (HandSlot × Bool)
  deriving DecidableEq, Repr

/-- The way of a beat (R263, R264): the boundary it crosses, and whether it goes down, towards the stacks. -/
structure BeatWay where
  boundary : Boundary
  down : Bool
  deriving DecidableEq, Repr

/-- What a crossing's control word carries (R265), as far as its loss has an effect of its own: word `k` of a slot's eight
carries its runs 3k + 1 to 3k + 3. -/
inductive ControlItem where
  | runs (k : Fin 8)
  | sideband
  | routing
  deriving DecidableEq, Repr

/-- The commands (spec/opcode_table.json, in the table's order). A dock command carries the ARCLK cycle `c` at
which it is presented and the bits [127:4] of CMD_DATA; the row itself is the OP in bits [3:0] (R189, R190).
`abs` is a slot counted from the start of the timeline: slot `abs % 512` of frame `abs / 512` (R33, R34). -/
inductive Instr where
  -- reset (spec/16_reset_clocks_power.md)
  | powerGoodRise
  | powerGoodFall
  | btRstNAssert
  | rstGlitch
  | resetCmdBlock (p : Port)
  | resetCmdStation (p : Port) (s : Fin 48)
  | resetCmdStackAgent (p : Port) (n : Fin 24)
  | resetCmdLinkAgent (p : Port) (l : Fin 2)
  | recoveryExit (p : Port)
  | systemWatchdogExpiry
  | sysWdogKick (p : Port)
  | holdPhaseEnd (t : Target)
  | releaseStepComplete (t : Target)
  | releaseStepTimeout (t : Target)
  | crossingTrainStepDone (n : Fin 24) (ok : Bool) (info : BitVec 14)
  -- clocks and power (spec/16_reset_clocks_power.md)
  | clkStateStable
  | clkStateNotStable
  | clkReqTimeout
  | budget (cap : BitVec 16)
  | pwrMessageBad (word : Word32)
  | loadForecast (e : Fin 32)
  | loadStatus
  | powerWindowBoundary
  | loadPlanCommit (p : Port)
  | loadPlanDisable (p : Port)
  | throttleRepeat (n : Fin 24)
  | throttleLimitExpiry (n : Fin 24)
  -- the object dictionary (spec/02_object_dictionary.md)
  | hostDictionaryRead (off : BitVec 28) (len : Nat)
  | hostDictionaryWrite (off : BitVec 28) (data : List Byte)
  | hostApertureRead (off : BitVec 26) (len : Nat)
  | hostApertureWrite (off : BitVec 26) (data : List Byte)
  | mgtFrameReceive (frame : List Byte)
  | mgtRead
  | mgtWrite
  | mgtBlockRead
  | mgtBlockWrite
  | mgtBadFrame
  | mgtResponseSend
  | faultFrameSend
  | tapInstructionUpdate (ir : Byte)
  | odAccessRead (idx : BitVec 16) (sub : Byte)
  | odAccessWrite (idx : BitVec 16) (sub : Byte) (v : Cell128)
  | odAccessCapture
  | odAccessComplete
  | domDataRead (p : Port)
  | domDataWrite (p : Port) (v : Cell128)
  | queryTargetWrite (p : Port) (v : Word32)
  | dbgLockWrite (p : Port) (v : Byte)
  | registerWrite (p : Port) (idx : BitVec 16) (sub : Byte) (v : Cell128)
  | coreAccess (k : Fin 4) (kind : AccessKind) (addr : Word32) (len : Nat) (data : List Byte)
  -- host rings and dynamic jobs (spec/12_dynamic_channels.md)
  | ringEnable (p : Port) (r : Fin 64)
  | ringDisable (p : Port) (r : Fin 64)
  | ringAbort (p : Port) (r : Fin 64)
  | doorbell (p : Port) (r : Fin 64)
  | entryReadComplete (r : Fin 64) (ans : HostAnswer)
  | scanResume (r : Fin 64)
  | entryReadRetry (r : Fin 64) (ans : HostAnswer)
  | nop (r : Fin 64)
  | move (r : Fin 64)
  | moveInline (r : Fin 64)
  | fragments (r : Fin 64)
  | weevil (r : Fin 64)
  | semOpWaitGe (r : Fin 64)
  | semOpAdd (r : Fin 64)
  | semOpSub (r : Fin 64)
  | fence (r : Fin 64)
  | skip (r : Fin 64)
  | pack (r : Fin 64)
  | expand (r : Fin 64)
  | reshard (r : Fin 64)
  | jobStart (j : Nat)
  | jobHostError (j : Nat)
  | jobComplete (j : Nat)
  | headWrite (r : Fin 64)
  | irqMarkWrite (p : Port) (r : Fin 64) (v : Word32)
  -- docks (spec/08_docks.md)
  | dockNop (s : Fin 48) (c : Nat) (w : BitVec 124)
  | arm (s : Fin 48) (c : Nat) (w : BitVec 124)
  | start (s : Fin 48) (c : Nat) (w : BitVec 124)
  | cancel (s : Fin 48) (c : Nat) (w : BitVec 124)
  | accept (s : Fin 48) (c : Nat) (w : BitVec 124)
  | post (s : Fin 48) (c : Nat) (w : BitVec 124)
  | wake (s : Fin 48) (c : Nat) (w : BitVec 124)
  | sleep (s : Fin 48) (c : Nat) (w : BitVec 124)
  | unitGroupOpen (s : Fin 48) (result : Bool)
  | unitGroupClose (s : Fin 48) (result : Bool)
  | resultBeat (s : Fin 48) (c : Nat) (data : BitVec 2048)
  | operandInterval (s : Fin 48) (slot : Fin 128)
  | gateConditionMet (s : Fin 48)
  | holdRelease (s : Fin 48)
  | linkWaitExpiry (s : Fin 48)
  | cancelDrainEnd (s : Fin 48) (slot : Fin 128)
  | linkPostApply (s : Fin 48) (ctr : Fin 32)
  | streamCommit (p : Port) (s : Fin 48) (slot : Fin 128)
  | streamClear (p : Port) (s : Fin 48) (slot : Fin 128)
  | linkPost (p : Port) (s : Fin 48) (ctr : Fin 32) (amount : Word32)
  -- weight compression (spec/07_weight_compression.md)
  | slotLoad (p : Port) (s : Fin 48) (k : Fin 8)
  | slotFence (p : Port) (s : Fin 48) (k : Fin 8)
  | expanderBlockInput (s : Fin 48) (slot : Fin 128)
  | dynamicBlockAdmit (s : Fin 48) (c : Nat)
  -- cards (spec/09_deck.md, spec/10_stack_agents.md)
  | sectorListSend (n : Fin 24) (abs : Nat)
  | sectorListArrive (n : Fin 24) (abs : Nat) (g : Fin 4)
  | staticReadCard (n : Fin 24) (abs : Nat) (g : Fin 4) (ecc : EccResult)
  | staticWriteCard (n : Fin 24) (abs : Nat) (g : Fin 4) (ecc : EccResult)
  | dynamicCard (n : Fin 24) (abs : Nat) (g : Fin 4)
  | staticSectorLand (s : Fin 48)
  | refreshCard (n : Fin 24) (abs : Nat) (g : Fin 4)
  | owedTick (n : Fin 24)
  | dealerDecision (n : Fin 24) (abs : Nat) (g : Fin 4)
  | trumpGrant (n : Fin 24) (abs : Nat) (g : Fin 4)
  | requestArrive (n : Fin 24)
  | readBurst (n : Fin 24) (sev : BitVec 2)
  | scrubIssue (n : Fin 24)
  | freeze (p : Port) (n : Fin 24) (v : Byte)
  | initComplete (n : Fin 24)
  | initTimeout (n : Fin 24)
  | frameBegin (report : FrameReport)
  | swapCommit (p : Port)
  | swapWithdraw (p : Port)
  | swapChecksComplete
  | swapDecisionPoint
  -- crossings, spine, UCIe (spec/11_crossings.md)
  | crossingBeatReceive (way : BeatWay) (inRange : Bool) (words : List (Word32 × BitVec 7))
  | controlWordReceive (n : Fin 24) (parityOk : Bool) (item : ControlItem)
  | frameMarkArrive (n : Fin 24) (count : Option Nat)
  | spineAllocate (dir : Bool) (abs : Nat)
  | ucieUnitReceive (m : Fin 5) (seq : BitVec 4) (crc : Word32) (pois : BitVec 64) (data : List Byte)
  | ucieModuleInitDone (m : Fin 5)
  | ucieInitTimeout (m : Fin 5)
  -- remote traffic and synchronisation (spec/13_remote_sync.md)
  | myEndpointWrite (p : Port) (v : Word32)
  | linkEnableWrite (p : Port) (v : Byte)
  | channelOpen (p : Port) (l : Fin 2) (c : Fin 4096)
  | channelClose (p : Port) (l : Fin 2) (c : Fin 4096)
  | grantArrive (l : Fin 2)
  | grantRepeat (l : Fin 2) (c : Fin 4096)
  | responseArrive (l : Fin 2)
  | flitSend (l : Fin 2)
  | flitReceive (l : Fin 2) (cls : Fin 4) (som : Byte) (pois : BitVec 64) (data : List Byte)
  | creditReturn (l : Fin 2) (cls : Fin 4)
  | messageArrive (l : Fin 2)
  | messageApply (l : Fin 2) (c : Fin 4096)
  | semAddApply (l : Fin 2) (c : Fin 4096)
  | remoteWriteDurable (l : Fin 2) (c : Fin 4096)
  | retransmitTimeout (l : Fin 2) (c : Fin 4096)
  | queueStart (p : Port) (l : Fin 2) (q : Fin 64)
  | queueFinish (p : Port) (l : Fin 2) (q : Fin 64)
  | queueRecordWrite (l : Fin 2) (c : Fin 4096)
  | multicastCut (l : Fin 2) (c : Fin 4096)
  | semCmdAdd (p : Port) (ctx : Fin 64) (v : Fin 1024) (k : Word32)
  | semCmdSub (p : Port) (ctx : Fin 64) (v : Fin 1024) (k : Word32)
  | semValuesWrite (p : Port) (sem : Fin 4096) (v : Word32)
  | semMapWrite (p : Port) (ctx : Fin 64) (v : Fin 1024) (w : Word32)
  | waiterExpiry (id : Nat)
  | barrierFire (b : Fin 64)
  -- placement (spec/14_placement_resharding.md)
  | alloc (p : Port) (policy : BitVec 2) (field : BitVec 3) (phase : BitVec 5) (granules : Word32)
  | free (p : Port) (handle : BitVec 24)
  | allocOperationComplete
  | handleRelease (slot : Fin 65536)
  | handleQueryWrite (p : Port) (v : Word32)
  -- firmware and mailboxes (spec/15_oprun_firmware.md)
  | h2fPost (p : Port)
  | f2hSend (p : Port)
  | f2hAck (p : Port)
  | mailboxBadRequest
  | hello
  | boot
  | update
  | adopt
  | coreRestart
  | status
  | imageCheckComplete
  | ready
  | fwStartLimitExpiry
  | coreRunWrite (p : Port) (v : Word32)
  | wdogKick (p : Port) (k : Fin 4)
  | coreWatchdogExpiry (k : Fin 4) (pc : Word32)
  | coreStateRunning (p : Port) (k : Fin 4)
  | compartmentWrite (p : Port) (c : Fin 16) (off : BitVec 7) (data : List Byte)
  | handoverSafePointDeadline (parked : Bool)
  | handoverReadyDeadline
  | handoverOldReadyDeadline
  | handoverEnd
  | hostHeartbeat (p : Port)
  | heartbeatExpiry
  | orphanPark
  -- faults (spec/17_faults_limits.md)
  | faultEvent (src : Fin 88) (detail : BitVec 16)
  | faultClear (p : Port) (mask : Cell128)
  | faultAck (p : Port)
  | errOutRelease (p : Port)
  | errOutModeWrite (p : Port) (mode : Word32)
  | errOutTimerExpiry
  -- rows that stand last in the table
  | hostReadCompletion (id : Nat) (ans : HostAnswer)
  | tallyLaneBeat (s : Fin 48)
  | tapReset
  | reservedDockCommand (s : Fin 48) (c : Nat) (op : Fin 8) (w : BitVec 124)
  deriving DecidableEq, Repr

end Sys2Proof
end

