-- ==== Sys2Proof/Decode.lean ====
section
/-! DEFINITION. The words of the commands. spec/opcode_table.json gives no row any bits: the commands reach the block
over its ports (spec/00_scope.md R8 to R15), each in that port's own form, and no word spells one. -/

namespace Sys2Proof

/-- The command that a word of the table's bits spells: none (log entry 3). -/
def decodeTableWord (_nbits _w : Nat) : Option Instr := none

end Sys2Proof
end

