-- ==== Sys2Proof/Config.lean ====
section
/-! DEFINITION. The free values of the model: what the manual leaves open. Each is a constant without a body, so
nothing can be proved of its value (log entry 5). -/

namespace Sys2Proof.Config

/-- A byte of stack memory, of a Pool or of the firmware RAM that nothing has written since its contents last became
undefined: by generation and address (R378; the manual states no contents). -/
opaque undefByte : Nat → Nat → BitVec 8

/-- A number the manual does not state, by the counter of free values taken. -/
opaque freeNat : Nat → Nat

/-- Which of the check-bit patterns of weight 3 that are still free data bit `i` of the SECDED code takes as its
column (R264; the manual states the weights alone). -/
opaque secdedPick : Nat → Nat

/-- What a station reads at an entry of its scale file beyond its 4096 (R104, R147: the manual states none). -/
opaque scaleBeyond : Nat → Nat

/-- A byte of the group records that a grouped result port format would need and RES does not carry, by station, time
and place (R184, R198: the manual states none). -/
opaque resultScale : Nat → Nat → Nat → BitVec 8

end Sys2Proof.Config
end

