-- ==== Sys2Proof/Machine/Entries.lean ====
section
/-! DEFINITION. The table of the object dictionary: every entry's type, rights, default, write mask and range, as the
entry tables of the chapters give them (R44 to R51, R71, R152, R181, R208, R230, R260, R277, R305, R334, R351, R377,
R403, R417). Sub 1 is the first element of an index's list (the subs of every index are contiguous from 1). -/

namespace Sys2Proof.Machine

/-- The types of R46. -/
inductive Ty where
  | bool | u8 | u16 | u32 | u64 | i32 | enum | bits32 | bits64 | bits128 | domain | string
  deriving DecidableEq, Repr

/-- The type code of R46. -/
def Ty.code : Ty → Nat
  | .bool => 0 | .u8 => 1 | .u16 => 2 | .u32 => 3 | .u64 => 4 | .i32 => 5 | .enum => 6 | .bits32 => 7
  | .bits64 => 8 | .bits128 => 9 | .domain => 10 | .string => 11

/-- The width in bytes of R46. -/
def Ty.width : Ty → Nat
  | .bool | .u8 => 1 | .u16 => 2 | .u32 | .i32 | .enum | .bits32 => 4 | .u64 | .bits64 => 8
  | .bits128 | .domain | .string => 16

/-- The rights of R48. -/
inductive Right where
  | none | ro | wo | rw
  deriving DecidableEq, Repr

/-- The code by which QUERY_RESULT shows a right (R71). -/
def Right.code : Right → Nat
  | .none => 0 | .ro => 1 | .wo => 2 | .rw => 3

/-- Whether a right lets a port read (R48). -/
def Right.reads : Right → Bool
  | .ro | .rw => true
  | _ => false

/-- Whether a right lets a port write (R48). -/
def Right.writes : Right → Bool
  | .wo | .rw => true
  | _ => false

/-- One entry: type, the four rights, default (SIZE for a DOMAIN), CAPACITY of a DOMAIN, the bits that are not
reserved, and the stated range of the value. -/
structure Row where
  ty : Ty
  h : Right
  m : Right
  d : Right
  f : Right
  dflt : Nat
  cap : Nat := 0
  mask : Nat
  lo : Nat := 0
  hi : Nat := 2 ^ 128 - 1
  deriving DecidableEq, Repr

/-- A row whose bits are all writable where its rights allow and whose value has no stated range. -/
def row (ty : Ty) (h m d f : Right) (dflt : Nat) : Row :=
  { ty, h, m, d, f, dflt, mask := if ty = .bool then 1 else 2 ^ (8 * ty.width) - 1 }

/-- 0x1000 (R71): VENDOR_ID, FAMILY, PRODUCT_ID, VENDOR_NAME, PRODUCT_NAME. -/
def rows1000 : List Row := [
  row .u32 .ro .ro .ro .ro 0x5a4d,
  row .enum .ro .ro .ro .ro 1,
  row .u32 .ro .ro .ro .ro 0xb724,
  row .string .ro .ro .ro .ro 0x6e726f65676e6f5a,
  row .string .ro .ro .ro .ro 0x34322d54422061706f7542]

/-- 0x1001 (R71): HW_RELEASE, OD_FORMAT, MAILBOX_FORMAT, TMD_VERSION. -/
def rows1001 : List Row := [
  row .u32 .ro .ro .ro .ro 0x30100,
  row .u16 .ro .ro .ro .ro 1,
  row .u16 .ro .ro .ro .ro 3,
  row .u8 .ro .ro .ro .ro 2]

/-- 0x1002 (R71): FEATURES. -/
def rows1002 : List Row := [
  row .bits128 .ro .ro .ro .ro 3]

/-- 0x1003 (R71): STATIONS, STACK_AGENTS, LINK_AGENTS, CORES. -/
def rows1003 : List Row := [
  row .u8 .ro .ro .ro .ro 48,
  row .u8 .ro .ro .ro .ro 24,
  row .u8 .ro .ro .ro .ro 2,
  row .u8 .ro .ro .ro .ro 4]

/-- 0x1010 (R71): HST_LAST_STATUS, HST_LAST_INDEX, HST_LAST_SUB, HST_LAST_OFFSET, HST_ERRORS. -/
def rows1010 : List Row := [
  row .enum .ro .ro .ro .ro 0,
  row .u16 .ro .ro .ro .ro 0,
  row .u8 .ro .ro .ro .ro 0,
  row .u32 .ro .ro .ro .ro 0,
  row .u32 .rw .ro .ro .rw 0]

/-- 0x1011 (R71): MGT_FRAMES_RX, MGT_FRAMES_DROPPED, MGT_FRAMES_SHORT. -/
def rows1011 : List Row := [
  row .u32 .ro .rw .ro .rw 0,
  row .u32 .ro .rw .ro .rw 0,
  row .u32 .ro .rw .ro .rw 0]

/-- 0x1012 (R71): DBG_OVERRUNS. -/
def rows1012 : List Row := [
  row .u32 .ro .ro .rw .rw 0]

/-- 0x1020 (R71): DBG_LOCK. -/
def rows1020 : List Row := [
  row .bool .rw .rw .ro .ro 0]

/-- 0x1022 (R71): QUERY_TARGET, QUERY_RESULT. -/
def rows1022 : List Row := [
  { row .u32 .rw .rw .rw .rw 0 with mask := 0xffffff },
  row .bits32 .ro .ro .ro .ro 15]

/-- 0x1030 (R71): APERTURE_1, APERTURE_2, APERTURE_3, APERTURE_4. -/
def rows1030 : List Row := [
  { row .bits64 .rw .none .none .ro 0 with mask := 0xfffff00000ffffff },
  { row .bits64 .rw .none .none .ro 0 with mask := 0xfffff00000ffffff },
  { row .bits64 .rw .none .none .ro 0 with mask := 0xfffff00000ffffff },
  { row .bits64 .rw .none .none .ro 0 with mask := 0xfffff00000ffffff }]

/-- 0x1040 (R71): DOM_TARGET, DOM_OFFSET, DOM_DATA. -/
def rows1040 : List Row := [
  { row .u32 .none .none .rw .rw 0 with mask := 0xffffff },
  { row .u32 .none .none .rw .rw 0 with mask := 0xfffffff0 },
  row .bits128 .none .none .rw .rw 0]

/-- station +0x10 (R157): SAT_OPD, SAT_RES, SAT_DYN, NAN_OPD, NAN_RES, NAN_DYN, OUTLIER_RES, OUTLIER_DYN. -/
def stationRows10 : List Row := [
  row .u64 .rw .rw .ro .rw 0,
  row .u64 .rw .rw .ro .rw 0,
  row .u64 .rw .rw .ro .rw 0,
  row .u64 .rw .rw .ro .rw 0,
  row .u64 .rw .rw .ro .rw 0,
  row .u64 .rw .rw .ro .rw 0,
  row .u64 .rw .rw .ro .rw 0,
  row .u64 .rw .rw .ro .rw 0]

/-- station +0x11 (R157): TALLY_ROWS, TALLY_COLS, TALLY_SEL, TALLY_OVERRUNS, TALLY_WRAPS. -/
def stationRows11 : List Row := [
  { row .u16 .rw .ro .rw .rw 128 with lo := 1 },
  { row .u16 .rw .ro .rw .rw 128 with lo := 1 },
  { row .enum .rw .ro .rw .rw 0 with hi := 3 },
  row .u32 .rw .rw .ro .rw 0,
  row .u32 .rw .rw .ro .rw 0]

/-- station +0x12 (R157): CHSCALE_FILE. -/
def stationRows12 : List Row := [
  { row .domain .rw .ro .rw .rw 0x4000 with cap := 16384 }]

/-- station +0x18 (R104, R151, R157): FMT_PROFILE_0. -/
def stationRows18 : List Row := [
  { row .bits128 .rw .ro .rw .rw 0 with mask := 0xffffffffffffffff00007fff001fffff }]

/-- station +0x19 (R104, R151, R157): FMT_PROFILE_1. -/
def stationRows19 : List Row := [
  { row .bits128 .rw .ro .rw .rw 0 with mask := 0xffffffffffffffff00007fff001fffff }]

/-- station +0x1A (R104, R151, R157): FMT_PROFILE_2. -/
def stationRows1A : List Row := [
  { row .bits128 .rw .ro .rw .rw 0 with mask := 0xffffffffffffffff00007fff001fffff }]

/-- station +0x1B (R104, R151, R157): FMT_PROFILE_3. -/
def stationRows1B : List Row := [
  { row .bits128 .rw .ro .rw .rw 0 with mask := 0xffffffffffffffff00007fff001fffff }]

/-- station +0x1C (R104, R151, R157): FMT_PROFILE_4. -/
def stationRows1C : List Row := [
  { row .bits128 .rw .ro .rw .rw 0 with mask := 0xffffffffffffffff00007fff001fffff }]

/-- station +0x1D (R104, R151, R157): FMT_PROFILE_5. -/
def stationRows1D : List Row := [
  { row .bits128 .rw .ro .rw .rw 0 with mask := 0xffffffffffffffff00007fff001fffff }]

/-- station +0x1E (R104, R151, R157): FMT_PROFILE_6. -/
def stationRows1E : List Row := [
  { row .bits128 .rw .ro .rw .rw 0 with mask := 0xffffffffffffffff00007fff001fffff }]

/-- station +0x1F (R104, R151, R157): FMT_PROFILE_7. -/
def stationRows1F : List Row := [
  { row .bits128 .rw .ro .rw .rw 0 with mask := 0xffffffffffffffff00007fff001fffff }]

/-- station +0x20+k (R181): TABLE, SLOT_STATE, SLOT_CTRL, SLOT_TAG, LAST_TAG, SLOT_REFS, SLOT_WIDTH. -/
def stationRows20k : List Row := [
  { row .domain .rw .ro .rw .rw 0 with cap := 144 },
  row .enum .ro .ro .ro .ro 0,
  { row .enum .wo .none .wo .wo 0 with hi := 2 },
  row .u8 .ro .ro .ro .ro 0,
  row .u8 .ro .ro .ro .ro 0,
  row .u32 .ro .ro .ro .ro 0,
  row .enum .ro .ro .ro .ro 0]

/-- station +0x28 (R181): BLOCKS_CODED, BLOCKS_STORED, MISMATCH_STATIC, MISMATCH_DYN, POISONED_BLOCKS, DYN_WAITS, LAST_MISMATCH. -/
def stationRows28 : List Row := [
  row .u64 .rw .rw .ro .rw 0,
  row .u64 .rw .rw .ro .rw 0,
  row .u64 .rw .rw .ro .rw 0,
  row .u64 .rw .rw .ro .rw 0,
  row .u64 .rw .rw .ro .rw 0,
  row .u64 .rw .rw .ro .rw 0,
  { row .bits32 .ro .ro .ro .rw 0 with mask := 0x1fffffff }]

/-- station +0x00 (R208): DOCK_STATE, UNIT_GATES. -/
def stationRows00 : List Row := [
  row .enum .ro .ro .ro .ro 0,
  row .bits32 .ro .ro .ro .ro 0]

/-- station +0x01 (R208): STREAM_TABLE, STREAM_COMMIT, STREAM_CHECK, COMMITTED, ARMED. -/
def stationRows01 : List Row := [
  { row .domain .rw .ro .rw .rw 0x4000 with cap := 16384 },
  row .u8 .wo .none .wo .wo 0,
  row .u16 .ro .ro .ro .ro 0,
  row .bits128 .ro .ro .ro .ro 0,
  row .bits128 .ro .ro .ro .ro 0]

/-- station +0x02 (R208): QUEUE_0, QUEUE_1, QUEUE_2, QUEUE_3, QUEUE_4, QUEUE_5, QUEUE_6, QUEUE_7, QUEUE_8, QUEUE_9, QUEUE_10, QUEUE_11, QUEUE_12, QUEUE_13, QUEUE_14, QUEUE_15. -/
def stationRows02 : List Row := [
  { row .bits32 .rw .ro .rw .rw 0 with mask := 0x3ff01ff },
  { row .bits32 .rw .ro .rw .rw 0 with mask := 0x3ff01ff },
  { row .bits32 .rw .ro .rw .rw 0 with mask := 0x3ff01ff },
  { row .bits32 .rw .ro .rw .rw 0 with mask := 0x3ff01ff },
  { row .bits32 .rw .ro .rw .rw 0 with mask := 0x3ff01ff },
  { row .bits32 .rw .ro .rw .rw 0 with mask := 0x3ff01ff },
  { row .bits32 .rw .ro .rw .rw 0 with mask := 0x3ff01ff },
  { row .bits32 .rw .ro .rw .rw 0 with mask := 0x3ff01ff },
  { row .bits32 .rw .ro .rw .rw 0 with mask := 0x3ff01ff },
  { row .bits32 .rw .ro .rw .rw 0 with mask := 0x3ff01ff },
  { row .bits32 .rw .ro .rw .rw 0 with mask := 0x3ff01ff },
  { row .bits32 .rw .ro .rw .rw 0 with mask := 0x3ff01ff },
  { row .bits32 .rw .ro .rw .rw 0 with mask := 0x3ff01ff },
  { row .bits32 .rw .ro .rw .rw 0 with mask := 0x3ff01ff },
  { row .bits32 .rw .ro .rw .rw 0 with mask := 0x3ff01ff },
  { row .bits32 .rw .ro .rw .rw 0 with mask := 0x3ff01ff }]

/-- station +0x03 (R208): LINK_0 …. -/
def stationRows03 : List Row := [
  row .u32 .rw .ro .rw .rw 0,
  row .u32 .rw .ro .rw .rw 0,
  row .u32 .rw .ro .rw .rw 0,
  row .u32 .rw .ro .rw .rw 0,
  row .u32 .rw .ro .rw .rw 0,
  row .u32 .rw .ro .rw .rw 0,
  row .u32 .rw .ro .rw .rw 0,
  row .u32 .rw .ro .rw .rw 0,
  row .u32 .rw .ro .rw .rw 0,
  row .u32 .rw .ro .rw .rw 0,
  row .u32 .rw .ro .rw .rw 0,
  row .u32 .rw .ro .rw .rw 0,
  row .u32 .rw .ro .rw .rw 0,
  row .u32 .rw .ro .rw .rw 0,
  row .u32 .rw .ro .rw .rw 0,
  row .u32 .rw .ro .rw .rw 0,
  row .u32 .rw .ro .rw .rw 0,
  row .u32 .rw .ro .rw .rw 0,
  row .u32 .rw .ro .rw .rw 0,
  row .u32 .rw .ro .rw .rw 0,
  row .u32 .rw .ro .rw .rw 0,
  row .u32 .rw .ro .rw .rw 0,
  row .u32 .rw .ro .rw .rw 0,
  row .u32 .rw .ro .rw .rw 0,
  row .u32 .rw .ro .rw .rw 0,
  row .u32 .rw .ro .rw .rw 0,
  row .u32 .rw .ro .rw .rw 0,
  row .u32 .rw .ro .rw .rw 0,
  row .u32 .rw .ro .rw .rw 0,
  row .u32 .rw .ro .rw .rw 0,
  row .u32 .rw .ro .rw .rw 0,
  row .u32 .rw .ro .rw .rw 0]

/-- station +0x04 (R208): LINK_POST, LINK_WAIT_LIMIT. -/
def stationRows04 : List Row := [
  { row .bits64 .wo .none .wo .wo 0 with mask := 0xffffffff0000001f },
  { row .u32 .rw .ro .rw .rw 4400 with lo := 1 }]

/-- station +0x05 (R208): LAST_STREAM_STATUS, LAST_BAD_CMD. -/
def stationRows05 : List Row := [
  { row .bits64 .ro .ro .ro .rw 0 with mask := 0xfffffffff },
  row .bits128 .ro .ro .ro .ro 0]

/-- station +0x30 (R209): CMDS_ACCEPTED, CMDS_OVERRUN, CMDS_BAD, CMDS_HELD, STREAMS_STARTED, STREAMS_CANCELLED, QUEUE_OVERRUNS, QUEUE_UNDERRUNS, RES_DROPPED, CARDS_IDLE, HOLD_FRAMES, WAITS_EXPIRED. -/
def stationRows30 : List Row := [
  row .u64 .rw .rw .ro .rw 0,
  row .u64 .rw .rw .ro .rw 0,
  row .u64 .rw .rw .ro .rw 0,
  row .u64 .rw .rw .ro .rw 0,
  row .u64 .rw .rw .ro .rw 0,
  row .u64 .rw .rw .ro .rw 0,
  row .u64 .rw .rw .ro .rw 0,
  row .u64 .rw .rw .ro .rw 0,
  row .u64 .rw .rw .ro .rw 0,
  row .u64 .rw .rw .ro .rw 0,
  row .u64 .rw .rw .ro .rw 0,
  row .u64 .rw .rw .ro .rw 0]

/-- 0x3800 (R230): DECK_STATE, CURRENT_PATTERN, CURRENT_COUNTS, FRAME_NOW, LAST_SWAP_FRAME, AGENT_BLANK. -/
def rows3800 : List Row := [
  row .enum .ro .ro .ro .ro 0,
  row .bits128 .ro .ro .ro .ro 0,
  row .bits32 .ro .ro .ro .ro 0x404040,
  row .u64 .ro .ro .ro .ro 0,
  row .u64 .ro .ro .ro .ro 0,
  row .bits32 .ro .ro .ro .ro 0xffffff]

/-- 0x3810 (R230): SWAP_FRAME, HAND_PATTERN, RESERVE_COUNTS, SWAP_CTRL, SWAP_STATE, SWAP_CHECK. -/
def rows3810 : List Row := [
  row .u64 .rw .ro .rw .rw 0,
  { row .bits128 .rw .ro .rw .rw 0 with mask := 2 ^ 80 - 1 },
  { row .bits32 .rw .ro .rw .rw 0x404040 with mask := 0x3ffffff },
  { row .enum .wo .none .wo .wo 0 with hi := 2 },
  row .enum .ro .ro .ro .ro 0,
  row .bits64 .ro .ro .ro .ro 0]

/-- 0x3818 (R230): SWAPS_DONE, SWAPS_DEFERRED, CHECKS_FAILED, HAND_ECC_CORR, HAND_ECC_UNCORR, DENIED_WRITES. -/
def rows3818 : List Row := [
  row .u64 .rw .rw .ro .rw 0,
  row .u64 .rw .rw .ro .rw 0,
  row .u64 .rw .rw .ro .rw 0,
  row .u64 .rw .rw .ro .rw 0,
  row .u64 .rw .rw .ro .rw 0,
  row .u64 .rw .rw .ro .rw 0]

/-- 0x3820 (R230): STREAM_MAP. -/
def rows3820 : List Row := [
  { row .domain .rw .ro .rw .rw 0x10000 with cap := 65536 }]

/-- 0x3880 + n (R230): HAND_0, HAND_1, HAND_2, HAND_3. -/
def rows3880 : List Row := [
  { row .domain .rw .ro .rw .rw 0x8000 with cap := 32768 },
  { row .domain .rw .ro .rw .rw 0x8000 with cap := 32768 },
  { row .domain .rw .ro .rw .rw 0x8000 with cap := 32768 },
  { row .domain .rw .ro .rw .rw 0x8000 with cap := 32768 }]

/-- 0x38A0 + k (R230): SPINE_HAND_0, SPINE_HAND_1, SPINE_HAND_2, SPINE_HAND_3. -/
def rows38A0 : List Row := [
  { row .domain .rw .ro .rw .rw 1024 with cap := 1024 },
  { row .domain .rw .ro .rw .rw 1024 with cap := 1024 },
  { row .domain .rw .ro .rw .rw 1024 with cap := 1024 },
  { row .domain .rw .ro .rw .rw 1024 with cap := 1024 }]

/-- agent +0x00 (R260): AGENT_STATE, REF_RATE, FREEZE, FROZEN. -/
def agentRows00 : List Row := [
  row .enum .ro .ro .ro .ro 0,
  row .enum .ro .ro .ro .ro 0,
  row .bool .rw .ro .rw .rw 0,
  row .bool .ro .ro .ro .ro 1]

/-- agent +0x01 (R260): SPLIT_PATTERN, LONGWAIT_N, HINTS_EN. -/
def agentRows01 : List Row := [
  row .bits32 .rw .ro .rw .rw 0x24102410,
  { row .u8 .rw .ro .rw .rw 8 with lo := 2 },
  row .bool .rw .ro .rw .rw 1]

/-- agent +0x02 (R260): CATCHUP_LEVEL, TRUMP_LEVEL, OWED_MAX. -/
def agentRows02 : List Row := [
  { row .u8 .rw .ro .rw .rw 1 with lo := 1, hi := 7 },
  row .u8 .rw .ro .rw .rw 3,
  row .i32 .rw .rw .ro .rw 0]

/-- agent +0x03 (R260): SCRUB_RATE, SCRUB_POSITION. -/
def agentRows03 : List Row := [
  { row .u8 .rw .ro .rw .rw 1 with hi := 16 },
  { row .u32 .rw .ro .rw .rw 0 with hi := 16777215 }]

/-- agent +0x09 (R260): LAST_CARD_BREAK, LAST_SEV. -/
def agentRows09 : List Row := [
  { row .bits64 .ro .ro .ro .rw 0 with mask := 0xfffffffffffff },
  { row .bits64 .ro .ro .ro .rw 0 with mask := 0xfffffffff }]

/-- agent +0x0A (R260): TAGS_IN_USE, LOCKS_IN_USE. -/
def agentRows0A : List Row := [
  row .u16 .ro .ro .ro .ro 0,
  row .u16 .ro .ro .ro .ro 0]

/-- agent +0x08 (R261): REFRESHES, CATCHUPS, TRUMPS, REFRESH_OVERFLOWS, GRANTS_READ, GRANTS_WRITE, GRANTS_REMOTE, AGE_GRANTS, HINTS_SENT, DYN_CARDS_UNUSED, TAG_WAITS, LOCK_WAITS, STAGING_WAITS, COMBINES, COMBINE_OVF, SEV_CORRECTED, SEV_UNCORRECTED, SCRUB_REPAIRS, SCRUB_PASSES, CARD_RULE_BREAKS, CATCHUPS_LAPSED. -/
def agentRows08 : List Row := [
  row .u64 .rw .rw .ro .rw 0,
  row .u64 .rw .rw .ro .rw 0,
  row .u64 .rw .rw .ro .rw 0,
  row .u64 .rw .rw .ro .rw 0,
  row .u64 .rw .rw .ro .rw 0,
  row .u64 .rw .rw .ro .rw 0,
  row .u64 .rw .rw .ro .rw 0,
  row .u64 .rw .rw .ro .rw 0,
  row .u64 .rw .rw .ro .rw 0,
  row .u64 .rw .rw .ro .rw 0,
  row .u64 .rw .rw .ro .rw 0,
  row .u64 .rw .rw .ro .rw 0,
  row .u64 .rw .rw .ro .rw 0,
  row .u64 .rw .rw .ro .rw 0,
  row .u64 .rw .rw .ro .rw 0,
  row .u64 .rw .rw .ro .rw 0,
  row .u64 .rw .rw .ro .rw 0,
  row .u64 .rw .rw .ro .rw 0,
  row .u64 .rw .rw .ro .rw 0,
  row .u64 .rw .rw .ro .rw 0,
  row .u64 .rw .rw .ro .rw 0]

/-- 0x3900 + n (R276): TRAIN_STATE, TRAIN_DETAIL, TRAIN_ATTEMPTS, ROUND_TRIP, UP_PAD, CORRECTED, UNCORRECTED, PIN_SLIPS, MARK_ERRORS, CTRL_PARITY, RUN_DROPS, LAST_RUN_DROP. -/
def rows3900 : List Row := [
  row .enum .ro .ro .ro .ro 0,
  row .bits32 .ro .ro .ro .ro 0,
  row .u8 .ro .ro .ro .ro 0,
  row .u8 .ro .ro .ro .ro 0,
  row .u8 .ro .ro .ro .ro 0,
  row .u64 .rw .rw .ro .rw 0,
  row .u64 .rw .rw .ro .rw 0,
  row .u64 .rw .rw .ro .rw 0,
  row .u64 .rw .rw .ro .rw 0,
  row .u64 .rw .rw .ro .rw 0,
  row .u64 .rw .rw .ro .rw 0,
  { row .bits32 .ro .ro .ro .rw 0 with mask := 0x1ffffff }]

/-- 0x3920 + k (R276): STITCH_CORRECTED, STITCH_UNCORRECTED, DYN_EIGHTHS_USED, DYN_EIGHTHS_LAPSED. -/
def rows3920 : List Row := [
  row .u64 .rw .rw .ro .rw 0,
  row .u64 .rw .rw .ro .rw 0,
  row .u64 .rw .rw .ro .rw 0,
  row .u64 .rw .rw .ro .rw 0]

/-- 0x3930 + m (R276): MODULE_STATE, CRC_ERRORS, UNITS_POISONED. -/
def rows3930 : List Row := [
  row .enum .ro .ro .ro .ro 0,
  row .u64 .rw .rw .ro .rw 0,
  row .u64 .rw .rw .ro .rw 0]

/-- 0x39F0 (R276): TRAIN_TIME. -/
def rows39F0 : List Row := [
  row .u32 .ro .ro .ro .ro 0]

/-- 0x4000 (R305): DISPATCH_STATE, JOBS_IN_PROGRESS. -/
def rows4000 : List Row := [
  row .enum .ro .ro .ro .ro 0,
  row .u16 .ro .ro .ro .ro 0]

/-- 0x4001 (R305): JOBS_PER_RING, SEM_WAIT_DEFAULT. -/
def rows4001 : List Row := [
  { row .u8 .rw .ro .rw .rw 16 with lo := 1, hi := 64 },
  { row .u32 .rw .ro .rw .rw 4400 with lo := 1 }]

/-- 0x4002 (R305): JOBS_DONE, JOBS_FAILED, INDEX_MISSES, ENTRY_READ_ERRORS, STALE_COMPLETIONS, DOORBELLS_IGNORED, INTERRUPTS. -/
def rows4002 : List Row := [
  row .u64 .rw .rw .ro .rw 0,
  row .u64 .rw .rw .ro .rw 0,
  row .u64 .rw .rw .ro .rw 0,
  row .u64 .rw .rw .ro .rw 0,
  row .u64 .rw .rw .ro .rw 0,
  row .u64 .rw .rw .ro .rw 0,
  row .u64 .rw .rw .ro .rw 0]

/-- 0x4003 (R305): LAST_FAILURE. -/
def rows4003 : List Row := [
  { row .bits64 .ro .ro .ro .rw 0 with mask := 0xffffffff3fffffff }]

/-- 0x4100 + r (R305): RING_BASE, RING_SIZE, RING_CLASS, RING_CONTEXT, RING_STATION, HEAD_ADDR, RING_CTRL, RING_STATE, DOORBELL, SCAN_INDEX, HEAD_INDEX, RING_EPOCH, IRQ_MARK, IRQ_VECTOR, IRQ_ARMED, JOBS_ACTIVE, ENTRIES_BAD. -/
def rows4100 : List Row := [
  row .u64 .rw .ro .rw .rw 0,
  { row .u8 .rw .ro .rw .rw 4 with lo := 4, hi := 16 },
  { row .enum .rw .ro .rw .rw 1 with hi := 3 },
  { row .u8 .rw .ro .rw .rw 0 with hi := 63 },
  row .u8 .rw .ro .rw .rw 255,
  row .u64 .rw .ro .rw .rw 0,
  { row .enum .wo .none .wo .wo 0 with hi := 3 },
  row .enum .ro .ro .ro .ro 0,
  row .u32 .wo .none .none .wo 0,
  row .u32 .ro .ro .ro .ro 0,
  row .u32 .ro .ro .ro .ro 0,
  row .u8 .ro .ro .ro .ro 0,
  row .u32 .rw .ro .rw .rw 0,
  { row .u16 .rw .ro .rw .rw 0 with hi := 2047 },
  row .bool .ro .ro .ro .ro 0,
  row .u8 .ro .ro .ro .ro 0,
  row .u64 .rw .rw .ro .rw 0]

/-- 0x4200 (R305): CLASS_DEADLINE_0, CLASS_DEADLINE_1, CLASS_DEADLINE_2, CLASS_DEADLINE_3. -/
def rows4200 : List Row := [
  { row .u16 .rw .ro .rw .rw 1 with lo := 1 },
  { row .u16 .rw .ro .rw .rw 16 with lo := 1 },
  { row .u16 .rw .ro .rw .rw 256 with lo := 1 },
  { row .u16 .rw .ro .rw .rw 4096 with lo := 1 }]

/-- 0x4202 (R305): CLASS0_JOBS, CLASS0_FIRST_LATE, CLASS0_DONE_LATE, CLASS0_WORST. -/
def rows4202 : List Row := [
  row .u64 .rw .rw .ro .rw 0,
  row .u64 .rw .rw .ro .rw 0,
  row .u64 .rw .rw .ro .rw 0,
  row .u32 .rw .rw .ro .rw 0]

/-- 0x4203 (R305): WEEVIL_COPIES, WEEVIL_ON_SPLINTER. -/
def rows4203 : List Row := [
  row .u64 .rw .rw .ro .rw 0,
  row .u64 .rw .rw .ro .rw 0]

/-- 0x5000 (R334): MY_ENDPOINT, LINK_ENABLE. -/
def rows5000 : List Row := [
  { row .u32 .rw .rw .ro .ro 0 with hi := 262143 },
  row .bool .rw .rw .ro .rw 0]

/-- 0x5001+p (R334): LA_STATE, LINK_WEIGHTS, RETRY_FRAMES, RETRY_LIMIT, LAND_SLOTS. -/
def rows5001 : List Row := [
  row .enum .ro .ro .ro .ro 0,
  { row .bits32 .rw .ro .rw .rw 0x10408 with mask := 0xffffff },
  { row .u16 .rw .ro .rw .rw 44 with lo := 1 },
  { row .u8 .rw .ro .rw .rw 4 with lo := 1, hi := 15 },
  row .bits64 .rw .ro .rw .rw 0x80018001800080]

/-- 0x5004+p (R334): CHANNEL_TABLE, CHANNEL_CTRL, CHANNEL_RESULT, CHANNEL_COUNTS. -/
def rows5004 : List Row := [
  { row .domain .rw .ro .rw .rw 0x20000 with cap := 131072 },
  { row .bits32 .wo .none .wo .wo 0 with mask := 0x3fff },
  row .bits64 .ro .ro .ro .ro 0,
  { row .domain .rw .ro .rw .rw 0x20000 with cap := 131072 }]

/-- 0x5006+p (R334): QUEUE_TABLE, QUEUE_CTRL, QUEUES_ACTIVE. -/
def rows5006 : List Row := [
  { row .domain .rw .ro .rw .rw 2048 with cap := 2048 },
  { row .bits32 .wo .none .wo .wo 0 with mask := 0xff },
  row .bits64 .ro .ro .ro .ro 0]

/-- 0x5008 (R334): GROUP_TABLE, MCAST_STALL_LIMIT. -/
def rows5008 : List Row := [
  { row .domain .rw .ro .rw .rw 0x24000 with cap := 147456 },
  { row .u32 .rw .ro .rw .rw 0x15f90 with lo := 1 }]

/-- 0x5010+p (R334): Link counters. -/
def rows5010 : List Row := [
  row .u64 .rw .rw .ro .rw 0,
  row .u64 .rw .rw .ro .rw 0,
  row .u64 .rw .rw .ro .rw 0,
  row .u64 .rw .rw .ro .rw 0,
  row .u64 .rw .rw .ro .rw 0,
  row .u64 .rw .rw .ro .rw 0,
  row .u64 .rw .rw .ro .rw 0,
  row .u64 .rw .rw .ro .rw 0,
  row .u64 .rw .rw .ro .rw 0,
  row .u64 .rw .rw .ro .rw 0,
  row .u64 .rw .rw .ro .rw 0,
  row .u64 .rw .rw .ro .rw 0,
  row .u64 .rw .rw .ro .rw 0,
  row .u64 .rw .rw .ro .rw 0,
  row .u64 .rw .rw .ro .rw 0]

/-- 0x5100 (R334): SEM_VALUES. -/
def rows5100 : List Row := [
  { row .domain .ro .ro .rw .rw 0x4000 with cap := 16384 }]

/-- 0x5101 (R334): SEM_MAP. -/
def rows5101 : List Row := [
  { row .domain .rw .ro .rw .rw 0x40000 with cap := 262144 }]

/-- 0x5102 (R334): SEM_CMD. -/
def rows5102 : List Row := [
  { row .bits64 .wo .wo .wo .wo 0 with mask := 0xffffffff0003ffff }]

/-- 0x5103 (R334): LEND_THRESHOLD, WAITERS_IN_USE, SWAP_QUEUE_USED. -/
def rows5103 : List Row := [
  row .u32 .rw .ro .rw .rw 0x8ca0,
  row .u16 .ro .ro .ro .ro 0,
  row .u16 .ro .ro .ro .ro 0]

/-- 0x5110 (R334): BARRIERS. -/
def rows5110 : List Row := [
  { row .domain .rw .ro .rw .rw 1024 with cap := 1024 }]

/-- 0x5120 (R334): Semaphore counters. -/
def rows5120 : List Row := [
  row .u64 .rw .rw .ro .rw 0,
  row .u64 .rw .rw .ro .rw 0,
  row .u64 .rw .rw .ro .rw 0,
  row .u64 .rw .rw .ro .rw 0,
  row .u64 .rw .rw .ro .rw 0,
  row .u64 .rw .rw .ro .rw 0,
  row .u64 .rw .rw .ro .rw 0,
  row .u64 .rw .rw .ro .rw 0]

/-- 0x5800 (R351): HEAP_START, HANDLES_LIVE. -/
def rows5800 : List Row := [
  { row .u32 .rw .ro .rw .rw 0 with hi := 16777215 },
  row .u32 .ro .ro .ro .ro 0]

/-- 0x5801 (R351): ROWS_FREE_0, ROWS_FREE_1, ROWS_FREE_2, ROWS_FREE_3, ROWS_FREE_4, ROWS_FREE_5, ROWS_FREE_6, ROWS_FREE_7, ROWS_FREE_8, ROWS_FREE_9, ROWS_FREE_10, ROWS_FREE_11, ROWS_FREE_12, ROWS_FREE_13, ROWS_FREE_14, ROWS_FREE_15, ROWS_FREE_16, ROWS_FREE_17, ROWS_FREE_18, ROWS_FREE_19, ROWS_FREE_20, ROWS_FREE_21, ROWS_FREE_22, ROWS_FREE_23. -/
def rows5801 : List Row := [
  row .u32 .ro .ro .ro .ro 0x1000000,
  row .u32 .ro .ro .ro .ro 0x1000000,
  row .u32 .ro .ro .ro .ro 0x1000000,
  row .u32 .ro .ro .ro .ro 0x1000000,
  row .u32 .ro .ro .ro .ro 0x1000000,
  row .u32 .ro .ro .ro .ro 0x1000000,
  row .u32 .ro .ro .ro .ro 0x1000000,
  row .u32 .ro .ro .ro .ro 0x1000000,
  row .u32 .ro .ro .ro .ro 0x1000000,
  row .u32 .ro .ro .ro .ro 0x1000000,
  row .u32 .ro .ro .ro .ro 0x1000000,
  row .u32 .ro .ro .ro .ro 0x1000000,
  row .u32 .ro .ro .ro .ro 0x1000000,
  row .u32 .ro .ro .ro .ro 0x1000000,
  row .u32 .ro .ro .ro .ro 0x1000000,
  row .u32 .ro .ro .ro .ro 0x1000000,
  row .u32 .ro .ro .ro .ro 0x1000000,
  row .u32 .ro .ro .ro .ro 0x1000000,
  row .u32 .ro .ro .ro .ro 0x1000000,
  row .u32 .ro .ro .ro .ro 0x1000000,
  row .u32 .ro .ro .ro .ro 0x1000000,
  row .u32 .ro .ro .ro .ro 0x1000000,
  row .u32 .ro .ro .ro .ro 0x1000000,
  row .u32 .ro .ro .ro .ro 0x1000000]

/-- 0x5802 (R351): ALLOC_REQ, ALLOC_RESULT. -/
def rows5802 : List Row := [
  row .bits128 .rw .rw .rw .rw 4080,
  row .bits128 .ro .ro .ro .ro 0]

/-- 0x5803 (R351): HANDLE_QUERY, HANDLE_INFO. -/
def rows5803 : List Row := [
  { row .u32 .rw .rw .rw .rw 0 with mask := 0xffffff },
  row .bits128 .ro .ro .ro .ro 0]

/-- 0x5804 (R351): ALLOCS, FREES, ALLOC_FAILS, HANDLES_RETIRED, RESHARDS, RESHARD_MOVES. -/
def rows5804 : List Row := [
  row .u64 .rw .rw .ro .rw 0,
  row .u64 .rw .rw .ro .rw 0,
  row .u64 .rw .rw .ro .rw 0,
  row .u64 .rw .rw .ro .rw 0,
  row .u64 .rw .rw .ro .rw 0,
  row .u64 .rw .rw .ro .rw 0]

/-- 0x6000 (R377): FW_STATE, IMAGE_VERSION, ACTIVE_REGION, BOOT_GEN, ORPHAN_FRAME, CORE_RUN. -/
def rows6000 : List Row := [
  row .enum .ro .ro .ro .ro 0,
  row .u32 .ro .ro .ro .ro 0,
  row .u8 .ro .ro .ro .ro 0,
  row .u32 .ro .ro .ro .ro 0,
  row .u64 .ro .ro .ro .ro 0,
  { row .bits32 .none .none .none .rw 0 with mask := 0xe }]

/-- 0x6001 (R377): FW_INCOMING. -/
def rows6001 : List Row := [
  { row .domain .rw .none .rw .ro 0 with cap := 983040 }]

/-- 0x6002 (R377): H2F_MSG, H2F_CTRL, H2F_STATE. -/
def rows6002 : List Row := [
  { row .domain .rw .none .rw .ro 256 with cap := 256 },
  { row .enum .wo .none .wo .none 0 with hi := 1 },
  { row .enum .ro .ro .ro .rw 0 with hi := 2 }]

/-- 0x6003 (R377): F2H_MSG, F2H_CTRL, F2H_STATE, MBOX_VECTOR. -/
def rows6003 : List Row := [
  { row .domain .ro .none .ro .rw 256 with cap := 256 },
  { row .enum .wo .none .wo .wo 0 with hi := 2 },
  row .enum .ro .ro .ro .ro 0,
  { row .u16 .rw .ro .rw .rw 0 with hi := 2047 }]

/-- 0x6004 (R377): HOST_HEARTBEAT, HOST_HEARTBEAT_TIMEOUT, ORPHAN_PARK_LIMIT, FW_START_LIMIT. -/
def rows6004 : List Row := [
  row .u32 .wo .none .none .none 0,
  { row .u32 .rw .ro .rw .ro 0x1e8480 with lo := 10000 },
  { row .u32 .rw .ro .rw .ro 0x6b6c0 with lo := 16 },
  { row .u32 .rw .rw .rw .ro 0x989680 with lo := 1000 }]

/-- 0x6008+k (R377): CORE_STATE, WDOG_PERIOD, WDOG_KICK, RESTARTS, COMPARTMENT, LAST_RESTART. -/
def rows6008 : List Row := [
  { row .enum .ro .ro .ro .rw 0 with hi := 4 },
  { row .u32 .ro .ro .ro .rw 1000 with lo := 10 },
  row .u32 .none .none .none .wo 0,
  row .u64 .rw .rw .ro .rw 0,
  row .u8 .ro .ro .ro .ro 0,
  row .bits64 .ro .ro .ro .ro 0]

/-- 0x6010+c (R377): COMPARTMENT_c. -/
def rows6010 : List Row := [
  { row .domain .none .none .ro .rw 128 with cap := 128 }]

/-- 0x6020 (R377): COMP_FAULTS, HANDOVERS, HANDOVER_ROLLBACKS, ORPHAN_ENTRIES, JOBS_ABORTED, JOBS_ORPHANED, MBOX_BAD, MBOX_DROPPED. -/
def rows6020 : List Row := [
  row .u64 .rw .rw .ro .rw 0,
  row .u64 .rw .rw .ro .rw 0,
  row .u64 .rw .rw .ro .rw 0,
  row .u64 .rw .rw .ro .rw 0,
  row .u64 .rw .rw .ro .rw 0,
  row .u64 .rw .rw .ro .rw 0,
  row .u64 .rw .rw .ro .rw 0,
  row .u64 .rw .rw .ro .rw 0]

/-- 0x6021 (R377): LAST_COMP_FAULT. -/
def rows6021 : List Row := [
  row .bits128 .ro .ro .ro .ro 0]

/-- 0x1100 (R403): CLOCK_STATE, AON_TIME. -/
def rows1100 : List Row := [
  row .enum .ro .ro .ro .ro 0,
  row .u64 .ro .ro .ro .ro 0]

/-- 0x1101 (R403): BUDGET_W, LENT_W, P_EST, DYN_RAMP. -/
def rows1101 : List Row := [
  row .u16 .ro .ro .ro .ro 4250,
  row .u16 .ro .ro .ro .ro 0,
  row .u16 .ro .ro .ro .ro 0,
  { row .u16 .rw .ro .rw .rw 3 with lo := 1, hi := 256 }]

/-- 0x1102 (R403): LOAD_PLAN, LOAD_PLAN_COMMIT, LOAD_PLAN_CHECK. -/
def rows1102 : List Row := [
  { row .domain .rw .ro .rw .rw 256 with cap := 256 },
  { row .enum .wo .none .wo .wo 0 with hi := 2 },
  row .u16 .ro .ro .ro .ro 0]

/-- 0x1103 (R403): FORECASTS_SENT, UNFORECAST_STEPS, OVER_BUDGET_WINDOWS, GRANTS_WITHHELD, THROTTLE_REQUESTS, PWR_BAD. -/
def rows1103 : List Row := [
  row .u64 .rw .rw .ro .rw 0,
  row .u64 .rw .rw .ro .rw 0,
  row .u64 .rw .rw .ro .rw 0,
  row .u64 .rw .rw .ro .rw 0,
  row .u64 .rw .rw .ro .rw 0,
  row .u64 .rw .rw .ro .rw 0]

/-- 0x1104 (R403): THROTTLE_STATE, THROTTLE_LIMIT. -/
def rows1104 : List Row := [
  row .bits32 .ro .ro .ro .ro 0,
  { row .u32 .rw .rw .rw .rw 0x186a0 with lo := 10000 }]

/-- 0x1200 (R403): RESET_CMD, START_STATE, START_DETAIL. -/
def rows1200 : List Row := [
  { row .bits32 .wo .wo .wo .none 0 with mask := 0x3f0f },
  row .enum .ro .ro .ro .ro 0,
  row .u16 .ro .ro .ro .ro 0]

/-- 0x1201 (R403): SYS_WDOG_PERIOD, SYS_WDOG_KICK. -/
def rows1201 : List Row := [
  row .u32 .none .none .ro .rw 0,
  row .u32 .none .none .none .wo 0]

/-- 0x1202 (R403): BKP_0, BKP_1, BKP_2, BKP_3, BKP_4, BKP_5, BKP_6, BKP_7. -/
def rows1202 : List Row := [
  { row .bits32 .ro .rw .rw .ro 768 with mask := 0xffff },
  row .bits32 .ro .ro .ro .ro 0,
  row .u32 .rw .rw .rw .rw 0,
  row .u32 .rw .rw .rw .rw 0,
  row .u32 .rw .rw .rw .rw 0,
  row .u32 .rw .rw .rw .rw 0,
  row .u32 .rw .rw .rw .rw 0,
  row .u32 .rw .rw .rw .rw 0]

/-- 0x1203 (R403): RETAINED_JOURNALS, RESET_LOG, RETAINED_USER. -/
def rows1203 : List Row := [
  { row .domain .ro .ro .ro .rw 0x3000 with cap := 12288 },
  { row .domain .ro .ro .ro .ro 128 with cap := 128 },
  { row .domain .rw .rw .rw .rw 3968 with cap := 3968 }]

/-- 0x1205 (R403): RST_GLITCHES, RESETS, FAILED_STARTS, RECOVERY_ENTRIES. -/
def rows1205 : List Row := [
  row .u64 .rw .rw .ro .rw 0,
  row .u64 .rw .rw .ro .rw 0,
  row .u64 .rw .rw .ro .rw 0,
  row .u64 .rw .rw .ro .rw 0]

/-- 0x1300 (R417): FAULT_STATUS, FAULT_CLEAR. -/
def rows1300 : List Row := [
  row .bits128 .ro .ro .ro .ro 0,
  { row .bits128 .wo .wo .wo .wo 0 with mask := 0xffffffffffffffffffffff }]

/-- 0x1301 (R417): SEVERITY_LO, SEVERITY_HI. -/
def rows1301 : List Row := [
  row .bits128 .rw .rw .ro .rw 0x55555555555555555555555555555555,
  { row .bits128 .rw .rw .ro .rw 0x75595ff55555 with mask := 0xffffffffffff }]

/-- 0x1302 (R417): HISTORY, HISTORY_NEXT, OPEN_RECORD, FAULT_ACK. -/
def rows1302 : List Row := [
  { row .domain .ro .ro .ro .ro 768 with cap := 768 },
  row .u8 .ro .ro .ro .ro 0,
  row .u8 .ro .ro .ro .ro 255,
  row .u8 .wo .wo .wo .wo 0]

/-- 0x1303 (R417): ERR_OUT_MODE, ERR_OUT_RELEASE, ERR_OUT_STATE. -/
def rows1303 : List Row := [
  { row .enum .rw .rw .rw .rw 0 with hi := 1 },
  row .u8 .wo .wo .wo .wo 0,
  row .bool .ro .ro .ro .ro 0]

/-- 0x1304 (R417): FAULT_VECTOR, FAULT_IRQ_EN, MGT_NOTIFY_EN. -/
def rows1304 : List Row := [
  { row .u16 .rw .ro .rw .rw 0 with hi := 2047 },
  row .bool .rw .ro .rw .rw 0,
  row .bool .rw .rw .rw .rw 1]

/-- 0x1305 (R417): EVENTS, MERGED_EVENTS, NOTIFY_DROPPED. -/
def rows1305 : List Row := [
  row .u64 .rw .rw .ro .rw 0,
  row .u64 .rw .rw .ro .rw 0,
  row .u64 .rw .rw .ro .rw 0]

/-- 0x1320+s (R417): POOL_CORRECTED, POOL_UNCORRECTED. -/
def rows1320 : List Row := [
  row .u64 .rw .rw .ro .rw 0,
  row .u64 .rw .rw .ro .rw 0]

/-- 0x1350+n (R417): POISON_TABLE, POISON_ENTRIES, POISON_LOST. -/
def rows1350 : List Row := [
  { row .domain .ro .ro .ro .ro 2048 with cap := 2048 },
  row .u16 .ro .ro .ro .ro 0,
  row .u64 .rw .rw .ro .rw 0]

/-- The indices that stand once. -/
def fixedIndices : List (Nat × List Row) := [
  (0x1000, rows1000), (0x1001, rows1001), (0x1002, rows1002), (0x1003, rows1003),
  (0x1010, rows1010), (0x1011, rows1011), (0x1012, rows1012), (0x1020, rows1020),
  (0x1022, rows1022), (0x1030, rows1030), (0x1040, rows1040), (0x3800, rows3800),
  (0x3810, rows3810), (0x3818, rows3818), (0x3820, rows3820), (0x39F0, rows39F0),
  (0x4000, rows4000), (0x4001, rows4001), (0x4002, rows4002), (0x4003, rows4003),
  (0x4200, rows4200), (0x4202, rows4202), (0x4203, rows4203), (0x5000, rows5000),
  (0x5008, rows5008), (0x5100, rows5100), (0x5101, rows5101), (0x5102, rows5102),
  (0x5103, rows5103), (0x5110, rows5110), (0x5120, rows5120), (0x5800, rows5800),
  (0x5801, rows5801), (0x5802, rows5802), (0x5803, rows5803), (0x5804, rows5804),
  (0x6000, rows6000), (0x6001, rows6001), (0x6002, rows6002), (0x6003, rows6003),
  (0x6004, rows6004), (0x6020, rows6020), (0x6021, rows6021), (0x1100, rows1100),
  (0x1101, rows1101), (0x1102, rows1102), (0x1103, rows1103), (0x1104, rows1104),
  (0x1200, rows1200), (0x1201, rows1201), (0x1202, rows1202), (0x1203, rows1203),
  (0x1205, rows1205), (0x1300, rows1300), (0x1301, rows1301), (0x1302, rows1302),
  (0x1303, rows1303), (0x1304, rows1304), (0x1305, rows1305)]

/-- The indices of a station, relative to 0x2000 + 0x40 s (the table slots apart). -/
def stationIndices : List (Nat × List Row) := [
  (0x10, stationRows10), (0x11, stationRows11), (0x12, stationRows12), (0x18, stationRows18),
  (0x19, stationRows19), (0x1A, stationRows1A), (0x1B, stationRows1B), (0x1C, stationRows1C),
  (0x1D, stationRows1D), (0x1E, stationRows1E), (0x1F, stationRows1F), (0x28, stationRows28),
  (0x00, stationRows00), (0x01, stationRows01), (0x02, stationRows02), (0x03, stationRows03),
  (0x04, stationRows04), (0x05, stationRows05), (0x30, stationRows30)]

/-- The indices of a stack agent, relative to 0x3000 + 0x40 n. -/
def agentIndices : List (Nat × List Row) := [
  (0x00, agentRows00), (0x01, agentRows01), (0x02, agentRows02), (0x03, agentRows03),
  (0x09, agentRows09), (0x0A, agentRows0A), (0x08, agentRows08)]

/-- The rows of an index (R45); none where the index is absent. -/
def rowsAt (idx : Nat) : List Row :=
  if 0x2000 ≤ idx ∧ idx < 0x2000 + 0x40 * 48 then
    let r := (idx - 0x2000) % 0x40
    if 0x20 ≤ r ∧ r < 0x28 then stationRows20k else (stationIndices.lookup r).getD []
  else if 0x3000 ≤ idx ∧ idx < 0x3000 + 0x40 * 24 then (agentIndices.lookup ((idx - 0x3000) % 0x40)).getD []
  else if 0x3880 ≤ idx ∧ idx < 0x3880 + 24 then rows3880
  else if 0x38A0 ≤ idx ∧ idx < 0x38A0 + 3 then rows38A0
  else if 0x3900 ≤ idx ∧ idx < 0x3900 + 24 then rows3900
  else if 0x3920 ≤ idx ∧ idx < 0x3920 + 3 then rows3920
  else if 0x3930 ≤ idx ∧ idx < 0x3930 + 5 then rows3930
  else if 0x4100 ≤ idx ∧ idx < 0x4100 + 64 then rows4100
  else if 0x5001 ≤ idx ∧ idx < 0x5001 + 2 then rows5001
  else if 0x5004 ≤ idx ∧ idx < 0x5004 + 2 then rows5004
  else if 0x5006 ≤ idx ∧ idx < 0x5006 + 2 then rows5006
  else if 0x5010 ≤ idx ∧ idx < 0x5010 + 2 then rows5010
  else if 0x6008 ≤ idx ∧ idx < 0x6008 + 4 then rows6008
  else if 0x6010 ≤ idx ∧ idx < 0x6010 + 16 then rows6010
  else if 0x1320 ≤ idx ∧ idx < 0x1320 + 48 then rows1320
  else if 0x1350 ≤ idx ∧ idx < 0x1350 + 24 then rows1350
  else (fixedIndices.lookup idx).getD []

/-- The row of sub 0 of an implemented index: HIGHEST_SUB (R44). -/
def highestSub (n : Nat) : Row := row .u8 .ro .ro .ro .ro n

/-- The row of an address; none where it is absent (R44). -/
def rowOf (idx sub : Nat) : Option Row :=
  match rowsAt idx, sub with
  | [], _ => none
  | _ :: rs, 0 => some (highestSub (rs.length + 1))
  | r :: rs, k + 1 => (r :: rs)[k]?

/-- The part, by its fault source, that holds an index (R45, R51, R228, R403, R417): a station, a stack agent with
its Hands and its poison entries, or a link agent with its modules. None: the control complex or the always-on
domain. -/
def partOf (idx : Nat) : Option Nat :=
  if 0x2000 ≤ idx ∧ idx < 0x2000 + 0x40 * 48 then some ((idx - 0x2000) / 0x40)
  else if 0x3000 ≤ idx ∧ idx < 0x3000 + 0x40 * 24 then some (48 + (idx - 0x3000) / 0x40)
  else if 0x3880 ≤ idx ∧ idx < 0x3880 + 24 then some (48 + (idx - 0x3880))
  else if 0x3930 ≤ idx ∧ idx < 0x3934 then some (72 + (idx - 0x3930) / 2)
  else if 0x5001 ≤ idx ∧ idx < 0x5003 then some (72 + (idx - 0x5001))
  else if 0x5004 ≤ idx ∧ idx < 0x5006 then some (72 + (idx - 0x5004))
  else if 0x5006 ≤ idx ∧ idx < 0x5008 then some (72 + (idx - 0x5006))
  else if 0x5010 ≤ idx ∧ idx < 0x5012 then some (72 + (idx - 0x5010))
  else if 0x1320 ≤ idx ∧ idx < 0x1350 then some (idx - 0x1320)
  else if 0x1350 ≤ idx ∧ idx < 0x1368 then some (48 + (idx - 0x1350))
  else none

/-- Whether an index lies in the always-on domain, so that only POWER_ON gives its entries their defaults (R50,
R403, R417; 0x1011 is taken to lie there with the management port, log entry 6). Sub 1 of 0x1100 and the other
entries of 0x1101 are told apart by `alwaysOn`. -/
def alwaysOn (idx sub : Nat) : Bool :=
  (idx == 0x1100 && sub == 2) || (idx == 0x1101 && sub == 1) || (0x1200 ≤ idx && idx ≤ 0x1205) ||
    (0x1300 ≤ idx && idx ≤ 0x1305) || idx == 0x1020 || idx == 0x1011

/-- The entries that MGT and DBG reach in recovery mode (R388). -/
def recoveryReach (idx sub : Nat) : Bool :=
  (0x1000 ≤ idx && idx ≤ 0x1003) || idx == 0x1011 || idx == 0x1012 || idx == 0x1020 || idx == 0x1040 ||
    (0x1200 ≤ idx && idx ≤ 0x1205) || (0x1300 ≤ idx && idx ≤ 0x1305) || (idx == 0x6000 && sub ≤ 1) ||
    idx == 0x6002 || idx == 0x6003

end Sys2Proof.Machine
end

