-- ==== Sys2Proof/Machine/Store.lean ====
section
/-! DEFINITION. Sparse storage in one canonical form: a list of (key, value) pairs whose keys rise strictly and none
of whose values equals what an unlisted key reads as. Equal contents are then equal data. Little-endian packing of
bytes (R18) stands beside it. -/

namespace Sys2Proof.Machine

/-- What key `k` holds; `d` says what an unlisted key reads as. -/
def storeGet {α : Type} (d : Nat → α) : List (Nat × α) → Nat → α
  | [], k => d k
  | (j, v) :: t, k => if j = k then v else storeGet d t k

/-- The list without key `k`. -/
def storeErase {α : Type} (k : Nat) : List (Nat × α) → List (Nat × α)
  | [] => []
  | (j, v) :: t => if j = k then storeErase k t else (j, v) :: storeErase k t

/-- The list with the pair put before the first greater key. -/
def storeInsert {α : Type} (k : Nat) (v : α) : List (Nat × α) → List (Nat × α)
  | [] => [(k, v)]
  | (j, w) :: t => if k < j then (k, v) :: (j, w) :: t else (j, w) :: storeInsert k v t

/-- Key `k` set to `v`; setting what an unlisted key reads as removes the entry. -/
def storeSet {α : Type} [DecidableEq α] (d : Nat → α) (k : Nat) (v : α) (m : List (Nat × α)) : List (Nat × α) :=
  if v = d k then storeErase k m else storeInsert k v (storeErase k m)

/-- The list without the keys from `lo` to `hi - 1`: they read as unlisted again. -/
def storeClear {α : Type} (lo hi : Nat) : List (Nat × α) → List (Nat × α)
  | [] => []
  | (j, v) :: t => if lo ≤ j ∧ j < hi then storeClear lo hi t else (j, v) :: storeClear lo hi t

/-- The canonical form: keys rise strictly, and no value is the one an unlisted key reads as. -/
def storeWf {α : Type} [DecidableEq α] (d : Nat → α) : List (Nat × α) → Bool
  | [] => true
  | (j, v) :: t => v ≠ d j && t.all (fun p => j < p.1) && storeWf d t

/-- Consecutive keys from `k` set to the values of the list. -/
def storeSetMany {α : Type} [DecidableEq α] (d : Nat → α) (k : Nat) : List α → List (Nat × α) → List (Nat × α)
  | [], m => m
  | v :: vs, m => storeSetMany d (k + 1) vs (storeSet d k v m)

/-- The values of the `n` keys from `k`. -/
def storeGetMany {α : Type} (d : Nat → α) (m : List (Nat × α)) (k : Nat) : Nat → List α
  | 0 => []
  | n + 1 => storeGet d m k :: storeGetMany d m (k + 1) n

/-- The number that little-endian bytes stand for (R18). -/
def leNat : List Byte → Nat
  | [] => 0
  | b :: bs => b.toNat + 256 * leNat bs

/-- The `n` little-endian bytes of a number (R18). -/
def leBytes : Nat → Nat → List Byte
  | 0, _ => []
  | n + 1, x => BitVec.ofNat 8 x :: leBytes n (x / 256)

/-- The `n` bits of `x` from bit `lo` (R18). -/
def bits (x lo n : Nat) : Nat := x / 2 ^ lo % 2 ^ n

/-- Bit `i` of `x` (R18). -/
def bit (x i : Nat) : Bool := x / 2 ^ i % 2 == 1

/-- `x` with the `n` bits from bit `lo` replaced by `v`. -/
def setBits (x lo n v : Nat) : Nat := x - bits x lo n * 2 ^ lo + (v % 2 ^ n) * 2 ^ lo

/-- A number read as a two's complement integer of `n` bits. -/
def signed (n x : Nat) : Int := if x % 2 ^ n < 2 ^ (n - 1) then (x % 2 ^ n : Nat) else (x % 2 ^ n : Nat) - (2 ^ n : Nat)

/-- The `n` bits of a two's complement integer. -/
def unsigned (n : Nat) (x : Int) : Nat := (x % (2 ^ n : Nat)).toNat

/-- The numbers from `lo` on, `n` of them. -/
def upFrom (lo : Nat) : Nat → List Nat
  | 0 => []
  | n + 1 => lo :: upFrom (lo + 1) n

/-- The numbers below `n`, rising. -/
def below (n : Nat) : List Nat := upFrom 0 n

/-- One bit of the CRC-32 of the IEEE 802.3 polynomial, reflected. -/
def crcBit (c : Nat) : Nat := if c % 2 = 1 then c / 2 ^^^ 0xEDB88320 else c / 2

/-- One byte of the CRC-32. -/
def crcByte (c : Nat) (b : Byte) : Nat :=
  crcBit (crcBit (crcBit (crcBit (crcBit (crcBit (crcBit (crcBit (c ^^^ b.toNat))))))))

/-- CRC-32 of the IEEE 802.3 polynomial, reflected, with initial value and final XOR 0xFFFF_FFFF (R353). -/
def crc32 (bs : List Byte) : Nat := bs.foldl crcByte 0xFFFFFFFF ^^^ 0xFFFFFFFF

end Sys2Proof.Machine
end

