-- ==== Sys2Proof/Machine/Codec.lean ====
section
/-! DEFINITION. The lossless code (spec/07_weight_compression.md R158 to R169): table records and their load check,
canonical codes, the census, encoding and decoding of one block, and header records. -/

namespace Sys2Proof.Machine

/-- A code table as a slot holds it (R163): 8-bit symbols or 4-bit ones, the tag, and the length of every symbol. -/
structure Table where
  wide : Bool
  tag : Nat
  lengths : List Nat
  deriving DecidableEq, Repr

/-- Symbols of a table's width (R163). -/
def symbolCount (wide : Bool) : Nat := if wide then 256 else 16

/-- The table of a 144-byte record given as a little-endian number (R163). -/
def parseTable (x : Nat) : Table :=
  let wide := bit x 0
  { wide, tag := bits x 8 5, lengths := (below (symbolCount wide)).map fun s => bits x (128 + 4 * s) 4 }

/-- The reserved fields of a table record are zero (R163). -/
def tableReservedOk (x : Nat) : Bool :=
  bits x 1 7 == 0 && bits x 13 3 == 0 && bits x 16 48 == 0 && (bit x 0 || bits x 192 960 == 0)

/-- R164: every length is 1 to 12 and the code is complete. -/
def lengthsOk (ls : List Nat) : Bool :=
  ls.all (fun n => 1 ≤ n && n ≤ 12) && (ls.foldl (fun a n => a + 2 ^ (12 - n)) 0 == 4096)

/-- A table record (R163) as a little-endian number. -/
def tableRecord (t : Table) (symbols : Nat) : Nat :=
  (if t.wide then 1 else 0) + t.tag * 2 ^ 8 + symbols % 2 ^ 64 * 2 ^ 64 +
    ((below t.lengths.length).zip t.lengths).foldl (fun a x => a + x.2 * 2 ^ (128 + 4 * x.1)) 0

/-- The symbols of one length, rising (R164). -/
def symbolsOf (ls : List Nat) (n : Nat) : List Nat :=
  ((below ls.length).zip ls).filterMap fun x => if x.2 = n then some x.1 else none

/-- The symbols by length and then by value (R167). -/
def orderedSymbols (ls : List Nat) : List Nat := (upFrom 1 12).flatMap (symbolsOf ls)

/-- The first code of a length: the codes of shorter lengths extended (R164). -/
def firstCode (ls : List Nat) : Nat → Nat
  | 0 => 0
  | n + 1 => (firstCode ls n + (symbolsOf ls n).length) * 2

/-- The canonical code of a symbol, with its length (R164). -/
def codeOf (ls : List Nat) (s : Nat) : Nat × Nat :=
  let n := ls.getD s 0
  (firstCode ls n + ((symbolsOf ls n).takeWhile (· ≠ s)).length, n)

/-- The `n` low bits of a number in the reverse order. -/
def revBits : Nat → Nat → Nat
  | 0, _ => 0
  | n + 1, x => x % 2 * 2 ^ n + revBits n (x / 2)

/-- The code words of every symbol with the first bit of the code lowest (R162), and their lengths. -/
def streamCodes (ls : List Nat) : List (Nat × Nat) :=
  (below ls.length).map fun s =>
    let (c, n) := codeOf ls s
    (revBits n c, n)

/-- Block byte of lane byte `u` of lane `l` (R161). -/
def laneByte (l u : Nat) : Nat := 512 * (u / 8) + 8 * l + u % 8

/-- The symbols of a lane in order (R161); the block is a little-endian number. -/
def laneSymbols (wide : Bool) (block l : Nat) : List Nat :=
  (below 64).flatMap fun u =>
    let b := bits block (8 * laneByte l u) 8
    if wide then [b] else [b % 16, b / 16]

/-- The bit stream of a lane and its length in bits (R162). -/
def encodeLane (codes : List (Nat × Nat)) (syms : List Nat) : Nat × Nat :=
  syms.foldl (fun acc s =>
    let (c, n) := codes.getD s (0, 0)
    (acc.1 + c * 2 ^ acc.2, acc.2 + n)) (0, 0)

/-- The coded payload of a block: its bytes as a number, its length, and the lane offsets (R162). -/
def encodePayload (t : Table) (block : Nat) : Nat × Nat × List Nat :=
  let codes := streamCodes t.lengths
  (below 64).foldl (fun (acc : Nat × Nat × List Nat) l =>
    let (x, n) := encodeLane codes (laneSymbols t.wide block l)
    (acc.1 + x * 2 ^ (8 * acc.2.1), acc.2.1 + (n + 7) / 8, acc.2.2 ++ [acc.2.1])) (0, 0, [])

/-- A header record's fields (R159). -/
structure Header where
  mode : Nat
  slot : Nat
  tag : Nat
  len : Nat
  offsets : List Nat
  deriving DecidableEq, Repr

/-- The fields of a 128-byte header record given as a number; reserved bits are ignored (R159). -/
def parseHeader (x : Nat) : Header :=
  { mode := bits x 0 2, slot := bits x 8 3, tag := bits x 11 5, len := bits x 16 13,
    offsets := (below 64).map fun l => bits x (256 + 12 * l) 12 }

/-- A header record as a number (R159, R166). -/
def headerRecord (h : Header) : Nat :=
  h.mode + h.slot * 2 ^ 8 + h.tag * 2 ^ 11 + h.len * 2 ^ 16 +
    ((below 64).zip h.offsets).foldl (fun a x => a + x.2 * 2 ^ (256 + 12 * x.1)) 0

/-- R166: the place and the header that the encode pass writes for a block. `store` forces a stored block. -/
def encodeBlock (t : Table) (slot : Nat) (store : Bool) (block : Nat) : Nat × Nat :=
  let (x, n, offs) := encodePayload t block
  if !store && n ≤ 4096 then (x, headerRecord ⟨0, slot, t.tag, n, offs⟩)
  else (block, headerRecord ⟨1, slot, t.tag, 4096, []⟩)

/-- A bit of a payload; zero at or beyond byte `n` (R167). -/
def payloadBit (payload n pos : Nat) : Nat := if 8 * n ≤ pos then 0 else payload / 2 ^ pos % 2

/-- One symbol of R167 from a bit position: the lengths still to try carry their symbol counts. -/
def decodeSymbol (payload n : Nat) (ordered : List Nat) :
    List Nat → Nat → Nat → Nat → Nat → Nat × Nat
  | [], pos, _, _, _ => (0, pos)
  | c :: cs, pos, code, first, index =>
    let code := code + payloadBit payload n pos
    if code < first + c then (ordered.getD (index + code - first) 0, pos + 1)
    else decodeSymbol payload n ordered cs (pos + 1) (code * 2) ((first + c) * 2) (index + c)

/-- The symbols of a lane from a bit position (R167). -/
def decodeLane (payload n : Nat) (counts ordered : List Nat) : Nat → Nat → List Nat
  | 0, _ => []
  | k + 1, pos =>
    let (s, pos) := decodeSymbol payload n ordered counts pos 0 0 0
    s :: decodeLane payload n counts ordered k pos

/-- The lane bytes of a lane's symbols (R161). -/
def laneBytes (wide : Bool) : List Nat → List Nat
  | a :: b :: t => if wide then a :: laneBytes wide (b :: t) else (a + 16 * b) :: laneBytes wide t
  | [a] => [a]
  | [] => []

/-- R167, R168: the 4096 bytes of a coded block, whatever its payload holds; `n` bounds the bytes read. -/
def decodeBlock (t : Table) (h : Header) (n payload : Nat) : List Nat :=
  let ordered := orderedSymbols t.lengths
  let counts := (upFrom 1 12).map fun k => (symbolsOf t.lengths k).length
  let lanes := (below 64).map fun l =>
    laneBytes t.wide (decodeLane payload n counts ordered (if t.wide then 64 else 128) (8 * h.offsets.getD l 0))
  (below 4096).map fun p => (lanes.getD (p % 512 / 8) []).getD (8 * (p / 512) + p % 8) 0

/-- A node of the census's tree: weight, key, and its symbols with their depths (R165). -/
abbrev CensusNode := Nat × Nat × List (Nat × Nat)

/-- A node put in its place by weight and then key. -/
def insertNode (x : CensusNode) : List CensusNode → List CensusNode
  | [] => [x]
  | y :: t => if x.1 < y.1 ∨ (x.1 = y.1 ∧ x.2.1 < y.2.1) then x :: y :: t else y :: insertNode x t

/-- The merging steps of the census (R165); `fuel` counts them. -/
def mergeNodes : Nat → Nat → List CensusNode → List CensusNode
  | fuel + 1, key, a :: b :: t =>
    let syms := (a.2.2 ++ b.2.2).map fun x => (x.1, x.2 + 1)
    mergeNodes fuel (key + 1) (insertNode (a.1 + b.1, key, syms) t)
  | _, _, ns => ns

/-- The Huffman depth of every symbol (R165). -/
def huffmanDepths (w : List Nat) : List Nat :=
  let leaves := ((below w.length).zip w).map fun x => (x.2, x.1, [(x.1, 0)])
  let tree := mergeNodes w.length w.length (leaves.foldl (fun l x => insertNode x l) [])
  let ds := (tree.headD (0, 0, [])).2.2
  (below w.length).map fun s => (ds.lookup s).getD 0

/-- The greatest length below a limit that some code word has. -/
def longestBelow (bl : List Nat) : Nat → Nat
  | 0 => 0
  | j + 1 => if bl.getD j 0 = 0 then longestBelow bl j else j

/-- The steps of the limiting loop at one length (R165); `fuel` bounds them. -/
def limitStep (length : Nat) : Nat → List Nat → List Nat
  | 0, bl => bl
  | fuel + 1, bl =>
    if bl.getD length 0 = 0 then bl
    else
      let j := longestBelow bl (length - 1)
      let add (k : Nat) (d : Int) (l : List Nat) := l.set k ((l.getD k 0 : Int) + d).toNat
      limitStep length fuel (add j (-1) (add (j + 1) 2 (add (length - 1) 1 (add length (-2) bl))))

/-- The number of code words of each length after limiting to 12 (R165). -/
def limitedCounts (depths : List Nat) : List Nat :=
  let bl := (below 256).map fun n => (depths.filter (· = n)).length
  ((upFrom 13 (255 - 12)).reverse).foldl (fun bl n => limitStep n (bl.getD n 0) bl) bl

/-- Symbols by count descending and then by symbol (R165). -/
def insertRank (x : Nat × Nat) : List (Nat × Nat) → List (Nat × Nat)
  | [] => [x]
  | y :: t => if y.2 < x.2 then x :: y :: t else y :: insertRank x t

/-- R165: the code lengths that the census gives for the weights (counts plus 1) of all symbols. -/
def tableLengths (w : List Nat) : List Nat :=
  let bl := limitedCounts (huffmanDepths w)
  let order := (((below w.length).zip w).foldl (fun l x => insertRank x l) []).map (·.1)
  let ranked := (upFrom 1 12).flatMap fun n => List.replicate (bl.getD n 0) n
  let pairs := order.zip ranked
  (below w.length).map fun s => (pairs.lookup s).getD 0

/-- The counts of symbols of the blocks read, added to counts so far (R165). -/
def countSymbols (wide : Bool) (block : List Nat) (w : List Nat) : List Nat :=
  let syms := if wide then block else block.flatMap fun b => [b % 16, b / 16]
  ((below (symbolCount wide)).zip w).map fun x => x.2 + (syms.filter (· = x.1)).length

end Sys2Proof.Machine
end

