-- ==== Sys2Proof/Machine/Formats.lean ====
section
/-! DEFINITION. Element formats, exact values and every conversion of the format unit (spec/03_tensor_views.md R73 to
R80, spec/06_casting_quantisation.md R132 to R146): one exact-value type, one rounding, the stochastic draw, reading
and selecting group scales, and outlier escape. -/

namespace Sys2Proof.Machine

/-- The element formats of R73. -/
inductive Fmt where
  | fp32 | bf16 | fp16 | e4m3 | e5m2 | e3m2 | e2m3 | e2m1
  | int32 | int16 | int8 | uint8 | int4 | uint4 | int3 | int2 | tern | mask1
  deriving DecidableEq, Repr

/-- The format of a code of R73; none for a reserved code. -/
def fmtOf : Nat → Option Fmt
  | 0x01 => some .fp32 | 0x02 => some .bf16 | 0x03 => some .fp16 | 0x04 => some .e4m3 | 0x05 => some .e5m2
  | 0x06 => some .e3m2 | 0x07 => some .e2m3 | 0x08 => some .e2m1 | 0x10 => some .int32 | 0x11 => some .int16
  | 0x12 => some .int8 | 0x13 => some .uint8 | 0x14 => some .int4 | 0x15 => some .uint4 | 0x16 => some .int3
  | 0x17 => some .int2 | 0x18 => some .tern | 0x19 => some .mask1 | _ => none

/-- The width in bits of an element (R73); TERN counts the 8 bits of its five elements. -/
def Fmt.width : Fmt → Nat
  | .fp32 | .int32 => 32
  | .bf16 | .fp16 | .int16 => 16
  | .e4m3 | .e5m2 | .int8 | .uint8 | .tern => 8
  | .e3m2 | .e2m3 => 6
  | .e2m1 | .int4 | .uint4 => 4
  | .int3 => 3
  | .int2 => 2
  | .mask1 => 1

/-- Elements and bytes of a packing period (R77). -/
def Fmt.period : Fmt → Nat × Nat
  | .fp32 | .int32 => (1, 4)
  | .bf16 | .fp16 | .int16 => (1, 2)
  | .e4m3 | .e5m2 | .int8 | .uint8 => (1, 1)
  | .e2m1 | .int4 | .uint4 => (2, 1)
  | .int2 => (4, 1)
  | .mask1 => (8, 1)
  | .e3m2 | .e2m3 => (4, 3)
  | .int3 => (8, 3)
  | .tern => (5, 1)

/-- Exponent bits, mantissa bits and bias of a floating-point format (R74); none for the other classes. -/
def Fmt.floatShape : Fmt → Option (Nat × Nat × Nat)
  | .fp32 => some (8, 23, 127)
  | .bf16 => some (8, 7, 127)
  | .fp16 => some (5, 10, 15)
  | .e4m3 => some (4, 3, 7)
  | .e5m2 => some (5, 2, 15)
  | .e3m2 => some (3, 2, 3)
  | .e2m3 => some (2, 3, 1)
  | .e2m1 => some (2, 1, 1)
  | _ => none

/-- Whether the format is an integer, ternary or mask format (R154). -/
def Fmt.isInteger (f : Fmt) : Bool := f.floatShape.isNone

/-- The least and the greatest value of an integer-class format (R75, R134). -/
def Fmt.intRange : Fmt → Int × Int
  | .int32 => (-2147483648, 2147483647)
  | .int16 => (-32768, 32767)
  | .int8 => (-128, 127)
  | .uint8 => (0, 255)
  | .int4 => (-8, 7)
  | .uint4 => (0, 15)
  | .int3 => (-4, 3)
  | .int2 => (-2, 1)
  | .tern => (-1, 1)
  | _ => (0, 1)

/-- Formats on which grouping is allowed (R78). -/
def Fmt.groupable : Fmt → Bool
  | .e4m3 | .e5m2 | .e3m2 | .e2m3 | .e2m1 | .int8 | .uint8 | .int4 | .uint4 | .int3 | .int2 | .tern => true
  | _ => false

/-- Formats whose element takes 4 bits or fewer, on which outlier escape is allowed (R78). -/
def Fmt.escapable : Fmt → Bool
  | .e2m1 | .int4 | .uint4 | .int3 | .int2 | .tern => true
  | _ => false

/-- An exact value (R132): a signed fraction (the denominator is positive; the sign of a zero counts), an infinity
or NaN. -/
inductive Val where
  | nan
  | inf (neg : Bool)
  | fin (neg : Bool) (num den : Nat)
  deriving DecidableEq, Repr

/-- The fraction x times 2 to the power e. -/
def scaled (x : Nat) (e : Int) : Nat × Nat :=
  if 0 ≤ e then (x * 2 ^ e.toNat, 1) else (x, 2 ^ (-e).toNat)

/-- An integer as an exact value. -/
def valOfInt (z : Int) : Val := .fin (z < 0) z.natAbs 1

/-- The exact value of an element code (R74, R75). A TERN code is the digit of its trit. -/
def decodeElem (f : Fmt) (code : Nat) : Val :=
  match f.floatShape with
  | some (eb, mb, bias) =>
    let neg := bit code (eb + mb)
    let e := bits code mb eb
    let m := bits code 0 mb
    if (f = .fp32 ∨ f = .bf16 ∨ f = .fp16 ∨ f = .e5m2) ∧ e = 2 ^ eb - 1 then
      if m = 0 then .inf neg else .nan
    else if f = .e4m3 ∧ e = 15 ∧ m = 7 then .nan
    else
      let x := if e = 0 then m else 2 ^ mb + m
      let (n, d) := scaled x ((max e 1 : Nat) - (bias + mb : Nat))
      .fin neg n d
  | none =>
    match f with
    | .tern => valOfInt ((code : Int) - 1)
    | .uint8 | .uint4 | .mask1 => .fin false code 1
    | f => valOfInt (signed f.width code)

/-- The largest finite magnitude of a floating-point format (R74), as a fraction. -/
def Fmt.maxFinite : Fmt → Nat × Nat
  | .fp32 => ((2 ^ 24 - 1) * 2 ^ 104, 1)
  | .bf16 => ((2 ^ 8 - 1) * 2 ^ 120, 1)
  | .fp16 => (65504, 1)
  | .e4m3 => (448, 1)
  | .e5m2 => (57344, 1)
  | .e3m2 => (28, 1)
  | .e2m3 => (15, 2)
  | .e2m1 => (6, 1)
  | f => (f.intRange.2.toNat, 1)

/-- The code of a NaN result (R135). -/
def nanCode : Fmt → Nat
  | .fp32 => 0x7FC00000
  | .bf16 => 0x7FC0
  | .fp16 => 0x7E00
  | .e5m2 => 0x7E
  | .e4m3 => 0x7F
  | .tern => 1
  | .mask1 => 1
  | _ => 0

/-- The code of an integer value in an integer-class format (R75). -/
def intCode (f : Fmt) (z : Int) : Nat :=
  match f with
  | .tern => (z + 1).toNat
  | f => unsigned f.width z

/-- The rounding modes of QSPEC (R103). -/
inductive RoundMode where
  | rne | rtz | stochastic
  deriving DecidableEq, Repr

/-- The code that an overflow or an infinity converts to (R135). -/
def overflowCode (f : Fmt) (neg ovf : Bool) (mode : RoundMode) : Nat :=
  match f.floatShape with
  | some (eb, mb, _) =>
    let sgn := if neg then 2 ^ (eb + mb) else 0
    let toInf := ovf && mode ≠ .rtz
    let maxExp := (2 ^ eb - 1) * 2 ^ mb
    match f with
    | .fp32 | .bf16 | .fp16 | .e5m2 => sgn + (if toInf then maxExp else maxExp - 1)
    | .e4m3 => sgn + (if toInf then 0x7F else 0x7E)
    | _ => sgn + (2 ^ (eb + mb) - 1)
  | none => intCode f (if neg then f.intRange.1 else f.intRange.2)

/-- The greatest k with 2^k at most the positive fraction n / d. -/
def floorLog2 (n d : Nat) : Int :=
  let k : Int := (Nat.log2 n : Int) - (Nat.log2 d : Int)
  let (a, b) := if 0 ≤ k then (n, d * 2 ^ k.toNat) else (n * 2 ^ (-k).toNat, d)
  if b ≤ a then k else k - 1

/-- The code of k units of 2^(e - mantissa bits), in the binade of exponent e (R134). -/
def floatCode (eb mb bias : Nat) (neg : Bool) (e : Int) (k : Nat) : Nat :=
  let sgn := if neg then 2 ^ (eb + mb) else 0
  if k < 2 ^ mb then sgn + k
  else if k = 2 ^ (mb + 1) then sgn + (e + 1 + bias).toNat * 2 ^ mb
  else sgn + (e + bias).toNat * 2 ^ mb + (k - 2 ^ mb)

/-- How many units q = 2^qe a positive fraction holds, after rounding its magnitude (R134). -/
def roundUnits (mode : RoundMode) (draw n d : Nat) (qe : Int) : Nat :=
  let (a, b) := if 0 ≤ qe then (n, d * 2 ^ qe.toNat) else (n * 2 ^ (-qe).toNat, d)
  let k := a / b
  let rem := a % b
  let up : Bool := match mode with
    | .rne => b < 2 * rem || (2 * rem = b && k % 2 = 1)
    | .rtz => false
    | .stochastic => 65536 ≤ rem * 65536 / b + draw
  if rem ≠ 0 ∧ up then k + 1 else k

/-- R134: the code of a value in a destination format, and whether the conversion saturated (R149). -/
def convert (v : Val) (f : Fmt) (mode : RoundMode) (ovf : Bool) (draw : Nat) : Nat × Bool :=
  if f = .mask1 then
    match v with
    | .fin _ 0 _ => (0, false)
    | _ => (1, false)
  else
    match v with
    | .nan => (nanCode f, false)
    | .inf neg => (overflowCode f neg ovf mode, true)
    | .fin neg n d =>
      match f.floatShape with
      | some (eb, mb, bias) =>
        if n = 0 then (if neg then 2 ^ (eb + mb) else 0, false)
        else
          let e := max (floorLog2 n d) (1 - (bias : Int))
          let k := roundUnits mode draw n d (e - mb)
          let (rn, rd) := scaled k (e - mb)
          let (mn, md) := f.maxFinite
          if mn * rd < rn * md then (overflowCode f neg ovf mode, true)
          else (floatCode eb mb bias neg e k, false)
      | none =>
        let k := roundUnits mode draw n d 0
        let z : Int := if neg then -(k : Int) else k
        let (lo, hi) := f.intRange
        if hi < z ∨ z < lo then (overflowCode f neg ovf mode, true) else (intCode f z, false)

/-- The sum of two exact values (R256). -/
def valAdd : Val → Val → Val
  | .nan, _ | _, .nan => .nan
  | .inf a, .inf b => if a = b then .inf a else .nan
  | .inf a, _ | _, .inf a => .inf a
  | .fin sa na da, .fin sb nb db =>
    let x := na * db
    let y := nb * da
    let d := da * db
    if sa = sb then .fin sa (x + y) d
    else if y < x then .fin sa (x - y) d
    else if x < y then .fin sb (y - x) d
    else .fin false 0 1

/-- The product of two exact values, by the rules of IEEE 754 (R139, R146). -/
def valMul : Val → Val → Val
  | .nan, _ | _, .nan => .nan
  | .inf a, .inf b => .inf (a != b)
  | .inf a, .fin b n _ => if n = 0 then .nan else .inf (a != b)
  | .fin a n _, .inf b => if n = 0 then .nan else .inf (a != b)
  | .fin a na da, .fin b nb db => .fin (a != b) (na * nb) (da * db)

/-- A value divided exactly by a positive fraction. -/
def valDiv (v : Val) (sn sd : Nat) : Val :=
  match v with
  | .fin a n d => .fin a (n * sd) (d * sn)
  | v => v

/-- Whether a value is NaN. -/
def Val.isNan : Val → Bool
  | .nan => true
  | _ => false

/-- The round constants of R136. -/
def srRound : List Nat := [0x9E3779B9, 0x3C6EF372, 0xDAA66D2B, 0x78DDE6E4]

/-- Rotation left within 32 bits (R136). -/
def rotl32 (v k : Nat) : Nat := (v * 2 ^ k + v / 2 ^ (32 - k)) % 2 ^ 32

/-- One round of R136. -/
def srStep (xy : Nat × Nat) (rc : Nat) : Nat × Nat :=
  let x := (xy.1 + xy.2 + rc) % 2 ^ 32
  let y := rotl32 xy.2 12 ^^^ x
  (rotl32 x 20 ^^^ y, y)

/-- The 16-bit draw of R136 for a seed, a stream tag and a 48-bit emission index. -/
def srDraw (seed tag n : Nat) : Nat :=
  let x := (n % 2 ^ 32) ^^^ (seed % 2 ^ 32)
  let y := (tag * 2 ^ 16 + n / 2 ^ 32 % 2 ^ 16) ^^^ (seed / 2 ^ 32)
  let (x, y) := srRound.foldl srStep (x, y)
  (x + y) % 2 ^ 32 / 2 ^ 16

/-- The grouped form of a view: element format, group size, scale format and outlier escape (R78). -/
structure GroupForm where
  fmt : Fmt
  size : Nat
  scaleFmt : Nat
  outlier : Bool
  deriving DecidableEq, Repr

/-- Whether the form is MXINT8, whose elements count 2^-6 (R79). -/
def GroupForm.mxInt8 (g : GroupForm) : Bool := g.fmt = .int8 && g.size = 32 && g.scaleFmt = 0 && !g.outlier

/-- Bytes of a scale record (R80). -/
def GroupForm.recordSize (g : GroupForm) : Nat := if g.outlier then 8 else if g.scaleFmt = 2 then 2 else 1

/-- The value of a scale code (R138). -/
def scaleVal (scaleFmt code : Nat) : Val :=
  match scaleFmt with
  | 0 => if code % 256 = 255 then .nan else
      let (n, d) := scaled 1 ((code % 256 : Nat) - (127 : Nat))
      .fin false n d
  | 1 => if 0x7F ≤ code % 256 then .nan else decodeElem .e4m3 (code % 256)
  | _ => if 0x7C00 ≤ code % 65536 then .nan else decodeElem .fp16 (code % 65536)

/-- The exact value of an element code within a group, before its scale (R139). -/
def groupElem (g : GroupForm) (code : Nat) : Val :=
  let v := decodeElem g.fmt code
  if g.mxInt8 then valMul v (.fin false 1 64) else v

/-- The outlier of a record that names a position, if any: OUT0 before OUT1 (R80, R139). -/
def outlierAt (record pos : Nat) : Option Nat :=
  if bit record 39 ∧ bits record 32 5 = pos then some (bits record 16 8)
  else if bit record 47 ∧ bits record 40 5 = pos then some (bits record 24 8)
  else none

/-- R139: the FP32 code that DEQUANT gives for the element at a position of its group. -/
def dequant (g : GroupForm) (record code pos : Nat) : Nat :=
  let v := match (if g.outlier then outlierAt record pos else none) with
    | some o => decodeElem .e4m3 o
    | none => groupElem g code
  let sc := scaleVal g.scaleFmt (record % 65536)
  (convert (valMul v sc) .fp32 .rne true 0).1

/-- R146: the FP32 code that CHSCALE gives for a value and a scale-file entry. -/
def chscale (v : Val) (entry : Nat) : Nat := (convert (valMul v (decodeElem .fp32 entry)) .fp32 .rne true 0).1

/-- The element limit vmax and E_elem of R140. -/
def elemLimit (g : GroupForm) : (Nat × Nat) × Int :=
  if g.mxInt8 then ((127, 64), 0)
  else match g.fmt with
    | .e4m3 => ((448, 1), 8)
    | .e5m2 => ((57344, 1), 15)
    | .e3m2 => ((28, 1), 4)
    | .e2m3 => ((15, 2), 2)
    | .e2m1 => ((6, 1), 2)
    | .int8 => ((127, 1), 6)
    | .uint8 => ((255, 1), 7)
    | .int4 => ((7, 1), 2)
    | .uint4 => ((15, 1), 3)
    | .int3 => ((3, 1), 1)
    | _ => ((1, 1), 0)

/-- A positive fraction rounded towards +∞ to a positive code of a floating-point format, and limited to its
largest finite value (R140). -/
def scaleUp (f : Fmt) (n d : Nat) : Nat :=
  match f.floatShape with
  | none => 0
  | some (eb, mb, bias) =>
    let e := max (floorLog2 n d) (1 - (bias : Int))
    let qe := e - mb
    let (a, b) := if 0 ≤ qe then (n, d * 2 ^ qe.toNat) else (n * 2 ^ (-qe).toNat, d)
    let k := (a + b - 1) / b
    let (rn, rd) := scaled k qe
    let (mn, md) := f.maxFinite
    if mn * rd < rn * md then overflowCode f false false .rne else floatCode eb mb bias false e k

/-- The E8M0 code of an exponent, limited to -127 to 127 (R140). -/
def e8m0Code (x : Int) : Nat := (min (max x (-127)) 127 + 127).toNat

/-- The least k with 2^k at least the positive fraction. -/
def ceilLog2 (n d : Nat) : Int :=
  let k := floorLog2 n d
  let (rn, rd) := scaled 1 k
  if rn * d = n * rd then k else k + 1

/-- The scale code that a scale format's NaN has, and the code of scale 1.0 (R142). -/
def nanScale (scaleFmt : Nat) : Nat := match scaleFmt with | 0 => 0xFF | 1 => 0x7F | _ => 0x7E00

@[inherit_doc nanScale]
def oneScale (scaleFmt : Nat) : Nat := match scaleFmt with | 0 => 0x7F | 1 => 0x38 | _ => 0x3C00

/-- R140: the scale code selected from a positive amax. -/
def selectScale (g : GroupForm) (n d : Nat) : Nat :=
  let ((vn, vd), ee) := elemLimit g
  match g.scaleFmt with
  | 0 => e8m0Code (floorLog2 n d - ee)
  | 1 => scaleUp .e4m3 (n * vd) (d * vn)
  | _ => scaleUp .fp16 (n * vd) (d * vn)

/-- R141: the scale code derived from a scale-file entry; none where the entry gives the NaN scale. -/
def fileScale (scaleFmt entry : Nat) : Option Nat :=
  match decodeElem .fp32 entry with
  | .fin false n d =>
    if n = 0 then none
    else match scaleFmt with
      | 0 => some (e8m0Code (ceilLog2 n d))
      | 1 => some (scaleUp .e4m3 n d)
      | _ => some (scaleUp .fp16 n d)
  | _ => none

/-- Whether the magnitude of `a` is greater than `k` times that of `b`; ±∞ ranks above every finite value. -/
def magAbove (k : Nat) (a b : Val) : Bool :=
  match a, b with
  | .inf _, .fin _ _ _ => true
  | .fin _ na da, .fin _ nb db => k * nb * da < na * db
  | _, _ => false

/-- Positions by magnitude, largest first, an equal magnitude giving the lower position first (R144). -/
def insertMag (x : Nat × Val) : List (Nat × Val) → List (Nat × Val)
  | [] => [x]
  | y :: t => if magAbove 1 x.2 y.2 then x :: y :: t else y :: insertMag x t

/-- Whether a value is finite and not zero. -/
def Val.isFinNz : Val → Bool
  | .fin _ n _ => n ≠ 0
  | _ => false

/-- R144: the escaped positions of a group without NaN, in rising order. -/
def escaped (vs : List Val) : List Nat :=
  let idx := (below vs.length).zip vs
  let order := idx.foldl (fun l x => insertMag x l) []
  let at' (i : Nat) : Nat × Val := order.getD i (0, .fin false 0 1)
  let a := at' 0
  let b := at' 1
  let c := at' 2
  let es := if magAbove 4 b.2 c.2 then [min a.1 b.1, max a.1 b.1]
    else if magAbove 4 a.2 b.2 then [a.1] else []
  if idx.any (fun x => !es.contains x.1 && x.2.isFinNz) then es else []

/-- The largest finite magnitude of the values, as a fraction; 0 where there is none (R139's amax). -/
def amaxOf : List Val → Nat × Nat
  | [] => (0, 1)
  | .fin _ n d :: t =>
    let (mn, md) := amaxOf t
    if mn * d < n * md then (n, d) else (mn, md)
  | _ :: t => amaxOf t

/-- What QUANT makes of a group: the element codes, the scale record, and the counts of R149 and R150. -/
structure Quantised where
  codes : List Nat
  record : Nat
  sats : Nat
  nans : Nat
  outliers : Nat
  deriving DecidableEq, Repr

/-- The element codes of a group at a positive scale, an escaped position taking the zero code (R143, R145). -/
def quantElems (g : GroupForm) (mode : RoundMode) (ovf : Bool) (sn sd : Nat) (es : List Nat) :
    Nat → List Val → List Nat → List Nat × Nat
  | _, [], _ => ([], 0)
  | i, v :: vs, draws =>
    let (codes, sats) := quantElems g mode ovf sn sd es (i + 1) vs draws.tail
    if es.contains i then ((if g.fmt = .tern then 1 else 0) :: codes, sats)
    else
      let w := valDiv v sn sd
      let (c, sat) := convert (if g.mxInt8 then valMul w (.fin false 64 1) else w) g.fmt mode ovf (draws.headD 0)
      (c :: codes, sats + if sat then 1 else 0)

/-- The outlier fields of a record for the escaped positions, and how many saturate (R145). -/
def outlierFields (mode : RoundMode) (sn sd : Nat) (vs : List Val) (draws : List Nat) : Nat → List Nat → Nat × Nat
  | _, [] => (0, 0)
  | k, p :: ps =>
    let (c, sat) := convert (valDiv (vs.getD p .nan) sn sd) .e4m3 mode false (draws.getD p 0)
    let (r, n) := outlierFields mode sn sd vs draws (k + 1) ps
    (r + c * 2 ^ (16 + 8 * k) + (p + 128) * 2 ^ (32 + 8 * k), n + if sat then 1 else 0)

/-- R140 to R145: QUANT of one group. `file` is the scale-file entry where SCALE_SRC is 1. -/
def quantGroup (g : GroupForm) (mode : RoundMode) (ovf : Bool) (file : Option Nat) (vs : List Val)
    (draws : List Nat) : Quantised :=
  let z := if g.fmt = .tern then 1 else 0
  let fileCode := file.bind (fileScale g.scaleFmt)
  if vs.any Val.isNan ∨ (file.isSome ∧ fileCode.isNone) then
    { codes := vs.map (fun _ => z), record := nanScale g.scaleFmt, sats := 0, nans := vs.length, outliers := 0 }
  else
    let es := if g.outlier then escaped vs else []
    let rest := ((below vs.length).zip vs).filter (fun x => !es.contains x.1)
    let (an, ad) := amaxOf (rest.map Prod.snd)
    let code := if an = 0 then oneScale g.scaleFmt
      else match fileCode with
        | some c => c
        | none => selectScale g an ad
    match scaleVal g.scaleFmt code with
    | .fin _ sn sd =>
      let (codes, sats) := quantElems g mode ovf sn sd es 0 vs draws
      let (fields, osats) := outlierFields mode sn sd vs draws 0 es
      { codes, record := code + fields, sats := sats + osats, nans := 0, outliers := es.length }
    | _ => { codes := vs.map (fun _ => z), record := code, sats := 0, nans := 0, outliers := 0 }

/-- The digits of a TERN byte; 243 to 255 decode to five zero trits (R75). -/
def ternDigit (byte k : Nat) : Nat := if 243 ≤ byte then 1 else byte / 3 ^ k % 3

/-- A TERN byte with digit `k` replaced, encoded again where it held 243 to 255 (R75, R418). -/
def ternSet (byte k digit : Nat) : Nat :=
  let b := if 243 ≤ byte then 121 else byte
  b - b / 3 ^ k % 3 * 3 ^ k + digit * 3 ^ k

end Sys2Proof.Machine
end

