-- ==== Sys2Proof/Machine/Views.lean ====
section
/-! DEFINITION. View records and the elements they address (spec/03_tensor_views.md R81 to R93): the record's fields,
the checks in table order, logical and stored indices, pad mapping (spec/05_layout_transforms.md R120) and element
positions. -/

namespace Sys2Proof.Machine

/-- The completion status codes of R23 that a check or a job ends with. -/
inductive Status where
  | done | badEntry | badDescriptor | badView | outOfRange | hostError | remoteError | poisoned | cancelled
  | waitExpired | noReader | tableMismatch | denied | exhausted | aborted | orphaned | partialMulticast
  deriving DecidableEq, Repr

/-- The code of a completion status (R23). -/
def Status.code : Status → Nat
  | .done => 0x00 | .badEntry => 0x01 | .badDescriptor => 0x02 | .badView => 0x03 | .outOfRange => 0x04
  | .hostError => 0x05 | .remoteError => 0x06 | .poisoned => 0x07 | .cancelled => 0x08 | .waitExpired => 0x09
  | .noReader => 0x0A | .tableMismatch => 0x0B | .denied => 0x0C | .exhausted => 0x0D | .aborted => 0x0E
  | .orphaned => 0x0F | .partialMulticast => 0x10

/-- The status of a code of R23; a code that names none reads as REMOTE_ERROR. -/
def statusOf : Nat → Status
  | 0x00 => .done | 0x01 => .badEntry | 0x02 => .badDescriptor | 0x03 => .badView | 0x04 => .outOfRange
  | 0x05 => .hostError | 0x07 => .poisoned | 0x08 => .cancelled | 0x09 => .waitExpired
  | 0x0A => .noReader | 0x0B => .tableMismatch | 0x0C => .denied | 0x0D => .exhausted | 0x0E => .aborted
  | 0x0F => .orphaned | 0x10 => .partialMulticast | _ => .remoteError

/-- A status with its detail code (R23). -/
structure Ending where
  status : Status
  detail : Nat
  deriving DecidableEq, Repr

/-- A completed job or check without a failure. -/
def okDone : Ending := ⟨.done, 0⟩

/-- A view record (R81, R82), its fields as stored; `delta` is the byte delta of a fragment (R109), else 0. -/
structure View where
  format : Nat
  rank : Nat
  handleForm : Bool
  phase : Nat
  perm : Nat
  modDim : Nat
  padMode : Nat
  group : Nat
  scaleFmt : Nat
  outlier : Bool
  reserved : Nat
  base : Nat
  delta : Int := 0
  extent : List Nat
  stride : List Int
  modLen : Nat
  modStart : Nat
  scaleOff : Int
  padLo : List Nat
  padHi : List Nat
  deriving DecidableEq, Repr

/-- The fields of a 96-byte view record given as a little-endian number (R81, R82). -/
def parseView (x : Nat) : View :=
  { format := bits x 0 6, rank := bits x 6 3, handleForm := bit x 9, phase := bits x 10 3, perm := bits x 13 18,
    modDim := bits x 31 3, padMode := bits x 34 2, group := bits x 36 2, scaleFmt := bits x 38 2,
    outlier := bit x 40, reserved := bits x 41 23, base := bits x 64 64,
    extent := (below 6).map fun k => bits x (128 + 32 * k) 32,
    stride := (below 6).map fun k => signed 48 (bits x (320 + 48 * k) 48),
    modLen := bits x 608 24, modStart := bits x 632 24, scaleOff := signed 48 (bits x 656 48),
    padLo := (below 4).map fun k => bits x (704 + 16 * k) 8,
    padHi := (below 4).map fun k => bits x (712 + 16 * k) 8 }

/-- The view's format; a reserved code, which check 0x01 refuses, reads as FP32 here. -/
def View.fmt (v : View) : Fmt := (fmtOf v.format).getD .fp32

/-- The group size G (R78); 0 for an ungrouped view. -/
def View.groupSize (v : View) : Nat := match v.group with | 0 => 0 | 1 => 32 | 2 => 64 | _ => 128

/-- The view's grouped form (R78). -/
def View.form (v : View) : GroupForm := ⟨v.fmt, v.groupSize, v.scaleFmt, v.outlier⟩

/-- The stored dimension that logical dimension `d` traverses (R82). -/
def View.permAt (v : View) (d : Nat) : Nat := if v.perm = 0 then d else bits v.perm (3 * d) 3

/-- The leading pad, extent, stride and padded extent of a stored dimension (R83). -/
def View.lo (v : View) (k : Nat) : Nat := v.padLo.getD k 0

@[inherit_doc View.lo]
def View.ext (v : View) (k : Nat) : Nat := v.extent.getD k 0

@[inherit_doc View.lo]
def View.str (v : View) (k : Nat) : Int := v.stride.getD k 0

@[inherit_doc View.lo]
def View.padded (v : View) (k : Nat) : Nat := v.lo k + v.ext k + v.padHi.getD k 0

/-- The count of a view: the product of its padded extents (R106). -/
def View.count (v : View) : Nat := (below v.rank).foldl (fun n k => n * v.padded k) 1

/-- The padded extent of the slowest logical dimension, and the slice size (R106, R123). -/
def View.slices (v : View) : Nat := v.padded (v.permAt (v.rank - 1))

@[inherit_doc View.slices]
def View.sliceSize (v : View) : Nat := v.count / max 1 v.slices

/-- The logical index vector of a canonical position (R83). -/
def View.logical (v : View) (n : Nat) : List Int :=
  ((below v.rank).foldl (fun (acc : List Int × Nat) d =>
    let l := max 1 (v.padded (v.permAt d))
    (acc.1 ++ [((acc.2 % l : Nat) : Int)], acc.2 / l)) ([], n)).1

/-- The logical index vector with the slowest dimension replaced (R123). -/
def View.withSlowest (v : View) (j : List Int) (x : Int) : List Int := j.set (v.rank - 1) x

/-- The stored indices of a logical index vector (R84). -/
def View.stored (v : View) (j : List Int) : List Int :=
  (below v.rank).map fun k =>
    ((below v.rank).foldl (fun (acc : Int) d => if v.permAt d = k then j.getD d 0 else acc) 0) - v.lo k

/-- Whether some stored index lies outside its extent: a pad position (R84). -/
def View.isPad (v : View) (i : List Int) : Bool :=
  (below v.rank).any fun k => decide (i.getD k 0 < 0 ∨ (v.ext k : Int) ≤ i.getD k 0)

/-- The index that edge and reflect modes read in place of an outside one (R120). -/
def mapIndex (reflect : Bool) (i : Int) (ext : Nat) : Int :=
  if 0 ≤ i ∧ i < ext then i
  else if reflect then (if i < 0 then -i else 2 * ((ext : Int) - 1) - i)
  else if i < 0 then 0 else ext - 1

/-- The stored indices read at a position of a view that is read: its own, the mapped ones in edge and reflect mode,
or none where the position takes the pad value (R84, R120, R121). -/
def View.readAt (v : View) (i : List Int) : Option (List Int) :=
  if !v.isPad i then some i
  else if v.group ≠ 0 ∨ v.padMode = 0 then none
  else some ((below v.rank).map fun k => mapIndex (v.padMode = 2) (i.getD k 0) (v.ext k))

/-- The element offset e of stored indices (R85, R86). -/
def View.offset (v : View) (i : List Int) : Int :=
  (below v.rank).foldl (fun e k =>
    let x := i.getD k 0
    let x := if k = v.modDim then ((v.modStart : Int) + x) % (v.modLen : Int) else x
    e + x * v.str k) 0

/-- Where an element lies: a byte, relative to the form's own addressing, and its first bit, or its trit, there. -/
structure ElemPos where
  byte : Int
  sub : Nat
  deriving DecidableEq, Repr

/-- The position of the element at offset `e` (R86), from a base byte address. -/
def View.posOf (v : View) (base : Int) (e : Int) : ElemPos :=
  let p : Int := v.phase + e
  match v.fmt with
  | .tern => ⟨base + p / 5, (p % 5).toNat⟩
  | f =>
    let b := p * f.width
    ⟨base + b / 8, (b % 8).toNat⟩

/-- The byte address of the scale record of the group at element offset `e` (R80). -/
def View.recordPos (v : View) (base : Int) (e : Int) : Int :=
  base + v.scaleOff + e / (max 1 v.groupSize : Nat) * (v.form.recordSize : Nat)

/-- The base byte address of a view: its global address, or its offset in the handle (R88), with a fragment's delta
added exactly (R109). -/
def View.byteBase (v : View) : Int := v.delta + if v.handleForm then (v.base / 2 ^ 24 : Nat) else (v.base : Nat)

/-- The handle that a handle-form view names (R88). -/
def View.handle (v : View) : Nat := v.base % 2 ^ 24

/-- The lowest and highest byte a view can touch, and those of its scale array (R93, check 0x11). -/
def View.touched (v : View) : (Int × Int) × (Int × Int) :=
  let (lo, hi) := (below v.rank).foldl (fun (a : Int × Int) k =>
    let n : Nat := if k = v.modDim then v.modLen else v.ext k
    let span := ((n : Int) - 1) * v.str k
    if span < 0 then (a.1 + span, a.2) else (a.1, a.2 + span)) (0, 0)
  let b := v.byteBase
  let data := match v.fmt with
    | .tern => (b + ((v.phase : Int) + lo) / 5, b + ((v.phase : Int) + hi) / 5)
    | f => (b + ((v.phase : Int) + lo) * f.width / 8, b + (((v.phase : Int) + hi) * f.width + f.width - 1) / 8)
  (data, (v.recordPos b lo, v.recordPos b hi + v.form.recordSize - 1))

/-- The regions of the local address map (R89). -/
inductive Region where
  | stack | pool | host | reserved
  deriving DecidableEq, Repr

/-- The region that holds a local address, with its bounds (R89). -/
def regionOf (a : Nat) : Region × Nat × Nat :=
  if a < 0x018000000000 then (.stack, 0, 0x018000000000)
  else if a < 0x200000000000 then (.reserved, 0x018000000000, 0x200000000000)
  else if a < 0x20000C000000 then (.pool, 0x200000000000, 0x20000C000000)
  else if a < 0x300000000000 then (.reserved, 0x20000C000000, 0x300000000000)
  else (.host, 0x300000000000, 0x400000000000)

/-- The local address and the endpoint of a global address (R11). -/
def localOf (g : Nat) : Nat := g % 2 ^ 46

@[inherit_doc localOf]
def endpointOf (g : Nat) : Nat := g / 2 ^ 46 % 2 ^ 18

/-- Whether `n` bytes from a local address lie wholly in stack memory, a Pool or the host window (R95, R108). -/
def inMemory (a n : Nat) : Bool :=
  let (r, _, hi) := regionOf a
  a < 0x400000000000 && r ≠ .reserved && a + n ≤ hi

/-- What the checks of a view need to know of the package: its endpoint, the size in bytes of a live handle's
allocation, and the regions that the kind of job reaches (R89, R93). -/
structure ViewEnv where
  endpoint : Nat
  handleSize : Nat → Option Nat
  reach : Region → Bool

/-- Which of a job's views a view is (R93), and whether its job's chain ends in COMBINE. -/
inductive ViewRole where
  | source | dest (combine : Bool) | index
  deriving DecidableEq, Repr

/-- The number v of R93's detail codes. -/
def ViewRole.num : ViewRole → Nat
  | .source => 0
  | .dest _ => 1
  | .index => 2

/-- Whether a range of bytes lies within one region of the map of R89, under the endpoint of the view's BASE (R93
check 0x11; the region is that of the lowest byte touched, log entry 10). -/
def inRegion (base : Int) (lo hi : Int) : Bool :=
  let (_, _, b) := regionOf (localOf lo.toNat)
  let e : Int := (endpointOf base.toNat * 2 ^ 46 : Nat)
  decide (e ≤ lo ∧ lo < e + 2 ^ 46 ∧ hi < e + b)

/-- The checks of R93 in table order: the check's number, its status, and whether it passes. -/
def viewChecks (env : ViewEnv) (role : ViewRole) (v : View) : List (Nat × Status × Bool) :=
  let ks := below v.rank
  let beyond := (below 6).filter (fun k => decide (v.rank ≤ k))
  let g : Int := (max 1 v.groupSize : Nat)
  let ((dlo, dhi), (slo, shi)) := v.touched
  let b := v.byteBase
  let isDest := match role with | .dest _ => true | _ => false
  let combine := match role with | .dest c => c | _ => false
  let lcl := endpointOf b.toNat = env.endpoint
  let region := (regionOf (localOf dlo.toNat)).1
  let inPlace (lo hi : Int) : Bool :=
    if v.handleForm then
      match env.handleSize v.handle with
      | some n => decide (0 ≤ b ∧ b < 2 ^ 40 ∧ 0 ≤ lo ∧ hi < n)
      | none => false
    else decide (0 ≤ b ∧ b < 2 ^ 64) && inRegion b lo hi &&
      decide ((regionOf (localOf lo.toNat)).1 = (regionOf (localOf dlo.toNat)).1)
  [(0x01, .badView, (fmtOf v.format).isSome && v.reserved == 0),
   (0x02, .badView, 1 ≤ v.rank && v.rank ≤ 6),
   (0x03, .badView, v.perm == 0 ||
      ((below 6).all (fun d => if d < v.rank then (ks.map v.permAt).contains d else v.permAt d == d)
        && (ks.all fun d => v.permAt d < v.rank))),
   (0x04, .badView, beyond.all fun k => v.ext k == 0 && v.str k == 0 && v.lo k == 0 && v.padHi.getD k 0 == 0),
   (0x05, .badView, ks.all fun k => 1 ≤ v.ext k),
   (0x06, .badView, if v.modDim = 7 then v.modLen == 0 && v.modStart == 0
      else v.modDim < v.rank && v.ext v.modDim ≤ v.modLen && 1 ≤ v.modLen && v.modStart < v.modLen),
   (0x07, .badView, v.padMode ≠ 3 && (isDest || v.padMode ≠ 2 ||
      ks.all fun k => decide (3 < k) || (v.lo k < v.ext k && v.padHi.getD k 0 < v.ext k))),
   (0x08, .badView, v.phase < v.fmt.period.1),
   (0x09, .badView, match v.fmt with
      | .fp32 | .int32 => b % 4 == 0
      | .bf16 | .fp16 | .int16 => b % 2 == 0
      | _ => true),
   (0x0A, .badView, if v.group = 0 then v.scaleFmt == 0 && !v.outlier
      else v.fmt.groupable && v.scaleFmt ≠ 3 && (!v.outlier || (v.group == 1 && v.fmt.escapable))),
   (0x0B, .badView, v.group == 0 || (v.phase == 0 && v.str 0 == 1 && (v.ext 0 : Int) % g == 0 &&
      (v.lo 0 : Int) % g == 0 && (v.padHi.getD 0 0 : Int) % g == 0 &&
      (ks.all fun k => k == 0 || v.str k % g == 0) &&
      (v.modDim ≠ 0 || ((v.modLen : Int) % g == 0 && (v.modStart : Int) % g == 0)) &&
      (b + v.scaleOff) % (v.form.recordSize : Nat) == 0)),
   (0x0C, .badView, !isDest || combine || ks.all fun k => v.ext k ≤ 1 || v.str k ≠ 0),
   (0x0D, .badView, v.count ≤ 2 ^ 48 - 1),
   (0x10, .outOfRange, !v.handleForm || (env.handleSize v.handle).isSome),
   (0x11, .outOfRange, inPlace dlo dhi && (v.group == 0 || inPlace slo shi)),
   (0x12, .outOfRange, v.handleForm ||
      (if lcl then env.reach region && decide (region ≠ .reserved) else !isDest || decide (region = .stack))),
   (0x13, .outOfRange, v.handleForm || isDest || decide lcl)]

/-- The first check of R93 that fails, from check number `start` on: its detail code and status. -/
def checkView (env : ViewEnv) (role : ViewRole) (start : Nat) (v : View) : Option Ending :=
  ((viewChecks env role v).find? fun c => decide (start ≤ c.1) && !c.2.2).map fun c =>
    ⟨c.2.1, 0x3000 + role.num * 256 + c.1⟩

end Sys2Proof.Machine
end

