-- ==== Sys2Proof/Machine/Descriptor.lean ====
section
/-! DEFINITION. Move descriptors and fragment entries (spec/04_move_descriptors.md R94 to R112) and their checks in the
table order of R111, with the layout checks of R129 and R148 that follow them. -/

namespace Sys2Proof.Machine

/-- The job kinds of R97. -/
inductive JobKind where
  | move | gather | scatter | fill
  deriving DecidableEq, Repr

/-- The ops of a chain (R99). -/
inductive Op where
  | decode | dequant | chscale | cast | quant | combine | encode
  deriving DecidableEq, Repr

/-- A move descriptor (R94, R96, R102), its fields as stored. -/
structure Tmd where
  opcode : Nat
  version : Nat
  cls : Nat
  headReserved : Nat
  signal : Bool
  chain : Nat
  channel : Nat
  plane : Nat
  deadline : Nat
  srcZero : Bool
  src : View
  dst : View
  padValue : Nat
  qspec : Nat
  chspec : Nat
  table : Nat
  hdrOff : Int
  indexRef : Nat
  seed : Nat
  signalParam : Nat
  paramReserved : Nat
  deriving DecidableEq, Repr

/-- The fields of a 256-byte descriptor given as a little-endian number (R94, R96, R102). -/
def parseTmd (x : Nat) : Tmd :=
  { opcode := bits x 0 8, version := bits x 8 8, cls := bits x 16 2,
    headReserved := bits x 18 6 + bits x 25 15 + bits x 85 3 + bits x 104 24,
    signal := bit x 24, chain := bits x 40 32, channel := bits x 72 12, plane := bits x 84 1,
    deadline := bits x 88 16, srcZero := bits x 128 768 == 0,
    src := parseView (bits x 128 768), dst := parseView (bits x 896 768),
    padValue := bits x 1664 32, qspec := bits x 1696 32, chspec := bits x 1728 32, table := bits x 1760 8,
    hdrOff := signed 48 (bits x 1792 48), indexRef := bits x 1856 64, seed := bits x 1920 64,
    signalParam := bits x 1984 32, paramReserved := bits x 1768 24 + bits x 1840 16 + bits x 2016 32 }

/-- The job kind of an opcode (R97). -/
def Tmd.kind? (t : Tmd) : Option JobKind :=
  match t.opcode with
  | 1 => some .move | 2 => some .gather | 3 => some .scatter | 4 => some .fill | _ => none

@[inherit_doc Tmd.kind?]
def Tmd.kind (t : Tmd) : JobKind := t.kind?.getD .move

/-- The eight op codes of the chain field (R96). -/
def Tmd.codes (t : Tmd) : List Nat := (below 8).map fun k => bits t.chain (4 * k) 4

/-- The codes before the first END (R100). -/
def Tmd.opCodes (t : Tmd) : List Nat := t.codes.takeWhile (· ≠ 0)

/-- The op of a code of R99. -/
def opOf : Nat → Option Op
  | 1 => some .decode | 2 => some .dequant | 3 => some .chscale | 4 => some .cast | 5 => some .quant
  | 6 => some .combine | 7 => some .encode | _ => none

/-- The chain's ops (R99, R100). -/
def Tmd.ops (t : Tmd) : List Op := t.opCodes.filterMap opOf

/-- Whether the chain holds an op. -/
def Tmd.has (t : Tmd) (o : Op) : Bool := t.ops.contains o

/-- QSPEC's fields (R103). -/
def qRound (q : Nat) : RoundMode := match bits q 0 2 with | 0 => .rne | 1 => .rtz | _ => .stochastic

@[inherit_doc qRound]
def qOvf (q : Nat) : Bool := bit q 2

@[inherit_doc qRound]
def qScaleSrc (q : Nat) : Nat := bits q 3 2

/-- CHSPEC's fields (R104). -/
def chBase (c : Nat) : Nat := bits c 0 12

@[inherit_doc chBase]
def chDim (c : Nat) : Nat := bits c 12 3

/-- Whether a job uses CHSPEC (R104). -/
def Tmd.usesChspec (t : Tmd) : Bool := t.has .chscale || (t.has .quant && qScaleSrc t.qspec == 1)

/-- Whether the destination is remote (R91): global form, at another endpoint. -/
def Tmd.remoteDst (endpoint : Nat) (t : Tmd) : Bool :=
  !t.dst.handleForm && endpointOf t.dst.byteBase.toNat ≠ endpoint

/-- What the checks of a descriptor need to know: R93's facts, the class of the ring that carries it (none for the
firmware), which channels of each plane are open, and which virtual semaphores translate in its context. -/
structure JobEnv where
  view : ViewEnv
  ringClass : Option Nat
  channelOpen : Nat → Nat → Bool
  semOk : Nat → Bool

/-- A check that fails with a detail and a status, or passes. -/
def failUnless (ok : Bool) (detail : Nat) (st : Status) : Option Ending := if ok then none else some ⟨st, detail⟩

/-- The first failure of a list of checks in order. -/
def firstFailure : List (Option Ending) → Option Ending
  | [] => none
  | some e :: _ => some e
  | none :: t => firstFailure t

/-- The place of a code in the order of R100; CAST and QUANT share one. -/
def opRank : Nat → Nat
  | 1 => 1 | 2 => 2 | 3 => 3 | 4 => 4 | 5 => 4 | 6 => 5 | _ => 6

/-- Whether the numbers rise strictly. -/
def rising : List Nat → Bool
  | a :: b :: t => a < b && rising (b :: t)
  | _ => true

/-- Whether PAD_VALUE keeps to the width of the format it refers to; passed over for a reserved FORMAT (R111). -/
def padOk (fmt : Nat) (pad : Nat) : Bool :=
  match fmtOf fmt with
  | none => true
  | some .tern => pad < 3
  | some f => pad < 2 ^ f.width

/-- The parameter checks of 0x200B (R102, R103, R111). -/
def Tmd.paramsOk (env : JobEnv) (t : Tmd) : Bool :=
  let q := t.qspec
  let conv := t.has .cast || t.has .quant
  t.paramReserved == 0 && bits q 0 2 ≠ 3 && qScaleSrc q < 2 && bits q 5 27 == 0 && bits t.chspec 15 17 == 0 &&
    bits t.table 3 5 == 0 && bits t.signalParam 26 6 == 0 &&
    (conv || q == 0) && (t.has .quant || qScaleSrc q == 0) && (t.usesChspec || t.chspec == 0) &&
    (t.has .encode || bits t.table 0 3 == 0) && (t.has .decode || t.hdrOff == 0) &&
    (t.kind = .gather || t.kind = .scatter || t.indexRef == 0) && (t.signal || t.signalParam == 0) &&
    padOk (if t.kind = .fill then t.dst.format else t.src.format) t.padValue &&
    (t.remoteDst env.view.endpoint || (t.channel == 0 && t.plane == 0))

/-- R111, rows 0x2001 and 0x2002: the pointer to a descriptor. -/
def checkPointer (addr : Nat) : Option Ending :=
  firstFailure [failUnless (addr % 64 == 0) 0x2001 .badDescriptor, failUnless (inMemory addr 256) 0x2002 .outOfRange]

/-- Whether the job's kind has an index view (R97). -/
def Tmd.indexed (t : Tmd) : Bool := t.kind = .gather || t.kind = .scatter

/-- R111, rows 0x2004 to 0x200E: the descriptor itself, its source and destination views, and the index reference. -/
def checkRecord (env : JobEnv) (t : Tmd) : Option Ending :=
  let cs := t.codes
  let ops := t.opCodes
  firstFailure [
    failUnless (t.version == 2) 0x2004 .badDescriptor,
    failUnless t.kind?.isSome 0x2005 .badDescriptor,
    failUnless (t.headReserved == 0) 0x2006 .badDescriptor,
    failUnless (match env.ringClass with | some c => c ≤ t.cls | none => true) 0x2007 .denied,
    failUnless (cs.all (· ≤ 7) && (cs.drop ops.length).all (· == 0)) 0x2008 .badDescriptor,
    failUnless (rising ((ops.filter (· ≠ 7)).map opRank)) 0x2009 .badDescriptor,
    failUnless ((t.kind ≠ .fill || ops.isEmpty) && !(t.indexed && t.has .decode) && !t.has .encode)
      0x200A .badDescriptor,
    failUnless (t.paramsOk env) 0x200B .badDescriptor,
    failUnless (t.kind ≠ .fill || t.srcZero) 0x200C .badDescriptor,
    if t.kind = .fill then none else checkView env.view .source 1 t.src,
    checkView env.view (.dest (t.has .combine)) 1 t.dst,
    failUnless (!t.indexed || t.indexRef % 32 == 0) 0x200D .badDescriptor,
    failUnless (!t.indexed || inMemory t.indexRef 96) 0x200E .outOfRange]

/-- A stream format (R101): FORMAT, GROUP, SCALE_FMT and OUTLIER together. -/
def View.streamFormat (v : View) : Nat × Nat × Nat × Bool := (v.format, v.group, v.scaleFmt, v.outlier)

/-- R101: the stream format after the conversion ops of a chain; none where an op's requirement fails. -/
def streamAfter (dst : View) : List Op → Nat × Nat × Nat × Bool → Option (Nat × Nat × Nat × Bool)
  | [], f => some f
  | .dequant :: os, f => if f.2.1 ≠ 0 then streamAfter dst os (1, 0, 0, false) else none
  | .chscale :: os, f => if f.2.1 = 0 then streamAfter dst os (1, 0, 0, false) else none
  | .cast :: os, f => if f.2.1 = 0 ∧ dst.group = 0 then streamAfter dst os (dst.format, 0, 0, false) else none
  | .quant :: os, f => if f.2.1 = 0 ∧ dst.group ≠ 0 then streamAfter dst os dst.streamFormat else none
  | _ :: os, f => streamAfter dst os f

/-- Whether the stream format rules of R101 hold. -/
def streamRules (ops : List Op) (src dst : View) : Bool :=
  streamAfter dst ops src.streamFormat == some dst.streamFormat &&
    (!ops.contains .combine || (dst.group == 0 && (dst.fmt = .fp32 || dst.fmt = .bf16 || dst.fmt = .int32)))

/-- Whether the element counts agree (R106). -/
def countsAgree (k : JobKind) (src dst : View) (index : Option View) : Bool :=
  let n := (index.map View.count).getD 0
  match k with
  | .move => src.count == dst.count
  | .gather => dst.count == n * src.sliceSize
  | .scatter => src.count == n * dst.sliceSize
  | .fill => true

/-- Bits of the elements of a dense dimension (R107). -/
def View.denseBits (v : View) : Nat :=
  match v.fmt with
  | .tern => v.ext 0 * 8 / 5
  | f => v.ext 0 * f.width

/-- R107: whether the source view describes whole 4096-byte blocks. -/
def blockLayout (v : View) : Bool :=
  v.rank == 1 && v.str 0 == 1 && v.phase == 0 && v.lo 0 == 0 && v.padHi.getD 0 0 == 0 &&
    v.modDim == 7 && v.byteBase % 4096 == 0 &&
    (if v.fmt = .tern then v.ext 0 % 20480 == 0 else v.denseBits % 32768 == 0)

/-- The coded blocks of a source (R107). -/
def View.blocks (v : View) : Nat := v.denseBits / 32768

/-- R107: whether the header array is aligned and lies in the source's region or allocation. -/
def headersOk (env : ViewEnv) (t : Tmd) : Bool :=
  let a := t.src.byteBase + t.hdrOff
  let last := a + 128 * (t.src.blocks : Nat) - 1
  a % 128 == 0 &&
    if t.src.handleForm then
      match env.handleSize t.src.handle with
      | some n => decide (0 ≤ a ∧ last < n)
      | none => false
    else inRegion t.src.byteBase a last &&
      decide (0 ≤ a ∧ (regionOf (localOf a.toNat)).1 = (regionOf (localOf t.src.byteBase.toNat)).1)

/-- R104: whether the scale-file entries used lie within the file. -/
def chspecOk (spec : Nat) (dst : View) : Bool :=
  let d := chDim spec
  let k := dst.permAt d
  d < dst.rank && chBase spec + dst.lo k + dst.ext k ≤ 4096

/-- R111, rows of the index view to 0x2018, for a descriptor whose index record is `index`. -/
def checkRest (env : JobEnv) (t : Tmd) (index : Option View) : Option Ending :=
  firstFailure [
    index.bind (checkView env.view .index 1),
    failUnless (match index with
      | some v => (v.fmt = .int32 || v.fmt = .int16 || v.fmt = .uint8) && v.group == 0
      | none => true) 0x2010 .badView,
    failUnless (t.kind = .fill || streamRules t.ops t.src t.dst) 0x2011 .badDescriptor,
    failUnless (countsAgree t.kind t.src t.dst index) 0x2012 .badDescriptor,
    failUnless (!t.has .decode || blockLayout t.src) 0x2013 .badView,
    failUnless (!t.has .decode || headersOk env.view t) 0x2014 .outOfRange,
    failUnless ((!t.has .combine || t.dst.handleForm || (regionOf (localOf t.dst.touched.1.1.toNat)).1 = .stack) &&
      (t.kind ≠ .fill || !t.remoteDst env.view.endpoint)) 0x2015 .outOfRange,
    failUnless (!t.usesChspec || chspecOk t.chspec t.dst) 0x2016 .outOfRange,
    failUnless (!t.remoteDst env.view.endpoint || env.channelOpen t.plane t.channel) 0x2017 .remoteError,
    failUnless (!t.signal || t.remoteDst env.view.endpoint || env.semOk (bits t.signalParam 0 10))
      0x2018 .outOfRange]

/-- R111, rows 0x2101 and 0x2102: where a fragment table lies and how long it is. -/
def checkTablePlace (addr count : Nat) : Option Ending :=
  firstFailure [
    failUnless (addr % 16 == 0 && 1 ≤ count && count ≤ 65535) 0x2101 .badDescriptor,
    failUnless (inMemory addr (16 * count)) 0x2102 .outOfRange]

/-- A fragment entry (R108). -/
structure Frag where
  srcDelta : Int
  dstDelta : Int
  outer : Nat
  skip : Bool
  reserved : Nat
  deriving DecidableEq, Repr

/-- The fields of a 16-byte fragment entry (R108). -/
def parseFrag (x : Nat) : Frag :=
  { srcDelta := signed 48 (bits x 0 48), dstDelta := signed 48 (bits x 48 48), outer := bits x 96 24,
    skip := bit x 120, reserved := bits x 121 7 }

/-- A view of a fragment (R109): its base shifted, and its outermost extent replaced where OUTER is not 0. -/
def View.fragment (v : View) (delta : Int) (outer : Nat) : View :=
  { v with delta := delta, extent := if outer = 0 then v.extent else v.extent.set (v.rank - 1) outer }

/-- The descriptor of one fragment (R109); a FILL keeps its zero source. -/
def Tmd.fragment (t : Tmd) (f : Frag) : Tmd :=
  { t with
    src := if t.kind = .fill then t.src else t.src.fragment f.srcDelta f.outer,
    dst := t.dst.fragment f.dstDelta f.outer }

/-- R110: the checks of one fragment. -/
def checkFragment (env : JobEnv) (t : Tmd) (index : Option View) (f : Frag) : Option Ending :=
  let u := t.fragment f
  match failUnless (f.reserved == 0 && (t.kind ≠ .fill || f.srcDelta == 0)) 0x2104 .badDescriptor with
  | some e => some e
  | none =>
    if f.skip then none
    else firstFailure [
      if t.kind = .fill then none else checkView env.view .source 5 u.src,
      checkView env.view (.dest (t.has .combine)) 5 u.dst,
      failUnless (countsAgree t.kind u.src u.dst index) 0x2105 .badDescriptor]

/-- R110: the lowest-numbered failing fragment with its failure. -/
def checkFragments (env : JobEnv) (t : Tmd) (index : Option View) : Nat → List Frag → Option (Nat × Ending)
  | _, [] => none
  | i, f :: fs =>
    match checkFragment env t index f with
    | some e => some (i, e)
    | none => checkFragments env t index (i + 1) fs

/-- Whether the job copies scale records with its groups (R101). -/
def Tmd.copiesRecords (t : Tmd) : Bool := t.kind ≠ .fill && t.src.group ≠ 0 && !t.has .dequant

/-- R129 and R148: the layout checks, made on the template after the last check of R111. -/
def checkLayout (t : Tmd) : Option Ending :=
  firstFailure [
    failUnless (t.dst.group == 0 || (t.dst.permAt 0 == 0 && (t.kind ≠ .scatter || 2 ≤ t.dst.rank))) 0x3A01 .badView,
    failUnless (!t.copiesRecords || (t.src.permAt 0 == 0 && (t.kind ≠ .gather || 2 ≤ t.src.rank))) 0x3A02 .badView,
    failUnless (!(t.has .quant && qScaleSrc t.qspec == 1) || chDim t.chspec ≠ 0) 0x3C01 .badDescriptor]

end Sys2Proof.Machine
end

