-- ==== Sys2Proof/Machine/Transform.lean ====
section
/-! DEFINITION. What a job makes of its elements (spec/05_layout_transforms.md R116 to R131, R418;
spec/06_casting_quantisation.md R133, R143, R150): the pairing of source and destination positions, the op chain, and
the writes of the holding register as atoms of one byte, one trit or one addition. -/

namespace Sys2Proof.Machine

/-- A read of bytes: each with whether its 32-bit word is poisoned (R413). Addresses are those of the view's form. -/
abbrev ByteRead := Int → Nat × Bool

/-- The `n` bytes from an address as a little-endian number, poisoned where any of them is. -/
def readBytes (rd : ByteRead) (a : Int) (n : Nat) : Nat × Bool :=
  ((below n).map fun (k : Nat) => rd (a + (k : Int))).foldr (fun (b : Nat × Bool) (acc : Nat × Bool) =>
    (b.1 + 256 * acc.1, b.2 || acc.2)) (0, false)

/-- The code of the element at a position (R76, R86). -/
def readElem (rd : ByteRead) (f : Fmt) (p : ElemPos) : Nat × Bool :=
  match f with
  | .tern =>
    let (b, x) := rd p.byte
    (ternDigit b p.sub, x)
  | f =>
    let (w, x) := readBytes rd p.byte ((p.sub + f.width + 7) / 8)
    (bits w p.sub f.width, x)

/-- One index of an index view (R123 to R125). -/
inductive Index where
  | at (x : Int)
  | miss
  | poisoned
  deriving DecidableEq, Repr

/-- The value of an index code: INT32 and INT16 signed, UINT8 unsigned (R123). -/
def indexValue (f : Fmt) (code : Nat) : Int :=
  match f with
  | .uint8 => code
  | f => signed f.width code

/-- The index at canonical position `t` of an index view (R123, R125). -/
def readIndex (v : View) (rd : ByteRead) (t : Nat) : Index :=
  match v.readAt (v.stored (v.logical t)) with
  | none => .miss
  | some i =>
    let (c, x) := readElem rd v.fmt (v.posOf v.byteBase (v.offset i))
    if x then .poisoned else .at (indexValue v.fmt c)

/-- What a job reads for one element: the stored indices of a view that is read, the pad value, or poison in place of
a slice that a poisoned index selects (R125). -/
inductive SrcRef where
  | data (i : List Int)
  | pad
  | lost
  deriving DecidableEq, Repr

/-- Where one element goes: cropped or discarded, or a data position with its logical indices (R84, R119, R124). -/
inductive DstRef where
  | crop
  | data (i : List Int) (j : List Int)
  deriving DecidableEq, Repr

/-- The source reference of a logical index vector. -/
def srcRef (v : View) (j : List Int) : SrcRef :=
  match v.readAt (v.stored j) with
  | some i => .data i
  | none => .pad

/-- The destination reference of a logical index vector. -/
def dstRef (v : View) (j : List Int) : DstRef :=
  let i := v.stored j
  if v.isPad i then .crop else .data i j

/-- Whether an index lies outside the indexed extent (R124). -/
def Index.isMiss (v : View) : Index → Bool
  | .at x => decide (x < 0 ∨ (v.slices : Int) ≤ x)
  | .miss => true
  | .poisoned => false

/-- R116, R117, R123 to R125: the pair of emission index `n`. -/
def pairAt (t : Tmd) (index : Nat → Index) (n : Nat) : SrcRef × DstRef :=
  match t.kind with
  | .move => (srcRef t.src (t.src.logical n), dstRef t.dst (t.dst.logical n))
  | .fill => (.pad, dstRef t.dst (t.dst.logical n))
  | .gather =>
    let s := max 1 t.src.sliceSize
    let d := dstRef t.dst (t.dst.logical n)
    match index (n / s) with
    | .poisoned => (.lost, d)
    | .miss => (.pad, d)
    | .at x =>
      if (Index.at x).isMiss t.src then (.pad, d)
      else (srcRef t.src (t.src.withSlowest (t.src.logical (n % s)) x), d)
  | .scatter =>
    let s := max 1 t.dst.sliceSize
    let r := srcRef t.src (t.src.logical n)
    match index (n / s) with
    | .poisoned => (r, .crop)
    | .miss => (r, .crop)
    | .at x =>
      if (Index.at x).isMiss t.dst then (r, .crop)
      else (r, dstRef t.dst (t.dst.withSlowest (t.dst.logical (n % s)) x))

/-- The emission indices of a job number the destination's positions, or the source's for SCATTER (R117). -/
def Tmd.emissions (t : Tmd) : Nat := if t.kind = .scatter then t.src.count else t.dst.count

/-- The bytes, from and to, that one source reference reads: the element, and its group's record (R80, R130). -/
def srcRanges (v : View) : SrcRef → List (Int × Nat)
  | .data i =>
    let e := v.offset i
    let p := v.posOf v.byteBase e
    let n := if v.fmt = .tern then 1 else (p.sub + v.fmt.width + 7) / 8
    (p.byte, n) :: if v.group = 0 then [] else [(v.recordPos v.byteBase e, v.form.recordSize)]
  | _ => []

/-- One element as read: its code, its group's record and place in the group, which of the two is poisoned, and which
bytes of the record lie in poisoned words. -/
structure Taken where
  code : Nat
  record : Nat
  pos : Nat
  pois : Bool
  recPois : Bool
  recMask : Nat
  deriving DecidableEq, Repr

/-- The bytes, from an address, that lie in poisoned words, as a mask. -/
def poisonedBytes (rd : ByteRead) (a : Int) (n : Nat) : Nat :=
  (below n).foldl (fun m (k : Nat) => if (rd (a + (k : Int))).2 then m + 2 ^ k else m) 0

/-- R120, R121, R124, R125: the element a source reference gives. -/
def takeElem (v : View) (rd : ByteRead) (pad : Nat) (r : SrcRef) (n : Nat) : Taken :=
  match r with
  | .data i =>
    let e := v.offset i
    let (c, x) := readElem rd v.fmt (v.posOf v.byteBase e)
    if v.group = 0 then ⟨c, 0, 0, x, false, 0⟩
    else
      let a := v.recordPos v.byteBase e
      let (rec, y) := readBytes rd a v.form.recordSize
      ⟨c, rec, (e % (v.groupSize : Int)).toNat, x, y, poisonedBytes rd a v.form.recordSize⟩
  | .pad => ⟨pad, oneScale v.scaleFmt, n % max 1 v.groupSize, false, false, 0⟩
  | .lost => ⟨pad, oneScale v.scaleFmt, n % max 1 v.groupSize, true, true, 2 ^ v.form.recordSize - 1⟩

/-- A stream element within the op chain: its ungrouped format and code, poison, and what R150 counts of it. -/
structure Elem where
  fmt : Fmt
  code : Nat
  pois : Bool
  nan : Bool
  sat : Bool
  deriving DecidableEq, Repr

/-- What one conversion needs beside the element: the source's grouped form, the destination format, QSPEC, the
scale-file entry of the element's channel, and its draw. -/
structure ConvCtx where
  src : GroupForm
  dst : Fmt
  qspec : Nat
  entry : Nat
  draw : Nat

/-- R133: one op of the chain on one element; QUANT, COMBINE and the coding ops act elsewhere. -/
def convOp (c : ConvCtx) (k : Taken) (e : Elem) : Op → Elem
  | .dequant =>
    let code := dequant c.src k.record k.code k.pos
    { fmt := .fp32, code, pois := e.pois || k.recPois, nan := e.nan || (decodeElem .fp32 code).isNan, sat := e.sat }
  | .chscale => { e with fmt := .fp32, code := chscale (decodeElem e.fmt e.code) c.entry }
  | .cast =>
    let v := decodeElem e.fmt e.code
    let (code, sat) := convert v c.dst (qRound c.qspec) (qOvf c.qspec) c.draw
    { e with fmt := c.dst, code, nan := e.nan || v.isNan, sat := e.sat || sat }
  | _ => e

/-- R133: the per-element ops of a chain on one element. -/
def convElem (ops : List Op) (c : ConvCtx) (k : Taken) : Elem :=
  ops.foldl (convOp c k) ⟨c.src.fmt, k.code, k.pois, false, false⟩

/-- What the holding register issues, byte by byte (R131, R418, R127): bits under a mask, one trit, or one addition
of an element. Addresses are those of the destination's form. -/
inductive Atom where
  | bits (addr : Int) (mask val : Nat) (pois : Bool)
  | trit (addr : Int) (k digit : Nat) (pois : Bool)
  | add (addr : Int) (fmt : Fmt) (code : Nat) (pois : Bool)
  deriving DecidableEq, Repr

/-- The atoms that put the low `n` bits of `code` at a bit position of a byte (R130, R131); `fuel` counts bytes. -/
def bitAtoms (pois : Bool) : Nat → Int → Nat → Nat → Nat → List Atom
  | 0, _, _, _, _ => []
  | fuel + 1, a, sub, n, code =>
    let here := min n (8 - sub)
    if n = 0 then []
    else .bits a (((2 ^ here - 1) * 2 ^ sub) % 256) (code % 2 ^ here * 2 ^ sub) pois ::
      bitAtoms pois fuel (a + 1) 0 (n - here) (code / 2 ^ here)

/-- The atoms of one destination element (R130, R418). -/
def elemAtoms (f : Fmt) (p : ElemPos) (code : Nat) (pois : Bool) : List Atom :=
  match f with
  | .tern => [.trit p.byte p.sub code pois]
  | f => bitAtoms pois 5 p.byte p.sub f.width code

/-- The atoms that write `n` whole bytes, those of a mask poisoned. -/
def byteAtoms (a : Int) (n code pois : Nat) : List Atom :=
  (below n).map fun (k : Nat) => .bits (a + (k : Int)) 255 (Sys2Proof.Machine.bits code (8 * k) 8) (bit pois k)

/-- What a job or a part of it did: the writes of its elements in emission order, those of its groups' scale records in
their order, the counts of R149 and R150, and whether it wrote or met poison (R125, R413). -/
structure Work where
  atoms : List Atom
  records : List Atom
  sats : Nat
  nans : Nat
  outliers : Nat
  misses : Nat
  poisoned : Bool
  deriving DecidableEq, Repr

/-- No work. -/
def noWork : Work := ⟨[], [], 0, 0, 0, 0, false⟩

/-- Two parts of a job's work, in order. -/
def Work.append (a b : Work) : Work :=
  ⟨a.atoms ++ b.atoms, a.records ++ b.records, a.sats + b.sats, a.nans + b.nans, a.outliers + b.outliers, a.misses + b.misses,
    a.poisoned || b.poisoned⟩

/-- What conversion needs of the surroundings of a job: its reads, the scale file of its station, the stream tag of
R136, and the indices. -/
structure JobReads where
  src : ByteRead
  scale : Nat → Nat
  tag : Nat
  index : Nat → Index

/-- The context of the element with emission index `n` and destination logical indices `j` (R104, R136). A CH_DIM at or
above the rank of a static stream's view, which no check refuses, counts as index 0 (log entry 130). -/
def Tmd.convCtx (t : Tmd) (r : JobReads) (n : Nat) (j : List Int) : ConvCtx :=
  { src := t.src.form, dst := t.dst.fmt, qspec := t.qspec,
    entry := if t.usesChspec then r.scale (chBase t.chspec + (j.getD (chDim t.chspec) 0).toNat) else 0,
    draw := if qRound t.qspec = .stochastic then srDraw t.seed r.tag n else 0 }

/-- R130: the work of one element of an ungrouped destination. -/
def elemWork (t : Tmd) (r : JobReads) (n : Nat) : Work :=
  match pairAt t r.index n with
  | (_, .crop) => noWork
  | (s, .data i j) =>
    let p := t.dst.posOf t.dst.byteBase (t.dst.offset i)
    let k := takeElem t.src r.src t.padValue s n
    let e := if t.kind = .fill then ⟨t.dst.fmt, t.padValue, false, false, false⟩
      else convElem t.ops (t.convCtx r n j) k
    { atoms := if t.has .combine then [.add p.byte t.dst.fmt e.code e.pois]
        else elemAtoms t.dst.fmt p e.code e.pois,
      records := [],
      sats := if e.sat then 1 else 0, nans := if e.nan then 1 else 0, outliers := 0, misses := 0, poisoned := e.pois }

/-- R128, R142 to R145: the work of the destination group whose first element has emission index `n`. The record goes its
own way beside the holding register (log entry 129). -/
def groupWork (t : Tmd) (r : JobReads) (n : Nat) : Work :=
  let g := t.dst.groupSize
  match pairAt t r.index n with
  | (_, .crop) => noWork
  | (_, .data i0 j0) =>
    let e0 := t.dst.offset i0
    let taken := (below g).map fun m => takeElem t.src r.src t.padValue (pairAt t r.index (n + m)).1 (n + m)
    let put (codes : List (Nat × Bool)) : List Atom :=
      ((below g).zip codes).flatMap fun x =>
        elemAtoms t.dst.fmt (t.dst.posOf t.dst.byteBase (e0 + (x.1 : Int))) x.2.1 x.2.2
    let size := t.dst.form.recordSize
    let record (code pois : Nat) := byteAtoms (t.dst.recordPos t.dst.byteBase e0) size code pois
    if t.kind = .fill then
      { noWork with
        atoms := put ((below g).map fun _ => (t.padValue, false)), records := record (oneScale t.dst.scaleFmt) 0 }
    else if t.has .quant then
      let es := ((below g).zip taken).map fun x => convElem t.ops (t.convCtx r (n + x.1) (j0.set 0 (j0.getD 0 0 + x.1))) x.2
      let p := es.any (·.pois)
      let ctx := t.convCtx r n j0
      let draws := (below g).map fun m => if qRound t.qspec = .stochastic then srDraw t.seed r.tag (n + m) else 0
      let q := quantGroup t.dst.form (qRound t.qspec) (qOvf t.qspec)
        (if qScaleSrc t.qspec = 1 then some ctx.entry else none) (es.map fun e => decodeElem e.fmt e.code) draws
      { atoms := put (q.codes.map fun c => (c, p)), records := record q.record (if p then 2 ^ size - 1 else 0),
        sats := q.sats, nans := q.nans, outliers := q.outliers, misses := 0, poisoned := p }
    else
      let first := taken.headD ⟨0, 0, 0, false, false, 0⟩
      { noWork with
        atoms := put (taken.map fun k => (k.code, k.pois)), records := record first.record first.recMask,
        poisoned := taken.any (·.pois) || first.recPois }

/-- How many indices of a job are out of range, and whether a SCATTER met a poisoned one (R124, R125). -/
def indexWork (t : Tmd) (r : JobReads) (count : Nat) : Work :=
  let v := if t.kind = .gather then t.src else t.dst
  let xs := (below count).map r.index
  { noWork with misses := (xs.filter (Index.isMiss v)).length, poisoned := xs.contains .poisoned }

/-- R116 to R131: the work of one descriptor, or of one fragment of it: every element in emission order. -/
def jobWork (t : Tmd) (r : JobReads) (indices : Nat) : Work :=
  let steps := if t.dst.group = 0 then (below t.emissions).map (elemWork t r)
    else (below (t.emissions / max 1 t.dst.groupSize)).map fun q => groupWork t r (q * t.dst.groupSize)
  (steps.foldr Work.append noWork).append (if t.indexed then indexWork t r indices else noWork)

/-- The bytes, from and to, that a job reads of its source: those of elements that are not cropped (R119). -/
def jobReads (t : Tmd) (index : Nat → Index) : List (Int × Nat) :=
  if t.kind = .fill then []
  else (below t.emissions).flatMap fun n =>
    match pairAt t index n with
    | (_, .crop) => []
    | (s, _) => srcRanges t.src s

/-- The bytes that an index view reads (R106). -/
def indexReads (v : View) : List (Int × Nat) :=
  (below v.count).flatMap fun t =>
    match v.readAt (v.stored (v.logical t)) with
    | some i => srcRanges v (.data i)
    | none => []

/-- The address of an atom. -/
def Atom.addr : Atom → Int
  | .bits a _ _ _ => a
  | .trit a _ _ _ => a
  | .add a _ _ _ => a

end Sys2Proof.Machine
end

