-- ==== Sys2Proof/Machine/Parts.lean ====
section
/-! DEFINITION. The state of the parts that act on their own, as plain data: a station's dock, streams, queues and
expander (spec/08_docks.md, spec/07_weight_compression.md), a stack agent with its Dealer (spec/10_stack_agents.md),
the handle table (spec/14_placement_resharding.md), and the spine arbiter (spec/11_crossings.md). -/

namespace Sys2Proof.Machine

/-- One 32-byte sector of a station: which share part and walker position it is, its local sector address, its bytes as
a number and its poisoned words (R42) while it is on its way, and its place in the queue's landing order once its bytes
lie in the Pool (R193, R194). -/
structure Landed where
  part : Nat
  seq : Nat
  addr : Nat
  data : Nat
  pois : Nat
  pos : Nat
  deriving DecidableEq, Repr

/-- A sector on its way from a stack to a station (R218): the agent it left, its lane at the crossing (R263), its slot,
when it is written. -/
structure InFlight where
  agent : Nat
  lane : Nat
  slot : Nat
  land : Nat
  sector : Landed
  deriving DecidableEq, Repr

/-- What R174 and R169 found of a block's header. -/
inductive BlockCheck where
  | coded (slot : Nat)
  | stored
  | mismatch
  | poisoned
  deriving DecidableEq, Repr

/-- A block that has left the expander: its bytes, which of its words are poisoned, which of them rest on bytes that had
not landed (R195), and whether it is delivered with poison under R169. -/
structure Decoded where
  block : Nat
  bytes : List Nat
  pois : List Bool
  miss : List Bool
  hurt : Bool
  deriving DecidableEq, Repr

/-- One tally sum in the tally queue (R155, R156); `overrun` marks a beat that carries both poison bits. -/
structure TallySum where
  value : Int
  pois : Bool
  overrun : Bool
  deriving DecidableEq, Repr

/-- The sums of one tile in the tally queue (R155): the first ARCLK at which they may leave, and the slot of their
stream. -/
structure TallyTile where
  at_ : Nat
  slot : Nat
  sums : List TallySum
  deriving DecidableEq, Repr

/-- A stream that is armed or draining (R190, R192, R199, R203): when it was armed, started and cancelled, the profile
and tally entries copied at its start, how far its walker and its delivery have come, and what it holds. -/
structure Stream where
  armedAt : Nat
  expired : Bool := false
  started : Option Nat := none
  profile : Nat := 0
  rows : Nat := 1
  cols : Nat := 1
  sel : Nat := 0
  poisoned : Bool := false
  failed : Bool := false
  done : Bool := false
  cancelAt : Option Nat := none
  /-- The walker: by part (and pair, for handle forms), the item and the sector within it that comes next. -/
  cursor : List (Nat × (Nat × Nat)) := []
  /-- LEN of each block listed (R214). -/
  lens : List (Nat × Nat) := []
  landed : List Landed := []
  landCount : Nat := 0
  beat : Nat := 0
  checks : List (Nat × BlockCheck) := []
  nextBlock : Nat := 0
  decoded : List Decoded := []
  /-- A result stream's bytes as they came on RES. -/
  taken : List Nat := []
  /-- A result stream's write staging in its queue (R194): of each byte, keyed by part, position and byte, the bits (of a
  TERN byte, the trits) staged and the ARCLK by which they are written (R198); of each sector, its place in the queue's
  order; how many places were given, how many sectors have left the Pool, and how many of those their cards have
  carried. -/
  staged : List (Nat × (Nat × Nat)) := []
  places : List (Nat × Nat) := []
  placed : Nat := 0
  drained : Nat := 0
  carried : Nat := 0
  /-- The rows and columns of the current tile. -/
  tile : List TallySum := []
  deriving DecidableEq, Repr

/-- Where a unit group stands (R207). -/
inductive Gate where
  | closed
  | opening (at_ : Nat)
  | opened
  | closing
  deriving DecidableEq, Repr

/-- A hold (R202): the slot to arm, its gate, when the ARM was accepted, when a post first met the gate, and the moment
with which it is released. -/
structure Hold where
  slot : Nat
  ctr : Nat
  count : Nat
  align : Nat
  since : Nat
  first : Option Nat := none
  met : Option Nat := none
  deriving DecidableEq, Repr

/-- A post on its way to a link counter (R201). -/
structure Post where
  ctr : Nat
  amount : Nat
  due : Nat
  deriving DecidableEq, Repr

/-- A dock and its station. -/
structure Dock where
  committed : List (Nat × Nat) := []
  streams : List (Nat × Stream) := []
  lastCmd : Option Nat := none
  hold : Option Hold := none
  /-- The length in SPCLK of the last hold on each gate counter, and whether the allocation is lent (R333). -/
  holdLens : List (Nat × Nat) := []
  lent : Bool := false
  contained : Bool := false
  operandGate : Gate := .closed
  resultGate : Gate := .closed
  posts : List Post := []
  tally : List TallyTile := []
  /-- The ARCLK from which OPT is free (R155). -/
  tallyFree : Nat := 0
  arriving : List InFlight := []
  /-- Dynamic jobs waiting for the expander, and when blocks entered it (R172). -/
  decodeWaits : List Nat := []
  admits : List Nat := []
  /-- The window in which a wait for the expander was last counted (R172). -/
  waitWindow : Option Nat := none
  deriving DecidableEq, Repr

/-- Whose access a request is (R247): a job's, an arriving message's, that of a receive queue's indices (R323), that of
the dispatcher for a ring in stack memory, or the scrubber's. -/
inductive Owner where
  | job (id : Nat)
  | message (link : Nat) (id : Nat)
  | queue (link : Nat) (q : Nat)
  | ring (r : Nat)
  | scrub
  | repair
  deriving DecidableEq, Repr

/-- The kinds of request (R247, R257, R259): a read, a write of whole sectors, the read phase and the write phase of a
merge, and a repair. -/
inductive ReqKind where
  | read
  | write
  | mergeRead
  | mergeWrite
  | repair
  deriving DecidableEq, Repr

/-- One sector of a request: its stack offset, and what is written to it, byte by byte. -/
structure Sect where
  off : Nat
  atoms : List Atom := []
  deriving DecidableEq, Repr

/-- A request (R247). -/
structure Req where
  id : Nat
  owner : Owner
  kind : ReqKind
  lane : Nat
  cls : Nat
  lst : Nat
  group : Nat
  sects : List Sect
  weevil : Bool := false
  drain : Bool := false
  trumped : Bool := false
  /-- The requester's number (R273), and its field. -/
  sender : Nat := 0
  field : Nat := 0
  /-- The requester's number at the spine arbiter where its path crosses a stitch line (R273). -/
  spine : Option Nat := none
  /-- The bytes of an element of a sector transpose read; 0 for any other request (R255). -/
  turn : Nat := 0
  /-- Whether it is a fill request, of which only the pattern crosses (R258). -/
  fill : Bool := false
  /-- The sectors of a transposed read that have been read (R255): their offset, bytes and poisoned words, and the words
  that crossed in the poison code with their data bits as received. -/
  gathered : List (Nat × Nat × Nat × Nat × Nat) := []
  /-- When it left its requester, in SPCLK. -/
  since : Nat := 0
  tag : Nat := 0
  epoch : Nat := 0
  arrival : Nat := 0
  /-- The counters in which a wait of it has been counted (R247, R253, R257). -/
  waited : List Nat := []
  deriving DecidableEq, Repr

/-- A burst read and not yet handed on (R236, R237): its request with tag and epoch, its read point and its hand-over in
SPCLK, its lane at the crossing (R263), and its bytes once a later write to the sector has been accepted. -/
structure Burst where
  owner : Option Owner
  req : Nat
  sender : Nat := 0
  tag : Nat := 0
  epoch : Nat := 0
  lane : Nat
  hand : Nat
  station : Option (Nat × Nat × Landed)
  off : Nat
  readAt : Nat
  merge : List Atom := []
  captured : Option (Nat × Nat) := none
  /-- Whether the routing of its card was lost at the crossing (R265). -/
  lostRoute : Bool := false
  /-- The words that arrived in the poison code, and their data bits as received (R264). -/
  hurt : Nat := 0
  received : Nat := 0
  deriving DecidableEq, Repr

/-- One sector of a static card's list (R194, R213): its share's station, slot and part, its walker position, its stack
offset, its place in the card, the share's stream, whether it is dropped (R240, R266), and for a write card what has
left the Pool for it, at byte addresses 0 to 31 (R218); none where its stream had been cancelled. -/
structure ListedSector where
  station : Nat
  slot : Nat
  part : Nat
  seq : Nat
  off : Nat
  j : Nat
  stream : Nat
  dropped : Bool := false
  drawn : Option (List Atom) := none
  deriving DecidableEq, Repr

/-- The list of one static card: sent, or arrived and ruled. -/
structure CardList where
  abs : Nat
  group : Nat
  write : Bool
  sectors : List ListedSector
  deriving DecidableEq, Repr

/-- A grant: the card, and the requests on it with the sectors each has there; or the bank of a catch-up refresh;
`trump` says that the refresh is a Trump that will cut the transfer (R245). -/
structure Grant where
  abs : Nat
  group : Nat
  parts : List Req
  refresh : Option Nat := none
  trump : Bool := false
  deriving DecidableEq, Repr

/-- One activation (R239): its slot, pseudo-channel, bank and row, and whether a static card made it. -/
structure Activation where
  abs : Nat
  group : Nat
  pc : Nat
  bank : Nat
  row : Nat
  fixed : Bool
  deriving DecidableEq, Repr

/-- A catch-up request (R244): its bank and the slot of the refresh card that raised it. -/
structure Catchup where
  group : Nat
  bank : Nat
  slot : Nat
  deriving DecidableEq, Repr

/-- A stack agent. `pending` holds the requests with sectors not granted yet, `granted` those with sectors on their way:
of a merge, the sectors read and not yet written (R257). -/
structure Agent where
  /-- The level of XDn.INIT_START (R233, R235), and when it rose. -/
  initStart : Bool := false
  initAt : Option Nat := none
  initDone : Bool := false
  inbox : List Req := []
  pending : List Req := []
  granted : List Req := []
  epochs : List (Nat × Nat) := []
  arrivals : Nat := 0
  owed : List (Nat × Int) := []
  owedAt : Nat := 0
  catchups : List Catchup := []
  lists : List CardList := []
  kept : List CardList := []
  grants : List Grant := []
  acts : List Activation := []
  /-- The sectors locked (R257): the sector, the request that holds it, and the SPCLK at which its write issues, once that
  is known. -/
  locks : List (Nat × Nat × Option Nat) := []
  bursts : List Burst := []
  poison : List (Nat × Nat) := []
  /-- Requester grants on plain dynamic cards, by group (R250). -/
  plain : List (Nat × Nat) := []
  scrubFrame : Nat := 0
  scrubbed : Nat := 0
  /-- Requests hinted, with their predicted cards (R252). -/
  hinted : List (Nat × Nat) := []
  allowance : Nat := 0
  windowCards : Nat := 0
  deriving DecidableEq, Repr

/-- Where a handle slot stands (R335, R338, R339). -/
inductive SlotState where
  | free | live | freeing | retired
  deriving DecidableEq, Repr

/-- One slot of the handle table (R335, R336, R338). -/
structure HandleSlot where
  gen : Nat := 0
  state : SlotState := .free
  policy : Nat := 0
  field : Nat := 0
  phase : Nat := 0
  granules : Nat := 0
  baseRow : Nat := 0
  rows : Nat := 0
  pins : Nat := 0
  deriving DecidableEq, Repr

/-- The handle table and the heap: the slots, the order in which freed ones are reused after the fresh ones, the
allocation counts of R341, and the operations that wait, oldest first: bank, request, and the slot that a FREE has
made freeing. -/
structure Heap where
  slots : List (Nat × HandleSlot) := []
  fresh : Nat := 0
  freed : List Nat := []
  fieldCount : List (Nat × Nat) := []
  chipCount : Nat := 0
  ops : List (Nat × Nat × Bool) := []
  deriving DecidableEq, Repr

/-- The spine arbiter (R273): per direction the requester served last; the path eighths allocated and not yet used: the
requester, the slot of its first segment, and its segments; and those used, whose slots stay taken: direction, first
slot, segments. -/
structure Spine where
  last : List (Nat × Nat) := []
  held : List (Nat × Nat × List Nat) := []
  used : List (Nat × Nat × List Nat) := []
  deriving DecidableEq, Repr

/-- The Deck beside its entries: the frame for which a swap is decided and which has not begun, with the pattern and
counts decided (R225), whether SWAP_FRAME named a frame that had already begun (R226), the cards that an uncorrectable
Hand entry made dynamic: agent, slot and group; and the spine slots so: segment, slot and direction (R229). -/
structure Deck where
  decided : Option Nat := none
  pattern : Nat := 0
  counts : Nat := 0
  late : Bool := false
  loosened : List (Nat × Nat × Nat) := []
  looseSpine : List (Nat × Nat × Nat) := []
  deriving DecidableEq, Repr

end Sys2Proof.Machine
end

