-- ==== Sys2Proof/Machine/Work.lean ====
section
/-! DEFINITION. The state of host rings, of dynamic jobs and of the reads HST has made for them, as plain data
(spec/12_dynamic_channels.md R277 to R304; spec/04_move_descriptors.md; spec/07_weight_compression.md R177 to R180;
spec/14_placement_resharding.md R346 to R350). -/

namespace Sys2Proof.Machine

/-- An entry read by a scan and not yet taken: its 64 bytes, and whether a word of it is poisoned. -/
structure RawEntry where
  bytes : List Byte
  pois : Bool
  deriving DecidableEq, Repr

/-- Where a taken entry stands: not looked at yet, being checked (its job exists), started, or complete. -/
inductive EntryStage where
  | taken
  | checking
  | started
  | complete
  deriving DecidableEq, Repr

/-- A taken entry of a ring (R289): its index, how many entries it consumes, its epoch (R300), its bytes, whether its
first entry and its following entries hold a poisoned word, the reference doorbell of its measurement (R301). -/
structure RingEntry where
  index : Nat
  count : Nat
  epoch : Nat
  bytes : List Byte
  pois : Bool
  followPois : Bool
  stage : EntryStage := .taken
  door : Option Nat := none
  /-- Whether R304 measures it, and when it had its first data. -/
  timed : Bool := false
  first : Option Nat := none
  /-- Its local address, where it is marked (R286), and the compartment that owns its job (R358). -/
  addr : Nat := 0
  owner : Nat := 0
  deriving DecidableEq, Repr

/-- What a ring holds beside its entries of the dictionary (R288, R289, R297, R301). `paused` is a scan that the limit,
a FENCE or a WAIT_GE has ended; `retry` the moment at which an entry read is repeated (R287). -/
structure Ring where
  scanning : Bool := false
  /-- The read of entries that is under way, and its sectors from stack memory. -/
  reading : Option Nat := none
  sectors : List (Nat × Nat × Nat) := []
  again : Bool := false
  paused : Bool := false
  retry : Option Nat := none
  got : List RawEntry := []
  entries : List RingEntry := []
  headDue : Bool := false
  /-- The earliest doorbell accepted since the last entry read as not posted, in SPCLK, and the earliest one since the
entries now held began to be read (R301). -/
  door : Option Nat := none
  fresh : Option Nat := none
  /-- Reference doorbell and first data of the measured entries that the next head write covers (R304). -/
  measure : List (Option Nat × Option Nat) := []
  deriving DecidableEq, Repr

/-- The stages of a job: fetching its descriptor or record, its index record, its fragment table or peer table;
passed and waiting for a station; reading; in the expander; writing; waiting (for a semaphore or for its moves);
and ended, waiting for its completion. -/
inductive JobStage where
  | descriptor
  | indexRecord
  | table
  | ready
  | reading
  | decoding
  | writing
  | waiting
  | ended
  deriving DecidableEq, Repr

/-- A dynamic job (R289 to R300). `op` is the ring opcode, or 0x100 for a move that the firmware issues. -/
structure Job where
  id : Nat
  op : Nat
  ring : Option Nat := none
  epoch : Nat := 0
  index : Nat := 0
  context : Nat := 0
  cls : Nat := 0
  stage : JobStage := .descriptor
  addr : Nat := 0
  tableAddr : Nat := 0
  tableCount : Nat := 0
  desc : Nat := 0
  indexRec : Option Nat := none
  frags : List Nat := []
  frag : Nat := 0
  /-- The bytes it holds, by local address, each with its poison. -/
  buf : List (Nat × (Nat × Bool)) := []
  /-- The host reads and requests it waits for, and the messages it sent. -/
  waits : List Nat := []
  sends : List Nat := []
  /-- The last data message formed, kept back until it is known whether another follows or joins it (R316): type, ADDR,
  payload, and which of its bytes are poisoned. -/
  heldMsg : Option (Nat × Nat × List Byte × List Bool) := none
  /-- What the holding register has inserted in its write half and not issued (R113, R130). -/
  carry : List Atom := []
  station : Option Nat := none
  passedAt : Nat := 0
  lst : Nat := 0
  door : Option Nat := none
  firstData : Option Nat := none
  pins : List Nat := []
  /-- Blocks: the next one, those decoded, and the lowest failing one with its detail (R175). -/
  block : Nat := 0
  step : Nat := 0
  decoded : List Decoded := []
  refs : List (Nat × BlockCheck) := []
  mismatch : Option Nat := none
  census : List Nat := []
  pois : Bool := false
  aborted : Bool := false
  signalled : Bool := false
  ending : Option Ending := none
  /-- The FRAG_INDEX of a failed FRAGMENTS job (R110). -/
  fragFail : Nat := 0
  /-- A re-shard: destinations still to send to, moves in flight by job and destination, and the failure of the
  lowest destination (R348, R350); a move of a re-shard names its parent and destination. -/
  todo : List Nat := []
  moves : List (Nat × Nat) := []
  moveFail : Option (Nat × Ending) := none
  parent : Option (Nat × Nat) := none
  /-- The end of a re-shard's wait (R350). -/
  waitEnd : Option Ending := none
  /-- Remote sending (R318): the lowest-numbered message that failed, and whether a RESPONSE carried PARTIAL. -/
  msgFail : Option (Nat × Ending) := none
  cut : Bool := false
  /-- Some write into the host window was suppressed (R374). -/
  suppressed : Bool := false
  /-- A read was answered, or a write discarded, by the isolation wrapper of a part in reset (R385). -/
  isoRead : Bool := false
  isoWrite : Bool := false
  deriving DecidableEq, Repr

/-- What a host read is for. -/
inductive ReadUse where
  | job (id : Nat)
  | message (link id : Nat)
  | ring (r : Nat)
  deriving DecidableEq, Repr

/-- A read that HST makes or has made (R296): `data` reads count against the 64 KiB that may be outstanding. -/
structure HostRead where
  id : Nat
  use : ReadUse
  cls : Nat
  data : Bool
  addr : Nat
  len : Nat
  issued : Bool := false
  deriving DecidableEq, Repr

end Sys2Proof.Machine
end

