-- ==== Sys2Proof/Machine/LinkParts.lean ====
section
/-! DEFINITION. The state of the link agents, the semaphore memory, the firmware's supervision and the power port, as
plain data (spec/13_remote_sync.md, spec/15_oprun_firmware.md, spec/16_reset_clocks_power.md). -/

namespace Sys2Proof.Machine

/-- Where the outcome of a sent message goes: a remote job, a barrier record's remote action, or a multicast message
that this package passes on, by link agent, channel and identifier (R318, R326, R332). -/
inductive MsgSource where
  | job (id : Nat)
  | barrier (plane action : Nat)
  | relay (link chan id : Nat)
  deriving DecidableEq, Repr

/-- A data or SEM_ADD message of a sender (R310, R316, R317): formed and waiting for credit, or in the replay store
with its bytes as sent, the poison of its payload words, how often and when it was last sent. -/
structure OutMsg where
  id : Nat
  source : MsgSource
  channel : Nat
  cls : Nat
  type : Nat
  body : Nat
  last : Bool
  group : Option Nat
  payload : List Byte
  pois : Nat
  since : Nat
  waited : Bool := false
  /-- The station whose data it carries and the stitch lines to its link agent, where it crosses any (R273). -/
  path : Option (Nat × List Nat) := none
  seq : Nat := 0
  bytes : List Byte := []
  sends : Nat := 0
  sentAt : Option Nat := none
  deriving DecidableEq, Repr

/-- 32 bytes on their way out in flits (R308): their class, whether a header begins there, poison, and the message
that ends there. -/
structure Chunk where
  cls : Nat
  som : Bool
  pois : Nat
  bytes : List Byte
  ends : Option Nat := none
  deriving DecidableEq, Repr

/-- A message put together from flits: its bytes with padding, the mask of its poisoned words, and whether it was cut
short. -/
structure RxMsg where
  bytes : List Byte
  pois : Nat
  short : Bool
  deriving DecidableEq, Repr

/-- A message at its receiver (R319 to R326): held in its slot, or applied; the requests that write it, the write of
its queue's index that follows, the copies it has been passed on as, and how its subtree ended. -/
structure InMsg where
  id : Nat
  seq : Nat
  bytes : List Byte
  pois : Nat
  waits : List Nat := []
  index : Option (Nat × Nat) := none
  durable : Bool := false
  copies : List Nat := []
  failure : Option (Nat × Ending) := none
  cut : Bool := false
  semHeld : Bool := false
  inQueue : Bool := false
  deriving DecidableEq, Repr

/-- A channel beside its entry of CHANNEL_TABLE (R312 to R321, R327). `answer` holds responses in their order that
wait for earlier ones of a multicast message. -/
structure Chan where
  closedAt : Option Nat := none
  granted : Bool := false
  grantAt : Nat := 0
  held : List InMsg := []
  applied : List InMsg := []
  freed : Nat := 0
  durable : Nat := 0
  jobFailed : Bool := false
  ackTaken : Nat := 0
  cutGroups : List Nat := []
  /-- The frames last counted in STALL_FRAMES and in QUEUE_HOLDS for this channel (R315, R323). -/
  stallFrame : Option Nat := none
  holdFrame : Option Nat := none
  deriving DecidableEq, Repr

/-- A receive queue (R322 to R324): its write index, the last read index taken, whether its first one is still to come,
the read of RD_ADDR that is under way, and the records written and not yet covered by WR_ADDR: message, write index after
it, whether it is durable. -/
structure RxQueue where
  write : Nat := 0
  read : Nat := 0
  starting : Bool := false
  reading : Option Nat := none
  open_ : List (Nat × Nat × Bool) := []
  deriving DecidableEq, Repr

/-- A link agent. -/
structure Link where
  credits : List (Nat × Nat) := []
  turn : Nat := 1
  used : Nat := 0
  waiting : List OutMsg := []
  store : List OutMsg := []
  stream : List Chunk := []
  partial_ : List (Nat × RxMsg) := []
  arrived : List RxMsg := []
  chans : List (Nat × Chan) := []
  queues : List (Nat × RxQueue) := []
  readyAt : Nat := 0
  /-- The next sequence number of a UCIe unit (R274), received and sent, and the poison maps of units received whose flits
have not been taken. -/
  unitSeq : Nat := 0
  unitTx : Nat := 0
  unitPois : List Nat := []
  deriving DecidableEq, Repr

/-- What a semaphore operation belongs to (R285, R105, R321, R331). -/
inductive SemSource where
  | ring (r epoch index : Nat)
  | job (id : Nat)
  | message (link chan id : Nat)
  | command
  deriving DecidableEq, Repr

/-- The operations of R328. -/
inductive SemKind where
  | add | sub | waitGe
  deriving DecidableEq, Repr

/-- A semaphore operation: context, virtual semaphore, operand, its source, when its wait ends, in ARCLK, and its
number while it is held in the swap queue. -/
structure SemOp where
  kind : SemKind
  ctx : Nat
  v : Nat
  value : Nat
  source : SemSource
  limit : Nat := 0
  id : Nat := 0
  deriving DecidableEq, Repr

/-- A waiter record (R330). -/
structure Waiter where
  id : Nat
  sem : Nat
  op : SemOp
  deriving DecidableEq, Repr

/-- The semaphore memory beside its entries: waiter records, the swap queue, and commands that wait at their source for
room in it (R330, R331). -/
structure Sems where
  waiters : List Waiter := []
  swap : List SemOp := []
  queued : List SemOp := []
  /-- Remote barrier actions already counted as failed (R332). -/
  failedActions : List Nat := []
  deriving DecidableEq, Repr

/-- A handover (R372): its start, whether the switch was made, whether it is rolled back, whether the image now in
force has sent READY, the SEQ of the UPDATE, and the version before it. -/
structure Handover where
  at_ : Nat
  seq : Nat
  oldVersion : Nat
  switched : Bool := false
  rolled : Bool := false
  ready : Bool := false
  expired : Bool := false
  deriving DecidableEq, Repr

/-- The supervision of the firmware (R352 to R376): whether an image is active, when the ROM first waited, whether
FW_STATE has been running, the request whose image is being checked (type, SEQ), heartbeat and watchdog times, the
restarts of each core, the queue of outgoing messages, notifications since BOOT, quiet frames in a row and whether a stream was armed in the present one, streams
cancelled at parking, the request taken, and whether CP1 is restarting. -/
structure Fw where
  active : Bool := false
  waitAt : Option Nat := none
  started : Bool := false
  checking : Option (Nat × Nat) := none
  taken : Option (List Byte) := none
  heartbeat : Option Nat := none
  kicks : List (Nat × Nat) := []
  restarts : List (Nat × Nat) := []
  restartsBoot : List (Nat × Nat) := []
  /-- The jobs that the last restart of a core ended (R366), and where each core last fetched. -/
  ended : List (Nat × Nat) := []
  pcs : List (Nat × Nat) := []
  /-- Register a0 of each core as its image was entered (R353): 0 cold start, 1 restart, 2 handover. -/
  causes : List (Nat × Nat) := []
  queue : List (List Byte) := []
  notices : Nat := 0
  quiet : Nat := 0
  busy : Bool := false
  cancelled : Nat := 0
  suppress : Bool := false
  handover : Option Handover := none
  ringHeld : Bool := false
  deriving DecidableEq, Repr

/-- The power port (R395 to R402): the load plan in force and the one to come with its first frame, the forecasts sent,
the ramps announced, the gate changes of the last 2 µs in mA, budgets on their way with the boundary at which they take
effect, the cap in force, the moments of the messages that repeat, and the outgoing messages of which one leaves in each
AONCLK, with that of the first. -/
structure Power where
  plan : List Byte := []
  planNext : Option (Nat × List Byte) := none
  sent : List (Nat × Nat) := []
  ramps : List (Nat × Nat) := []
  gates : List (Nat × Int) := []
  budgets : List (Nat × Nat) := []
  cap : Nat := 4250
  windows : Nat := 0
  statusAt : Nat := 0
  overAt : Option Nat := none
  cards : Nat := 0
  plain : Nat := 0
  throttleAt : List (Nat × Nat) := []
  throttleSince : List (Nat × Nat) := []
  line : List Word32 := []
  lineAt : Nat := 0
  deriving DecidableEq, Repr

/-- A crossing beside its entries (R269, R271): the step of the attempt in training and when it began. -/
structure Crossing where
  step : Nat := 0
  since : Nat := 0
  marks : Nat := 0
  deriving DecidableEq, Repr

end Sys2Proof.Machine
end

