-- ==== Sys2Proof/Machine/State.lean ====
section
/-! DEFINITION. The state of the block, as plain data (INVENTORY.md, ## State), with its reset. Every dictionary entry
lies in `regs`, all DOMAIN data in `dom`, stack memory and Pools in `mem`, each in the canonical form of
Machine/Store.lean; the other fields hold what the spec gives the machine beside its dictionary. -/

namespace Sys2Proof.Machine

/-- Where the block stands between resets (spec/16_reset_clocks_power.md R12, R381 to R388). Times are ARCLK counts;
`cold` says that step 2 starts from a stopped source, `power` that the reset is POWER_ON. -/
inductive Run where
  | unpowered
  | hold (since : Nat) (cold power : Bool)
  | release (step since : Nat) (cold power : Bool)
  | failed (step : Nat)
  | ready
  | recovery
  deriving DecidableEq, Repr

/-- Where a part stands in a reset of its own (R383, R385): `stuck` after a failed initialisation. -/
inductive Phase where
  | up
  | hold (since : Nat)
  | release (since : Nat)
  | stuck
  deriving DecidableEq, Repr

/-- ERR_OUT_N and its timer (R411): the level, when it fell and when it last rose, the last notifying event, a fall
due later, a release written in hold mode, and the low kept from recovery mode until BT_READY rises. -/
structure ErrOut where
  low : Bool := false
  fellAt : Nat := 0
  roseAt : Option Nat := none
  last : Nat := 0
  fallDue : Option Nat := none
  released : Bool := false
  kept : Bool := false
  deriving DecidableEq, Repr

/-- A command at XDn (R233, R234): an activate, a per-bank refresh, a read or a write of one sector by its stack offset,
with the 32 bytes on WRDATA. -/
inductive XdnCmd where
  | activate (pc bank row : Nat)
  | refresh (bank : Nat)
  | read (off : Nat)
  | write (off data : Nat)
  deriving DecidableEq, Repr

/-- What left a port of R1: a record that no command reads. -/
inductive PortOut where
  | hostData (data : List Byte)
  | hostDone
  | hostError (data : List Byte)
  | access (p : Port) (idx sub status : Nat)
  | coreData (core : Nat) (data : List Byte)
  | msi (vector : Nat)
  | hostRead (id addr len : Nat)
  | hostWrite (addr : Nat) (data : List Byte) (ep : Bool)
  | mgtFrame (bytes : List Byte)
  | dbgCapture (dr : BitVec 160)
  | pwr (word : Word32)
  | opd (s t : Nat) (data pois : Nat)
  | ops (s t : Nat) (data pois : Nat)
  | opt (s t : Nat) (data pois : Nat)
  | flit (link cls som pois : Nat) (data : List Byte)
  | rxCredit (link cls : Nat)
  | unit (module : Nat) (data : List Byte) (pois : Nat)
  | unitSent (link seq crc pois : Nat) (data : List Byte)
  | hint (agent : Nat) (word : BitVec 64)
  | initStart (agent level : Nat)
  | xdn (agent abs group : Nat) (cmds : List XdnCmd)
  deriving DecidableEq, Repr

/-- The operation that a debug write of OD_ACCESS started (R70). -/
structure DbgOp where
  write : Bool
  idx : Nat
  sub : Nat
  value : Nat
  deriving DecidableEq, Repr

/-- The TAP (R69, R70): instruction, the pending operation, the last completed one, and the last captured register. -/
structure Dbg where
  ir : Byte := 0xFF
  pending : Option DbgOp := none
  data : Nat := 0
  idx : Nat := 0
  sub : Nat := 0
  status : Nat := 0
  dr : BitVec 160 := 0
  deriving DecidableEq, Repr

/-- A port's read snapshot (R60): the cell it is tagged with and that cell's value. -/
structure Snapshot where
  cell : Option (Nat × Nat) := none
  value : Nat := 0
  deriving DecidableEq, Repr

/-- A port's write staging (R60): the cell it is tagged with, which bytes are staged, and the bytes. -/
structure Staging where
  cell : Option (Nat × Nat) := none
  mask : Nat := 0
  value : Nat := 0
  deriving DecidableEq, Repr

/-- The state of the ports and of the always-on port logic: DBG_LOCK (R50), the MGT queues (R68), the FAULT frames
and their count (R412), the TAP, and the snapshots and stagings of HST (key 0) and of core k (key k + 1). -/
structure Ports where
  dbgLock : Bool := false
  mgtRx : List (List Byte) := []
  mgtTx : Option (List Byte) := none
  faultFrames : List (List Byte) := []
  nseq : Nat := 0
  dbg : Dbg := {}
  snaps : List (Nat × Snapshot) := []
  stagings : List (Nat × Staging) := []
  deriving DecidableEq, Repr

/-- Everything inside the block but the ports' own state. -/
structure Eng where
  /-- The model's clock, in ARCLK periods (log entry 2). -/
  now : Nat := 0
  run : Run := .hold 0 true true
  /-- Parts in a reset of their own, by fault source; an unlisted part is up. -/
  parts : List (Nat × Phase) := []
  powerOnAt : Nat := 0
  /-- When the SPCLK timeline began (R34); none while it is not running. -/
  spBase : Option Nat := none
  /-- The frame that begins next (R34). -/
  nextFrame : Nat := 0
  /-- The dictionary's values (R44 to R53), by bank, index and sub. -/
  regs : List (Nat × Nat) := []
  /-- The data of the DOMAIN entries (R63), by index, sub and byte offset. -/
  dom : List Host.Cell := []
  /-- Stack memory and Pools by local address (R89). -/
  mem : List Host.Cell := []
  /-- The generation of undefined contents of each part's memory (log entry 5). -/
  genBase : Nat := 0
  gens : List (Nat × Nat) := []
  /-- Poisoned words of the Pools, by word address (R413). -/
  poolPois : List (Nat × Bool) := []
  /-- The 2 MiB firmware RAM (R352). -/
  fwRam : List Host.Cell := []
  docks : List (Nat × Dock) := []
  agents : List (Nat × Agent) := []
  heap : Heap := {}
  spine : Spine := {}
  deck : Deck := {}
  rings : List (Nat × Ring) := []
  jobs : List Job := []
  /-- The identifiers of jobs, host reads and requests made so far. -/
  ids : Nat := 0
  hostReads : List HostRead := []
  links : List (Nat × Link) := []
  /-- Whether MY_ENDPOINT has been written since the control complex was last reset (R306). -/
  endpointSet : Bool := false
  sems : Sems := {}
  fw : Fw := {}
  power : Power := {}
  crossings : List (Nat × Crossing) := []
  /-- When each UCIe module began to initialise (R275), and the release of the crossings (R276). -/
  modules : List (Nat × Nat) := []
  trainAt : Nat := 0
  errOut : ErrOut := {}
  clkReqAt : Option Nat := none
  wdog : Option Nat := none
  /-- Fault events on their way to the collector: source and detail (R405). -/
  raised : List (Nat × Nat) := []
  /-- Stale responses that each requester has discarded (R253), and whether a damaged unit of HST awaits its data (R274). -/
  stale : List (Nat × Nat) := []
  hostPois : Bool := false
  /-- The counter of free values taken (log entry 5). -/
  fresh : Nat := 0
  out : List PortOut := []
  deriving DecidableEq, Repr

/-- The block with its queue of waiting commands, first in, first out. -/
structure State where
  pending : List Instr
  port : Ports
  eng : Eng
  deriving DecidableEq, Repr

/-- The reasons a step stops with a fault. `outsideEnvironment` is raised by a command whose operand is no event of
its port, such as a flit of other than 256 bytes (R3, R308): the manual states nothing of it. Safe. -/
inductive Fault where
  | outsideEnvironment
  deriving DecidableEq, Repr

/-- The reasons a step is refused: a command whose meaning is not written. Safe. -/
inductive Refusal where
  | notModelled (mnemonic : String)
  deriving DecidableEq, Repr

/-- The block right after the power-on reset is accepted (R379, R381): in the hold phase, every entry at its
default, nothing in memory, no command waiting. -/
def State.reset : State := { pending := [], port := {}, eng := {} }

end Sys2Proof.Machine
end

