-- ==== Sys2Proof/Machine/Ops.lean ====
section
/-! DEFINITION. The named operations over the state: the clock, dictionary values and DOMAIN data, memory, counters,
raised faults, port records, and the access rules of R48 to R62 and R420 that every port shares. -/

namespace Sys2Proof.Machine

/-- ARCLK periods in an AONCLK, a CCLK, an SPCLK, a slot and a frame (R18, R32, R33). -/
def aonT : Nat := 3600

@[inherit_doc aonT]
def cclkT : Nat := 4

@[inherit_doc aonT]
def spclkT : Nat := 2

@[inherit_doc aonT]
def slotT : Nat := 16

@[inherit_doc aonT]
def frameT : Nat := 8192

/-- The clock moved on to a moment, if that lies ahead. -/
def advanceTo (t : Nat) (e : Eng) : Eng := { e with now := max e.now t }

/-- AON_TIME (R403). -/
def aonTime (e : Eng) : Nat := (e.now - e.powerOnAt) / aonT % 2 ^ 64

/-- The 64-bit frame counter of R34, which wraps (R415); none while it is not running. -/
def frameNow (e : Eng) : Option Nat := e.spBase.map fun b => (e.now - b) / frameT % 2 ^ 64

/-- The frame counter, 0 while it is not running. -/
def frameNo (e : Eng) : Nat := (frameNow e).getD 0

/-- When a slot of the timeline begins, in ARCLK (R34). -/
def slotStart (e : Eng) (abs : Nat) : Nat := e.spBase.getD 0 + slotT * abs

/-- A record of something that left a port. -/
def emit (o : PortOut) (e : Eng) : Eng := { e with out := o :: e.out }

/-- The place of an outgoing message's TYPE in the order of R395. -/
def pwrRank (w : Word32) : Nat :=
  match w.toNat / 2 ^ 28 with
  | 5 => 0 | 1 => 1 | 4 => 2 | 3 => 3 | 2 => 4 | 7 => 5 | _ => 6

/-- The messages that wait for an AONCLK of their own at PWR, the first of which leaves in the present one (R395). -/
def pwrWaiting (e : Eng) : List Word32 := e.power.line.drop ((e.now - e.powerOnAt) / aonT - e.power.lineAt)

/-- The outputs without the latest `n` messages of PWR. -/
def dropPwr : Nat → List PortOut → List PortOut
  | 0, xs => xs
  | _, [] => []
  | n + 1, .pwr _ :: xs => dropPwr n xs
  | n + 1, x :: xs => x :: dropPwr (n + 1) xs

/-- A message leaves PWR (R395): one in each AONCLK, those that are due together in the order of their types. -/
def sendPwr (w : Word32) (e : Eng) : Eng :=
  let waiting := pwrWaiting e
  let line := (waiting.filter fun x => pwrRank x ≤ pwrRank w) ++ w :: waiting.filter fun x => pwrRank w < pwrRank x
  { e with
    out := line.reverse.map .pwr ++ dropPwr waiting.length e.out
    power := { e.power with line, lineAt := (e.now - e.powerOnAt) / aonT } }

/-- A fault source is raised: the event goes to the collector (R405). -/
def raise (src detail : Nat) (e : Eng) : Eng := { e with raised := e.raised ++ [(src, detail)] }

/-- The key of a dictionary value: its bank (0 where the entry is not banked), index and sub. -/
def cellKey (bank idx sub : Nat) : Nat := bank * 2 ^ 24 + idx * 256 + sub

/-- What an entry that nothing has set reads as: its default (R51). -/
def regDefault (k : Nat) : Nat := ((rowOf (k / 256 % 65536) (k % 256)).map (·.dflt)).getD 0

/-- The value of an entry. -/
def reg (e : Eng) (idx sub : Nat) : Nat := storeGet regDefault e.regs (cellKey 0 idx sub)

/-- An entry set to a value. -/
def setReg (idx sub v : Nat) (e : Eng) : Eng := { e with regs := storeSet regDefault (cellKey 0 idx sub) v e.regs }

/-- The value of a bank's copy of an entry (R65, R71). -/
def regB (e : Eng) (bank idx sub : Nat) : Nat := storeGet regDefault e.regs (cellKey bank idx sub)

/-- A bank's copy of an entry set to a value. -/
def setRegB (bank idx sub v : Nat) (e : Eng) : Eng :=
  { e with regs := storeSet regDefault (cellKey bank idx sub) v e.regs }

/-- A counter raised by `n`; it wraps at its width (R403, R417). -/
def bumpBy (n idx sub : Nat) (e : Eng) : Eng :=
  setReg idx sub ((reg e idx sub + n) % 2 ^ (8 * ((rowOf idx sub).map (·.ty.width)).getD 8)) e

/-- A counter raised by 1. -/
def bump (idx sub : Nat) (e : Eng) : Eng := bumpBy 1 idx sub e

/-- The index of a station's entry and of a stack agent's entry (R45). -/
def stIdx (s off : Nat) : Nat := 0x2000 + 0x40 * s + off

@[inherit_doc stIdx]
def agIdx (n off : Nat) : Nat := 0x3000 + 0x40 * n + off

/-- The key of a byte of DOMAIN data. -/
def domKey (idx sub off : Nat) : Nat := (idx * 256 + sub) * 2 ^ 24 + off

/-- The card kinds of R212. -/
inductive CardKind where
  | dynamic | staticRead | staticWrite | refresh | class0 | splinter | reserved
  deriving DecidableEq, Repr

/-- The card kind of a KIND code (R212). -/
def cardKind : Nat → CardKind
  | 0 => .dynamic | 1 => .staticRead | 2 => .staticWrite | 3 => .refresh | 4 => .class0 | 5 => .splinter
  | _ => .reserved

/-- The KIND of card (s, g) of the built-in layout (R210). -/
def builtInKind (s g : Nat) : Nat :=
  if s % 32 = 8 * g then 3
  else if s % 64 = 4 + 16 * g then 4
  else if (s % 64 = 2 ∧ g = 1) ∨ (s % 64 = 34 ∧ g = 3) then 5
  else 0

/-- Byte `off` of the built-in layout of a Hand (R210, R212): KIND lies in the top bits of share 0. -/
def builtInHand (off : Nat) : Byte :=
  if off % 16 = 3 then BitVec.ofNat 8 (16 * builtInKind (off / 64) (off / 16 % 4)) else 0

/-- Byte `off` of compartment 0 after a reset of the control complex (R360). -/
def compartment0 (off : Nat) : Byte :=
  match off with
  | 0 => 3 | 1 => 0x0F | 6 => 0xFF | 7 => 0xFF
  | 22 => 1 | 24 => 5
  | 35 => 0x10 | 38 => 0x20 | 40 => 7
  | 51 => 0x20 | 53 => 0x40 | 56 => 3
  | 67 => 0x40 | 71 => 0x10 | 72 => 3
  | _ => 0

/-- The default contents of DOMAIN data: the built-in layout for a Hand, 1.0 in every entry of a scale file (R147),
RX_CREDITS 1 in every channel entry (R312), compartment 0 as R360 states it, and zero elsewhere. -/
def domDefault (k : Nat) : Byte :=
  let idx := k / 2 ^ 32
  let off := k % 2 ^ 24
  if 0x3880 ≤ idx ∧ idx < 0x3898 then builtInHand off
  else if k / 2 ^ 24 = 0x500401 ∨ k / 2 ^ 24 = 0x500501 then (if off % 32 = 9 then 1 else 0)
  else if k / 2 ^ 24 = 0x601001 then compartment0 off
  else if 0x2000 ≤ idx ∧ idx < 0x2C00 ∧ idx % 0x40 = 0x12 then
    (if off % 4 = 2 then 0x80 else if off % 4 = 3 then 0x3F else 0)
  else 0

/-- `n` bytes of DOMAIN data. -/
def domBytes (e : Eng) (idx sub off n : Nat) : List Byte := storeGetMany domDefault e.dom (domKey idx sub off) n

/-- `n` bytes of DOMAIN data as a little-endian number. -/
def domNat (e : Eng) (idx sub off n : Nat) : Nat := leNat (domBytes e idx sub off n)

/-- Bytes of DOMAIN data set. -/
def setDomBytes (idx sub off : Nat) (bs : List Byte) (e : Eng) : Eng :=
  { e with dom := storeSetMany domDefault (domKey idx sub off) bs e.dom }

/-- `n` bytes of DOMAIN data set to a little-endian number. -/
def setDomNat (idx sub off n v : Nat) (e : Eng) : Eng := setDomBytes idx sub off (leBytes n v) e

/-- The DOMAIN data of an entry back at its default contents. -/
def clearDom (idx sub : Nat) (e : Eng) : Eng :=
  { e with dom := storeClear (domKey idx sub 0) (domKey idx (sub + 1) 0) e.dom }

/-- The values and DOMAIN data of the indices from `lo` to `hi - 1` back at their defaults (R51). -/
def clearIndices (lo hi : Nat) (e : Eng) : Eng :=
  { e with
    regs := storeClear (cellKey 0 lo 0) (cellKey 0 hi 0) e.regs
    dom := storeClear (domKey lo 0 0) (domKey hi 0 0) e.dom }

/-- The part, by fault source, whose memory holds a local address: the stack agent of a stack, or the station of a
Pool (R89). -/
def memPart (a : Nat) : Nat := if a < 0x018000000000 then 48 + a / 2 ^ 36 else (a - 0x200000000000) / 2 ^ 22

/-- What a byte that nothing has written reads as: a free value of its part's generation. -/
def undefMem (e : Eng) (a : Nat) : Byte := Config.undefByte (storeGet (fun _ => e.genBase) e.gens (memPart a)) a

/-- A byte of stack memory or of a Pool. -/
def memByte (e : Eng) (a : Nat) : Byte := storeGet (undefMem e) e.mem a

/-- A byte put into stored memory: every written byte is listed. -/
def memPut (a : Nat) (b : Byte) (m : List Host.Cell) : List Host.Cell := storeInsert a b (storeErase a m)

/-- A byte of stack memory or of a Pool written. -/
def setMemByte (a : Nat) (b : Byte) (e : Eng) : Eng := { e with mem := memPut a b e.mem }

/-- The canonical form of memory: addresses rise strictly. An unlisted byte has no value of its own, so no entry can
equal it. -/
def Memory.wf : List Host.Cell → Bool
  | [] => true
  | (a, _) :: t => t.all (fun p => a < p.1) && Memory.wf t

/-- `n` bytes of memory from an address. -/
def memBytes (e : Eng) (a n : Nat) : List Byte := (below n).map fun k => memByte e (a + k)

/-- Bytes of memory written from an address. -/
def setMemBytes (a : Nat) (bs : List Byte) (e : Eng) : Eng :=
  { e with mem := ((below bs.length).zip bs).foldl (fun m x => memPut (a + x.1) x.2 m) e.mem }

/-- The contents of a part's memory become undefined (R378): what was written is gone, and what it reads as is a new
free value. -/
def loseMemory (part lo hi : Nat) (e : Eng) : Eng :=
  { e with
    mem := storeClear lo hi e.mem
    gens := storeSet (fun _ => e.genBase) part (e.fresh + 1) e.gens
    fresh := e.fresh + 1 }

/-- Whether the word that holds a byte of a Pool is poisoned (R413). -/
def poolPoisoned (e : Eng) (a : Nat) : Bool := storeGet (fun _ => false) e.poolPois (a / 4 * 4)

/-- The poison of the word that holds a byte of a Pool set. -/
def setPoolPois (a : Nat) (p : Bool) (e : Eng) : Eng :=
  { e with poolPois := storeSet (fun _ => false) (a / 4 * 4) p e.poolPois }

/-- A free number, and the state in which it is taken. -/
def takeFree (e : Eng) : Nat × Eng := (Config.freeNat e.fresh, { e with fresh := e.fresh + 1 })

/-- Where a part stands in a reset of its own (R385). -/
def phaseOf (e : Eng) (part : Nat) : Phase := storeGet (fun _ => Phase.up) e.parts part

/-- A part's phase set. -/
def setPhase (part : Nat) (p : Phase) (e : Eng) : Eng := { e with parts := storeSet (fun _ => Phase.up) part p e.parts }

/-- The release step that brings a part back in a reset of the whole block (R383). -/
def releaseStepOf (part : Nat) : Nat := if part < 48 then 7 else if part < 72 then 6 else 8

/-- Whether BT_READY is high (R13, R383). -/
def isReady (e : Eng) : Bool := e.run == .ready

/-- Whether a step of the release order has completed (R383). -/
def releasedPast (e : Eng) (step : Nat) : Bool :=
  match e.run with
  | .ready => true
  | .release k _ _ _ => step < k
  | .failed k => step < k
  | _ => false

/-- Whether a part is out of reset: released with the block, and not in a reset of its own (R383, R385). -/
def partUp (e : Eng) (part : Nat) : Bool := releasedPast e (releaseStepOf part) && phaseOf e part == .up

/-- Whether a part is held in reset (R55): its release step has not begun, it is in the hold phase of its own reset, or
it is a link agent whose modules failed (R275). -/
def partHeld (e : Eng) (part : Nat) : Bool :=
  !releasedPast e (releaseStepOf part - 1) || match phaseOf e part with
    | .hold _ => true
    | .stuck => 72 ≤ part
    | _ => false

/-- Whether the control complex runs (step 3 of R383). -/
def controlUp (e : Eng) : Bool := releasedPast e 3

/-- The access statuses of R56. -/
inductive Access where
  | ok | noEntry | noRight | badValue | busy | badFrame | outOfDomain | denied | stagingLost | badAccess
  deriving DecidableEq, Repr

/-- The code of an access status (R56). -/
def Access.code : Access → Nat
  | .ok => 0 | .noEntry => 1 | .noRight => 2 | .badValue => 3 | .busy => 4 | .badFrame => 5 | .outOfDomain => 6
  | .denied => 7 | .stagingLost => 8 | .badAccess => 9

/-- How a port reaches the dictionary at this moment: `none`, nothing is received; `error`, HST completes with an
error response; `busy`, OD_ACCESS answers busy; `limited`, the entries of recovery mode; `full` (R13, R14, R388). -/
inductive Reach where
  | none | error | busy | limited | full
  deriving DecidableEq, Repr

/-- How a port reaches the dictionary (R12, R13, R14, R388). The cores run once the control complex is released; an
unpowered block answers nothing on any port. -/
def reach (e : Eng) (p : Port) : Reach :=
  match p, e.run with
  | _, .ready => .full
  | _, .unpowered => .none
  | .m, .recovery => .limited
  | .d, .recovery => .limited
  | .d, _ => .busy
  | .h, _ => if controlUp e then .error else .none
  | .f _, _ => if controlUp e then .full else .none
  | .m, _ => .none

/-- The right of a port on an entry as currently in force (R48, R50). -/
def rightOf (s : State) (p : Port) (idx : Nat) (r : Row) : Right :=
  match p with
  | .h => r.h
  | .m => r.m
  | .d => if s.port.dbgLock && !(0x1000 ≤ idx && idx ≤ 0x1003) then .none else r.d
  | .f _ => r.f

/-- Whether an access to an entry meets a part in reset (R55) or recovery mode beyond its entries (R388). -/
def heldBack (e : Eng) (p : Port) (idx sub : Nat) : Bool :=
  (reach e p == .limited && !recoveryReach idx sub) ||
    match partOf idx with
    | some part => partHeld e part && e.run ≠ .recovery
    | none => false

/-- The bank of a port for the banked entries (R65, R71, R336, R351). -/
def bankOf : Port → Nat
  | .h => 1
  | .m => 2
  | .d => 3
  | .f k => 4 + k.val

/-- Whether an index is banked. -/
def isBanked (idx : Nat) : Bool := idx == 0x1022 || idx == 0x1040 || idx == 0x5802 || idx == 0x5803

/-- The value of an entry as its port's bank holds it. -/
def regOf (e : Eng) (p : Port) (idx sub : Nat) : Nat := regB e (if isBanked idx then bankOf p else 0) idx sub

/-- A value with its reserved bits dropped (R21, R46). -/
def maskValue (r : Row) (v : Nat) : Nat := v &&& r.mask

/-- The range check of R46. -/
def inRange (r : Row) (v : Nat) : Bool := r.lo ≤ v && v ≤ r.hi

/-- The effect of a write that reaches its entry: the status of a rule of the owning chapter, or of the value check,
and the state; given the value with its reserved bits dropped. -/
abbrev Effect := Nat → State → Access × State

/-- R420: a write of a value to an entry through a port that reaches the dictionary. -/
def writeEntry (p : Port) (idx sub v : Nat) (eff : Effect) (s : State) : Access × State :=
  match rowOf idx sub with
  | none => (.noEntry, s)
  | some r =>
    if !(rightOf s p idx r).writes then (.noRight, s)
    else if heldBack s.eng p idx sub then (.busy, s)
    else eff (maskValue r v) s

/-- A plain commit (R53): the range check of R46, then the value. -/
def plainCommit (p : Port) (idx sub : Nat) : Effect := fun v s =>
  match rowOf idx sub with
  | none => (.noEntry, s)
  | some r =>
    if inRange r v then
      (.ok, { s with eng := setRegB (if isBanked idx then bankOf p else 0) idx sub v s.eng })
    else (.badValue, s)

/-- An effect that the range check of R46 lets through. -/
def checked (idx sub : Nat) (f : Nat → State → State) : Effect := fun v s =>
  match rowOf idx sub with
  | none => (.noEntry, s)
  | some r => if inRange r v then (.ok, f v s) else (.badValue, s)

/-- R62: a host access that ended with a status other than OK is recorded and counted; `off` is its offset, with bit
31 set for BAR2. -/
def recordHost (st : Access) (idx sub off : Nat) (e : Eng) : Eng :=
  if st = .ok then e
  else e |> setReg 0x1010 1 st.code |> setReg 0x1010 2 idx |> setReg 0x1010 3 sub |> setReg 0x1010 4 off |>
    bump 0x1010 5

/-- The offset of a cell in BAR0 (R57). -/
def bar0 (idx sub : Nat) : Nat := idx * 4096 + sub * 16

/-- The end of an access through a port: the host's is recorded under R62, and the status is what the port answers. -/
def endAccess (p : Port) (idx sub : Nat) (st : Access) (e : Eng) : Eng :=
  emit (.access p idx sub st.code) (if p = .h then recordHost st idx sub (bar0 idx sub) e else e)

/-- A row of the table that is the write of one entry through a port: what the port can reach now, the order of R420,
and the entry's effect. -/
def portWrite (p : Port) (idx sub v : Nat) (eff : Effect) (s : State) : State :=
  match reach s.eng p with
  | .none => s
  | .error => { s with eng := emit (.hostError []) s.eng }
  | .busy => { s with eng := emit (.access p idx sub Access.busy.code) s.eng }
  | _ =>
    let (st, s') := writeEntry p idx sub v eff s
    { s' with eng := endAccess p idx sub st s'.eng }

/-- A change of the engine as a change of the state. -/
def onEng (f : Eng → Eng) (s : State) : State := { s with eng := f s.eng }

end Sys2Proof.Machine
end

