-- ==== Sys2Proof/Machine/Placement.lean ====
section
/-! DEFINITION. Placement (spec/14_placement_resharding.md R335 to R342, R351): the handle table, the heap, the layout
of an allocation, and the operations of ALLOC_REQ. -/

namespace Sys2Proof.Machine

/-- A slot of the handle table. -/
def slotOf (e : Eng) (k : Nat) : HandleSlot := storeGet (fun _ => {}) e.heap.slots k

/-- A slot of the handle table set. -/
def setSlot (k : Nat) (h : HandleSlot) (e : Eng) : Eng :=
  { e with heap := { e.heap with slots := storeSet (fun _ => {}) k h e.heap.slots } }

/-- The slot that a live handle names (R335). -/
def liveHandle (e : Eng) (h : Nat) : Option HandleSlot :=
  let s := slotOf e (h % 65536)
  if s.state = .live ∧ s.gen = h / 65536 % 256 then some s else none

/-- The size in bytes of a live handle's allocation (R90). -/
def handleBytes (e : Eng) (h : Nat) : Option Nat := (liveHandle e h).map (·.granules * 4096)

/-- The stripe width of a policy: stacks per copy (R340). -/
def HandleSlot.width (h : HandleSlot) : Nat := if h.policy = 1 then 24 else 6

/-- R340: the local stack address of a handle offset, in the copy of a field where the handle is REPLICATE. -/
def HandleSlot.resolve (h : HandleSlot) (field o : Nat) : Nat :=
  let u := h.phase + o / 4096
  let f := if h.policy = 2 then field else h.field
  let stack := if h.policy = 1 then u % 24 else 6 * f + u % 6
  stack * 0x1000000000 + (h.baseRow + u / h.width) * 4096 + o % 4096

/-- The stacks that an allocation occupies (R340). -/
def HandleSlot.onStacks (h : HandleSlot) : List Nat := if h.policy = 0 then upFrom (6 * h.field) 6 else below 24

/-- ROWS (R340). -/
def rowsNeeded (policy phase granules : Nat) : Nat :=
  let w := if policy = 1 then 24 else 6
  (granules + phase + w - 1) / w

/-- The allocations that hold rows: live and freeing slots (R338). -/
def allocations (e : Eng) : List HandleSlot :=
  (e.heap.slots.map (·.2)).filter fun h => h.state = .live || h.state = .freeing

/-- The rows of every stack: 64 GiB in 4 KiB units (R351). -/
def stackRows : Nat := 16777216

/-- HANDLES_LIVE (R351). -/
def handlesLive (e : Eng) : Nat := (allocations e).length

/-- ROWS_FREE of a stack (R351). -/
def rowsFree (e : Eng) (n : Nat) : Nat :=
  stackRows - reg e 0x5800 1 - (((allocations e).filter (·.onStacks.contains n)).map (·.rows)).sum

/-- Whether rows from `base` are free on every one of the stacks. -/
def rowsClear (e : Eng) (onStacks : List Nat) (base rows : Nat) : Bool :=
  base + rows ≤ stackRows && (allocations e).all fun h =>
    base + rows ≤ h.baseRow || h.baseRow + h.rows ≤ base || !(h.onStacks.any onStacks.contains)

/-- A number raised to a multiple of 4. -/
def alignRow (r : Nat) : Nat := (r + 3) / 4 * 4

/-- The least of a list. -/
def leastOf : List Nat → Option Nat
  | [] => none
  | a :: t => match leastOf t with
    | none => some a
    | some b => some (min a b)

/-- BASE_ROW (R340): the lowest multiple of 4 at or above HEAP_START at which the rows are free. The lowest is where
the heap starts or where some allocation ends. -/
def baseRowFor (e : Eng) (onStacks : List Nat) (rows : Nat) : Option Nat :=
  let start := alignRow (reg e 0x5800 1)
  leastOf ((start :: (allocations e).map fun h => alignRow (h.baseRow + h.rows)).filter fun b =>
    start ≤ b && rowsClear e onStacks b rows)

/-- The free rows of a field's fullest stack (R341). -/
def fieldRoom (e : Eng) (f : Nat) : Nat := (leastOf ((upFrom (6 * f) 6).map (rowsFree e))).getD 0

/-- The field of a FIELD_STRIPE allocation that names none: the roomiest, the lowest on a tie (R341). -/
def chooseField (e : Eng) : Nat := [1, 2, 3].foldl (fun f g => if fieldRoom e f < fieldRoom e g then g else f) 0

/-- An allocation count of a field (R341). -/
def fieldCount (e : Eng) (f : Nat) : Nat := storeGet (fun _ => 0) e.heap.fieldCount f

/-- The phase of an allocation that names none (R341). -/
def choosePhase (e : Eng) (policy field : Nat) : Nat :=
  match policy with
  | 0 => fieldCount e field % 6
  | 1 => e.heap.chipCount % 24
  | _ => fieldCount e 0 % 6

/-- The slot that the next allocation takes (R339): the slots never used, ascending, then freed ones in order. -/
def nextSlot (e : Eng) : Option Nat := if e.heap.fresh < 65536 then some e.heap.fresh else e.heap.freed.head?

/-- The slot taken out of the free order. -/
def takeSlot (e : Eng) : Eng :=
  if e.heap.fresh < 65536 then { e with heap := { e.heap with fresh := e.heap.fresh + 1 } }
  else { e with heap := { e.heap with freed := e.heap.freed.tail } }

/-- The counts of R341 after an allocation that occupies some fields. -/
def countAlloc (fields : List Nat) (e : Eng) : Eng :=
  { e with heap := { e.heap with
      fieldCount := fields.foldl (fun m f => storeSet (fun _ => 0) f (storeGet (fun _ => 0) m f + 1) m) e.heap.fieldCount
      chipCount := e.heap.chipCount + 1 } }

/-- ALLOC_RESULT (R336). -/
def allocResult (status detail freeing handle field phase baseRow rows : Nat) : Nat :=
  status + detail * 2 ^ 8 + freeing * 2 ^ 25 + handle * 2 ^ 32 + field * 2 ^ 56 + phase * 2 ^ 59 + baseRow * 2 ^ 64 +
    rows * 2 ^ 96

/-- A failed operation: its result and its count (R337). -/
def allocFails (bank : Nat) (st : Status) (detail handle : Nat) (e : Eng) : Eng :=
  e |> setRegB bank 0x5802 2 (allocResult st.code detail 0 handle 0 0 0 0) |> bump 0x5804 3

/-- R336, R337, R340, R341: an ALLOC is carried out. -/
def runAlloc (bank req : Nat) (e : Eng) : Eng :=
  let policy := bits req 2 2
  let field := if policy ≠ 0 then 7 else if bits req 4 3 = 7 then chooseField e else bits req 4 3
  let phase := if bits req 7 5 = 31 then choosePhase e policy field else bits req 7 5
  let n := bits req 32 32
  let rows := rowsNeeded policy phase n
  let onStacks := if policy = 0 then upFrom (6 * field) 6 else below 24
  match nextSlot e with
  | none => allocFails bank .exhausted 0x5812 0 e
  | some k =>
    if stackRows < reg e 0x5800 1 + rows then allocFails bank .outOfRange 0x5814 0 e
    else match baseRowFor e onStacks rows with
      | none => allocFails bank .exhausted 0x5813 0 e
      | some base =>
        let gen := (slotOf e k).gen
        takeSlot e |> setSlot k { gen, state := .live, policy, field := field % 4, phase, granules := n, baseRow := base,
                                  rows, pins := 0 } |>
          countAlloc (if policy = 0 then [field] else [0, 1, 2, 3]) |>
          setRegB bank 0x5802 2 (allocResult 0 0 0 (k + gen * 65536) field phase base rows) |> bump 0x5804 1

/-- R338, R339: a freeing slot without pins is released: its generation advances, or it is retired. -/
def releaseSlot (k : Nat) (e : Eng) : Eng :=
  let h := slotOf e k
  if h.state = .freeing ∧ h.pins = 0 then
    let e := bump 0x5804 2 e
    if h.gen = 255 then bump 0x5804 4 (setSlot k { gen := 255, state := .retired } e)
    else
      let e := setSlot k { gen := h.gen + 1, state := .free } e
      { e with heap := { e.heap with freed := e.heap.freed ++ [k] } }
  else e

/-- Whether a committed stream record of some station names a handle in its view (R337 detail 0x5816). -/
def streamNames (e : Eng) (h : Nat) : Bool :=
  e.docks.any fun d => d.2.committed.any fun r =>
    let v := parseView (r.2 / 2 ^ 64 % 2 ^ 768)
    v.handleForm && v.handle == h

/-- The failure of a FREE, if any (R337). -/
def freeFails (e : Eng) (h : Nat) : Option (Status × Nat) :=
  if (liveHandle e h).isNone then some (.outOfRange, 0x5815)
  else if streamNames e h then some (.denied, 0x5816)
  else none

/-- A live handle's slot made freeing (R338). -/
def makeFreeing (h : Nat) (e : Eng) : Eng :=
  let k := h % 65536
  setSlot k { slotOf e k with state := .freeing } e

/-- R336 to R338: a FREE is carried out; `marked` says that its commit made the slot freeing. -/
def runFree (bank req : Nat) (marked : Bool) (e : Eng) : Eng :=
  let h := bits req 64 24
  let finish (e : Eng) : Eng :=
    let pinned := (slotOf e (h % 65536)).pins ≠ 0
    releaseSlot (h % 65536) e |> setRegB bank 0x5802 2 (allocResult 0 0 (if pinned then 1 else 0) h 0 0 0 0)
  if marked then finish e
  else match freeFails e h with
    | some (st, d) => allocFails bank st d h e
    | none => finish (makeFreeing h e)

/-- ALLOC_OPERATION_COMPLETE (R336): the oldest operation is carried out. -/
def execAllocOperationComplete (s : State) : Host.Outcome State Fault Refusal :=
  .next (onEng (fun e =>
    match e.heap.ops with
    | [] => e
    | (bank, req, marked) :: rest =>
      let e := { e with heap := { e.heap with ops := rest } }
      if bits req 0 2 = 1 then runAlloc bank req e else runFree bank req marked e) s)

/-- Whether some waiting FREE has made a slot freeing: its release belongs to that operation (R336). -/
def freeWaits (e : Eng) (k : Nat) : Bool := e.heap.ops.any fun o => o.2.2 && bits o.2.1 64 16 == k

/-- HANDLE_RELEASE (R338): the pins of a freeing slot have reached zero. -/
def execHandleRelease (slot : Fin 65536) (s : State) : Host.Outcome State Fault Refusal :=
  .next (onEng (fun e => if freeWaits e slot.val then e else releaseSlot slot.val e) s)

/-- Whether the fields that a request uses are in range (R336). -/
def allocReqOk (v : Nat) : Bool :=
  let policy := bits v 2 2
  let field := bits v 4 3
  let phase := bits v 7 5
  let n := bits v 32 32
  match bits v 0 2 with
  | 1 => policy ≠ 3 && (field == 7 || (policy == 0 && field < 4)) &&
      (phase == 31 || phase < if policy = 1 then 24 else 6) && 1 ≤ n && n ≤ 2 ^ 28
  | 3 => false
  | _ => true

/-- The bits of ALLOC_REQ that are not reserved (R336). -/
def allocReqMask : Nat := 0xFFF + (2 ^ 32 - 1) * 2 ^ 32 + (2 ^ 24 - 1) * 2 ^ 64

/-- ALLOC_REQ (R336): an operation begins at the commit; one still pending in the bank makes it end BUSY. -/
def effAllocReq (p : Port) : Effect := fun v s =>
  let v := v &&& allocReqMask
  let bank := bankOf p
  let e := s.eng
  if bits v 0 2 ≠ 0 ∧ e.heap.ops.any (·.1 == bank) then (.busy, s)
  else if !allocReqOk v then (.badValue, s)
  else if bits v 0 2 = 0 then (.ok, { s with eng := setRegB bank 0x5802 1 v e })
  else
    let h := bits v 64 24
    let marked := bits v 0 2 = 2 && (freeFails e h).isNone
    let e := if marked then makeFreeing h e else e
    let e := { e with heap := { e.heap with ops := e.heap.ops ++ [(bank, v, marked)] } }
    (.ok, { s with eng := e |> setRegB bank 0x5802 1 v |> setRegB bank 0x5802 2 (2 ^ 24) })

/-- ALLOC (R336). -/
def execAlloc (p : Port) (policy : BitVec 2) (field : BitVec 3) (phase : BitVec 5) (granules : Word32) (s : State) :
    Host.Outcome State Fault Refusal :=
  .next (portWrite p 0x5802 1
    (1 + policy.toNat * 2 ^ 2 + field.toNat * 2 ^ 4 + phase.toNat * 2 ^ 7 + granules.toNat * 2 ^ 32) (effAllocReq p) s)

/-- FREE (R336). -/
def execFree (p : Port) (handle : BitVec 24) (s : State) : Host.Outcome State Fault Refusal :=
  .next (portWrite p 0x5802 1 (2 + 0xFF0 + handle.toNat * 2 ^ 64) (effAllocReq p) s)

/-- HANDLE_QUERY_WRITE (R351): HANDLE_INFO follows the query. -/
def execHandleQueryWrite (p : Port) (v : Word32) (s : State) : Host.Outcome State Fault Refusal :=
  .next (portWrite p 0x5803 1 v.toNat (plainCommit p 0x5803 1) s)

/-- HANDLE_INFO of a bank (R351). -/
def handleInfo (e : Eng) (bank : Nat) : Nat :=
  let q := regB e bank 0x5803 1
  let h := slotOf e (q % 65536)
  if h.gen = q / 65536 % 256 ∧ (h.state = .live ∨ h.state = .freeing) then
    (if h.state = .live then 1 else 2) + h.policy * 2 ^ 2 + (if h.policy = 0 then h.field else 7) * 2 ^ 4 +
      h.phase * 2 ^ 7 + (h.pins % 2 ^ 20) * 2 ^ 12 + h.granules * 2 ^ 32 + h.baseRow * 2 ^ 64 + h.rows * 2 ^ 96
  else 0

/-- HEAP_START (R351): refused while any slot is live or freeing. -/
def effHeapStart : Effect := fun v s =>
  if handlesLive s.eng ≠ 0 then (.denied, s) else checked 0x5800 1 (fun v s => onEng (setReg 0x5800 1 v) s) v s

/-- A handle pinned by a job or a committed record (R338). -/
def pinHandle (h : Nat) (e : Eng) : Eng :=
  let k := h % 65536
  setSlot k { slotOf e k with pins := (slotOf e k).pins + 1 } e

/-- A pin taken away (R338); the release of a freeing slot is a command of its own. -/
def unpinHandle (h : Nat) (e : Eng) : Eng :=
  let k := h % 65536
  setSlot k { slotOf e k with pins := (slotOf e k).pins - 1 } e

/-- The local address of a byte of a view: through its handle's layout in the copy of a field, or the local part of
its global address (R88, R89, R340). -/
def viewAddr (e : Eng) (v : View) (field : Nat) (a : Int) : Nat :=
  if v.handleForm then (slotOf e (v.handle % 65536)).resolve field a.toNat else localOf a.toNat

/-- What a view's checks need to know (R93), for a kind of job that reaches some regions. -/
def viewEnv (e : Eng) (regions : Region → Bool) : ViewEnv := ⟨reg e 0x5000 1, handleBytes e, regions⟩

end Sys2Proof.Machine
end

