-- ==== Sys2Proof/Machine/Streams.lean ====
section
/-! DEFINITION. Static streams (spec/08_docks.md R184, R187, R194, R196, R197; spec/09_deck.md R214;
spec/14_placement_resharding.md R344): stream records, the walker's sector lists, and what a beat holds. -/

namespace Sys2Proof.Machine

/-- A station's dock. -/
def dockOf (e : Eng) (s : Nat) : Dock := storeGet (fun _ => {}) e.docks s

/-- A station's dock changed. -/
def onDock (s : Nat) (f : Dock → Dock) (e : Eng) : Eng :=
  { e with docks := storeSet (fun _ => {}) s (f (dockOf e s)) e.docks }

/-- The committed record of a slot; 0 where the slot is empty (R187). -/
def recordOf (d : Dock) (slot : Nat) : Nat := storeGet (fun _ => 0) d.committed slot

/-- The stream of a slot, where one is armed or draining. -/
def streamOf (d : Dock) (slot : Nat) : Option Stream := d.streams.lookup slot

/-- A slot's stream set. -/
def setStream (slot : Nat) (x : Stream) (d : Dock) : Dock :=
  { d with streams := storeInsert slot x (storeErase slot d.streams) }

/-- A slot's stream gone. -/
def dropStream (slot : Nat) (d : Dock) : Dock := { d with streams := storeErase slot d.streams }

/-- The fields of a stream record (R187). -/
structure StreamRec where
  id : Nat
  kind : Nat
  decode : Bool
  pass : Bool
  endEn : Bool
  fmt : Nat
  group : Nat
  scaleFmt : Nat
  outlier : Bool
  queue : Nat
  gateCtr : Nat
  gateEn : Bool
  view : View
  hdrOff : Int
  endStation : Nat
  endCtr : Nat
  endCount : Nat
  aux : Nat
  pad : Nat
  reserved : Nat
  deriving DecidableEq, Repr

/-- The fields of a 128-byte stream record given as a little-endian number (R187). -/
def parseStream (x : Nat) : StreamRec :=
  { id := bits x 0 12, kind := bits x 16 8, decode := bit x 24, pass := bit x 25, endEn := bit x 26,
    fmt := bits x 32 6, group := bits x 38 2, scaleFmt := bits x 40 2, outlier := bit x 42, queue := bits x 48 4,
    gateCtr := bits x 56 5, gateEn := bit x 61, view := parseView (bits x 64 768), hdrOff := signed 48 (bits x 832 48),
    endStation := bits x 896 6, endCtr := bits x 904 5, endCount := bits x 928 32, aux := bits x 960 32,
    pad := bits x 992 32,
    reserved := bits x 12 4 + bits x 27 5 + bits x 43 5 + bits x 52 4 + bits x 62 2 + bits x 880 16 + bits x 902 2 +
      bits x 909 3 + bits x 912 16 }

/-- The fields of a slot's committed record. -/
def recOf (d : Dock) (slot : Nat) : StreamRec := parseStream (recordOf d slot)

/-- The port format of a stream, by its element format. -/
def StreamRec.portFmt (r : StreamRec) : Fmt := (fmtOf r.fmt).getD .fp32

/-- N_b of R184 for a port of 4096 or 2048 bits: `half` selects RES. -/
def beatElems (f : Fmt) (half : Bool) : Nat :=
  let n := match f with
    | .tern => 2560
    | f => match f.width with
      | 6 => 672
      | 3 => 1344
      | w => 4096 / max 1 w
  if half then n / 2 else n

/-- The dense view of a stream as it stands on a port: the record's logical positions in order, in the port format;
its scale records lie beyond every element. -/
def StreamRec.portView (r : StreamRec) : View :=
  let v := r.view
  let dims := (below v.rank).map fun d => v.padded (v.permAt d)
  { v with
    format := r.fmt, group := r.group, scaleFmt := r.scaleFmt, outlier := r.outlier, perm := 0, phase := 0, modDim := 7,
    padMode := 0, handleForm := false, base := 0, delta := 0, extent := dims,
    stride := (below v.rank).map fun d => (((dims.take d).foldl (· * ·) 1 : Nat) : Int),
    modLen := 0, modStart := 0, scaleOff := 2 ^ 60, padLo := [], padHi := [] }

/-- A stream with its profile as a move between its record's view and its port (R151, R188 check 0x3F17). -/
def streamTmd (r : StreamRec) (profile : Nat) : Tmd :=
  { opcode := 1, version := 2, cls := 0, headReserved := 0, signal := false, chain := bits profile 0 16, channel := 0,
    plane := 0, deadline := 0, srcZero := false,
    src := if r.kind = 2 then r.portView else r.view, dst := if r.kind = 2 then r.view else r.portView,
    padValue := r.pad, qspec := bits profile 16 5, chspec := bits profile 32 32, table := 0, hdrOff := r.hdrOff,
    indexRef := 0, seed := bits profile 64 64, signalParam := 0, paramReserved := 0 }

/-- Whether a view lies in stack memory, judged by its base (R187, check 0x3F15). -/
def StreamRec.inStack (r : StreamRec) : Bool :=
  r.view.handleForm || (regionOf (localOf r.view.byteBase.toNat)).1 = .stack

/-- The first local address of a station's resident region (R185). -/
def residentBase (s : Nat) : Nat := 0x200000000000 + s * 0x400000 + 0x200000

/-- The bytes of each element of the data part, in canonical order; a constant pad has none (R194). -/
def dataBytes (v : View) : List (List Int) :=
  (below v.count).map fun n =>
    match v.readAt (v.stored (v.logical n)) with
    | none => []
    | some i =>
      let p := v.posOf v.byteBase (v.offset i)
      let k := if v.fmt = .tern then 1 else (p.sub + v.fmt.width + 7) / 8
      (below k).map fun (b : Nat) => p.byte + (b : Int)

/-- The bytes of each element's scale record, listed at the first element of its group (R194). -/
def scaleBytes (v : View) : List (List Int) :=
  (below v.count).map fun n =>
    if v.group = 0 then []
    else match v.readAt (v.stored (v.logical n)) with
    | none => []
    | some i =>
      let e := v.offset i
      if e % (v.groupSize : Int) = 0 then
        (below v.form.recordSize).map fun (b : Nat) => v.recordPos v.byteBase e + (b : Int)
      else []

/-- The bytes of each header record of a DECODE stream (R187). -/
def headerBytes (r : StreamRec) : List (List Int) :=
  (below r.view.blocks).map fun (k : Nat) => (below 128).map fun (b : Nat) => r.view.byteBase + r.hdrOff + 128 * (k : Int) + (b : Int)

/-- R194: every byte with the position in the walker's list of the sector that brings it; a sector needed again after
others is listed again. -/
def assign : List (List Int) → Nat → Option Int → List (List (Int × Nat))
  | [], _, _ => []
  | bs :: t, n, last =>
    let (row, n, last) := bs.foldl (fun (acc : List (Int × Nat) × Nat × Option Int) b =>
      let sec := b / 32
      if acc.2.2 = some sec then (acc.1 ++ [(b, acc.2.1 - 1)], acc.2.1, acc.2.2)
      else (acc.1 ++ [(b, acc.2.1)], acc.2.1 + 1, some sec)) ([], n, last)
    row :: assign t n last

/-- The bytes of a part with their positions in its list: 0 data, 1 scale records, 2 headers. -/
def partBytes (r : StreamRec) (part : Nat) : List (List (Int × Nat)) :=
  assign (match part with
    | 0 => dataBytes r.view
    | 1 => scaleBytes r.view
    | _ => headerBytes r) 0 none

/-- The sectors of a list of assigned bytes, in order: the first byte of each, as the view addresses it. -/
def listedSectors (xs : List (List (Int × Nat))) : List Int :=
  ((xs.flatten).foldl (fun (acc : List Int × Nat) x =>
    if acc.2 ≤ x.2 then (acc.1 ++ [x.1 / 32 * 32], acc.2 + 1) else acc) ([], 0)).1

/-- The sectors of a part in the walker's order, without those of a DECODE stream's blocks (R194). -/
def partSectors (r : StreamRec) (part : Nat) : List Int := listedSectors (partBytes r part)

/-- A byte of a dense copy of a view: which byte of the copy an assigned byte is (R187). -/
def denseIndex (rows : List (List (Int × Nat))) : List (Int × Nat) :=
  (rows.flatten).foldl (fun (acc : List (Int × Nat)) b => if acc.getLast? = some b then acc else acc ++ [b]) []

/-- R187: where a load stream's bytes land: offsets in the resident region, and lengths. -/
def landingRanges (r : StreamRec) : List (Int × Nat) :=
  let dense (part : Nat) : Nat := (denseIndex (partBytes r part)).length
  let aux : Int := r.aux
  [(aux, if r.decode then 4096 * r.view.blocks else dense 0)] ++
    (if r.view.group = 0 then [] else [(aux + r.view.scaleOff, dense 1)]) ++
    if r.decode then [(aux + r.hdrOff, 128 * r.view.blocks)] else []

/-- The first byte of a part, as the view addresses it (R343, R344). -/
def partStart (r : StreamRec) (part : Nat) : Int :=
  match part with
  | 0 => r.view.byteBase
  | 1 => r.view.byteBase + r.view.scaleOff
  | _ => r.view.byteBase + r.hdrOff

/-- LEN[k] as the walker reads it now (R214): a byte of the resident region at the stream map's offset. -/
def lenNow (e : Eng) (s : Nat) (id k : Nat) : Nat :=
  (memByte e (residentBase s + bits (domNat e 0x3820 1 (16 * id + 12) 4) 0 21 + k)).toNat

/-- One entry of a walker's item: a sector with its position, or a blank (R344). -/
abbrev WalkItem := List (Option (Nat × Int))

/-- The sectors of one granule of a part, in walker order, with the blanks that follow the last granule (R344). -/
def granuleItem (r : StreamRec) (part k : Nat) (len : Nat → Nat) : WalkItem :=
  let start := partStart r part
  if r.decode ∧ part = 0 then
    (below (len k)).map fun i => some (128 * k + i, start + 4096 * (k : Int) + 32 * (i : Int))
  else
    let all := partSectors r part
    let mine := ((below all.length).zip all).filter fun x => (x.2 - start) / 4096 == (k : Int)
    let last := all.foldl (fun m a => max m ((a - start) / 4096)) 0
    let item := mine.map fun x => some (x.1, x.2)
    if last = (k : Int) then item ++ List.replicate (128 - item.length) none else item

/-- The granules or blocks of a part (R344). -/
def partGranules (r : StreamRec) (part : Nat) : Nat :=
  if r.decode ∧ part = 0 then r.view.blocks
  else
    let start := partStart r part
    ((partSectors r part).foldl (fun m a => max m ((a - start) / 4096 + 1)) 0).toNat

/-- The item `i` of a walker; none past its end. In global form the data part of a DECODE stream has an item for each
block and any other part one item in all; in handle form pair `q` has an item for each round, without end (R213, R214,
R344). -/
def walkItem (e : Eng) (r : StreamRec) (part : Nat) (pair : Option Nat) (i : Nat) (len : Nat → Nat) :
    Option WalkItem :=
  match pair with
  | none =>
    if r.decode ∧ part = 0 then
      if i < r.view.blocks then some (granuleItem r part i len) else none
    else if i = 0 then
      let all := partSectors r part
      some (((below all.length).zip all).map fun x => some (x.1, x.2))
    else none
  | some q =>
    let p := (slotOf e (r.view.handle % 65536)).phase
    let n := partGranules r part
    if 24 * i + q < p ∨ n ≤ 24 * i + q - p then some (List.replicate 128 none)
    else some (granuleItem r part (24 * i + q - p) len)

/-- R213: the next `n` sectors of a walker from a cursor; `fuel` bounds the items passed, those without a sector among
them. -/
def walkTake (item : Nat → Option WalkItem) : Nat → Nat → Nat × Nat → WalkItem × (Nat × Nat)
  | 0, _, c => ([], c)
  | fuel + 1, n, (i, o) =>
    if n = 0 then ([], (i, o))
    else match item i with
    | none => ([], (i, o))
    | some xs =>
      let here := (xs.drop o).take n
      if o + here.length < xs.length then (here, (i, o + here.length))
      else
        let (rest, c) := walkTake item fuel (n - here.length) (i + 1, 0)
        (here ++ rest, c)

/-- The walker's key of a part, and of its pair in handle form. -/
def cursorKey (part : Nat) (pair : Option Nat) : Nat := part * 32 + match pair with | none => 31 | some q => q

/-- LEN of a block for a stream: the recorded one, or the byte as it stands (R196, R214). -/
def Stream.lenOf (x : Stream) (e : Eng) (s id k : Nat) : Nat :=
  let l := storeGet (fun _ => 0) x.lens k
  if l = 0 then lenNow e s id k else l

/-- The next `n` sectors of a stream's part, blanks among them, and the stream after taking them; the lengths of the
blocks met are recorded (R213, R196). -/
def takeSectors (e : Eng) (s : Nat) (r : StreamRec) (part : Nat) (pair : Option Nat) (n : Nat) (x : Stream) :
    WalkItem × Stream :=
  let key := cursorKey part pair
  let len := x.lenOf e s r.id
  let (xs, c) := walkTake (fun i => walkItem e r part pair i len) (n + partGranules r part + 2) n (storeGet (fun _ => (0, 0)) x.cursor key)
  let lens := if r.decode ∧ part = 0 then
      xs.foldl (fun m o => match o with
        | some (q, _) => storeSet (fun _ => 0) (q / 128) (len (q / 128)) m
        | none => m) x.lens
    else x.lens
  (xs, { x with cursor := storeSet (fun _ => (0, 0)) key c x.cursor, lens })

/-- The lane entries' width of a grouped port format (R152); 0 where there is no scale lane. -/
def StreamRec.laneWidth (r : StreamRec) : Nat :=
  if r.group = 0 then 0 else if r.outlier then 64 else if r.scaleFmt = 2 then 16 else 8

/-- The group size of the port format. -/
def StreamRec.portGroup (r : StreamRec) : Nat := match r.group with | 0 => 0 | 1 => 32 | 2 => 64 | _ => 128

/-- The elements of a stream. -/
def StreamRec.elems (r : StreamRec) : Nat := r.view.count

/-- The elements of data beat `b` of an operand stream (R184). -/
def beatRange (r : StreamRec) (b : Nat) : Nat × Nat :=
  let n := beatElems r.portFmt false
  (n * b, min (n * (b + 1)) r.elems)

/-- The data beats of an operand stream. -/
def StreamRec.beats (r : StreamRec) : Nat :=
  let n := beatElems r.portFmt false
  (r.elems + n - 1) / n

/-- The groups whose first element lies in beat `b` (R152). -/
def beatGroups (r : StreamRec) (b : Nat) : List Nat :=
  let g := max 1 r.portGroup
  let (lo, hi) := beatRange r b
  if r.group = 0 then [] else upFrom ((lo + g - 1) / g) ((hi + g - 1) / g - (lo + g - 1) / g)

/-- k of R152 for a full beat. -/
def laneBeats (r : StreamRec) : Nat :=
  if r.group = 0 then 1
  else max 1 ((beatElems r.portFmt false / max 1 r.portGroup * r.laneWidth + 255) / 256)

/-- The ring of a stream's forage queue in its station's Pool (R185, R193): its first local address, and its sectors. -/
def queueRing (e : Eng) (s : Nat) (r : StreamRec) : Nat × Nat :=
  let q := reg e (stIdx s 2) (r.queue + 1)
  (0x200000000000 + s * 0x400000 + 4096 * bits q 0 9, 128 * bits q 16 10)

/-- The local address of the sector at a place of the queue's order (R193). -/
def queueAddr (e : Eng) (s : Nat) (r : StreamRec) (pos : Nat) : Nat :=
  (queueRing e s r).1 + 32 * (pos % max 1 (queueRing e s r).2)

/-- The interval of R197. -/
def interval (r : StreamRec) : Nat :=
  let w := match r.view.fmt with
    | .tern => (beatElems r.portFmt false * 8 / 5 + 4095) / 4096
    | f => (beatElems r.portFmt false * f.width + 4095) / 4096
  max (laneBeats r) w

/-- L of R197, in ARCLK, by whether the stream is decoded and whether its chain is empty. -/
def startLatency (decode emptyChain : Bool) : Nat := (if decode then 48 else 24) + if emptyChain then 0 else 8

/-- Whether a stream's profile has an empty chain. -/
def emptyChain (profile : Nat) : Bool := bits profile 0 4 == 0

/-- The stitch lines between two fields. -/
def stitches (a b : Nat) : Nat := if a ≤ b then b - a else a - b

/-- The field of a station and of a stack agent (R25). -/
def fieldOfStation (s : Nat) : Nat := s / 12

@[inherit_doc fieldOfStation]
def fieldOfAgent (n : Nat) : Nat := n / 6

/-- A post on its way to a link counter: applied 32 + 48h ARCLK after its event (R201). -/
def sendPost (fromStation station ctr amount at_ : Nat) (e : Eng) : Eng :=
  let h := stitches (fieldOfStation fromStation) (fieldOfStation station)
  onDock station (fun d => { d with posts := d.posts ++ [⟨ctr, amount, at_ + 32 + 48 * h⟩] }) e

/-- The moment of the clock on the timeline of R34, in ARCLK. -/
def timeline (e : Eng) : Nat := e.now - e.spBase.getD 0

/-- The clock moved on to an ARCLK cycle of the timeline. -/
def advanceCycle (c : Nat) (e : Eng) : Eng := advanceTo (e.spBase.getD 0 + c) e

/-- R195, R192: an event of a stream: recorded in LAST_STREAM_STATUS, and raised as the station's fault. -/
def streamEvent (s id : Nat) (st : Status) (detail : Nat) (e : Eng) : Eng :=
  e |> setReg (stIdx s 5) 1 (st.code + detail * 2 ^ 8 + id * 2 ^ 24) |> raise s detail

end Sys2Proof.Machine
end

