-- ==== Sys2Proof/Machine/Docks.lean ====
section
/-! DEFINITION. Dock commands, holds, cancels, unit groups and link counters (spec/08_docks.md R189 to R209;
spec/13_remote_sync.md R333). -/

namespace Sys2Proof.Machine

/-- A 128-bit dock command from its OP and its bits [127:4] (R189). -/
def dockWord (op : Nat) (w : BitVec 124) : Nat := op + 16 * w.toNat

/-- The fields of R189 that each OP uses, OP itself among them. -/
def usedBits (op : Nat) : Nat :=
  let slotId := (2 ^ 7 - 1) * 2 ^ 8 + (2 ^ 12 - 1) * 2 ^ 16
  let count := (2 ^ 32 - 1) * 2 ^ 64
  15 + match op with
    | 1 => slotId + 15 * 2 ^ 28 + count
    | 2 | 4 => slotId + 7 * 2 ^ 4
    | 3 => slotId
    | 5 => (2 ^ 11 - 1) * 2 ^ 32 + count
    | 6 | 7 => 3 * 2 ^ 46
    | _ => 0

/-- The fields of a dock command (R189). -/
def cmdSlot (x : Nat) : Nat := bits x 8 7

@[inherit_doc cmdSlot]
def cmdProfile (x : Nat) : Nat := bits x 4 3

@[inherit_doc cmdSlot]
def cmdStream (x : Nat) : Nat := bits x 16 12

@[inherit_doc cmdSlot]
def cmdCount (x : Nat) : Nat := bits x 64 32

/-- Check 0x3F21 of R192. -/
def cmdWellFormed (x : Nat) : Bool :=
  let op := bits x 0 4
  op < 8 && x &&& usedBits op == x && bits x 28 4 ≤ 4 && bits x 32 6 < 48

/-- A link counter of a station (R201). -/
def linkCtr (e : Eng) (s k : Nat) : Nat := reg e (stIdx s 3) (k + 1)

/-- A command that fails a check of R192: recorded, counted and raised; `discarded` also records its bits. -/
def badCommand (s x : Nat) (st : Status) (detail : Nat) (discarded : Bool) (e : Eng) : Eng :=
  let e := e |> streamEvent s (cmdStream x) st detail |> bump (stIdx s 0x30) 3
  if discarded then setReg (stIdx s 5) 2 x e else e

/-- R173: a FENCING slot without references retires. -/
def retireSlot (s k : Nat) (e : Eng) : Eng :=
  let i := stIdx s (0x20 + k)
  if reg e i 2 = 2 ∧ reg e i 6 = 0 then
    e |> setReg i 2 0 |> setReg i 5 (reg e i 4) |> setReg i 4 0 |> setReg i 7 0 |> setReg i 1 0
  else e

/-- R174: a block's reference is given back. -/
def dropRef (s k : Nat) (e : Eng) : Eng :=
  let i := stIdx s (0x20 + k)
  retireSlot s k (setReg i 6 (reg e i 6 - 1) e)

/-- The references of the blocks of a stream that are counted and not yet decoded are given back (R174, R199). -/
def dropStreamRefs (s : Nat) (x : Stream) (e : Eng) : Eng :=
  x.checks.foldl (fun e c => match c.2 with
    | .coded k => dropRef s k e
    | _ => e) e

/-- Whether a gate is satisfied: (x - COUNT) mod 2^32 is below 2^31 (R202). -/
def gateMet (x count : Nat) : Bool := (x + 2 ^ 32 - count % 2 ^ 32) % 2 ^ 32 < 2 ^ 31

/-- The first aligned frame boundary at least 128 ARCLK after a moment, in ARCLK (R202). -/
def releaseAt (m align : Nat) : Nat :=
  let step := 2 ^ align * frameT
  (m + 128 + step - 1) / step * step

/-- A stream armed (R190, R203). -/
def armStream (s slot at_ : Nat) (expired : Bool) (e : Eng) : Eng :=
  onDock s (setStream slot { armedAt := at_, expired, poisoned := expired }) { e with fw := { e.fw with busy := true } }

/-- The station's allocation in units of 0.1 W (R333). -/
def stationWatts : Nat := 50

/-- LEND and RECLAIM messages (R395). -/
def lendWord (type s : Nat) : Word32 := BitVec.ofNat 32 (type * 2 ^ 28 + s + stationWatts * 2 ^ 6)

/-- R333: a hold begins: a predicted long wait lends the station's allocation. -/
def lendFor (s ctr : Nat) (e : Eng) : Eng :=
  let len := storeGet (fun _ => 0) (dockOf e s).holdLens ctr
  if reg e 0x5103 1 < len then
    onDock s (fun d => { d with lent := true }) e |> bump 0x5120 8 |>
      setReg 0x1101 2 (reg e 0x1101 2 + stationWatts) |> sendPwr (lendWord 2 s)
  else e

/-- R333: the allocation is taken back. -/
def reclaim (s : Nat) (e : Eng) : Eng :=
  if (dockOf e s).lent then
    onDock s (fun d => { d with lent := false }) e |> setReg 0x1101 2 (reg e 0x1101 2 - stationWatts) |>
      sendPwr (lendWord 3 s)
  else e

/-- Whether the queue of a stack-memory stream is usable: configured, and bound to no other armed stream (R192 check
0x3F23). -/
def queueFree (e : Eng) (s slot : Nat) (r : StreamRec) : Bool :=
  let d := dockOf e s
  !(r.inStack && r.kind ≠ 3) ||
    (2 ≤ bits (reg e (stIdx s 2) (r.queue + 1)) 16 10 && d.streams.all fun x =>
      x.1 == slot || x.2.cancelAt.isSome || !((recOf d x.1).inStack && (recOf d x.1).kind ≠ 3) ||
        (recOf d x.1).queue ≠ r.queue)

/-- Check 0x3F22 of R192. -/
def namesRecord (d : Dock) (x : Nat) : Bool :=
  recordOf d (cmdSlot x) ≠ 0 && (recOf d (cmdSlot x)).id == cmdStream x

/-- ARM (R190, R192, R202); a parked block discards it (R375). -/
def runArm (s c x : Nat) (e : Eng) : Eng :=
  let d := dockOf e s
  let slot := cmdSlot x
  let r := recOf d slot
  if reg e 0x6000 1 = 6 then badCommand s x .orphaned 0x6063 true e
  else if !namesRecord d x then badCommand s x .badEntry 0x3F22 true e
  else if (streamOf d slot).isSome || !queueFree e s slot r then badCommand s x .denied 0x3F23 true e
  else if r.gateEn && !gateMet (linkCtr e s r.gateCtr) (cmdCount x) then
    onDock s (fun d => { d with hold := some ⟨slot, r.gateCtr, cmdCount x, bits x 28 4, c, none, none⟩ }) e |>
      lendFor s r.gateCtr
  else armStream s slot c false e

/-- The end of a started operand stream's delivery, in ARCLK (R197). -/
def deliveryEnd (r : StreamRec) (x : Stream) : Nat :=
  x.started.getD 0 + startLatency r.decode (emptyChain x.profile) + interval r * r.beats

/-- Whether another operand stream delivers at or after a moment (R192 check 0x3F25). -/
def deliversAfter (d : Dock) (slot t : Nat) : Bool :=
  d.streams.any fun x => x.1 ≠ slot && x.2.started.isSome && x.2.cancelAt.isNone && (recOf d x.1).kind == 1 &&
    t < deliveryEnd (recOf d x.1) x.2

/-- Whether another result stream is open (R192 check 0x3F25). -/
def resultOpen (d : Dock) (slot : Nat) : Bool :=
  d.streams.any fun x => x.1 ≠ slot && x.2.started.isSome && x.2.cancelAt.isNone && !x.2.done && (recOf d x.1).kind == 2

/-- Whether a unit group is open (R207). -/
def Gate.isOpen : Gate → Bool
  | .opened | .closing => true
  | _ => false

/-- START and ACCEPT (R190, R192): the checks on the stream, then its start, poisoned where the profile or the unit
group does not serve it. -/
def runStart (kind s c x : Nat) (e : Eng) : Eng :=
  let d := dockOf e s
  let slot := cmdSlot x
  let r := recOf d slot
  let profile := reg e (stIdx s (0x18 + cmdProfile x)) 1
  if !namesRecord d x then badCommand s x .badEntry 0x3F22 true e
  else match streamOf d slot with
  | none => badCommand s x .denied 0x3F24 true e
  | some y =>
    if r.kind ≠ kind ∨ y.started.isSome ∨ y.cancelAt.isSome then badCommand s x .denied 0x3F24 true e
    else
      let latency := startLatency r.decode (emptyChain profile)
      let clash := if kind = 1 then deliversAfter d slot (c + latency) else resultOpen d slot
      if clash then badCommand s x .denied 0x3F25 true e
      else
        let t := streamTmd r profile
        let formatsOk := streamRules t.ops t.src t.dst
        let gateOpen := (if kind = 1 then d.operandGate else d.resultGate).isOpen
        let z : Stream := { y with
          started := some c, profile, rows := reg e (stIdx s 0x11) 1, cols := reg e (stIdx s 0x11) 2,
          sel := reg e (stIdx s 0x11) 3, poisoned := y.poisoned || !formatsOk || !gateOpen }
        let e := onDock s (setStream slot z) e |> bump (stIdx s 0x30) 5
        if !formatsOk then badCommand s x .badView 0x3F26 false e
        else if !gateOpen then badCommand s x .denied 0x3F27 false e
        else e

/-- CANCEL (R199). A slot whose stream is not armed, or drains already, has nothing to stop. -/
def runCancel (s c x : Nat) (e : Eng) : Eng :=
  let d := dockOf e s
  let slot := cmdSlot x
  if !namesRecord d x then badCommand s x .badEntry 0x3F22 true e
  else match streamOf d slot with
  | none => e
  | some y =>
    if y.cancelAt.isSome then e
    else
      let z : Stream := { y with cancelAt := some c, checks := [], landed := [], staged := [], places := [], tile := [] }
      let e := dropStreamRefs s y e
      let e := onDock s (fun d => { setStream slot z d with
        tally := d.tally.filter fun t => t.slot ≠ slot }) e
      e |> bump (stIdx s 0x30) 6 |>
        setReg (stIdx s 5) 1 (Status.cancelled.code + 0x3F35 * 2 ^ 8 + cmdStream x * 2 ^ 24)

/-- The unit groups named by UNITS changed (R207). -/
def onGates (units : Nat) (f : Gate → Gate) (s : Nat) (e : Eng) : Eng :=
  onDock s (fun d => { d with
    operandGate := if bit units 0 then f d.operandGate else d.operandGate
    resultGate := if bit units 1 then f d.resultGate else d.resultGate }) e

/-- WAKE: a closed group opens 180 ARCLK after acceptance (R207). -/
def wakeGate (c : Nat) : Gate → Gate
  | .closed => .opening (c + 180)
  | .closing => .opened
  | g => g

/-- SLEEP: an open group closes as soon as nothing uses it (R207). -/
def sleepGate : Gate → Gate
  | .opened => .closing
  | .opening _ => .closed
  | g => g

/-- What an accepted command of a valid form does (R190). -/
def runCommand (s c x : Nat) (e : Eng) : Eng :=
  match bits x 0 4 with
  | 1 => runArm s c x e
  | 2 => runStart 1 s c x e
  | 3 => runCancel s c x e
  | 4 => runStart 2 s c x e
  | 5 => sendPost s (bits x 32 6) (bits x 38 5) (cmdCount x) c e
  | 6 => onGates (bits x 46 2) (wakeGate c) s e
  | 7 => onGates (bits x 46 2) sleepGate s e
  | _ => e

/-- A command presented at a dock at an ARCLK cycle (R191, R192, R16). -/
def dockCommand (s c x : Nat) (e : Eng) : Eng :=
  let e := advanceCycle c e
  let d := dockOf e s
  if !isReady e || !partUp e s then e
  else if d.hold.isSome || d.contained then
    e |> bump (stIdx s 0x30) 4 |> setReg (stIdx s 5) 2 x |> raise s 0x3F28
  else if d.lastCmd.any fun t => c ≤ t + 7 then
    e |> bump (stIdx s 0x30) 2 |> setReg (stIdx s 5) 2 x |> raise s 0x3F20
  else
    let e := onDock s (fun d => { d with lastCmd := some c }) e |> bump (stIdx s 0x30) 1
    if !cmdWellFormed x then badCommand s x .badEntry 0x3F21 true e else runCommand s c x e

/-- DOCK_NOP (R190). -/
def execDockNop (s : Fin 48) (c : Nat) (w : BitVec 124) (st : State) : Host.Outcome State Fault Refusal :=
  .next (onEng (dockCommand s.val c (dockWord 0 w)) st)

/-- ARM (R190). -/
def execArm (s : Fin 48) (c : Nat) (w : BitVec 124) (st : State) : Host.Outcome State Fault Refusal :=
  .next (onEng (dockCommand s.val c (dockWord 1 w)) st)

/-- START (R190). -/
def execStart (s : Fin 48) (c : Nat) (w : BitVec 124) (st : State) : Host.Outcome State Fault Refusal :=
  .next (onEng (dockCommand s.val c (dockWord 2 w)) st)

/-- CANCEL (R190). -/
def execCancel (s : Fin 48) (c : Nat) (w : BitVec 124) (st : State) : Host.Outcome State Fault Refusal :=
  .next (onEng (dockCommand s.val c (dockWord 3 w)) st)

/-- ACCEPT (R190). -/
def execAccept (s : Fin 48) (c : Nat) (w : BitVec 124) (st : State) : Host.Outcome State Fault Refusal :=
  .next (onEng (dockCommand s.val c (dockWord 4 w)) st)

/-- POST (R190, R201). -/
def execPost (s : Fin 48) (c : Nat) (w : BitVec 124) (st : State) : Host.Outcome State Fault Refusal :=
  .next (onEng (dockCommand s.val c (dockWord 5 w)) st)

/-- WAKE (R190, R207). -/
def execWake (s : Fin 48) (c : Nat) (w : BitVec 124) (st : State) : Host.Outcome State Fault Refusal :=
  .next (onEng (dockCommand s.val c (dockWord 6 w)) st)

/-- SLEEP (R190, R207). -/
def execSleep (s : Fin 48) (c : Nat) (w : BitVec 124) (st : State) : Host.Outcome State Fault Refusal :=
  .next (onEng (dockCommand s.val c (dockWord 7 w)) st)

/-- RESERVED_DOCK_COMMAND (R190, R192): OP 8 to 15. -/
def execReservedDockCommand (s : Fin 48) (c : Nat) (op : Fin 8) (w : BitVec 124) (st : State) :
    Host.Outcome State Fault Refusal :=
  .next (onEng (dockCommand s.val c (dockWord (8 + op.val) w)) st)

/-- Whether some started or open stream uses a unit group (R207). -/
def groupInUse (d : Dock) (result : Bool) : Bool :=
  d.streams.any fun x => x.2.started.isSome && x.2.cancelAt.isNone && !x.2.done &&
    (recOf d x.1).kind == (if result then 2 else 1)

/-- UNIT_GROUP_OPEN (R207): 180 ARCLK after the WAKE. -/
def openGroup (s : Nat) (result : Bool) (e : Eng) : Eng :=
  match if result then (dockOf e s).resultGate else (dockOf e s).operandGate with
  | .opening t => onGates (if result then 2 else 1) (fun _ => .opened) s (advanceCycle t e)
  | _ => e

/-- UNIT_GROUP_CLOSE (R207): once no started or open stream uses the group. -/
def closeGroup (s : Nat) (result : Bool) (e : Eng) : Eng :=
  match if result then (dockOf e s).resultGate else (dockOf e s).operandGate with
  | .closing =>
    if groupInUse (dockOf e s) result then e else onGates (if result then 2 else 1) (fun _ => .closed) s e
  | _ => e

/-- The end of a hold: its length is recorded for its gate counter (R333), and the stream is armed (R202, R203). -/
def endHoldAt (s : Nat) (h : Hold) (t : Nat) (expired : Bool) (e : Eng) : Eng :=
  let e := advanceCycle t e
  onDock s (fun d => { d with hold := none, holdLens := storeSet (fun _ => 0) h.ctr ((t - h.since) / 2) d.holdLens }) e |>
    armStream s h.slot t expired

/-- When a hold's condition first held, if that was by the limit of R203. -/
def Hold.heldBy (h : Hold) (limit : Nat) : Option Nat := h.first.filter fun m => decide (m ≤ limit)

/-- The ARCLK at which a station's hold expires (R203): LINK_WAIT_LIMIT frames after the ARM. -/
def holdLimit (e : Eng) (s : Nat) (h : Hold) : Nat := h.since + frameT * reg e (stIdx s 4) 2

/-- GATE_CONDITION_MET (R202, R333): the gate has been satisfied; m is the ARCLK of the post that first did it. -/
def execGateConditionMet (s : Fin 48) (st : State) : Host.Outcome State Fault Refusal :=
  .next (onEng (fun e =>
    match (dockOf e s.val).hold with
    | some h =>
      match h.met, h.heldBy (holdLimit e s.val h) with
      | none, some m => reclaim s.val (onDock s.val (fun d => { d with hold := some { h with met := some m } }) e)
      | _, _ => e
    | none => e) st)

/-- HOLD_RELEASE (R202): at the aligned frame boundary the stream is armed and CMD_READY rises. -/
def execHoldRelease (s : Fin 48) (st : State) : Host.Outcome State Fault Refusal :=
  .next (onEng (fun e =>
    match (dockOf e s.val).hold with
    | some h =>
      match h.met with
      | some m => endHoldAt s.val h (releaseAt m h.align) false e
      | none => e
    | none => e) st)

/-- LINK_WAIT_EXPIRY (R203): the condition has not held by LINK_WAIT_LIMIT frames after the ARM; the hold is released and
the stream armed expired. -/
def execLinkWaitExpiry (s : Fin 48) (st : State) : Host.Outcome State Fault Refusal :=
  .next (onEng (fun e =>
    match (dockOf e s.val).hold with
    | some h =>
      if (h.heldBy (holdLimit e s.val h)).isSome then e
      else
        let id := (recOf (dockOf e s.val) h.slot).id
        e |> reclaim s.val |>
          endHoldAt s.val h (releaseAt (holdLimit e s.val h) h.align) true |>
          streamEvent s.val id .waitExpired 0x3F34 |> bump (stIdx s.val 0x30) 12
    | none => e) st)

/-- CANCEL_DRAIN_END (R199): 1792 ARCLK after the CANCEL the queue is empty and the slot may be armed again. -/
def execCancelDrainEnd (s : Fin 48) (slot : Fin 128) (st : State) : Host.Outcome State Fault Refusal :=
  .next (onEng (fun e =>
    match streamOf (dockOf e s.val) slot.val with
    | some x =>
      match x.cancelAt with
      | some c => onDock s.val (dropStream slot.val) (advanceCycle (c + 1792) e)
      | none => e
    | none => e) st)

/-- The earliest of a list of posts to a counter, in their order. -/
def earliestPost (ctr : Nat) : List Post → Option Post
  | [] => none
  | p :: t =>
    match earliestPost ctr t with
    | some q => if p.ctr = ctr ∧ p.due ≤ q.due then some p else some q
    | none => if p.ctr = ctr then some p else none

/-- R202: the posts of an ARCLK have been added to a counter: a hold that waits for it notes the first one that meets its
gate. -/
def noteGate (s ctr at_ : Nat) (e : Eng) : Eng :=
  onDock s (fun d => { d with hold := d.hold.map fun h =>
    if h.ctr = ctr ∧ h.first.isNone ∧ gateMet (linkCtr e s ctr) h.count then { h with first := some at_ } else h }) e

/-- LINK_POST_APPLY (R201): the posts to a counter that fall due next are all added. -/
def execLinkPostApply (s : Fin 48) (ctr : Fin 32) (st : State) : Host.Outcome State Fault Refusal :=
  .next (onEng (fun e =>
    match earliestPost ctr.val (dockOf e s.val).posts with
    | some p =>
      let e := advanceCycle p.due e
      let now := (dockOf e s.val).posts.filter fun q => q.ctr == ctr.val && q.due == p.due
      let sum := (now.map (·.amount)).sum
      onDock s.val (fun d => { d with posts := d.posts.filter fun q => !(q.ctr == ctr.val && q.due == p.due) }) e |>
        setReg (stIdx s.val 3) (ctr.val + 1) ((linkCtr e s.val ctr.val + sum) % 2 ^ 32) |> noteGate s.val ctr.val p.due
    | none => e) st)

/-- LINK_POST (R201, R208): the entry's write posts to a counter of its own station. -/
def effLinkPost (s : Nat) : Effect := fun v st =>
  (.ok, onEng (fun e => sendPost s s (bits v 0 5) (bits v 32 32) (timeline e) e) st)

/-- LINK_POST (R201). -/
def execLinkPost (p : Port) (s : Fin 48) (ctr : Fin 32) (amount : Word32) (st : State) :
    Host.Outcome State Fault Refusal :=
  .next (portWrite p (stIdx s.val 4) 1 (ctr.val + amount.toNat * 2 ^ 32) (effLinkPost s.val) st)

/-- DOCK_STATE (R208). -/
def dockState (e : Eng) (s : Nat) : Nat :=
  if !partUp e s then 0 else if (dockOf e s).contained then 3 else if (dockOf e s).hold.isSome then 2 else 1

/-- UNIT_GATES (R208). -/
def unitGates (e : Eng) (s : Nat) : Nat :=
  (if (dockOf e s).operandGate.isOpen then 1 else 0) + if (dockOf e s).resultGate.isOpen then 2 else 0

/-- COMMITTED and ARMED (R208). -/
def committedMask (e : Eng) (s : Nat) : Nat := (dockOf e s).committed.foldl (fun m x => m ||| 2 ^ x.1) 0

@[inherit_doc committedMask]
def armedMask (e : Eng) (s : Nat) : Nat := (dockOf e s).streams.foldl (fun m x => m ||| 2 ^ x.1) 0

/-- QUEUE_q (R193): refused while an armed or draining stream is bound to it. -/
def effQueue (s q : Nat) : Effect := fun v st =>
  let e := st.eng
  let d := dockOf e s
  let base := bits v 0 9
  let size := bits v 16 10
  if d.streams.any (fun x => let r := recOf d x.1; r.inStack && r.kind ≠ 3 && r.queue == q) then (.denied, st)
  else
    let overlaps := (below 16).any fun k =>
      let o := reg e (stIdx s 2) (k + 1)
      k ≠ q && bits o 16 10 ≠ 0 && size ≠ 0 && base < bits o 0 9 + bits o 16 10 && bits o 0 9 < base + size
    if size = 1 ∨ 512 < base + size ∨ overlaps then (.badValue, st)
    else (.ok, onEng (setReg (stIdx s 2) (q + 1) (bits v 0 9 + size * 2 ^ 16)) st)

/-- The regions that a static stream's views reach: local stack memory and the station's resident region are told
apart by check 0x3F15. -/
def streamRegions : Region → Bool
  | .stack | .pool => true
  | _ => false

/-- Whether bytes lie in a station's resident region (R185). -/
def inResident (s : Nat) (lo hi : Int) : Bool :=
  decide ((residentBase s : Int) ≤ lo ∧ hi < (residentBase s + 0x200000 : Nat))

/-- Every byte that a view touches, its scale array among them. -/
def View.span (v : View) : Int × Int :=
  let ((a, b), (c, d)) := v.touched
  if v.group = 0 then (a, b) else (min a c, max b d)

/-- The chains of a profile (R151): up to four op codes, of the conversions that a profile may hold. -/
def profileChains : List (List Op) :=
  [[], [.dequant], [.chscale], [.cast], [.quant], [.dequant, .chscale], [.dequant, .cast], [.dequant, .quant],
   [.chscale, .cast], [.chscale, .quant], [.dequant, .chscale, .cast], [.dequant, .chscale, .quant]]

/-- The checks of R188 in table order. -/
def recordChecks (e : Eng) (s slot : Nat) (r : StreamRec) (kind : Nat) : List (Option Nat) :=
  let v := r.view
  let d := dockOf e s
  let env := viewEnv e streamRegions
  let role : ViewRole := if kind = 2 then .dest false else .source
  let (lo, hi) := v.span
  let inStack := v.handleForm || ((regionOf (localOf v.byteBase.toNat)).1 = .stack &&
    endpointOf v.byteBase.toNat == reg e 0x5000 1)
  let inRes := !v.handleForm && inResident s (localOf lo.toNat : Nat) (localOf hi.toNat : Nat)
  let w (n : Nat) : Bool := match v.fmt with
    | .tern => n * 8 % 1280 == 0
    | f => n * f.width % 256 == 0
  let lands := (landingRanges r).all fun q => decide (0 ≤ q.1 ∧ q.1 + q.2 ≤ 0x200000)
  let used3 := r.fmt == 0 && r.group == 0 && r.scaleFmt == 0 && !r.outlier
  let need (ok : Bool) (n : Nat) : Option Nat := if ok then none else some n
  [need (1 ≤ kind && kind ≤ 3 && r.reserved == 0 && v.reserved == 0 && (kind ≠ 3 || used3) &&
      (kind == 3 || r.pass || r.aux == 0) && (r.decode || r.hdrOff == 0) &&
      (kind ≠ 3 || r.queue == 0) && (if kind = 2 then r.pad == 0 else padOk v.format r.pad) && r.endStation < 48)
      0x3F11,
   need (d.committed.all fun c => c.1 == slot || (parseStream c.2).id ≠ r.id) 0x3F12,
   (checkView env role 0 v).map (·.detail),
   need (v.permAt 0 == 0 && v.str 0 == 1 && v.phase == 0 && v.modDim ≠ 0 && w (v.ext 0) && w (v.lo 0) &&
      w (v.padHi.getD 0 0) && (kind ≠ 2 || (below v.rank).all fun k => v.str k ≠ 0)) 0x3F14,
   need ((inStack || (inRes && kind ≠ 3)) && (kind ≠ 3 || lands) &&
      (!r.pass || (kind == 1 && inRes))) 0x3F15,
   need (!r.decode || (kind ≠ 2 && blockLayout v && v.fmt ≠ .tern && v.fmt.width ∈ [1, 2, 4, 8, 16, 32] &&
      headersOk env (streamTmd r 0))) 0x3F16,
   need (kind == 3 || ((fmtOf r.fmt).isSome && profileChains.any fun ops =>
      streamRules ops (streamTmd r 0).src (streamTmd r 0).dst)) 0x3F17,
   need (!v.handleForm || (let h := slotOf e (v.handle % 65536)
      if kind = 2 then h.policy == 0 else h.policy ≠ 1)) 0x5821,
   need (!v.handleForm || ((List.range 3).all fun part =>
      (part == 1 && v.group == 0) || (part == 2 && !r.decode) || partStart r part % 98304 == 0)) 0x5822]

/-- The first failing check of a commit, if any (R188, R343). -/
def firstDetail : List (Option Nat) → Option Nat
  | [] => none
  | some d :: _ => some d
  | none :: t => firstDetail t

/-- The handle that a committed record pins (R338). -/
def recordHandle (rec : Nat) : Option Nat :=
  let v := (parseStream rec).view
  if rec ≠ 0 ∧ v.handleForm then some v.handle else none

/-- The committed record of a slot replaced, with its pin (R188, R338). -/
def commitRecord (s slot rec : Nat) (e : Eng) : Eng :=
  let e := match recordHandle (recordOf (dockOf e s) slot) with
    | some h => unpinHandle h e
    | none => e
  let e := match recordHandle rec with
    | some h => pinHandle h e
    | none => e
  onDock s (fun d => { d with committed := storeSet (fun _ => 0) slot rec d.committed }) e

/-- STREAM_COMMIT (R188, R208, R343): bit 7 clear commits the staging record, bit 7 set clears the slot. -/
def effStreamCommit (s : Nat) : Effect := fun v st =>
  let e := st.eng
  let slot := bits v 0 7
  if (streamOf (dockOf e s) slot).isSome then (.denied, st)
  else if bit v 7 then (.ok, onEng (commitRecord s slot 0) st)
  else
    let x := domNat e (stIdx s 1) 1 (128 * slot) 128
    let r := parseStream x
    match firstDetail (recordChecks e s slot r r.kind) with
    | some d => (.badValue, onEng (setReg (stIdx s 1) 3 d) st)
    | none => (.ok, onEng (fun e => commitRecord s slot x e |> setReg (stIdx s 1) 3 0) st)

/-- STREAM_COMMIT (R188). -/
def execStreamCommit (p : Port) (s : Fin 48) (slot : Fin 128) (st : State) : Host.Outcome State Fault Refusal :=
  .next (portWrite p (stIdx s.val 1) 2 slot.val (effStreamCommit s.val) st)

/-- STREAM_CLEAR (R208). -/
def execStreamClear (p : Port) (s : Fin 48) (slot : Fin 128) (st : State) : Host.Outcome State Fault Refusal :=
  .next (portWrite p (stIdx s.val 1) 2 (128 + slot.val) (effStreamCommit s.val) st)

/-- The table record held by a slot's DOMAIN (R163, R173). -/
def slotTable (e : Eng) (s k : Nat) : Nat := domNat e (stIdx s (0x20 + k)) 1 0 144

/-- Whether a table record may be loaded into a slot (R164, R173). -/
def tableLoadOk (e : Eng) (s k : Nat) : Bool :=
  let x := slotTable e s k
  let t := parseTable x
  tableReservedOk x && t.tag ≠ 0 && t.tag ≠ reg e (stIdx s (0x20 + k)) 5 && lengthsOk t.lengths

/-- The table of a slot becomes LIVE (R173). -/
def loadTable (s k : Nat) (e : Eng) : Eng :=
  let t := parseTable (slotTable e s k)
  let i := stIdx s (0x20 + k)
  e |> setReg i 2 1 |> setReg i 4 t.tag |> setReg i 7 (if t.wide then 1 else 0) |> setReg i 1 144

/-- SLOT_CTRL (R173). -/
def effSlotCtrl (s k : Nat) : Effect := fun v st =>
  let i := stIdx s (0x20 + k)
  let state := reg st.eng i 2
  match v with
  | 0 => (.ok, st)
  | 1 =>
    if state ≠ 0 then (.denied, st)
    else if tableLoadOk st.eng s k then (.ok, onEng (loadTable s k) st)
    else (.badValue, st)
  | 2 => (.ok, onEng (fun e => if state = 1 then retireSlot s k (setReg i 2 2 e) else e) st)
  | _ => (.badValue, st)

/-- SLOT_LOAD (R173). -/
def execSlotLoad (p : Port) (s : Fin 48) (k : Fin 8) (st : State) : Host.Outcome State Fault Refusal :=
  .next (portWrite p (stIdx s.val (0x20 + k.val)) 3 1 (effSlotCtrl s.val k.val) st)

/-- SLOT_FENCE (R173). -/
def execSlotFence (p : Port) (s : Fin 48) (k : Fin 8) (st : State) : Host.Outcome State Fault Refusal :=
  .next (portWrite p (stIdx s.val (0x20 + k.val)) 3 2 (effSlotCtrl s.val k.val) st)

end Sys2Proof.Machine
end

