-- ==== Sys2Proof/Machine/Deck.lean ====
section
/-! DEFINITION. The Deck (spec/09_deck.md R210 to R230): the card of a slot under the Hands in force, the load checks,
and swaps. -/

namespace Sys2Proof.Machine

/-- A pattern entry of a HAND_PATTERN (R216): HAND_A, HAND_B, TWO. -/
def patternEntry (pattern j : Nat) : Nat × Nat × Bool :=
  (bits pattern (5 * (j % 16)) 2, bits pattern (5 * (j % 16) + 2) 2, bit pattern (5 * (j % 16) + 4))

/-- Whether a pattern names a Hand (R224). -/
def namesHand (pattern h : Nat) : Bool :=
  (below 16).any fun j =>
    let (a, b, two) := patternEntry pattern j
    a == h || (two && b == h)

/-- Whether frame `f` takes the configuration of a decided swap that has not begun (R225). -/
def decidedFor (e : Eng) (f : Nat) : Bool := e.deck.decided.any fun d => d ≤ f

/-- The pattern in force in frame `f`, as far as it is decided (R225). -/
def patternAt (e : Eng) (f : Nat) : Nat := if decidedFor e f then e.deck.pattern else reg e 0x3800 2

/-- The reserve counts in force in frame `f` (R211, R225). -/
def countsAt (e : Eng) (f : Nat) : Nat := if decidedFor e f then e.deck.counts else reg e 0x3800 3

/-- Whether an agent uses the built-in layout in frame `f` (R215, R225, R228). -/
def blankAt (e : Eng) (n f : Nat) : Bool := !decidedFor e f && bit (reg e 0x3800 6) n

/-- A card entry of a Hand (R212). -/
def handEntry (e : Eng) (n hand i : Nat) : Nat := domNat e (0x3880 + n) (hand + 1) (16 * i) 16

/-- KIND of a card entry (R212). -/
def entryKind (w : Nat) : Nat := bits w 28 4

/-- Whether a card entry is static (R212). -/
def isStatic (w : Nat) : Bool := entryKind w == 1 || entryKind w == 2

/-- The card entry that a pattern entry gives, merged in a two-hand frame (R217). -/
def mergedEntry (e : Eng) (n i : Nat) (p : Nat × Nat × Bool) : Nat :=
  let a := handEntry e n p.1 i
  let b := handEntry e n p.2.1 i
  if p.2.2 ∧ !isStatic a ∧ isStatic b then b else a

/-- The entry of card (s, g) of frame `f` at agent `n`, with `abs` = 512 f + s (R33, R215, R217, R229). -/
def cardAt (e : Eng) (n abs g : Nat) : Nat :=
  let f := abs / 512
  let i := 4 * (abs % 512) + g
  if blankAt e n f then builtInKind (abs % 512) g * 2 ^ 28
  else if e.deck.loosened.contains (n, abs, g) then 0
  else mergedEntry e n i (patternEntry (patternAt e f) f)

/-- A share word of a static card (R212). -/
structure Share where
  station : Nat
  part : Nat
  stream : Nat
  sect : Nat
  deriving DecidableEq, Repr

/-- Share `k` of a card entry (R212). -/
def shareOf (w k : Nat) : Share := ⟨bits w (32 * k) 6, bits w (32 * k + 6) 2, bits w (32 * k + 8) 12, bits w (32 * k + 20) 8⟩

/-- The shares in use of a static card, with their order (R212). -/
def sharesOf (w : Nat) : List Share :=
  if isStatic w then ((below 4).map (shareOf w)).filter (·.sect ≠ 0) else []

/-- Whether a card entry meets R212 (check 0x3801). -/
def entryOk (w : Nat) : Bool :=
  if isStatic w then
    let all := (below 4).map (shareOf w)
    let used := all.filter (·.sect ≠ 0)
    let total := (used.map (·.sect)).sum
    (below 3).all (fun k => bits w (32 * k + 60) 4 == 0) && all.take used.length == used &&
      used.all (fun x => x.station < 48 && x.part ≠ 3 && (entryKind w == 1 || x.part < 2)) &&
      1 ≤ total && total ≤ 128
  else entryKind w ≤ 5 && w == entryKind w * 2 ^ 28

/-- REFRESH_CARDS, CLASS0_CARDS and SPLINTER_CARDS (R211, R230). -/
def countFields (v : Nat) : Nat × Nat × Nat := (bits v 0 9, bits v 9 9, bits v 18 8)

/-- RESERVE_COUNTS (R230): its ranges. -/
def effReserveCounts : Effect := fun v s =>
  let (r, c, p) := countFields v
  if (r = 64 ∨ r = 128 ∨ r = 192 ∨ r = 256) ∧ c ≤ 256 ∧ c % 8 = 0 ∧ p ≤ 128 ∧ p % 8 = 0 then
    (.ok, onEng (setReg 0x3810 3 (bits v 0 26)) s)
  else (.badValue, s)

/-- A failure of a load check: detail, where, pattern entry, card and stream (R221, R230). -/
structure CheckFail where
  detail : Nat
  where_ : Nat
  entry : Nat := 0
  card : Nat := 0
  stream : Nat := 0
  deriving DecidableEq, Repr

/-- SWAP_CHECK (R230). -/
def CheckFail.word (x : CheckFail) : Nat :=
  x.detail + x.where_ * 2 ^ 16 + x.entry * 2 ^ 24 + x.card * 2 ^ 28 + x.stream * 2 ^ 39

/-- The pending pattern's entry `j` (R216). -/
def pendingEntry (e : Eng) (j : Nat) : Nat × Nat × Bool := patternEntry (reg e 0x3810 2) j

/-- The merged entry of a card in pending frame `j`. -/
def pendingCard (e : Eng) (n j i : Nat) : Nat := mergedEntry e n i (pendingEntry e j)

/-- The first failure over agents, pattern entries and cards, in that order (R221). -/
def firstCard (f : Nat → Nat → Nat → Option CheckFail) : Option CheckFail :=
  (below 24).findSome? fun n => (below 16).findSome? fun j => (below 2048).findSome? fun i => f n j i

/-- Check 0x3801. -/
def check3801 (e : Eng) : Option CheckFail :=
  firstCard fun n j i =>
    let (a, b, two) := pendingEntry e j
    if entryOk (handEntry e n a i) && (!two || entryOk (handEntry e n b i)) then none
    else some { detail := 0x3801, where_ := n, entry := j, card := i }

/-- Check 0x3802. -/
def check3802 (e : Eng) : Option CheckFail :=
  (below 16).findSome? fun j =>
    let (a, b, two) := pendingEntry e j
    if two && a == b then some { detail := 0x3802, where_ := 0xFF, entry := j } else none

/-- How many cards of a kind lie in a window of slots, on one channel group or on any (R211). -/
def windowCount (card : Nat → Nat) (kind lo n : Nat) (group : Option Nat) : Nat :=
  (((upFrom (4 * lo) (4 * n)).filter fun i => entryKind (card i) == kind &&
    match group with | some g => i % 4 == g | none => true)).length

/-- R211 for one frame. -/
def spreadOk (counts : Nat) (card : Nat → Nat) : Bool :=
  let (r, c, p) := countFields counts
  ((below 16).all fun w => (below 4).all fun g => windowCount card 3 (32 * w) 32 (some g) == r / 64) &&
    (below 8).all fun v => windowCount card 4 (64 * v) 64 none == c / 8 && windowCount card 5 (64 * v) 64 none == p / 8

/-- Check 0x3803. -/
def check3803 (e : Eng) : Option CheckFail :=
  let counts := reg e 0x3810 3
  if reg e 0x3800 6 ≠ 0 ∧ counts ≠ reg e 0x3800 3 then some { detail := 0x3803, where_ := 0xFF }
  else (below 24).findSome? fun n => (below 16).findSome? fun j =>
    if spreadOk counts (pendingCard e n j) then none else some { detail := 0x3803, where_ := n, entry := j }

/-- Check 0x3804. -/
def check3804 (e : Eng) : Option CheckFail :=
  firstCard fun n j i =>
    let (a, b, two) := pendingEntry e j
    let x := handEntry e n a i
    let y := handEntry e n b i
    let kind (w : Nat) := if isStatic w then 0 else entryKind w
    if !two || (!(isStatic x && isStatic y) && kind x == kind y) then none
    else some { detail := 0x3804, where_ := n, entry := j, card := i }

/-- The stream map entry of a stream (R220): valid, station, arm phase, arm ARCLK, result interval, start delay. -/
structure MapEntry where
  valid : Bool
  station : Nat
  phase : Nat
  arm : Nat
  gap : Nat
  delay : Nat
  lenOff : Nat
  deriving DecidableEq, Repr

/-- The stream map entry of a stream (R220). -/
def mapEntry (e : Eng) (id : Nat) : MapEntry :=
  let x := domNat e 0x3820 1 (16 * id) 16
  ⟨bit x 0, bits x 8 6, bits x 16 4, bits x 32 16, bits x 48 16, bits x 64 32, bits x 96 21⟩

/-- The slot of a station whose committed record has a stream identifier. -/
def slotNamed (d : Dock) (id : Nat) : Option Nat :=
  (d.committed.find? fun c => (parseStream c.2).id == id).map (·.1)

/-- Check 0x3805 on one share. -/
def shareOk (e : Eng) (w : Nat) (x : Share) : Bool :=
  let m := mapEntry e x.stream
  m.valid && m.station == x.station &&
    match slotNamed (dockOf e x.station) x.stream with
    | none => false
    | some k =>
      let r := recOf (dockOf e x.station) k
      (if entryKind w = 1 then r.kind == 1 || r.kind == 3 else r.kind == 2) && r.inStack &&
        (x.part ≠ 1 || r.view.group ≠ 0) && (x.part ≠ 2 || r.decode)

/-- Check 0x3805. -/
def check3805 (e : Eng) : Option CheckFail :=
  firstCard fun n j i =>
    let w := pendingCard e n j i
    (sharesOf w).findSome? fun x =>
      if shareOk e w x then none
      else some { detail := 0x3805, where_ := n, entry := j, card := i, stream := x.stream }

/-- Check 0x3806. -/
def check3806 (e : Eng) : Option CheckFail :=
  (below 48).findSome? fun s => (dockOf e s).committed.findSome? fun c =>
    let id := (parseStream c.2).id
    if (below s).any fun t => (slotNamed (dockOf e t) id).isSome then
      some { detail := 0x3806, where_ := 0x80 + s, stream := id }
    else none

/-- The stitch lines between a card's agent and a share's station. -/
def shareLines (n : Nat) (x : Share) : Nat := stitches (fieldOfAgent n) (fieldOfStation x.station)

/-- Check 0x3807 (R219). -/
def check3807 (e : Eng) : Option CheckFail :=
  firstCard fun n j i =>
    let w := pendingCard e n j i
    let s := i / 4
    (sharesOf w).findSome? fun x =>
      let h := shareLines n x
      if h = 0 ∨ (entryKind w = 1 ∧ s + 3 * h ≤ 442) ∨ (entryKind w = 2 ∧ 22 + 3 * h ≤ s) then none
      else some { detail := 0x3807, where_ := n, entry := j, card := i, stream := x.stream }

/-- The SPCLK, within its frame, at which each sector of a frame's static cards moves in a station's Pool (R218): the
negative moments of write cards are counted in the frame before. -/
def poolMoves (card : Nat → Nat → Nat) (write : Bool) (s : Nat) : List Int :=
  (below 24).flatMap fun n => (below 2048).flatMap fun i =>
    let w := card n i
    if entryKind w ≠ (if write then 2 else 1) then []
    else
      ((sharesOf w).foldl (fun (acc : List Int × Nat) x =>
        let h : Int := (shareLines n x : Nat)
        let t : Int := ((8 * (i / 4) : Nat) : Int)
        let here := if x.station = s then (below x.sect).map fun k =>
            (if write then t - 192 - 24 * h else t + 640 + 24 * h) + (((acc.2 + k) / 16 : Nat) : Int)
          else []
        (acc.1 ++ here, acc.2 + x.sect)) ([], 0)).1

/-- Whether moves of one direction total at most 1024 bytes in every SPCLK (check 0x3808). -/
def movesFit (xs : List Int) : Bool := xs.all fun t => (xs.filter (· == t)).length ≤ 32

/-- The card of a frame under the configuration in force. -/
def currentCard (e : Eng) (j n i : Nat) : Nat :=
  if bit (reg e 0x3800 6) n then builtInKind (i / 4) (i % 4) * 2 ^ 28
  else mergedEntry e n i (patternEntry (reg e 0x3800 2) j)

/-- Check 0x3808: each pending frame with the following one, and each current frame with the pending one after it. -/
def check3808 (e : Eng) : Option CheckFail :=
  (below 48).findSome? fun s => (below 16).findSome? fun j =>
    let pair (a b : Nat → Nat → Nat) : Bool :=
      [false, true].all fun wr =>
        movesFit (poolMoves a wr s ++ (poolMoves b wr s).map (· + 4096))
    let next := fun n i => pendingCard e n ((j + 1) % 16) i
    if pair (fun n i => pendingCard e n j i) next && pair (currentCard e j) next then none
    else some { detail := 0x3808, where_ := 0x80 + s, entry := j }

/-- The spine slots that a share occupies (R218, R219): segment, direction and slot. -/
def spineUse (n slot : Nat) (write : Bool) (x : Share) : List (Nat × Nat × Nat) :=
  let a := fieldOfAgent n
  let b := fieldOfStation x.station
  let h := stitches a b
  let (src, dst) := if write then (b, a) else (a, b)
  (below h).map fun k =>
    let seg := if src < dst then src + k else src - 1 - k
    (seg, if src < dst then 0 else 1, if write then slot + 3 * k - 22 - 3 * h else slot + 72 + 3 * k)

/-- The eighths that a Hand's cross-field cards occupy in a segment, direction and slot: one for each card (R219). -/
def handEighths (e : Eng) (hand seg dir slot : Nat) : Nat :=
  ((below 24).flatMap fun n => (below 2048).filter fun i =>
    let w := handEntry e n hand i
    (sharesOf w).any fun x => (spineUse n (i / 4) (entryKind w == 2) x).contains (seg, dir, slot)).length

/-- A byte of a spine Hand (R219). -/
def spineByte (e : Eng) (seg hand slot dir : Nat) : Nat := domNat e (0x38A0 + seg) (hand + 1) (2 * slot + dir) 1

/-- Check 0x3809. -/
def check3809 (e : Eng) : Option CheckFail :=
  (below 3).findSome? fun k => (below 16).findSome? fun j => (below 1024).findSome? fun i =>
    let (a, b, two) := pendingEntry e j
    let slot := i / 2
    let dir := i % 2
    let ok (h : Nat) := spineByte e k h slot dir == handEighths e h k dir slot
    if ok a && (!two || (ok b && bits (spineByte e k a slot dir) 0 4 + bits (spineByte e k b slot dir) 0 4 ≤ 8)) &&
      spineByte e k a slot dir ≤ 8 then none
    else some { detail := 0x3809, where_ := 0x40 + k, entry := j, card := slot }

/-- The edges of the link graph (R204): from the gate counter to the counter posted, by station and counter. -/
def linkEdges (e : Eng) : List ((Nat × Nat) × (Nat × Nat)) :=
  (below 48).flatMap fun s => (dockOf e s).committed.filterMap fun c =>
    let r := parseStream c.2
    if r.gateEn && r.endEn then some ((s, r.gateCtr), (r.endStation, r.endCtr)) else none

/-- The edges left once every edge to a node without outgoing edges is taken away, again and again. -/
def pruneEdges : Nat → List ((Nat × Nat) × (Nat × Nat)) → List ((Nat × Nat) × (Nat × Nat))
  | 0, es => es
  | n + 1, es => pruneEdges n (es.filter fun x => es.any fun y => y.1 == x.2)

/-- Check 0x380A: the link graph has no cycle. -/
def check380A (e : Eng) : Option CheckFail :=
  let es := linkEdges e
  if (pruneEdges es.length es).isEmpty then none else some { detail := 0x380A, where_ := 0xFF }

/-- The streams that a pending frame's cards name, by station and slot. -/
def plannedStreams (e : Eng) : List (Nat × Nat) :=
  let names := (below 24).flatMap fun n => (below 16).flatMap fun j => (below 2048).flatMap fun i =>
    (sharesOf (pendingCard e n j i)).map fun x => (x.station, x.stream)
  (below 48).flatMap fun s => (dockOf e s).committed.filterMap fun c =>
    if names.contains (s, (parseStream c.2).id) && (mapEntry e (parseStream c.2).id).valid then some (s, c.1) else none

/-- Check 0x380B. -/
def check380B (e : Eng) : Option CheckFail :=
  (plannedStreams e).findSome? fun (s, k) =>
    let r := recOf (dockOf e s) k
    let off := (mapEntry e r.id).lenOff
    if !r.decode || (off + r.view.blocks ≤ 0x200000 && (below r.view.blocks).all fun b =>
        let l := (memByte e (residentBase s + off + b)).toNat
        1 ≤ l && l ≤ 128) then none
    else some { detail := 0x380B, where_ := 0x80 + s, stream := r.id }

/-- A sector that a plan's card carries: its part and position, the card's start, its moment in the Pool, and for a
write card the end of the write lead (R218). -/
structure Carried where
  part : Nat
  seq : Nat
  start : Nat
  at_ : Int
  lead : Int
  deriving DecidableEq, Repr

/-- The pair of a card for a handle-form stream (R344). -/
def pairOf (r : StreamRec) (n g : Nat) : Option Nat := if r.view.handleForm then some (n % 6 + 6 * g) else none

/-- The sectors that the cards of one frame carry for a stream, from SPCLK `first` on, in card order. -/
def carryFrame (e : Eng) (s : Nat) (r : StreamRec) (first j base : Nat) (x : Stream) : List Carried × Stream :=
  (below 512).foldl (fun acc slot => (below 24).foldl (fun acc n => (below 4).foldl (fun acc g =>
    let w := pendingCard e n j (4 * slot + g)
    let start := base + 8 * slot
    if start < first then acc
    else
      ((sharesOf w).foldl (fun (q : (List Carried × Stream) × Nat) sh =>
        if sh.station = s ∧ sh.stream = r.id then
          let h : Int := (shareLines n sh : Nat)
          let t : Int := (start : Nat)
          let (xs, y) := takeSectors e s r sh.part (pairOf r n g) sh.sect q.1.2
          let moved := ((below xs.length).zip xs).filterMap fun z => z.2.map fun v =>
            let k : Int := ((q.2 + z.1) / 16 : Nat)
            (⟨sh.part, v.1, start, if r.kind = 2 then t - 192 - 24 * h + k else t + 640 + 24 * h + k,
              t - 256 - 24 * h⟩ : Carried)
          ((q.1.1 ++ moved, y), q.2 + xs.length)
        else (q.1, q.2 + sh.sect)) (acc, 0)).1) acc) acc) ([], x)

/-- The sectors carried over as many frames as `fuel` says, from the frame in which the stream is armed. -/
def carryFrames (e : Eng) (s : Nat) (r : StreamRec) (first phase : Nat) : Nat → Nat → Stream → List Carried
  | 0, _, _ => []
  | fuel + 1, f, x =>
    let (xs, y) := carryFrame e s r first ((phase + f) % 16) (4096 * (phase + f)) x
    xs ++ carryFrames e s r first phase fuel (f + 1) y

/-- Every sector that a stream moves: part and position. -/
def allSectors (e : Eng) (s : Nat) (r : StreamRec) : List (Nat × Nat) :=
  let data := if r.decode then (below r.view.blocks).flatMap fun k =>
      (below (lenNow e s r.id k)).map fun i => (0, 128 * k + i)
    else (below (partSectors r 0).length).map fun i => (0, i)
  data ++ (if r.view.group = 0 then [] else (below (partSectors r 1).length).map fun i => (1, i)) ++
    if r.decode then (below (partSectors r 2).length).map fun i => (2, i) else []

/-- The first element that uses a sector of a part, and the last (R222). -/
def sectorElems (r : StreamRec) (part seq : Nat) : Nat × Nat :=
  let rows := partBytes r part
  let uses := (below rows.length).filter fun n => (rows.getD n []).any fun b => b.2 == seq
  (uses.headD 0, (uses.getLast?).getD 0)

/-- The SPCLK before which a sector of an operand stream is needed (R222). -/
def neededAt (r : StreamRec) (start part seq : Nat) : Nat :=
  if r.decode ∧ part = 0 then (start + 8 * interval r * (seq / 128)) / 2
  else if part = 2 then (start + 8 * interval r * (sectorElems r 2 seq).1) / 2
  else (start + interval r * ((sectorElems r part seq).1 / beatElems r.portFmt false)) / 2

/-- Frames enough for every sector of a stream to be carried, if its cards carry any in each 16 frames. -/
def planFuel (e : Eng) (s : Nat) (r : StreamRec) : Nat := 16 * ((allSectors e s r).length + 1)

/-- Check 0x380C for one operand stream (R222). -/
def readTimingOk (e : Eng) (s : Nat) (r : StreamRec) : Bool :=
  let m := mapEntry e r.id
  let arm := frameT * m.phase + m.arm
  let start := arm + m.delay
  let xs := carryFrames e s r ((arm + 1) / 2 + 128) m.phase (planFuel e s r) 0 { armedAt := arm }
  let pages := bits (reg e (stIdx s 2) (r.queue + 1)) 16 10
  (xs.all fun c => decide (c.at_ < (neededAt r start c.part c.seq : Nat)) && neededAt r start c.part c.seq ≤ c.start + 2048) &&
    (xs.all fun c => ((xs.filter fun d => decide (d.at_ ≤ c.at_) &&
      decide (c.at_ < (neededAt r start d.part d.seq : Nat))).length ≤ 128 * pages)) &&
    (allSectors e s r).all fun q => xs.any fun c => c.part == q.1 && c.seq == q.2

/-- The elements that a result stream writes together: those of a group of its port or of its view (R198). -/
def StreamRec.resultUnit (r : StreamRec) : Nat :=
  max (max 1 r.portGroup) (if r.view.group = 0 then 1 else r.view.groupSize)

/-- The SPCLK by which a sector of a result stream is written in the Pool (R198, R222): the chain is taken as empty
where the stream's formats agree. -/
def writtenAt (r : StreamRec) (start gap part seq : Nat) : Nat :=
  let n := (sectorElems r part seq).2
  let n := n / r.resultUnit * r.resultUnit + r.resultUnit - 1
  let beat := n / beatElems r.portFmt true
  let same := r.fmt == r.view.format && r.view.group == 0 && r.group == 0
  (start + 8 + gap * beat + (if same then 24 else 32)) / 2

/-- Check 0x380D for one result stream (R222). -/
def writeTimingOk (e : Eng) (s : Nat) (r : StreamRec) : Bool :=
  let m := mapEntry e r.id
  let arm := frameT * m.phase + m.arm
  let start := arm + m.delay
  let xs := carryFrames e s r ((arm + 1) / 2 + 128) m.phase (planFuel e s r) 0 { armedAt := arm }
  let pages := bits (reg e (stIdx s 2) (r.queue + 1)) 16 10
  (xs.all fun c => decide ((writtenAt r start m.gap c.part c.seq : Nat) ≤ c.lead)) &&
    (xs.all fun c => ((xs.filter fun d =>
      writtenAt r start m.gap d.part d.seq ≤ writtenAt r start m.gap c.part c.seq &&
        decide (((writtenAt r start m.gap c.part c.seq : Nat) : Int) < d.at_)).length ≤ 128 * pages)) &&
    (allSectors e s r).all fun q => xs.any fun c => c.part == q.1 && c.seq == q.2

/-- Check 0x380C. -/
def check380C (e : Eng) : Option CheckFail :=
  (plannedStreams e).findSome? fun (s, k) =>
    let r := recOf (dockOf e s) k
    if r.kind ≠ 1 || readTimingOk e s r then none else some { detail := 0x380C, where_ := 0x80 + s, stream := r.id }

/-- Check 0x380D. -/
def check380D (e : Eng) : Option CheckFail :=
  (plannedStreams e).findSome? fun (s, k) =>
    let r := recOf (dockOf e s) k
    if r.kind ≠ 2 || writeTimingOk e s r then none else some { detail := 0x380D, where_ := 0x80 + s, stream := r.id }

/-- R221: the load checks in table order; the first failure. -/
def loadChecks (e : Eng) : Option CheckFail :=
  [check3801, check3802, check3803, check3804, check3805, check3806, check3807, check3808, check3809, check380A,
   check380B, check380C, check380D].findSome? fun c => c e

/-- SWAP_CHECKS_COMPLETE (R221). -/
def execSwapChecksComplete (s : State) : Host.Outcome State Fault Refusal :=
  .next (onEng (fun e =>
    if reg e 0x3810 5 ≠ 1 then e
    else match loadChecks e with
      | none => setReg 0x3810 5 2 e
      | some x => e |> setReg 0x3810 5 3 |> setReg 0x3810 6 x.word |> bump 0x3818 3) s)

/-- R226: whether SWAP_FRAME, as it is set or committed now, names a frame that has already begun. -/
def noteSwapFrame (e : Eng) : Eng :=
  { e with deck := { e.deck with late := (frameNow e).any fun f => reg e 0x3810 1 ≤ f } }

/-- SWAP_CTRL (R227). -/
def effSwapCtrl : Effect := fun v s =>
  if v = 0 then (.ok, s)
  else if reg s.eng 0x3810 5 = 4 then (.denied, s)
  else match v with
    | 1 => (.ok, onEng (fun e => setReg 0x3810 5 1 (noteSwapFrame e)) s)
    | 2 => (.ok, onEng (setReg 0x3810 5 0) s)
    | _ => (.badValue, s)

/-- SWAP_COMMIT (R227). -/
def execSwapCommit (p : Port) (s : State) : Host.Outcome State Fault Refusal :=
  .next (portWrite p 0x3810 4 1 effSwapCtrl s)

/-- SWAP_WITHDRAW (R227). -/
def execSwapWithdraw (p : Port) (s : State) : Host.Outcome State Fault Refusal :=
  .next (portWrite p 0x3810 4 2 effSwapCtrl s)

/-- R223: a change of the pending configuration restarts the checks of a committed swap. A swap that is decided is
taken as it was decided. -/
def restartChecks (e : Eng) : Eng := if reg e 0x3810 5 = 2 then setReg 0x3810 5 1 e else e

/-- SWAP_DECISION_POINT (R225, R226), for the frame that begins next. -/
def decideSwap (e : Eng) : Eng :=
  match e.spBase with
  | none => e
  | some b =>
    let f := e.nextFrame
    let e := advanceTo (b + frameT * f - 2 * 192) e
    let due := reg e 0x3810 1
    if reg e 0x3810 5 = 2 ∧ due ≤ f then
      let pattern := reg e 0x3810 2
      let counts := reg e 0x3810 3
      setReg 0x3810 5 4 { e with deck := { e.deck with decided := some f, pattern, counts } }
    else if reg e 0x3810 5 = 1 ∧ due ≤ f ∧ due ≠ 0 ∧ !e.deck.late then bump 0x3818 2 e
    else e

/-- SWAP_DECISION_POINT (R225). -/
def execSwapDecisionPoint (s : State) : Host.Outcome State Fault Refusal := .next (onEng decideSwap s)

/-- R225: frame `f` begins with a decided swap: the new configuration is in force. -/
def takeSwap (f : Nat) (e : Eng) : Eng :=
  if e.deck.decided = some f then
    { e with deck := { e.deck with decided := none } } |> setReg 0x3800 1 1 |> setReg 0x3800 2 e.deck.pattern |>
      setReg 0x3800 3 e.deck.counts |> setReg 0x3800 5 f |> setReg 0x3800 6 0 |> bump 0x3818 1 |> setReg 0x3810 5 0
  else e

/-- The use of a Hand (R224, R230): current where the pattern in force, or a decided one, names it; due where the
pattern of a committed swap names it. Before the first swap CURRENT_PATTERN, whose default names Hand 0, is the pattern
in force (log entry 15). -/
def handUse (e : Eng) (h : Nat) : Nat :=
  let st := reg e 0x3810 5
  let cur := namesHand (reg e 0x3800 2) h || (st = 4 && namesHand e.deck.pattern h)
  let due := ((st = 1 || st = 2) && namesHand (reg e 0x3810 2) h) || (st = 4 && namesHand e.deck.pattern h)
  (if cur then 1 else 0) + if due then 2 else 0

/-- R229: a spine Hand entry is read with an error: corrected and counted, or the static eighths of its slot are dynamic
for the frame. -/
def readSpineEntry (k slot dir : Nat) (fatal : Bool) (e : Eng) : Eng :=
  if fatal then
    { e with deck := { e.deck with looseSpine := (k, slot, dir) :: e.deck.looseSpine } } |> bump 0x3818 5 |> raise 82 0
  else bump 0x3818 4 e

/-- Whether the spine slots of a static card's share are static no longer (R229). -/
def spineLost (e : Eng) (n abs : Nat) (write : Bool) (station : Nat) : Bool :=
  (spineUse n abs write ⟨station, 0, 0, 0⟩).any fun u => e.deck.looseSpine.contains (u.1, u.2.2, u.2.1)

/-- R229: a Hand entry is read with a result of its SECDED check: a corrected error is counted; an uncorrectable one
makes the card dynamic for the frame. -/
def readHandEntry (n abs g : Nat) (ecc : EccResult) (e : Eng) : Eng :=
  match ecc with
  | .clean => e
  | .corrected => if blankAt e n (abs / 512) then e else bump 0x3818 4 e
  | .uncorrectable =>
    if blankAt e n (abs / 512) then e
    else { e with deck := { e.deck with loosened := (n, abs, g) :: e.deck.loosened } } |> bump 0x3818 5 |> raise 82 0

end Sys2Proof.Machine
end

