-- ==== Sys2Proof/Machine/Static.lean ====
section
/-! DEFINITION. What a station does with a static stream: sectors that land, blocks that enter the expander, operand
intervals, tallies and result beats (spec/08_docks.md R183, R184, R195 to R198, R206; spec/07_weight_compression.md
R167 to R175; spec/06_casting_quantisation.md R150 to R156). -/

namespace Sys2Proof.Machine

/-- One byte after an atom of bits or of a trit (R131, R418); an addition is made near memory. -/
def applyAtom (old : Nat) : Atom → Nat
  | .bits _ mask val _ => old - (old &&& mask) + val % 256
  | .trit _ k digit _ => ternSet old k digit
  | .add .. => old

/-- Whether an atom carries poison. -/
def Atom.pois : Atom → Bool
  | .bits _ _ _ p => p
  | .trit _ _ _ p => p
  | .add _ _ _ p => p

/-- Bytes of a Pool written with poison (R413): a word wholly written takes the poison of its new bytes; one partly
written also keeps its own. -/
def poolWrite (a : Nat) (bs : List (Byte × Bool)) (e : Eng) : Eng :=
  let n := bs.length
  let words := upFrom (a / 4) ((a + n + 3) / 4 - a / 4)
  let e1 := setMemBytes a (bs.map (·.1)) e
  words.foldl (fun x w =>
    let whole := a ≤ 4 * w && 4 * w + 4 ≤ a + n
    let new := (below 4).any fun k => a ≤ 4 * w + k && (bs.map (·.2)).getD (4 * w + k - a) false
    setPoolPois (4 * w) (new || (!whole && poolPoisoned e (4 * w))) x) e1

/-- Bytes of a Pool with their poison. -/
def poolRead (e : Eng) (a n : Nat) : List (Byte × Bool) := (below n).map fun k => (memByte e (a + k), poolPoisoned e (a + k))

/-- The bytes of a sector with the poison of their words. -/
def sectorBytes (data pois : Nat) : List (Byte × Bool) :=
  (below 32).map fun k => (BitVec.ofNat 8 (bits data (8 * k) 8), bit pois (k / 4))

/-- What R174 finds of a header: its block's check, and the detail where it fails. -/
def checkHeader (e : Eng) (s : Nat) (x : Nat) : BlockCheck × Nat :=
  let h := parseHeader x
  let i := stIdx s (0x20 + h.slot)
  if 1 < h.mode then (.mismatch, 0x3D01)
  else if h.mode = 1 then (.stored, 0)
  else if reg e i 2 ≠ 1 then (.mismatch, 0x3D02)
  else if reg e i 4 ≠ h.tag then (.mismatch, 0x3D03)
  else (.coded h.slot, 0)

/-- LAST_MISMATCH (R181). -/
def mismatchWord (e : Eng) (s detail x : Nat) : Nat :=
  let h := parseHeader x
  detail + h.slot * 2 ^ 16 + h.tag * 2 ^ 19 + reg e (stIdx s (0x20 + h.slot)) 4 * 2 ^ 24

/-- R169, R174, R175: the header of a static stream's block arrives: the block's check, its reference or its count. -/
def takeHeader (s x : Nat) (poisoned : Bool) (e : Eng) : BlockCheck × Eng :=
  if poisoned then (.poisoned, e)
  else
    let (c, detail) := checkHeader e s x
    match c with
    | .coded k => (c, setReg (stIdx s (0x20 + k)) 6 (reg e (stIdx s (0x20 + k)) 6 + 1) e)
    | .mismatch =>
      (c, e |> setReg (stIdx s 0x28) 7 (mismatchWord e s detail x) |> bump (stIdx s 0x28) 3 |> raise s detail)
    | c => (c, e)

/-- The landed sector of a part at a position. -/
def landedAt (x : Stream) (part seq : Nat) : Option Landed := x.landed.find? fun l => l.part == part && l.seq == seq

/-- Byte `k` of a landed sector, as the Pool holds it in the queue's ring, with its word's poison (R185, R193). -/
def landedByte (e : Eng) (s : Nat) (r : StreamRec) (l : Landed) (k : Nat) : Nat × Bool :=
  let a := queueAddr e s r l.pos + k
  ((memByte e a).toNat, poolPoisoned e a)

/-- The four sectors of a header as a number with its poison; none while one is missing. -/
def headerOf (e : Eng) (s : Nat) (r : StreamRec) (x : Stream) (k : Nat) : Option (Nat × Bool) :=
  let rows := (partBytes r 2).getD k []
  let bytes := rows.map fun b => (landedAt x 2 b.2).map fun l => landedByte e s r l (b.1 % 32).toNat
  if bytes.all (·.isSome) then
    some (leNat (bytes.map fun o => BitVec.ofNat 8 ((o.map (·.1)).getD 0)), bytes.any fun o => (o.map (·.2)).getD false)
  else none

/-- R174: after a sector lands, every header that is now whole is checked. -/
def checkHeaders (s slot : Nat) (e : Eng) : Eng :=
  let r := recOf (dockOf e s) slot
  (below r.view.blocks).foldl (fun e k =>
    match streamOf (dockOf e s) slot with
    | none => e
    | some x =>
      if x.checks.any (·.1 == k) then e
      else match headerOf e s r x k with
        | none => e
        | some (h, p) =>
          let (c, e) := takeHeader s h p e
          onDock s (setStream slot { x with checks := x.checks ++ [(k, c)] }) e) e

/-- R187: a sector of a load stream is written into the resident region. -/
def loadSector (s : Nat) (r : StreamRec) (l : Landed) (e : Eng) : Eng :=
  let bs := sectorBytes l.data l.pois
  let base := residentBase s + r.aux
  let put (off : Int) (b : Byte × Bool) (e : Eng) : Eng := poolWrite ((base : Int) + off).toNat [b] e
  if r.decode ∧ l.part = 0 then poolWrite (base + 32 * l.seq) bs e
  else if l.part = 2 then
    (((below r.view.blocks).flatMap fun k => ((below 128).zip ((partBytes r 2).getD k [])).filterMap fun b =>
      if b.2.2 = l.seq then some (128 * k + b.1, (b.2.1 % 32).toNat) else none)).foldl
        (fun e q => put (r.hdrOff + (q.1 : Int)) (bs.getD q.2 (0, false)) e) e
  else
    let off : Int := if l.part = 1 then r.view.scaleOff else 0
    let dense := denseIndex (partBytes r l.part)
    ((below dense.length).zip dense).foldl (fun e q =>
      if q.2.2 = l.seq then put (off + (q.1 : Int)) (bs.getD (q.2.1 % 32).toNat (0, false)) e else e) e

/-- The sectors that a load stream moves in all. -/
def loadTotal (e : Eng) (s : Nat) (r : StreamRec) (x : Stream) : Nat :=
  (if r.decode then ((below r.view.blocks).map fun k => x.lenOf e s r.id k).sum else (partSectors r 0).length) +
    (if r.view.group = 0 then 0 else (partSectors r 1).length) + if r.decode then (partSectors r 2).length else 0

/-- The end counter of a stream is posted, unless it was cancelled, failed or ran poisoned (R201). -/
def postEnd (s slot at_ : Nat) (e : Eng) : Eng :=
  let r := recOf (dockOf e s) slot
  match streamOf (dockOf e s) slot with
  | none => e
  | some x =>
    if r.endEn && !x.poisoned && !x.failed && x.cancelAt.isNone then sendPost s r.endStation r.endCtr r.endCount at_ e
    else e

/-- A stream's slot is free. References that a stream which ran poisoned still holds are given back with it (log entry
132). -/
def freeStream (s slot : Nat) (e : Eng) : Eng :=
  match streamOf (dockOf e s) slot with
  | none => e
  | some x => dropStreamRefs s x (onDock s (dropStream slot) e)

/-- The end of a stream (R201). -/
def endStream (s slot at_ : Nat) (e : Eng) : Eng := freeStream s slot (postEnd s slot at_ e)

/-- R197: an operand stream that has delivered its last data beat ends once the tally sums after it have left. -/
def settleTally (s slot : Nat) (e : Eng) : Eng :=
  match streamOf (dockOf e s) slot with
  | none => e
  | some x =>
    if x.done && x.cancelAt.isNone && (recOf (dockOf e s) slot).kind == 1 && (dockOf e s).tally.all (·.slot ≠ slot) then
      freeStream s slot e
    else e

/-- Whether landing bytes would pass the oldest unconsumed byte of the queue (R195). -/
def queueFull (e : Eng) (s : Nat) (r : StreamRec) (x : Stream) : Bool :=
  let oldest := x.landed.foldl (fun m l => min m l.pos) x.landCount
  (queueRing e s r).2 ≤ x.landCount - oldest

/-- A sector is written in a station (R194, R195, R199, R187): into its queue's ring in the Pool, or where its load stream
puts it. -/
def landSector (s slot : Nat) (l : Landed) (e : Eng) : Eng :=
  let r := recOf (dockOf e s) slot
  match streamOf (dockOf e s) slot with
  | none => e
  | some x =>
    if x.cancelAt.isSome then e
    else if r.kind = 3 then
      let x := { x with landCount := x.landCount + 1 }
      let e := onDock s (setStream slot x) (loadSector s r l e)
      if x.landCount = loadTotal e s r x then endStream s slot (timeline e) e else e
    else if queueFull e s r x then streamEvent s r.id .exhausted 0x3F31 (bump (stIdx s 0x30) 7 e)
    else
      let e := poolWrite (queueAddr e s r x.landCount) (sectorBytes l.data l.pois) e
      onDock s (setStream slot
        { x with landed := x.landed ++ [{ l with data := 0, pois := 0, pos := x.landCount }],
                 landCount := x.landCount + 1 }) e |>
      if l.part = 2 then checkHeaders s slot else id

/-- The sector that lands first, with the others. -/
def firstArriving : List InFlight → Option (InFlight × List InFlight)
  | [] => none
  | a :: t =>
    match firstArriving t with
    | none => some (a, [])
    | some (b, rest) => if b.land < a.land then some (b, a :: rest) else some (a, t)

/-- STATIC_SECTOR_LAND (R218): the next sector on its way to the station is written at its pinned time. -/
def execStaticSectorLand (s : Fin 48) (st : State) : Host.Outcome State Fault Refusal :=
  .next (onEng (fun e =>
    match firstArriving (dockOf e s.val).arriving with
    | none => e
    | some (f, rest) =>
      let e := onDock s.val (fun d => { d with arriving := rest }) (advanceCycle (2 * f.land) e)
      if partUp e s.val then landSector s.val f.slot f.sector e else e) st)

/-- A byte of a block's payload: its value, whether it is poisoned, and whether it is missing. -/
structure PayloadByte where
  value : Nat
  pois : Bool
  missing : Bool
  deriving DecidableEq, Repr

/-- The place of block `k`, byte by byte: from the resident region, or from the landed sectors of its planned payload
(R196). -/
def placeBytes (e : Eng) (s : Nat) (r : StreamRec) (x : Stream) (k n : Nat) : List PayloadByte :=
  (below n).map fun i =>
    if r.inStack then
      match landedAt x 0 (128 * k + i / 32) with
      | some l => let b := landedByte e s r l (i % 32); ⟨b.1, b.2, false⟩
      | none => ⟨0, true, true⟩
    else
      let a := localOf r.view.byteBase.toNat + 4096 * k + i
      ⟨(memByte e a).toNat, poolPoisoned e a, false⟩

/-- The header of block `k` when it enters the expander: a resident stream's is read and checked now (R174). -/
def blockHeader (s : Nat) (r : StreamRec) (x : Stream) (k : Nat) (e : Eng) : Option (Nat × BlockCheck) × Eng :=
  if r.inStack then
    match headerOf e s r x k, x.checks.lookup k with
    | some (h, _), some c => (some (h, c), e)
    | _, _ => (none, e)
  else
    let bs := poolRead e (localOf (r.view.byteBase + r.hdrOff).toNat + 128 * k) 128
    let h := leNat (bs.map (·.1))
    let (c, e) := takeHeader s h (bs.any (·.2)) e
    (some (h, c), e)

/-- Every output byte zero with every word poisoned, or clean (R169, R174); `missing` where it rests on bytes that have
not landed. -/
def zeroBlock (k : Nat) (pois missing : Bool) : Decoded :=
  ⟨k, List.replicate 4096 0, List.replicate 1024 pois, List.replicate 1024 missing, pois && !missing⟩

/-- R167 to R169, R195: what the expander makes of a block: its output, and whether it is delivered with poison. Output
words that rest on a byte which has not landed are zero. -/
def expandBlock (e : Eng) (s k : Nat) (place : Nat → List PayloadByte) (limit : Nat) (h : Nat) (c : BlockCheck) :
    Decoded :=
  let hd := parseHeader h
  match c with
  | .poisoned => zeroBlock k true false
  | .mismatch => zeroBlock k false false
  | .stored =>
    let p := ((below 4096).zip (place 4096)).map fun q => if limit ≤ q.1 then ⟨0, true, true⟩ else q.2
    let word (w : Nat) : List PayloadByte := (p.drop (4 * w)).take 4
    let miss := (below 1024).map fun w => (word w).any (·.missing)
    ⟨k, ((below 4096).zip p).map fun q => if miss.getD (q.1 / 4) false then 0 else q.2.value,
      (below 1024).map fun w => (word w).any (·.pois), miss, p.any fun b => b.pois && !b.missing⟩
  | .coded slot =>
    let n := min (min hd.len 4096) limit
    let p := place n
    let hurt := p.any fun b => b.pois && !b.missing
    if p.any (·.missing) then { zeroBlock k true true with hurt }
    else
      let payload := leNat (p.map fun b => BitVec.ofNat 8 b.value)
      ⟨k, decodeBlock (parseTable (slotTable e s slot)) hd n payload, List.replicate 1024 hurt, List.replicate 1024 false,
        hurt⟩

/-- What a block's passage through the expander counts (R181). -/
def countBlock (s : Nat) (c : BlockCheck) (d : Decoded) (e : Eng) : Eng :=
  let e := match c with
    | .coded _ => bump (stIdx s 0x28) 1 e
    | .stored => bump (stIdx s 0x28) 2 e
    | _ => e
  if d.hurt then bump (stIdx s 0x28) 5 e else e

/-- The ARCLK at which block `k` of a started stream enters the expander (R197). -/
def blockDue (r : StreamRec) (x : Stream) (k : Nat) : Nat := x.started.getD 0 + 16 + 8 * interval r * k

/-- R206: bytes that a Pass mode stream reads are written in the next station of the field ring. -/
def passOn (s : Nat) (r : StreamRec) (addr : Nat) (bs : List (Byte × Bool)) (e : Eng) : Eng :=
  let next := 12 * (s / 12) + (s + 1) % 12
  ((below bs.length).zip bs).foldl (fun e q =>
    poolWrite (residentBase next + (addr + q.1 - residentBase s + r.aux) % 0x200000) [q.2] e) e

/-- The moments at which blocks entered a station's expander, as far as they bear on a window from `c` on (R170). -/
def noteInput (s c : Nat) (e : Eng) : Eng := onDock s (fun d => { d with admits := c :: d.admits.filter fun a => c < a + 8 }) e

/-- The bytes of a resident block that the expander reads (R160, R168). -/
def blockReads (h : Nat) : BlockCheck → Nat
  | .coded _ => min (parseHeader h).len 4096
  | .stored => 4096
  | _ => 0

/-- EXPANDER_BLOCK_INPUT (R170, R197): the next block of a started DECODE stream enters the expander. -/
def blockInput (s slot : Nat) (e : Eng) : Eng :=
  let r := recOf (dockOf e s) slot
  match streamOf (dockOf e s) slot with
  | none => e
  | some x =>
    let k := x.nextBlock
    if !r.decode || r.kind ≠ 1 || x.started.isNone || x.cancelAt.isSome || x.poisoned || r.view.blocks ≤ k then e
    else
      let e := advanceCycle (blockDue r x k) e
      let (hc, e) := blockHeader s r x k e
      let limit := if r.inStack then 32 * storeGet (fun _ => 0) x.lens k else 4096
      let d := match hc with
        | none => zeroBlock k true true
        | some (h, c) => expandBlock e s k (placeBytes e s r x k) limit h c
      let c := (hc.map (·.2)).getD .poisoned
      let e := noteInput s (blockDue r x k) (if hc.isSome then countBlock s c d e else e)
      let checks := if r.inStack then x.checks else x.checks ++ [(k, c)]
      let landed := x.landed.filter fun l => !((l.part == 0 && l.seq / 128 ≤ k) ||
        (l.part == 2 && ((partBytes r 2).drop (k + 1)).all fun row => row.all fun b => b.2 ≠ l.seq))
      let e := onDock s (setStream slot { x with nextBlock := k + 1, decoded := x.decoded ++ [d], checks, landed }) e
      if r.pass then
        let hdr := localOf (r.view.byteBase + r.hdrOff).toNat + 128 * k
        let place := localOf r.view.byteBase.toNat + 4096 * k
        e |> passOn s r hdr (poolRead e hdr 128) |>
          passOn s r place (poolRead e place (match hc with | some (h, c) => blockReads h c | none => 0))
      else e

/-- EXPANDER_BLOCK_INPUT (R170). -/
def execExpanderBlockInput (s : Fin 48) (slot : Fin 128) (st : State) : Host.Outcome State Fault Refusal :=
  .next (onEng (blockInput s.val slot.val) st)

/-- The bytes that the elements `lo` to `hi - 1` of a stream read: address, part and list position. -/
def elemBytes (data scale : List (List (Int × Nat))) (lo hi : Nat) : List (Int × Nat × Nat) :=
  ((data.drop lo).take (hi - lo)).flatten.map (fun b => (b.1, 0, b.2)) ++
    ((scale.drop lo).take (hi - lo)).flatten.map fun b => (b.1, 1, b.2)

/-- What a byte of an operand stream reads as when a beat needs it: value, poison, and whether it is missing. -/
def operandByte (e : Eng) (s : Nat) (r : StreamRec) (x : Stream) (use : List (Int × Nat × Nat)) (a : Int) : Nat × Bool × Bool :=
  let dense := (a - r.view.byteBase).toNat
  let coded := r.decode && (use.lookup a).any (·.1 == 0)
  if coded then
    match x.decoded.find? (·.block == dense / 4096) with
    | some d =>
      let w := dense % 4096 / 4
      (d.bytes.getD (dense % 4096) 0, d.pois.getD w false, d.miss.getD w false)
    | none => (0, true, true)
  else if r.inStack then
    match (use.lookup a).bind fun q => landedAt x q.1 q.2 with
    | some l => let b := landedByte e s r l (a % 32).toNat; (b.1, b.2, false)
    | none => (0, true, true)
  else
    let p := localOf a.toNat
    ((memByte e p).toNat, poolPoisoned e p, false)

/-- An entry of a station's scale file (R104, R147); beyond the file it is a free value. -/
def scaleEntry (e : Eng) (s k : Nat) : Nat :=
  if k < 4096 then domNat e (stIdx s 0x12) 1 (4 * k) 4 else Config.scaleBeyond k % 2 ^ 32

/-- The elements whose reads a beat needs: its own, widened to whole groups of the port format. -/
def groupRange (r : StreamRec) (b : Nat) : Nat × Nat :=
  let (lo, hi) := beatRange r b
  let g := max 1 r.portGroup
  (lo / g * g, min ((hi + g - 1) / g * g) r.elems)

/-- What a beat of an operand stream works out to (R151), element by element or group by group, over a reading of its
bytes: each with the number of its first element. -/
def beatWork (e : Eng) (s : Nat) (r : StreamRec) (x : Stream) (b : Nat) (rd : ByteRead) : List (Nat × Work) :=
  let t := streamTmd r x.profile
  let (lo, hi) := groupRange r b
  let rs : JobReads := ⟨rd, scaleEntry e s, 0x8000 ||| r.id, fun _ => .miss⟩
  if r.group = 0 then (upFrom lo (hi - lo)).map fun m => (m, elemWork t rs m)
  else
    let g := max 1 r.portGroup
    (upFrom (lo / g) ((hi - lo) / g)).map fun q => (q * g, groupWork t rs (q * g))

/-- The bytes that a beat uses: address, part and list position. -/
def beatUses (r : StreamRec) (b : Nat) : List (Int × Nat × Nat) :=
  let (lo, hi) := groupRange r b
  let use := elemBytes (partBytes r 0) (partBytes r 1) lo hi
  if r.view.group = 0 then use
  else use ++ elemBytes [] (partBytes r 1) (lo / r.view.groupSize * r.view.groupSize) lo

/-- The work of several steps in order. -/
def sumWork (ws : List (Nat × Work)) : Work := (ws.map (·.2)).foldr Work.append noWork

/-- Bytes assembled from atoms at dense addresses from `base`, with the poison of their words. -/
def assemble (atoms : List Atom) (base : Int) (n : Nat) : Nat × Nat :=
  atoms.foldl (fun (acc : Nat × Nat) at_ =>
    let k := (at_.addr - base).toNat
    if decide (base ≤ at_.addr) && k < n then
      (setBits acc.1 (8 * k) 8 (applyAtom (bits acc.1 (8 * k) 8) at_),
        if at_.pois then acc.2 ||| 2 ^ (k / 4) else acc.2)
    else acc) (0, 0)

/-- The bytes of a full data beat (R184). -/
def beatBytes (f : Fmt) (half : Bool) : Nat :=
  match f with
  | .tern => beatElems f half / 5
  | f => beatElems f half * f.width / 8

/-- A number with the 32-bit words of a mask cleared. -/
def clearWords (n v m : Nat) : Nat := (below n).foldl (fun v w => if bit m w then setBits v (32 * w) 32 0 else v) v

/-- The lane's bit stream for beat `b`: the entries of its groups, the poison of their words, and their bits (R152). -/
def laneStream (r : StreamRec) (work : Work) (b : Nat) : Nat × Nat × Nat :=
  let w := r.laneWidth
  (beatGroups r b).foldl (fun (acc : Nat × Nat × Nat) q =>
    let size := r.portView.form.recordSize
    let (v, p) := assemble work.records (2 ^ 60 + ((q * size : Nat) : Int)) size
    let at_ := acc.2.2
    (acc.1 + v % 2 ^ w * 2 ^ at_,
      (below ((w + 31) / 32)).foldl (fun m i => if bit p i then m ||| 2 ^ (at_ / 32 + i) else m) acc.2.1,
      at_ + w)) (0, 0, 0)

/-- R152, R197: the lane beats and the data beat of an interval whose last ARCLK is `t`: the final lane beat goes with the
data beat. -/
def deliver (s t data pois lane lanePois laneBits : Nat) (e : Eng) : Eng :=
  let k := max 1 ((laneBits + 255) / 256)
  let e := (below k).foldl (fun e j =>
    if 256 * j < laneBits then
      emit (.ops s (t + 1 + j - k) (bits lane (256 * j) 256) (bits lanePois (8 * j) 8)) e
    else e) e
  emit (.opd s t data pois) e

/-- The integer that a delivered code contributes to a tally (R154); none where the format has no tally. -/
def tallyValue (r : StreamRec) (code : Nat) : Option Int :=
  match r.portFmt with
  | .tern => some ((code : Int) - 1)
  | f => if f.isInteger then
      match decodeElem f code with
      | .fin neg n _ => some (if neg then -(n : Int) else n)
      | _ => none
    else none

/-- A sum as the tally lane delivers it: exact, or modulo 2^32 (R154). -/
def tallySum (x : TallySum) : TallySum := { x with value := signed 32 (unsigned 32 x.value) }

/-- Whether an exact sum lies outside the INT32 range (R154). -/
def sumWraps (x : TallySum) : Bool := decide (x.value < -(2 ^ 31) ∨ 2 ^ 31 ≤ x.value)

/-- The end of a tile with its last data beat at ARCLK `t`: its sums enter the tally queue, or overrun it (R155, R156).
TALLY_WRAPS counts the sums that TALLY_SEL delivers, and the places that an overrun tile's sums keep count as held (log
entries 133 and 134). A stream that runs poisoned delivers zeros with both poison bits (R192). -/
def closeTile (s slot t : Nat) (x : Stream) (e : Eng) : Stream × Eng :=
  let sums : List TallySum := match x.sel with
    | 1 => x.tile.take x.rows
    | 2 => x.tile.drop x.rows
    | _ => x.tile
  let held := ((dockOf e s).tally.map (·.sums.length)).sum
  let zeros : List TallySum := sums.map fun _ => ⟨0, true, true⟩
  let enter (ys : List TallySum) (e : Eng) : Eng :=
    onDock s (fun d => { d with tally := d.tally ++ [⟨t + 1, slot, ys⟩] }) e
  let x' := { x with tile := [] }
  let e := if x.poisoned then e else bumpBy (sums.filter sumWraps).length (stIdx s 0x11) 5 e
  if 8192 < held + sums.length then (x', e |> enter zeros |> bump (stIdx s 0x11) 4 |> raise s 0)
  else (x', enter (if x.poisoned then zeros else sums.map tallySum) e)

/-- R154: the element at stream position `m` joins its row's and its column's sum. -/
def tallyElem (s slot t : Nat) (last : Bool) (m : Nat) (value : Int) (pois : Bool) (xe : Stream × Eng) : Stream × Eng :=
  let (x, e) := xe
  let p := m % (x.rows * x.cols)
  let tile := if x.tile.isEmpty then List.replicate (x.rows + x.cols) ⟨0, false, false⟩ else x.tile
  let add (i : Nat) (t : List TallySum) : List TallySum :=
    let y := t.getD i ⟨0, false, false⟩
    t.set i ⟨y.value + value, y.pois || pois, false⟩
  let x := { x with tile := add (x.rows + p % x.cols) (add (p / x.cols) tile) }
  if p + 1 = x.rows * x.cols ∨ last then closeTile s slot t x e else (x, e)

/-- R154 to R156: the tally of a data beat at ARCLK `t`. An element is poisoned where a word that holds one of its bits
is (log entry 135). -/
def tallyBeat (s slot : Nat) (r : StreamRec) (b t data pois : Nat) (x : Stream) (e : Eng) : Stream × Eng :=
  if x.sel = 0 then (x, e)
  else
    let (lo, hi) := beatRange r b
    (upFrom lo (hi - lo)).foldl (fun xe m =>
      let i := m - lo
      let (code, first, last) := match r.portFmt with
        | .tern => (ternDigit (bits data (8 * (i / 5)) 8) (i % 5), i / 5 / 4, i / 5 / 4)
        | f => (bits data (i * f.width) f.width, i * f.width / 32, (i * f.width + f.width - 1) / 32)
      match tallyValue r code with
      | some v => tallyElem s slot t (m + 1 == r.elems) m v (bit pois first || bit pois last) xe
      | none => xe) (x, e)

/-- R174: the references of blocks whose last byte a beat has delivered. -/
def finishBlocks (s : Nat) (r : StreamRec) (x : Stream) (hi : Nat) (e : Eng) : Stream × Eng :=
  if !r.decode then (x, e)
  else
    let bytes := hi * r.view.fmt.width / 8
    let gone := x.decoded.filter fun d => 4096 * (d.block + 1) ≤ bytes
    let e := gone.foldl (fun e d =>
      match x.checks.lookup d.block with
      | some (.coded k) => dropRef s k e
      | _ => e) e
    ({ x with decoded := x.decoded.filter fun d => bytes < 4096 * (d.block + 1),
              checks := x.checks.filter fun c => !(gone.any (·.block == c.1)) }, e)

/-- The sectors that no later beat needs leave the queue (R193). -/
def consume (r : StreamRec) (b : Nat) (x : Stream) : Stream :=
  let (lo, _) := groupRange r (b + 1)
  let lo' := if r.view.group = 0 then lo else lo / r.view.groupSize * r.view.groupSize
  let later := elemBytes (partBytes r 0) (partBytes r 1) lo' r.elems
  { x with landed := x.landed.filter fun l =>
      l.part == 2 || (l.part == 0 && r.decode) || later.any fun u => u.2.1 == l.part && u.2.2 == l.seq }

/-- The bytes of the resident region that a beat reads (R206). -/
def passBytes (r : StreamRec) (b : Nat) : List Nat :=
  let (lo, hi) := beatRange r b
  ((elemBytes (if r.decode then [] else partBytes r 0) (partBytes r 1) lo hi).map fun u => localOf u.1.toNat).eraseDups

/-- OPERAND_INTERVAL (R197): the next interval of a started operand stream. A DECODE stream's blocks enter the
expander before the interval that delivers them. Words that rest on a byte which has not landed are delivered zero and
poisoned (R195). -/
def operandInterval (s slot : Nat) (e : Eng) : Eng :=
  let r := recOf (dockOf e s) slot
  match streamOf (dockOf e s) slot with
  | none => e
  | some x =>
    let b := x.beat
    let (lo, hi) := beatRange r b
    let ready := !r.decode || x.poisoned || hi * r.view.fmt.width / 8 ≤ 4096 * x.nextBlock
    if r.kind ≠ 1 || x.started.isNone || x.cancelAt.isSome || x.done || r.beats ≤ b || !ready then e
    else
      let t := x.started.getD 0 + startLatency r.decode (emptyChain x.profile) + interval r * (b + 1) - 1
      let e := advanceCycle t e
      let n := beatBytes r.portFmt false
      let lane := (beatGroups r b).length * r.laneWidth
      let finish (x : Stream) (read : Nat) (e : Eng) : Eng :=
        let x := { x with beat := b + 1, done := b + 1 == r.beats }
        let e := onDock s (setStream slot x) e
        if x.done then settleTally s slot (postEnd s slot (max t read) e) else e
      if x.poisoned then
        let e := deliver s t 0 (2 ^ 128 - 1) 0 (2 ^ (8 * max 1 ((lane + 255) / 256)) - 1) lane e
        let (x, e) := tallyBeat s slot r b t 0 (2 ^ 128 - 1) x e
        finish x 0 e
      else
        let use := beatUses r b
        let ws := beatWork e s r x b fun a => let v := operandByte e s r x use a; (v.1, v.2.1)
        let lost := sumWork (beatWork e s r x b fun a => let v := operandByte e s r x use a; (v.1, v.2.2))
        let work := sumWork ws
        let own := sumWork (ws.filter fun w => lo ≤ w.1 && w.1 < hi)
        let (data, pois) := assemble work.atoms ((n * b : Nat) : Int) n
        let gone := (assemble lost.atoms ((n * b : Nat) : Int) n).2
        let (ls, lp, _) := laneStream r work b
        let laneGone := (laneStream r lost b).2.1
        let data := clearWords 128 data gone
        let pois := pois ||| gone
        let e := deliver s t data pois (clearWords ((lane + 31) / 32) ls laneGone) (lp ||| laneGone) lane e
        let e := e |> bumpBy own.sats (stIdx s 0x10) 1 |> bumpBy own.nans (stIdx s 0x10) 4
        let missing := use.any fun u => (operandByte e s r x use u.1).2.2
        let e := if missing then streamEvent s r.id .poisoned 0x3F32 (bump (stIdx s 0x30) 8 e) else e
        let (x, e) := tallyBeat s slot r b t data pois x e
        let e := if r.pass then (passBytes r b).foldl (fun e a => passOn s r a (poolRead e a 1) e) e else e
        let (x, e) := finishBlocks s r x hi e
        finish (consume r b x) (if r.pass then x.started.getD 0 + 16 + interval r * b + 40 else 0) e

/-- OPERAND_INTERVAL (R197). -/
def execOperandInterval (s : Fin 48) (slot : Fin 128) (st : State) : Host.Outcome State Fault Refusal :=
  .next (onEng (operandInterval s.val slot.val) st)

/-- TALLY_LANE_BEAT (R155): the next two queued sums of a tile leave on OPT, from the first ARCLK after its last data beat
and one beat an ARCLK; an odd last one leaves alone. -/
def tallyLaneBeat (s : Nat) (e : Eng) : Eng :=
  match (dockOf e s).tally with
  | [] => e
  | y :: rest =>
    let t := max y.at_ (dockOf e s).tallyFree
    let after (left : List TallySum) (e : Eng) : Eng :=
      if left.isEmpty then settleTally s y.slot (onDock s (fun d => { d with tally := rest }) e)
      else onDock s (fun d => { d with tally := { y with sums := left } :: rest }) e
    match y.sums with
    | [] => after [] e
    | a :: more =>
      let b := more.head?
      let code (x : TallySum) := unsigned 32 x.value
      let pois := if a.overrun then 3 else (if a.pois then 1 else 0) + if b.any (·.pois) then 2 else 0
      advanceCycle t e |> onDock s (fun d => { d with tallyFree := t + 1 }) |> after (more.drop 1) |>
        emit (.opt s t (code a + ((b.map code).getD 0) * 2 ^ 32) pois)

/-- TALLY_LANE_BEAT (R155). -/
def execTallyLaneBeat (s : Fin 48) (st : State) : Host.Outcome State Fault Refusal :=
  .next (onEng (tallyLaneBeat s.val) st)

/-- The result stream that takes beats at an ARCLK cycle (R190, R198): open since its ACCEPT, with beats to come. -/
def openResult (d : Dock) (c : Nat) : Option (Nat × Stream) :=
  d.streams.find? fun x =>
    let r := recOf d x.1
    r.kind == 2 && !x.2.done && x.2.cancelAt.isNone && x.2.started.any fun t => t + 8 ≤ c

/-- The beats that a result stream takes (R184). -/
def resultBeats (r : StreamRec) : Nat := (r.elems + beatElems r.portFmt true - 1) / beatElems r.portFmt true

/-- What a result beat's elements work out to once it is taken: the elements, or the groups, that it completes (R198).
Scale records that a grouped port format would need do not come on RES: they are free values. -/
def resultWork (e : Eng) (s : Nat) (r : StreamRec) (x : Stream) (b : Nat) : List (Nat × Work) :=
  let t := streamTmd r x.profile
  let n := beatElems r.portFmt true
  let hi := min (n * (b + 1)) r.elems
  let rd (a : Int) : Nat × Bool :=
    if decide (a < 2 ^ 60) then (x.taken.getD a.toNat 0, false) else ((Config.resultScale s e.now a.toNat).toNat, false)
  let rs : JobReads := ⟨rd, scaleEntry e s, 0x8000 ||| r.id, fun _ => .miss⟩
  let u := r.resultUnit
  let lo := n * b / u * u
  let top := if hi = r.elems then hi else hi / u * u
  if r.view.group = 0 then (upFrom lo (top - lo)).map fun m => (m, elemWork t rs m)
  else
    let g := max 1 r.view.groupSize
    (upFrom (lo / g) (top / g - lo / g)).map fun q => (q * g, groupWork t rs (q * g))

/-- The list position of a byte that an element's work writes: its part and sector (R194). -/
def bytePlace (data scale : List (List (Int × Nat))) (g n : Nat) (a : Int) : Option (Nat × Nat) :=
  match ((data.drop n).take g).flatten.lookup a with
  | some q => some (0, q)
  | none => (((scale.drop n).take g).flatten.lookup a).map fun q => (1, q)

/-- The key of a staged sector, and of a byte of it. -/
def sectorKey (part seq : Nat) : Nat := part * 2 ^ 60 + seq

@[inherit_doc sectorKey]
def stagedKey (part seq byte : Nat) : Nat := 32 * sectorKey part seq + byte

/-- The bits of its byte, or the trit, that an atom writes. -/
def Atom.bitMask : Atom → Nat
  | .bits _ mask _ _ => mask
  | .trit _ k _ _ => 2 ^ k
  | .add .. => 255

/-- One atom of a result stream's work enters its write staging, to be written by an ARCLK (R194, R198): its sector takes
the next place of the queue's ring, clean, where it has none. -/
def stageAtom (s : Nat) (r : StreamRec) (part seq written : Nat) (at_ : Atom) (xe : Stream × Eng) : Stream × Eng :=
  let (x, e) := xe
  let k := (at_.addr % 32).toNat
  let (pos, x, e) := match x.places.lookup (sectorKey part seq) with
    | some p => (p, x, e)
    | none =>
      (x.placed, { x with places := storeInsert (sectorKey part seq) x.placed x.places, placed := x.placed + 1 },
        poolWrite (queueAddr e s r x.placed) (sectorBytes 0 0) e)
  let a := queueAddr e s r pos + k
  let (mask, at0) := (x.staged.lookup (stagedKey part seq k)).getD (0, 0)
  ({ x with staged := storeInsert (stagedKey part seq k) (mask ||| at_.bitMask, max at0 written)
              (storeErase (stagedKey part seq k) x.staged) },
    poolWrite a [(BitVec.ofNat 8 (applyAtom (memByte e a).toNat at_), at_.pois)] e)

/-- Whether a result stream's staging would take more places than its queue's ring has (R195). -/
def stagingFull (e : Eng) (s : Nat) (r : StreamRec) (x : Stream) (new : Nat) : Bool :=
  let oldest := x.places.foldl (fun m p => min m p.2) x.placed
  (queueRing e s r).2 < x.placed + new - oldest

/-- R194: what a result beat puts into the write staging: part, position and atom. -/
def stagePlan (r : StreamRec) (ws : List (Nat × Work)) : List (Nat × Nat × Atom) :=
  let data := partBytes r 0
  let scale := partBytes r 1
  ws.flatMap fun w => (w.2.atoms ++ w.2.records).filterMap fun at_ =>
    (bytePlace data scale (max 1 r.view.groupSize) w.1 at_.addr).map fun q => (q.1, q.2, at_)

/-- A result beat that a stream accepts (R192, R195, R198). -/
def takeResult (s slot c : Nat) (data : BitVec 2048) (x : Stream) (e : Eng) : Eng :=
  let r := recOf (dockOf e s) slot
  let b := x.beat
  let last := b + 1 = resultBeats r
  let n := beatBytes r.portFmt true
  let taken := x.taken ++ (below n).map fun k => bits data.toNat (8 * k) 8
  let x := { x with beat := b + 1, taken, done := last }
  let written := c + if r.group ≠ 0 ∨ r.view.group ≠ 0 ∨ !emptyChain x.profile then 32 else 24
  let finish (x : Stream) (e : Eng) : Eng :=
    let e := onDock s (setStream slot x) e
    if last then endStream s slot written e else e
  if x.poisoned || x.failed then finish x e
  else
    let ws := resultWork e s r x b
    let all := sumWork ws
    let e := e |> bumpBy all.sats (stIdx s 0x10) 2 |> bumpBy all.nans (stIdx s 0x10) 5 |>
      bumpBy all.outliers (stIdx s 0x10) 7
    if r.inStack then
      let plan := stagePlan r ws
      let fresh := ((plan.map fun q => sectorKey q.1 q.2.1).filter fun k => (x.places.lookup k).isNone).eraseDups
      if stagingFull e s r x fresh.length then
        streamEvent s r.id .exhausted 0x3F33 (finish { x with failed := true, staged := [], places := [] } e)
      else
        let (x, e) := plan.foldl (fun xe q => stageAtom s r q.1 q.2.1 written q.2.2 xe) (x, e)
        onDock s (setStream slot x) e
    else
      finish x ((all.atoms ++ all.records).foldl (fun e at_ =>
        let a := localOf at_.addr.toNat
        poolWrite a [(BitVec.ofNat 8 (applyAtom (memByte e a).toNat at_), at_.pois)] e) e)

/-- RESULT_BEAT (R183): taken where RES_READY is high; lost and counted where it is low. A station in reset sees no
beat (R13). -/
def execResultBeat (s : Fin 48) (c : Nat) (data : BitVec 2048) (st : State) : Host.Outcome State Fault Refusal :=
  .next (onEng (fun e =>
    if !isReady e || !partUp e s.val then e
    else
      let e := advanceCycle c e
      match openResult (dockOf e s.val) c with
      | some (slot, x) => takeResult s.val slot c data x e
      | none => e |> bump (stIdx s.val 0x30) 9 |> raise s.val 0) st)

/-- The bits of each of its bytes that an element writes, from a bit position of the first (R86); of a TERN byte, the
trit. -/
def elemMasks (f : Fmt) (sub : Nat) : List Nat :=
  match f with
  | .tern => [2 ^ sub]
  | f => (below ((sub + f.width + 7) / 8)).map fun k => bits ((2 ^ f.width - 1) * 2 ^ sub) (8 * k) 8

/-- What a result stream writes of the sector at a position of a part's list: bytes of the sector with their bits, or
trits (R131, R194). -/
def sectorNeed (r : StreamRec) (part seq : Nat) : List (Nat × Nat) :=
  let v := r.view
  let masks (n : Nat) : List Nat :=
    if part ≠ 0 then List.replicate v.form.recordSize 255
    else match v.readAt (v.stored (v.logical n)) with
      | some i => elemMasks v.fmt (v.posOf v.byteBase (v.offset i)).sub
      | none => []
  let rows := partBytes r part
  ((below rows.length).zip rows).foldl (fun m x =>
    (x.2.zip (masks x.1)).foldl (fun m y =>
      if y.1.2 = seq then
        let k := (y.1.1 % 32).toNat
        storeInsert k ((m.lookup k).getD 0 ||| y.2) (storeErase k m)
      else m) m) []

/-- The atoms of one byte of a sector that leaves the Pool: whole, or the bits or trits staged of it (R131, R418). -/
def drawnByte (f : Fmt) (k mask value : Nat) (pois : Bool) : List Atom :=
  match f with
  | .tern =>
    if mask % 32 = 31 then [.bits (k : Int) 255 value pois]
    else ((below 5).filter (bit mask)).map fun j => .trit (k : Int) j (ternDigit value j) pois
  | _ => [.bits (k : Int) mask (value &&& mask) pois]

/-- R218, R195: a write card takes a sector from the Pool at SPCLK `readAt` of the timeline, ahead of its start. A sector
of which something was not written by then goes with every word poisoned, and counts an underrun. A stream that failed,
was cancelled or runs poisoned gives none. -/
def drainSector (s slot part seq : Nat) (readAt : Int) (e : Eng) : Option (List Atom) × Eng :=
  let r := recOf (dockOf e s) slot
  match streamOf (dockOf e s) slot with
  | none => (none, e)
  | some x =>
    if x.failed || x.poisoned || x.cancelAt.isSome then (none, e)
    else
      let need := sectorNeed r part seq
      let ready := need.all fun q => match x.staged.lookup (stagedKey part seq q.1) with
        | some (m, t) => m &&& q.2 == q.2 && decide ((t : Int) ≤ 2 * readAt)
        | none => false
      let a := (x.places.lookup (sectorKey part seq)).map (queueAddr e s r)
      let f : Fmt := if part = 0 then r.view.fmt else .uint8
      let atoms := need.flatMap fun q =>
        let v := match a with | some a => (memByte e (a + q.1)).toNat | none => 0
        let p := match a with | some a => poolPoisoned e (a + q.1) | none => true
        drawnByte f q.1 q.2 v (!ready || p)
      let keys := (below 32).map (stagedKey part seq)
      let x := { x with staged := x.staged.filter (fun b => !keys.contains b.1),
                        places := storeErase (sectorKey part seq) x.places, drained := x.drained + 1 }
      let e := onDock s (setStream slot x) e
      let e := if ready then e else streamEvent s r.id .poisoned 0x3F32 (bump (stIdx s 0x30) 8 e)
      (some atoms, e)

/-- Whether every sector of a result stream to stack memory has been carried by its write cards (R201). -/
def allDrained (r : StreamRec) (x : Stream) : Bool :=
  x.done && (partSectors r 0).length + (if r.view.group = 0 then 0 else (partSectors r 1).length) ≤ x.carried

end Sys2Proof.Machine
end

