-- ==== Sys2Proof/Machine/Memory.lean ====
section
/-! DEFINITION. Stack memory with its poison tables, and memory as the dispatcher and the firmware reach it
(spec/10_stack_agents.md R232; spec/16_reset_clocks_power.md R385; spec/17_faults_limits.md R413, R414). -/

namespace Sys2Proof.Machine

/-- A stack agent. -/
def agentOf (e : Eng) (n : Nat) : Agent := storeGet (fun _ => {}) e.agents n

/-- A stack agent changed. -/
def onAgent (n : Nat) (f : Agent → Agent) (e : Eng) : Eng :=
  { e with agents := storeSet (fun _ => {}) n (f (agentOf e n)) e.agents }

/-- The mask of poisoned words of a sector, by its stack offset (R414). -/
def poisonMask (e : Eng) (n off : Nat) : Nat := storeGet (fun _ => 0) (agentOf e n).poison (off / 32)

/-- A sector's mask set (R414): an entry whose mask is zero is freed. -/
def setPoisonMask (n off mask : Nat) (e : Eng) : Eng :=
  onAgent n (fun a => { a with poison := storeSet (fun _ => 0) (off / 32) mask a.poison }) e

/-- The number of bits set among the low 8. -/
def popcount8 (m : Nat) : Nat := ((below 8).filter (bit m)).length

/-- R414: the poison table takes a write whose words in `touched` are written, those in `pois` poisoned. With no free
entry the poison is lost, counted word by word, and raised once. -/
def recordPoison (n off touched pois : Nat) (e : Eng) : Eng :=
  let old := poisonMask e n off
  let new := (old &&& (255 - touched)) ||| (pois &&& touched)
  if old = 0 ∧ new ≠ 0 ∧ 256 ≤ (agentOf e n).poison.length then
    e |> bumpBy (popcount8 new) (0x1350 + n) 3 |> raise (48 + n) 0x1341
  else setPoisonMask n off new e

/-- The 32 bytes of a sector of a stack, as a number. -/
def sectorData (e : Eng) (n off : Nat) : Nat := leNat (memBytes e (n * 0x1000000000 + off / 32 * 32) 32)

/-- The words of which some byte is in a byte mask. -/
def wordsOf (mask : Nat) : Nat :=
  (below 8).foldl (fun m w => if bits mask (4 * w) 4 ≠ 0 then m ||| 2 ^ w else m) 0

/-- A write to a sector is accepted (R236, R414): the bytes of the mask, with the poison of their words. -/
def writeSector (n off data mask pois : Nat) (e : Eng) : Eng :=
  let base := n * 0x1000000000 + off / 32 * 32
  let e := { e with mem := (below 32).foldl (fun m k =>
    if bit mask k then memPut (base + k) (BitVec.ofNat 8 (bits data (8 * k) 8)) m else m) e.mem }
  recordPoison n off (wordsOf mask) pois e

/-- The stack agent that holds a local address. -/
def agentAt (a : Nat) : Nat := a / 0x1000000000

/-- Whether the word of a stack or Pool byte is poisoned. -/
def poisonedAt (e : Eng) (a : Nat) : Bool :=
  match (regionOf a).1 with
  | .stack => bit (poisonMask e (agentAt a) (a % 0x1000000000)) (a / 4 % 8)
  | .pool => poolPoisoned e a
  | _ => false

/-- Whether the part that holds a local address answers: a part reset alone is behind its isolation wrapper, which
answers reads with poison and discards writes (R385). -/
def partAnswers (e : Eng) (a : Nat) : Bool := phaseOf e (memPart a) == .up

/-- Bytes of stack memory or of a Pool as they stand, with their poison. -/
def readLocal (e : Eng) (a n : Nat) : List (Byte × Bool) :=
  (below n).map fun k => if partAnswers e (a + k) then (memByte e (a + k), poisonedAt e (a + k)) else (0, true)

/-- R237, R259: a write to a sector is about to be accepted at SPCLK `t`: reads with an earlier read point keep what
stood there, and repairs of the sector are skipped. -/
def beforeWrite (n off t : Nat) (e : Eng) : Eng :=
  let now := (sectorData e n off, poisonMask e n off)
  let same (x : Nat) : Bool := x / 32 == off / 32
  let moot (r : Req) : Bool := r.kind == .repair && r.sects.any fun x => same x.off
  let gone (a : Agent) : List Nat := ((a.pending ++ a.grants.flatMap (·.parts)).filter moot).map (·.id)
  onAgent n (fun a => { a with
    granted := a.granted.filter fun r => !(gone a).contains r.id
    bursts := a.bursts.map fun b =>
      if same b.off && decide (b.readAt < t) && b.captured.isNone then { b with captured := some now } else b
    inbox := a.inbox.filter fun r => !moot r
    pending := a.pending.filter fun r => !moot r
    grants := a.grants.map fun x => { x with parts := x.parts.filter fun r => !moot r } }) e

/-- A byte of stack memory or of a Pool written with its poison. A word that is not written whole keeps its poison. -/
def putByte (a : Nat) (b : Byte) (pois : Bool) (e : Eng) : Eng :=
  if !partAnswers e a then e
  else match (regionOf a).1 with
    | .stack =>
      let n := agentAt a
      let off := a % 0x1000000000
      let e := setMemByte a b e
      if pois then recordPoison n off (2 ^ (off / 4 % 8)) (2 ^ (off / 4 % 8)) e else e
    | .pool => poolWrite a [(b, pois)] e
    | _ => e

/-- Whole clean words among written bytes lose their poison (R413, R414). -/
def cleanWords (a n : Nat) (e : Eng) : Eng :=
  (upFrom ((a + 3) / 4) ((a + n) / 4 - (a + 3) / 4)).foldl (fun e w =>
    match (regionOf (4 * w)).1 with
    | .stack => recordPoison (agentAt (4 * w)) (4 * w % 0x1000000000) (2 ^ (w % 8)) 0 e
    | .pool => setPoolPois (4 * w) false e
    | _ => e) e

/-- R237, R259: bytes of stack memory are about to be written at once, by a part that is no requester of R247 (log entry
136). -/
def beforeBytes (a n : Nat) (e : Eng) : Eng :=
  if (regionOf a).1 = .stack ∧ partAnswers e a then
    (upFrom (a / 32) ((a + n + 31) / 32 - a / 32)).foldl (fun e s =>
      beforeWrite (agentAt a) (32 * s % 0x1000000000) (timeline e / 2) e) e
  else e

/-- Bytes written at a local address: into stack memory or a Pool, or sent to the host window through HST, unless the
block is orphaned (R374). -/
def writeLocal (a : Nat) (bs : List (Byte × Bool)) (e : Eng) : Eng :=
  match (regionOf a).1 with
  | .host => if e.fw.suppress then e else emit (.hostWrite (a - 0x300000000000) (bs.map (·.1)) (bs.any (·.2))) e
  | _ =>
    let e := if partAnswers e a then cleanWords a bs.length (beforeBytes a bs.length e) else e
    ((below bs.length).zip bs).foldl (fun e x => putByte (a + x.1) x.2.1 x.2.2 e) e

/-- A little-endian number written at a local address. -/
def writeLocalNat (a n v : Nat) (e : Eng) : Eng := writeLocal a ((leBytes n v).map fun b => (b, false)) e

end Sys2Proof.Machine
end

