-- ==== Sys2Proof/Machine/RingOps.lean ====
section
/-! DEFINITION. What rings and jobs share (spec/12_dynamic_channels.md R278, R286, R295 to R300): ring entries, marking
an entry bad, the head, the interrupt, the reads that HST makes, and the store of jobs. -/

namespace Sys2Proof.Machine

/-- A ring's hidden state. -/
def ringOf (e : Eng) (r : Nat) : Ring := storeGet (fun _ => {}) e.rings r

/-- A ring's hidden state changed. -/
def onRing (r : Nat) (f : Ring → Ring) (e : Eng) : Eng :=
  { e with rings := storeSet (fun _ => {}) r (f (ringOf e r)) e.rings }

/-- The index of a ring's entries in the dictionary. -/
def ringIdx (r : Nat) : Nat := 0x4100 + r

/-- The number of entries of a ring (R277). -/
def ringLen (e : Eng) (r : Nat) : Nat := 2 ^ reg e (ringIdx r) 2

/-- The local address of entry `i` of a ring (R278). -/
def entryAddr (e : Eng) (r i : Nat) : Nat := reg e (ringIdx r) 1 + 64 * (i % ringLen e r)

/-- The OPCODE of an entry (R280). -/
def opcodeOf (bytes : List Byte) : Nat := (bytes.getD 15 0).toNat

/-- The present moment in SPCLK of the timeline. -/
def spNow (e : Eng) : Nat := timeline e / 2

/-- R286: the marks of a failed entry are written in place. A MOVE_INLINE that fits has its DETAIL in its fourth entry
(R282); one that does not has no DETAIL field of its own. -/
def markBad (r : Nat) (x : RingEntry) (z : Ending) (frag : Nat) (e : Eng) : Eng :=
  let inline_ := opcodeOf x.bytes = 2 ∧ !x.pois
  let e := if opcodeOf x.bytes = 3 then writeLocalNat (x.addr + 6) 2 frag e else e
  let e := if !decide inline_ then writeLocalNat (x.addr + 4) 2 z.detail e
    else if x.count = 4 then writeLocalNat (x.addr + 192 + 60) 2 z.detail e
    else e
  e |> writeLocalNat (x.addr + 13) 1 z.status.code |> bump 0x4002 2 |> bump (ringIdx r) 17 |>
    setReg 0x4003 1 (z.status.code + z.detail * 2 ^ 8 + r * 2 ^ 24 + x.index * 2 ^ 32)

/-- An interrupt message sent through HST, unless the block is orphaned (R374) or in reset, where HST issues no request
(R13). -/
def sendMsi (vector : Nat) (e : Eng) : Eng := if e.fw.suppress || !isReady e then e else emit (.msi vector) e

/-- R298: the interrupt check of a ring. Before BT_READY, where HST issues no request (R13), nothing is sent and the ring
stays armed (log entry 127). -/
def checkIrq (r : Nat) (e : Eng) : Eng :=
  let i := ringIdx r
  if reg e i 15 = 1 ∧ isReady e ∧ gateMet (reg e i 11) (reg e i 13) then
    e |> setReg i 15 0 |> sendMsi (reg e i 14) |> bump 0x4002 7
  else e

/-- HEAD_INDEX passes the complete entries at the head of the ring's epoch; complete entries of an earlier epoch leave
it (R297, R300). -/
def advanceHead (r : Nat) (es : List RingEntry) (e : Eng) : Eng :=
  let cur := reg e (ringIdx r) 12
  let live := es.filter fun x => x.epoch == cur || x.stage ≠ .complete
  let done := (live.filter fun x => x.epoch == cur).takeWhile fun x => x.stage == .complete
  let left := live.filter fun x => !(x.epoch == cur && done.any fun y => y.index == x.index)
  let e := onRing r (fun g => { g with
    entries := left, headDue := g.headDue || !done.isEmpty,
    measure := g.measure ++ (done.filter (·.timed)).map fun x => (x.door, x.first) }) e
  match done.getLast? with
  | some x => setReg (ringIdx r) 11 ((x.index + x.count) % 2 ^ 32) e
  | none => e

/-- R304: the measurement of a class-0 job or WEEVIL entry that completes now: from its reference doorbell, in SPCLK. -/
def measureClass0 (door firstData : Option Nat) (e : Eng) : Eng :=
  match door with
  | none => e
  | some d =>
    let took := spNow e - d
    let e := bump 0x4202 1 e
    let e := if firstData.any fun f => 10800 < f - d then bump 0x4202 2 e else e
    let e := if 18000 < took then bump 0x4202 3 e else e
    if reg e 0x4202 4 < took then setReg 0x4202 4 (min took (2 ^ 32 - 1)) e else e

/-- An entry of a ring completes with a status (R286, R297, R300). -/
def completeEntry (r epoch index : Nat) (z : Ending) (frag : Nat) (e : Eng) : Eng :=
  match (ringOf e r).entries.find? fun x => x.index == index && x.epoch == epoch && x.stage ≠ .complete with
  | none => bump 0x4002 5 e
  | some x =>
    let e := if x.epoch ≠ reg e (ringIdx r) 12 then bump 0x4002 5 e
      else if z.status = .done then bump 0x4002 1 e else markBad r x z frag e
    let es := (ringOf e r).entries.map fun y =>
      if y.index = index ∧ y.epoch = epoch then { y with stage := .complete } else y
    let e := advanceHead r es e
    let pending := (ringOf e r).entries.any fun y => y.stage ≠ .complete
    if reg e (ringIdx r) 8 = 2 ∧ !pending ∧ !(ringOf e r).headDue then setReg (ringIdx r) 8 0 e else e

/-- The jobs of a ring in progress: entries of its epoch that have started and are not complete (R289, R300, R305). -/
def jobsActive (e : Eng) (r : Nat) : Nat :=
  ((ringOf e r).entries.filter fun x => x.stage == .started && x.epoch == reg e (ringIdx r) 12).length

/-- A job. -/
def jobOf (e : Eng) (j : Nat) : Option Job := e.jobs.find? (·.id == j)

/-- A job set. -/
def setJob (x : Job) (e : Eng) : Eng := { e with jobs := e.jobs.map fun y => if y.id = x.id then x else y }

/-- A job added. -/
def addJob (x : Job) (e : Eng) : Eng := { e with jobs := e.jobs ++ [x] }

/-- A job gone. -/
def removeJob (j : Nat) (e : Eng) : Eng := { e with jobs := e.jobs.filter (·.id ≠ j) }

/-- A new identifier. -/
def newId (e : Eng) : Nat × Eng := (e.ids, { e with ids := e.ids + 1 })

/-- Whether a job has been started and is not complete (R305). -/
def inProgress (x : Job) : Bool :=
  x.stage == .reading || x.stage == .decoding || x.stage == .writing || x.stage == .waiting || x.stage == .ended

/-- JOBS_IN_PROGRESS (R305): jobs, and the SEM_OP entries of rings that have started and are not complete. -/
def jobsInProgress (e : Eng) : Nat :=
  (e.jobs.filter inProgress).length +
    (e.rings.map fun r => (r.2.entries.filter fun x => x.stage == .started && opcodeOf x.bytes == 5).length).sum

/-- The bytes of data reads that are outstanding (R296). -/
def hostOutstanding (e : Eng) : Nat := ((e.hostReads.filter fun x => x.issued && x.data).map (·.len)).sum

/-- The order of R296 on waiting reads: class, then entry and descriptor reads before data reads, then request order. -/
def readBefore (a b : HostRead) : Bool :=
  a.cls < b.cls || (a.cls == b.cls && ((!a.data && b.data) || (a.data == b.data && a.id < b.id)))

/-- The waiting read that HST issues next. -/
def nextRead : List HostRead → Option HostRead
  | [] => none
  | a :: t =>
    if a.issued then nextRead t
    else match nextRead t with
      | none => some a
      | some b => some (if readBefore a b then a else b)

/-- R296: HST issues waiting reads in their order while the limit of outstanding data bytes allows. -/
def issueReads : Nat → Eng → Eng
  | 0, e => e
  | fuel + 1, e =>
    match nextRead e.hostReads with
    | none => e
    | some x =>
      if x.data ∧ 65536 < hostOutstanding e + x.len then e
      else
        issueReads fuel (emit (.hostRead x.id (x.addr - 0x300000000000) x.len)
          { e with hostReads := e.hostReads.map fun y => if y.id = x.id then { y with issued := true } else y })

/-- The pieces of at most 4 KiB of a range of bytes (R296). -/
def readPieces : Nat → Nat → Nat → List (Nat × Nat)
  | 0, _, _ => []
  | fuel + 1, a, n => if n = 0 then [] else (a, min n 4096) :: readPieces fuel (a + min n 4096) (n - 4096)

/-- A read of a range of the host window is requested; its identifiers. -/
def requestRead (use : ReadUse) (cls : Nat) (data : Bool) (a n : Nat) (e : Eng) : List Nat × Eng :=
  let pieces := readPieces (n / 4096 + 1) a n
  let ids := upFrom e.ids pieces.length
  let e := { e with
    ids := e.ids + pieces.length
    hostReads := e.hostReads ++ (ids.zip pieces).map fun x => ⟨x.1, use, cls, data, x.2.1, x.2.2, false⟩ }
  (ids, issueReads e.hostReads.length e)

end Sys2Proof.Machine
end

