-- ==== Sys2Proof/Machine/Requests.lean ====
section
/-! DEFINITION. Requests to the stack agents (spec/10_stack_agents.md R247, R248, R256 to R258; spec/05_layout_transforms.md
R130, R131): how reads and the writes of a holding register become requests of up to 128 sectors of one channel
group. -/

namespace Sys2Proof.Machine

/-- The lanes of R248. -/
def laneRead : Nat := 0

@[inherit_doc laneRead]
def laneWrite : Nat := 1

@[inherit_doc laneRead]
def laneRemote : Nat := 2

/-- The channel group of a stack address (R232). -/
def groupAt (a : Nat) : Nat := bits a 12 2

/-- The pseudo-channel, the bank and the row of a stack offset (R232, R241). -/
def pcOf (off : Nat) : Nat := bits off 5 4

@[inherit_doc pcOf]
def bankOfOff (off : Nat) : Nat := 4 * bits off 14 2 + bits off 16 2

@[inherit_doc pcOf]
def rowOfOff (off : Nat) : Nat := bits off 20 16

/-- Whether a set of atoms writes the whole of a byte of its sector, without an addition (R131, R418). -/
def byteWhole (atoms : List Atom) (k : Nat) : Bool :=
  let here := atoms.filter fun a => (a.addr % 32).toNat == k
  let mask := here.foldl (fun m a => match a with | .bits _ x _ _ => m ||| x | _ => m) 0
  let trits := here.filterMap fun a => match a with | .trit _ j _ _ => some j | _ => none
  mask == 255 || (below 5).all trits.contains

/-- Whether an atom is an addition (R127). -/
def Atom.isAdd : Atom → Bool
  | .add .. => true
  | _ => false

/-- Whether a sector's atoms write all of it from new data, so that no read phase is needed (R257). -/
def sectorWhole (atoms : List Atom) : Bool := !(atoms.any Atom.isAdd) && (below 32).all (byteWhole atoms)

/-- The sector visits of writes in emission order (R130): consecutive atoms of one sector go together. -/
def visits : List Atom → List (Nat × List Atom)
  | [] => []
  | a :: t =>
    let sec := a.addr.toNat / 32
    match visits t with
    | [] => [(sec, [a])]
    | (s, as) :: rest => if s = sec then (s, a :: as) :: rest else (sec, [a]) :: (s, as) :: rest

/-- Sectors collected for one request: whether a write is whole, and its local sector numbers with their atoms, last
first. -/
abbrev Batch := Bool × List (Nat × List Atom)

/-- Whether a sector joins a batch: the same agent and channel group, the same kind, at most 128 sectors, and none
twice. -/
def joins (b : Batch) (whole : Bool) (sec : Nat) : Bool :=
  match b.2 with
  | [] => true
  | (s, _) :: _ =>
    b.1 == whole && agentAt (32 * s) == agentAt (32 * sec) && groupAt (32 * s) == groupAt (32 * sec) &&
      b.2.length < 128 && b.2.all (·.1 ≠ sec)

/-- Sectors batched into requests, in order. -/
def batches (whole : List Atom → Bool) : List (Nat × List Atom) → List Batch
  | [] => []
  | x :: t =>
    match batches whole t with
    | [] => [(whole x.2, [x])]
    | b :: rest => if joins b (whole x.2) x.1 then (b.1, x :: b.2) :: rest else (whole x.2, [x]) :: b :: rest

/-- A request handed to the agent of its sectors. -/
def submit (n : Nat) (r : Req) (e : Eng) : Eng := onAgent n (fun a => { a with inbox := a.inbox ++ [r] }) e

/-- The requester whose eighths carry a transfer over stitch lines (R273): the stack agent for a read, the requester's
own number for a write; none within one field. -/
def spineOf (read : Bool) (own field n : Nat) : Option Nat :=
  if fieldOfAgent n = field then none else some (if read then n else own)

/-- The field in which a link agent's traffic enters (R31): A for LA0, D for LA1. -/
def linkField (p : Nat) : Nat := if p = 0 then 0 else 3

/-- The segments of a path from one field to another, in order (R218, R273). -/
def pathSegs (a b : Nat) : List Nat := (below (stitches a b)).map fun k => if a < b then a + k else a - 1 - k

/-- The field of a requester at the spine arbiter: stack agents 0-23, stations 24-71, link agents 72 and 73 (R273). -/
def fieldOfRequester (q : Nat) : Nat :=
  if q < 24 then fieldOfAgent q else if q < 72 then fieldOfStation (q - 24) else linkField (q - 72)

/-- The direction of a requester's path: 0 towards field D, 1 towards field A (R219). -/
def pathDir (q : Nat) (segs : List Nat) : Nat := if fieldOfRequester q ≤ segs.headD 0 then 0 else 1

/-- A path eighth held by a requester for a slot that has not passed, as it is listed: its first slot and its segments
(R273). -/
def heldEighth (e : Eng) (requester : Nat) (slot : Option Nat) (segs : List Nat) : Option (Nat × Nat × List Nat) :=
  e.spine.held.find? fun h => h.1 == requester && h.2.2 == segs && spNow e < 8 * h.2.1 + 8 && slot.all (· == h.2.1)

/-- A path eighth is used (R273, R276). -/
def useEighth (h : Nat × Nat × List Nat) (e : Eng) : Eng :=
  h.2.2.foldl (fun e k => bump (0x3920 + k) 3 e)
    { e with spine := { e.spine with
        held := e.spine.held.erase h, used := (pathDir h.1 h.2.2, h.2.1, h.2.2) :: e.spine.used } }

/-- The clock moved on to an SPCLK of the timeline. -/
def advanceSp (t : Nat) (e : Eng) : Eng := advanceCycle (2 * t) e

/-- R273: an item that waits at its requester crosses stitch lines under an eighth, 24 SPCLK for each. -/
def crossUnder (h : Nat × Nat × List Nat) (e : Eng) : Eng := useEighth h (advanceSp (8 * h.2.1 + 24 * h.2.2.length) e)

/-- What all requests of one access share: owner, lane, class, latest-service time, the requester's number (R273) and its
field, and whether they are Weevil or fill requests (R258, R294). -/
structure AccessBy where
  owner : Owner
  lane : Nat
  cls : Nat
  lst : Nat
  own : Nat
  field : Nat
  weevil : Bool := false
  fill : Bool := false

/-- A request for sectors of one agent, handed to it; its identifier (R247). -/
def submitOne (by_ : AccessBy) (kind : ReqKind) (turn : Nat) (sects : List (Nat × List Atom)) (e : Eng) : Nat × Eng :=
  let (id, e) := newId e
  let sec := (sects.headD (0, [])).1
  let n := agentAt (32 * sec)
  (id, submit n { id, owner := by_.owner, kind, lane := by_.lane, cls := by_.cls, lst := by_.lst, group := groupAt (32 * sec),
                  sects := sects.map fun x => ⟨32 * x.1 % 0x1000000000, x.2⟩, weevil := by_.weevil, sender := by_.own,
                  field := by_.field, spine := spineOf (kind == .read) by_.own by_.field n, turn, fill := by_.fill,
                  since := spNow e } e)

/-- Accesses submitted one after the other; their identifiers. -/
def submitEach {α : Type} (f : α → Eng → Nat × Eng) : List α → Eng → List Nat × Eng
  | [], e => ([], e)
  | x :: t, e =>
    let (id, e) := f x e
    let (ids, e) := submitEach f t e
    (id :: ids, e)

/-- Batches submitted as requests; their identifiers. -/
def submitAll (by_ : AccessBy) (read : Bool) (bs : List Batch) (e : Eng) : List Nat × Eng :=
  submitEach (fun b => submitOne by_ (if read then .read else if b.1 then .write else .mergeRead) 0 b.2) bs e

/-- Sector visits of stack memory submitted as write requests in their order. -/
def submitVisits (by_ : AccessBy) (vs : List (Nat × List Atom)) (e : Eng) : List Nat × Eng :=
  submitAll by_ false (batches sectorWhole vs) e

/-- Writes to stack memory, by local address, submitted as requests in emission order. -/
def submitWrites (by_ : AccessBy) (atoms : List Atom) (e : Eng) : List Nat × Eng := submitVisits by_ (visits atoms) e

/-- The sectors that ranges of bytes touch, each once, in the order first met. -/
def sectorsOf (ranges : List (Nat × Nat)) : List Nat :=
  (ranges.foldl (fun (acc : List Nat) r =>
    (upFrom (r.1 / 32) ((r.1 + r.2 + 31) / 32 - r.1 / 32)).foldl (fun acc s => if acc.contains s then acc else s :: acc)
      acc) []).reverse

/-- Reads of sectors of stack memory submitted as requests. -/
def submitSectors (by_ : AccessBy) (sectors : List Nat) (e : Eng) : List Nat × Eng :=
  submitAll by_ true (batches (fun _ => true) (sectors.map fun s => (s, []))) e

/-- Reads of stack memory, by local address ranges, submitted as requests. -/
def submitReads (by_ : AccessBy) (ranges : List (Nat × Nat)) (e : Eng) : List Nat × Eng :=
  submitSectors by_ (sectorsOf ranges) e

/-- Whether sectors can all lie on one card (R255, R239): one stack and channel group, and on each pseudo-channel at most
8 sectors and 4 activations, of different banks. -/
def onOneCard (sectors : List Nat) : Bool :=
  let first := 32 * sectors.headD 0
  (sectors.all fun s => agentAt (32 * s) == agentAt first && groupAt (32 * s) == groupAt first) &&
    (below 16).all fun p =>
      let mine := (sectors.map (32 * ·)).filter (pcOf · == p)
      let acts := (mine.map fun o => (bankOfOff o, rowOfOff o)).eraseDups
      mine.length ≤ 8 && acts.length ≤ 4 && acts.all fun a => (acts.filter (·.1 == a.1)).length == 1

/-- The sectors that a sector transpose read turns into (R255): each given by its bytes as a number and its poisoned
words. -/
def turnSectors (w : Nat) (xs : List (Nat × Nat)) : List (Nat × Nat) :=
  let src (i k : Nat) : Nat × Nat := (xs.getD (k / w) (0, 0), w * i + k % w) |> fun s =>
    (bits s.1.1 (8 * s.2) 8, bits s.1.2 (s.2 / 4) 1)
  (below (32 / w)).map fun i =>
    ((below 32).foldl (fun m k => m + (src i k).1 * 2 ^ (8 * k)) 0,
      (below 32).foldl (fun m k => m ||| (src i k).2 * 2 ^ (k / 4)) 0)

/-- Sector transpose reads, one request for each block of sectors (R255). -/
def submitTurned (by_ : AccessBy) (w : Nat) (blocks : List (List Nat)) (e : Eng) : List Nat × Eng :=
  submitEach (fun b => submitOne by_ .read w (b.map fun s => (s, []))) blocks e

end Sys2Proof.Machine
end

