-- ==== Sys2Proof/Machine/LinkOps.lean ====
section
/-! DEFINITION. Link agents: channels, sending, responses and the outcome of messages (spec/13_remote_sync.md R306 to
R318, R321, R326, R327). -/

namespace Sys2Proof.Machine

/-- A link agent. -/
def linkOf (e : Eng) (p : Nat) : Link := storeGet (fun _ => {}) e.links p

/-- A link agent changed. -/
def onLink (p : Nat) (f : Link → Link) (e : Eng) : Eng :=
  { e with links := storeSet (fun _ => {}) p (f (linkOf e p)) e.links }

/-- What a channel holds beside its entry. -/
def chanOf (e : Eng) (p c : Nat) : Chan := storeGet (fun _ => {}) (linkOf e p).chans c

/-- A channel changed. -/
def onChan (p c : Nat) (f : Chan → Chan) (e : Eng) : Eng :=
  onLink p (fun l => { l with chans := storeSet (fun _ => {}) c (f (storeGet (fun _ => {}) l.chans c)) l.chans }) e

/-- A channel's entry of CHANNEL_TABLE as a number (R312). -/
def chanEntry (e : Eng) (p c : Nat) : Nat := domNat e (0x5004 + p) 1 (32 * c) 32

/-- A field of a channel's entry. -/
def chField (e : Eng) (p c lo n : Nat) : Nat := bits (chanEntry e p c) lo n

/-- A field of a channel's entry set. -/
def setChField (p c lo n v : Nat) (e : Eng) : Eng :=
  setDomNat (0x5004 + p) 1 (32 * c) 32 (setBits (chanEntry e p c) lo n v) e

/-- A counter of CHANNEL_COUNTS raised by 1 (R334): 0 MSGS_SENT, 1 MSGS_APPLIED, 2 STALL_FRAMES, 3 RETRANSMITS. -/
def chanBump (p c k : Nat) (e : Eng) : Eng :=
  setDomNat (0x5004 + p) 4 (32 * c + 8 * k) 8 ((domNat e (0x5004 + p) 4 (32 * c + 8 * k) 8 + 1) % 2 ^ 64) e

/-- A link counter raised by 1 (R334). -/
def linkBump (p sub : Nat) (e : Eng) : Eng := bump (0x5010 + p) sub e

/-- Whether a link agent is enabled (R306, R334). -/
def linkEnabled (e : Eng) (p : Nat) : Bool := reg e (0x5001 + p) 1 == 2

/-- Whether a channel is open for a job to an endpoint (R312). -/
def openFor (e : Eng) (p c endpoint : Nat) : Bool :=
  chField e p c 0 2 == 1 && chField e p c 8 18 == endpoint && linkEnabled e p

/-- Header bits [223:0] of a message (R310). -/
def msgHeader (type cls epoch : Nat) (group : Option Nat) (last : Bool) (dst len src dstEp seq body : Nat) : Nat :=
  type + cls * 2 ^ 8 + epoch * 2 ^ 10 + (if group.isSome then 2 ^ 14 else 0) + (if last then 2 ^ 15 else 0) +
    dst * 2 ^ 16 + group.getD 0 * 2 ^ 28 + len * 2 ^ 38 + src * 2 ^ 64 + dstEp * 2 ^ 82 + seq * 2 ^ 128 +
    body * 2 ^ 160

/-- Bytes padded with zeros to a multiple of 32 (R308). -/
def pad32 (bs : List Byte) : List Byte := bs ++ List.replicate ((32 - bs.length % 32) % 32) 0

/-- A message's bytes as they leave: header with its CRC, payload, padding (R308, R310). -/
def msgBytes (header : Nat) (payload : List Byte) : List Byte :=
  leBytes 28 header ++ leBytes 4 (crc32 (leBytes 28 header ++ payload)) ++ pad32 payload

/-- The chunks of a message; `ends` is given to the last one. -/
def chunksOf (cls : Nat) (ends : Option Nat) : Nat → Bool → Nat → List Byte → List Chunk
  | 0, _, _, _ => []
  | fuel + 1, first, pois, bs =>
    let rest := bs.drop 32
    { cls, som := first, pois := pois % 256, bytes := bs.take 32, ends := if rest.isEmpty then ends else none } ::
      (if rest.isEmpty then [] else chunksOf cls ends fuel false (pois / 256) rest)

/-- A message put on its way out. `pois` is the mask of its words. -/
def enqueue (p cls : Nat) (ends : Option Nat) (pois : Nat) (bs : List Byte) (e : Eng) : Eng :=
  onLink p (fun l => { l with stream := l.stream ++ chunksOf cls ends (bs.length / 32 + 1) true pois bs }) e

/-- A GRANT or RESPONSE of a channel sent to an endpoint (R311): it spends no credit and is not kept. -/
def sendControl (p c type body : Nat) (last : Bool) (endpoint : Nat) (e : Eng) : Eng :=
  let h := msgHeader type (chField e p c 6 2) (chField e p c 2 4) none last (chField e p c 26 12) 0 (reg e 0x5000 1)
    endpoint 0 body
  e |> enqueue p (chField e p c 6 2) none 0 (msgBytes h []) |> linkBump p 1

/-- The body of a RESPONSE (R311). -/
def responseBody (ack : Nat) (z : Ending) (credits : Nat) (part : Bool) : Nat :=
  ack % 2 ^ 32 + z.status.code * 2 ^ 32 + min credits 127 * 2 ^ 40 + (if part then 2 ^ 47 else 0) + z.detail * 2 ^ 48

/-- Whether an applied message is finished: durable here, and every copy of it answered or cut (R326). -/
def InMsg.finished (m : InMsg) : Bool := m.durable && m.copies.isEmpty

/-- The lowest SEQ of a channel that is not yet durable or failed (R321). -/
def ackSeq (e : Eng) (p c : Nat) : Nat :=
  match (chanOf e p c).applied.find? (!·.finished) with
  | some m => m.seq
  | none => chField e p c 160 32

/-- A RESPONSE of a channel: the credits freed since the last one go with it (R321). -/
def respond (p c ack : Nat) (z : Ending) (part : Bool) (e : Eng) : Eng :=
  if chField e p c 0 2 ≠ 1 then e
  else
    let ch := chanOf e p c
    e |> onChan p c (fun ch => { ch with freed := ch.freed - min ch.freed 127, durable := 0 }) |>
      sendControl p c 0x11 (responseBody ack z ch.freed part) false (chField e p c 8 18)

/-- R321: a RESPONSE where one is due: OUTSTANDING is 0, or 8 messages have become durable since the last. -/
def respondIfDue (p c : Nat) (part : Bool) (e : Eng) : Eng :=
  if chField e p c 192 16 = 0 ∨ 8 ≤ (chanOf e p c).durable ∨ part then respond p c (ackSeq e p c) okDone part e else e

/-- The applied messages of a channel that are finished leave it, from the front, each answered with its subtree's
failure where it has one (R326); the flag says that one of them was cut. -/
def settleList (p c : Nat) : List InMsg → Bool → Eng → Bool × Eng
  | [], cut, e => (cut, onChan p c (fun ch => { ch with applied := [] }) e)
  | m :: t, cut, e =>
    if m.finished then
      match m.failure with
      | some (_, z) =>
        let e := onChan p c (fun ch => { ch with applied := t }) e
        settleList p c t cut (respond p c m.seq z m.cut e)
      | none => settleList p c t (cut || m.cut) e
    else (cut, onChan p c (fun ch => { ch with applied := m :: t }) e)

/-- The finished messages of a channel are settled and, where there are any, a RESPONSE is sent where it is due. -/
def settle (p c : Nat) (e : Eng) : Eng :=
  let n := (chanOf e p c).applied.length
  let (cut, e) := settleList p c (chanOf e p c).applied false e
  if (chanOf e p c).applied.length = n then e else respondIfDue p c cut e

/-- The earlier of two failures, by message number (R318). -/
def firstFail (a : Option (Nat × Ending)) (b : Nat × Ending) : Option (Nat × Ending) :=
  match a with
  | some x => some (if b.1 < x.1 then b else x)
  | none => some b

/-- Messages of a job that wait to be sent are dropped (R318). -/
def dropWaiting (j : Nat) (e : Eng) : Eng :=
  let mine (m : OutMsg) : Bool := m.source == .job j
  let ids := ([0, 1].flatMap fun p => (linkOf e p).waiting).filter mine |>.map (·.id)
  let e := [0, 1].foldl (fun e p => onLink p (fun l => { l with waiting := l.waiting.filter fun m => !mine m }) e) e
  match jobOf e j with
  | some x => setJob { x with sends := x.sends.filter fun i => !ids.contains i } e
  | none => e

/-- The outcome of a sent message reaches its source (R318, R326, R332): covered, with whether PARTIAL came with it, or
failed. -/
def msgDone (m : OutMsg) (fail : Option Ending) (part : Bool) (e : Eng) : Eng :=
  match m.source with
  | .job j =>
    match jobOf e j with
    | none => e
    | some x =>
      let x := { x with sends := x.sends.erase m.id, cut := x.cut || part }
      match fail with
      | none => setJob x e
      | some z => dropWaiting j (setJob { x with msgFail := firstFail x.msgFail (m.id, z) } e)
  | .barrier plane action =>
    if (fail.isSome || part) && !e.sems.failedActions.contains action then
      { e with sems := { e.sems with failedActions := action :: e.sems.failedActions } } |> bump 0x5120 7 |> raise (72 + plane) ((fail.map (·.detail)).getD 0)
    else e
  | .relay p c i =>
    e |> onChan p c (fun ch => { ch with applied := ch.applied.map fun x =>
        if x.id = i then
          { x with
            copies := x.copies.erase m.id
            cut := x.cut || part
            failure := match fail with | some z => firstFail x.failure (m.id, z) | none => x.failure }
        else x }) |> settle p c

/-- The bytes that a message holds in the replay store. -/
def OutMsg.size (m : OutMsg) : Nat := 32 + (m.payload.length + 31) / 32 * 32

/-- The bytes in a link agent's replay store (R317). -/
def storeUsed (e : Eng) (p : Nat) : Nat := ((linkOf e p).store.map OutMsg.size).sum

/-- A message leaves for the first time: SEQ, header, the credit it spends, and its place in the replay store (R315,
R317). -/
def firstSend (p : Nat) (m : OutMsg) (e : Eng) : Eng :=
  let c := m.channel
  let seq := chField e p c 128 32
  let h := msgHeader m.type m.cls (chField e p c 2 4) m.group m.last (chField e p c 26 12) m.payload.length
    (reg e 0x5000 1) (chField e p c 8 18) seq m.body
  let m := { m with seq, bytes := msgBytes h m.payload, sends := 1 }
  e |> setChField p c 128 32 ((seq + 1) % 2 ^ 32) |> setChField p c 80 7 (chField e p c 80 7 - 1) |>
    onLink p (fun l => { l with store := l.store ++ [m] }) |>
    enqueue p m.cls (some m.id) (m.pois * 256) m.bytes |> linkBump p 1 |> chanBump p c 0

/-- R315: a frame in which a channel has a message waiting for credit adds 1 to its STALL_FRAMES, once. -/
def noteStall (p c : Nat) (e : Eng) : Eng :=
  if (chanOf e p c).stallFrame = some (frameNo e) then e
  else chanBump p c 2 (onChan p c (fun ch => { ch with stallFrame := some (frameNo e) }) e)

/-- The path eighth under which a message can leave its station now: none where it has to wait for one (R273). -/
def messageEighth (e : Eng) (m : OutMsg) : Option (Option (Nat × Nat × List Nat)) :=
  match m.path with
  | none => some none
  | some (q, segs) => (heldEighth e q none segs).map some

/-- R315, R317: waiting messages leave while their channel is open and has credit and the replay store has room, those
of one channel in order; from a station in another field than the link agent's each crosses the spine under an eighth
(R273). `blocked` lists the channels of which an earlier message still waits. -/
def pumpList (p : Nat) : List OutMsg → List Nat → List OutMsg → Eng → Eng
  | [], _, kept, e => onLink p (fun l => { l with waiting := kept }) e
  | m :: t, blocked, kept, e =>
    if blocked.contains m.channel ∨ chField e p m.channel 0 2 ≠ 1 then pumpList p t (m.channel :: blocked) (kept ++ [m]) e
    else if chField e p m.channel 80 7 = 0 then
      pumpList p t (m.channel :: blocked) (kept ++ [m]) (noteStall p m.channel e)
    else if (messageEighth e m).isNone then pumpList p t (m.channel :: blocked) (kept ++ [m]) e
    else if 4194304 < storeUsed e p + m.size then
      pumpList p t (m.channel :: blocked) (kept ++ [{ m with waited := true }])
        (if m.waited then e else linkBump p 4 e)
    else
      let e := match (messageEighth e m).getD none with | some h => crossUnder h e | none => e
      pumpList p t blocked kept (firstSend p m e)

@[inherit_doc pumpList]
def pump (p : Nat) (e : Eng) : Eng := pumpList p (linkOf e p).waiting [] [] e

/-- Why a channel cannot send, once it is no longer open (R313). -/
def closedEnding (e : Eng) (p c : Nat) : Ending :=
  ⟨.remoteError, if chField e p c 0 2 = 2 then 0x5030 else 0x5032⟩

/-- The source of a message waits for its outcome. -/
def awaitMsg (source : MsgSource) (id : Nat) (e : Eng) : Eng :=
  match source with
  | .job j => match jobOf e j with
    | some x => setJob { x with sends := x.sends ++ [id] } e
    | none => e
  | .relay p c i =>
    onChan p c (fun ch => { ch with applied := ch.applied.map fun x =>
      if x.id = i then { x with copies := x.copies ++ [id] } else x }) e
  | .barrier .. => e

/-- The path of a message from its job's station to its link agent, where that crosses stitch lines (R273). -/
def messagePath (e : Eng) (p : Nat) (source : MsgSource) : Option (Nat × List Nat) :=
  match source with
  | .job j => ((jobOf e j).bind (·.station)).bind fun s =>
      let segs := pathSegs (fieldOfStation s) (linkField p)
      if segs.isEmpty then none else some (24 + s, segs)
  | _ => none

/-- What a message carries, whatever channel it takes. -/
structure MsgBody where
  source : MsgSource
  type : Nat
  body : Nat
  last : Bool
  payload : List Byte := []
  pois : Nat := 0

/-- A message, or one copy of it, given to a channel: it waits for its credit. A copy for a child that is cut is not
made (R327), and a channel that is not open fails it. -/
def giveMessage (p c : Nat) (group : Option Nat) (b : MsgBody) (e : Eng) : Eng :=
  let (id, e) := newId e
  let m : OutMsg := { id, source := b.source, channel := c, cls := chField e p c 6 2, type := b.type, body := b.body,
                      last := b.last, group, payload := b.payload, pois := b.pois, since := spNow e, path := messagePath e p b.source }
  let e := awaitMsg b.source id e
  if group.any (chanOf e p c).cutGroups.contains then
    msgDone m none true
      (if b.last then onChan p c (fun ch => { ch with cutGroups := ch.cutGroups.filter (some · ≠ group) }) e else e)
  else if chField e p c 0 2 ≠ 1 then msgDone m (some (closedEnding e p c)) false e
  else pump p (onLink p (fun l => { l with waiting := l.waiting ++ [m] }) e)

/-- The link agent and the child channels of a group of GROUP_TABLE; none where the entry is not VALID (R325). -/
def groupChildren (e : Eng) (g : Nat) : Option (Nat × List Nat) :=
  let b (k : Nat) := domNat e 0x5008 1 (144 * g + k) 1
  if b 0 % 2 = 0 then none
  else some (b 1 % 2, (below (min 64 (b 2))).map fun i => domNat e 0x5008 1 (144 * g + 16 + 2 * i) 2 % 4096)

/-- Copies of a message given to the child channels of a group (R326). -/
def giveCopies (g : Nat) (b : MsgBody) (e : Eng) : Eng :=
  match groupChildren e g with
  | none => e
  | some (p, cs) => cs.foldl (fun e c => giveMessage p c (some g) b e) e

/-- A message of this package given to a channel: itself, or its copies where the channel sends to a group; a group
that is not VALID fails the job (R326). -/
def postMessage (p c : Nat) (b : MsgBody) (e : Eng) : Eng :=
  if chField e p c 38 1 = 0 then giveMessage p c none b e
  else
    let g := chField e p c 39 10
    if (groupChildren e g).isSome then giveCopies g b e
    else
      let (id, e) := newId e
      msgDone { id, source := b.source, channel := c, cls := 0, type := b.type, body := b.body, last := b.last, group := some g,
                payload := [], pois := 0, since := 0 } (some ⟨.remoteError, 0x5021⟩) false e

/-- Every message of a channel that is not covered, and every one that waits, fails (R313). -/
def failChannel (p c : Nat) (z : Ending) (waiting : Bool) (e : Eng) : Eng :=
  let l := linkOf e p
  let mine (m : OutMsg) : Bool := m.channel == c
  let gone := l.store.filter mine ++ if waiting then l.waiting.filter mine else []
  let e := onLink p (fun l => { l with
    store := l.store.filter fun m => !mine m
    waiting := if waiting then l.waiting.filter fun m => !mine m else l.waiting }) e
  pump p (gone.foldl (fun e m => msgDone m (some z) false e) e)

/-- A channel closed (R313): its messages fail, held arrivals and slots are released. -/
def closeChannel (p c : Nat) (e : Eng) : Eng :=
  if chField e p c 0 2 = 0 then e
  else
    let e := setChField p c 0 2 0 e
    onChan p c (fun ch => { ch with held := [], closedAt := some e.now, cutGroups := [], jobFailed := false })
      (failChannel p c ⟨.remoteError, 0x5032⟩ true e)

/-- Every channel of a link agent that is not closed, by the entries that CHANNEL_TABLE lists. -/
def liveChannels (e : Eng) (p : Nat) : List Nat :=
  let lo := domKey (0x5004 + p) 1 0
  (e.dom.filterMap fun x => if lo ≤ x.1 ∧ x.1 < lo + 131072 ∧ (x.1 - lo) % 32 = 0 then some ((x.1 - lo) / 32) else none).filter
    fun c => chField e p c 0 2 ≠ 0

/-- Every channel of a link agent closed (R406). -/
def closeAllChannels (p : Nat) (e : Eng) : Eng := (liveChannels e p).foldl (fun e c => closeChannel p c e) e

/-- The landing slots of a class that channels hold (R314). -/
def slotsHeld (e : Eng) (p cls : Nat) : Nat :=
  ((liveChannels e p).map fun c => if chField e p c 6 2 = cls then chField e p c 72 7 else 0).sum

/-- Flits of a class that wait. -/
def hasFlit (l : Link) (cls : Nat) : Bool := l.stream.any (·.cls == cls)

/-- Flit credits of a class (R308). -/
def flitCredits (l : Link) (cls : Nat) : Nat := storeGet (fun _ => 0) l.credits cls

/-- Whether a flit of a class can leave. -/
def canSend (l : Link) (cls : Nat) : Bool := hasFlit l cls && 0 < flitCredits l cls

/-- R309: the class of the next flit, with the turn and the flits used in it afterwards; `fuel` passes over classes. -/
def nextClass (e : Eng) (p : Nat) (l : Link) : Nat → Nat → Nat → Option (Nat × Nat × Nat)
  | 0, _, _ => none
  | fuel + 1, turn, used =>
    if canSend l turn ∧ used < bits (reg e (0x5001 + p) 2) (8 * (turn - 1)) 8 then some (turn, turn, used + 1)
    else nextClass e p l fuel (if turn = 3 then 1 else turn + 1) 0

/-- The first `n` chunks of a class, and the rest. -/
def takeChunks (cls : Nat) : Nat → List Chunk → List Chunk × List Chunk
  | 0, s => ([], s)
  | _, [] => ([], [])
  | n + 1, x :: t =>
    if x.cls = cls then let (a, b) := takeChunks cls n t; (x :: a, b)
    else let (a, b) := takeChunks cls (n + 1) t; (a, x :: b)

/-- The CRC-32 of a unit's trailer, over its data bytes and its poison map (R274). -/
def unitCrc (mapBytes : Nat) (data : List Byte) (pois : Nat) : Nat := crc32 (data ++ leBytes mapBytes pois)

/-- R274: the sending adapter of a link puts a flit into a unit, with its sequence number, CRC and poison map. -/
def sendUnit (p pois : Nat) (data : List Byte) (e : Eng) : Eng :=
  onLink p (fun l => { l with unitTx := (l.unitTx + 1) % 16 })
    (emit (.unitSent p (linkOf e p).unitTx (unitCrc 8 data pois) pois data) e)

/-- FLIT_SEND (R273, R274, R308, R309): messages that can reach the link agent now do; then class 0 first, and the others
by weighted round robin. -/
def flitSend (p : Nat) (e : Eng) : Eng :=
  let e := pump p e
  let l := linkOf e p
  let pick := if canSend l 0 then some (0, l.turn, l.used) else nextClass e p l 4 l.turn l.used
  match pick with
  | none => e
  | some (cls, turn, used) =>
    if !linkEnabled e p then e
    else
      let (now, rest) := takeChunks cls 8 l.stream
      let data := now.flatMap (·.bytes)
      let som := ((below now.length).zip now).foldl (fun m x => if x.2.som then m + 2 ^ x.1 else m) 0
      let pois := ((below now.length).zip now).foldl (fun m x => m + x.2.pois * 2 ^ (8 * x.1)) 0
      let sent := now.filterMap (·.ends)
      let e := onLink p (fun l => { l with
        stream := rest, turn, used
        credits := storeSet (fun _ => 0) cls (flitCredits l cls - 1) l.credits
        store := l.store.map fun m => if sent.contains m.id then { m with sentAt := some e.now } else m }) e
      let data := data ++ List.replicate (256 - data.length) 0
      e |> linkBump p 15 |> emit (.flit p cls som pois data) |> sendUnit p pois data

/-- FLIT_SEND (R309). -/
def execFlitSend (l : Fin 2) (s : State) : Host.Outcome State Fault Refusal := .next (onEng (flitSend l.val) s)

/-- CREDIT_RETURN (R308): one flit credit of a class. A link agent in reset holds none. -/
def execCreditReturn (l : Fin 2) (cls : Fin 4) (s : State) : Host.Outcome State Fault Refusal :=
  .next (onEng (fun e =>
    if partUp e (72 + l.val) then
      onLink l.val (fun x => { x with credits := storeSet (fun _ => 0) cls.val (flitCredits x cls.val + 1) x.credits }) e
    else e) s)

end Sys2Proof.Machine
end

