-- ==== Sys2Proof/Machine/Sems.lean ====
section
/-! DEFINITION. The semaphore memory (spec/13_remote_sync.md R328 to R332, R419): operations, waiters, virtual
semaphores and the swap queue, and barrier records. -/

namespace Sys2Proof.Machine

/-- The value of a physical semaphore (R328). -/
def semVal (e : Eng) (p : Nat) : Nat := domNat e 0x5100 1 (4 * p) 4

/-- The entry of a virtual semaphore in SEM_MAP (R331). -/
def semMap (e : Eng) (ctx v : Nat) : Nat := domNat e 0x5101 1 (4096 * ctx + 4 * v) 4

/-- Whether a virtual semaphore translates (R331). -/
def translates (e : Eng) (ctx v : Nat) : Bool := bit (semMap e ctx v) 12

/-- Whether its value is held in a physical semaphore (R331). -/
def resident (e : Eng) (ctx v : Nat) : Bool := bit (semMap e ctx v) 13

/-- The physical semaphore that it names (R331). -/
def physOf (e : Eng) (ctx v : Nat) : Nat := bits (semMap e ctx v) 0 12

/-- A message at the head of its channel is done with: its slot is free, RX_SEQ passes it, and after a LAST a new job
begins (R314, R319). `failed` says that it failed. -/
def passMessage (p c : Nat) (m : InMsg) (failed : Bool) (e : Eng) : Eng :=
  let last := bit (leNat (m.bytes.take 4)) 15
  e |> onChan p c (fun ch => { ch with
      held := ch.held.filter (·.id ≠ m.id), freed := ch.freed + 1, jobFailed := !last && (ch.jobFailed || failed) }) |>
    setChField p c 160 32 ((m.seq + 1) % 2 ^ 32)

/-- A message fails at its application (R319): dropped, counted, answered. -/
def failMessage (p c : Nat) (m : InMsg) (z : Ending) (e : Eng) : Eng :=
  let e := e |> passMessage p c m true |> linkBump p 11
  respond p c m.seq z false (if z.status = .noReader then linkBump p 12 e else e)

/-- R326: a multicast message that this package passes on: its copies go to the group's children here. -/
def passOnCopies (p c : Nat) (m : InMsg) (e : Eng) : Eng :=
  let h := leNat (m.bytes.take 28)
  if bit h 14 then
    giveCopies (bits h 28 10)
      { source := .relay p c m.id, type := bits h 0 8, body := bits h 160 64, last := bit h 15,
        payload := (m.bytes.drop 32).take (bits h 38 13), pois := m.pois / 256 } e
  else e

/-- A SEM_ADD has been applied to its semaphore (R321, R326). -/
def semAddApplied (p c : Nat) (m : InMsg) (e : Eng) : Eng :=
  let e := e |> passMessage p c m false |> onChan p c (fun ch => { ch with applied := ch.applied ++ [m] }) |>
    chanBump p c 1 |> passOnCopies p c m |>
    onChan p c (fun ch => { ch with applied := ch.applied.map fun x => if x.id = m.id then { x with durable := true } else x })
  let (cut, e) := settleList p c (chanOf e p c).applied false e
  respond p c (ackSeq e p c) okDone cut e

/-- The end of a semaphore operation reaches what it belongs to (R285, R105, R321, R350, R419). -/
def semDone (op : SemOp) (z : Ending) (e : Eng) : Eng :=
  match op.source with
  | .ring r epoch index =>
    completeEntry r epoch index (if z.status = .waitExpired then ⟨.waitExpired, 0x4009⟩
      else if z.status = .outOfRange then ⟨.outOfRange, 0x4008⟩ else z) 0 e
  | .job j =>
    match jobOf e j with
    | none => e
    | some x =>
      if op.kind = .waitGe then
        setJob { x with waitEnd := some (if z.status = .waitExpired then ⟨.waitExpired, 0x5831⟩ else z) } e
      else setJob { x with
        signalled := true, stage := .ended, ending := if z.status = .done then x.ending else some ⟨.outOfRange, 0x2018⟩ } e
  | .message p c i =>
    match (chanOf e p c).held.find? (·.id == i) with
    | none => e
    | some m => if z.status = .done then semAddApplied p c m e else failMessage p c m ⟨.remoteError, 0x5009⟩ e
  | .command => e

/-- R329: every waiter on a semaphore whose condition holds is released. -/
def testWaiters (p : Nat) (e : Eng) : Eng :=
  let met (w : Waiter) : Bool := w.sem == p && gateMet (semVal e p) w.op.value
  let out := e.sems.waiters.filter met
  let e := { e with sems := { e.sems with waiters := e.sems.waiters.filter fun w => !met w } }
  out.foldl (fun e w => semDone w.op okDone e) (bumpBy out.length 0x5120 2 e)

/-- An operation is applied to a physical semaphore (R328 to R330). -/
def applySem (p : Nat) (op : SemOp) (e : Eng) : Eng :=
  let e := bump 0x5120 1 e
  match op.kind with
  | .add => semDone op okDone (testWaiters p (setDomNat 0x5100 1 (4 * p) 4 ((semVal e p + op.value) % 2 ^ 32) e))
  | .sub =>
    semDone op okDone
      (testWaiters p (setDomNat 0x5100 1 (4 * p) 4 ((semVal e p + 2 ^ 32 - op.value % 2 ^ 32) % 2 ^ 32) e))
  | .waitGe =>
    if gateMet (semVal e p) op.value then semDone op okDone e
    else if 1024 ≤ e.sems.waiters.length then semDone op ⟨.exhausted, 0x5121⟩ (bump 0x5120 4 e)
    else
      let (id, e) := newId e
      { e with sems := { e.sems with waiters := e.sems.waiters ++ [⟨id, p, op⟩] } }

/-- What became of an operation: it does not translate, it was taken (applied, waiting or in the swap queue), or the
swap queue is full. -/
inductive SemTaken where
  | untranslated | taken | full
  deriving DecidableEq, Repr

/-- A semaphore operation of a context (R331). -/
def semOp (op : SemOp) (e : Eng) : SemTaken × Eng :=
  if !translates e op.ctx op.v then (.untranslated, e)
  else if resident e op.ctx op.v then (.taken, applySem (physOf e op.ctx op.v) op e)
  else if e.sems.swap.length < 256 then
    let (id, e) := newId e
    (.taken, bump 0x5120 5 { e with sems := { e.sems with swap := e.sems.swap ++ [{ op with id }] } })
  else (.full, e)

/-- Commands that waited at their source for room in the swap queue are tried again, in order: those that are taken go on,
the others wait on (R331). -/
def resumeQueued : List SemOp → Eng → Eng
  | [], e => e
  | op :: t, e =>
    match semOp op e with
    | (.full, e) => resumeQueued t { e with sems := { e.sems with queued := e.sems.queued ++ [op] } }
    | (_, e) => resumeQueued t e

/-- What waits at its source for the swap queue is looked at again. -/
def retryQueued (e : Eng) : Eng :=
  resumeQueued e.sems.queued { e with sems := { e.sems with queued := [] } }

/-- The semaphore operations of one source leave the waiters and the swap queue; what waited for room may enter. -/
def dropSemOps (src : SemSource) (e : Eng) : Eng :=
  retryQueued { e with sems := { e.sems with
      waiters := e.sems.waiters.filter fun w => w.op.source ≠ src, swap := e.sems.swap.filter fun o => o.source ≠ src } }

/-- Operations taken out of the swap queue: those of a virtual semaphore, in arrival order. -/
def takeHeld (ctx v : Nat) (f : SemOp → Eng → Eng) (e : Eng) : Eng :=
  let mine (o : SemOp) : Bool := o.ctx == ctx && o.v == v
  let out := e.sems.swap.filter mine
  out.foldl (fun e o => f o e) { e with sems := { e.sems with swap := e.sems.swap.filter fun o => !mine o } }

/-- R331, R419: what follows the commit of one entry of SEM_MAP: held operations are applied once it is resident, or
end once it no longer translates; then what waits for room in the swap queue is tried again. -/
def semMapSet (ctx v : Nat) (e : Eng) : Eng :=
  retryQueued (
    if !translates e ctx v then takeHeld ctx v (fun o e => semDone o ⟨.outOfRange, 0x4008⟩ e) e
    else if resident e ctx v then takeHeld ctx v (fun o e => applySem (physOf e ctx v) o e) e
    else e)

/-- The bits of an entry of SEM_MAP that are not reserved (R331). -/
def semMapMask : Nat := 0x3FFF

/-- Whether a new value of an entry of SEM_MAP clears RESIDENT while its semaphore has waiters (R331). -/
def semMapDenied (e : Eng) (ctx v w : Nat) : Bool :=
  resident e ctx v && !bit w 13 && e.sems.waiters.any (·.sem == physOf e ctx v)

/-- A write of DOMAIN data to SEM_MAP from an offset (R331): judged entry by entry, applied whole. -/
def writeSemMap (off : Nat) (bs : List Byte) (s : State) : Access × State :=
  let e := s.eng
  let entries := upFrom (off / 4) ((off + bs.length + 3) / 4 - off / 4)
  let after := setDomBytes 0x5101 1 off bs e
  let new (k : Nat) := domNat after 0x5101 1 (4 * k) 4 &&& semMapMask
  if entries.any fun k => semMapDenied e (k / 1024) (k % 1024) (new k) then (.denied, s)
  else
    let e := entries.foldl (fun e k => setDomNat 0x5101 1 (4 * k) 4 (new k) e) e
    (.ok, { s with eng := entries.foldl (fun e k => semMapSet (k / 1024) (k % 1024) e) e })

/-- A write of DOMAIN data to SEM_VALUES (R329): the waiters of each semaphore written are tested. -/
def writeSemValues (off : Nat) (bs : List Byte) (s : State) : Access × State :=
  (.ok, onEng (fun e =>
    (upFrom (off / 4) ((off + bs.length + 3) / 4 - off / 4)).foldl (fun e p => testWaiters p e)
      (setDomBytes 0x5100 1 off bs e)) s)

/-- The BAR2 offset at which the host reaches a byte of a DOMAIN (R64): through the first aperture bound to the entry
that covers it; where none is bound, as if aperture 1 were bound with BASE 0 (log entry 125). -/
def apertureOffset (e : Eng) (idx sub off : Nat) : Nat :=
  ((below 4).findSome? fun k =>
    let b := reg e 0x1030 (k + 1)
    let base := bits b 32 32
    if bits b 0 16 = idx ∧ bits b 16 8 = sub ∧ base ≤ off ∧ off < base + 2 ^ 24 then some (2 ^ 24 * k + off - base)
    else none).getD (off % 2 ^ 24)

/-- The end of an access to a DOMAIN's data: the host's is recorded under R62 with its offset in BAR2. -/
def endDomain (p : Port) (idx sub off : Nat) (st : Access) (e : Eng) : Eng :=
  emit (.access p idx sub st.code)
    (if p = .h then recordHost st idx sub (2 ^ 31 + apertureOffset e idx sub off) e else e)

/-- A write of DOMAIN data from an offset by a command of the table: the order of R420 up to the owning rule. -/
def domCommand (p : Port) (idx sub off : Nat) (f : State → Access × State) (s : State) : State :=
  match reach s.eng p with
  | .none => s
  | .error => { s with eng := emit (.hostError []) s.eng }
  | .busy => { s with eng := emit (.access p idx sub Access.busy.code) s.eng }
  | _ =>
    match rowOf idx sub with
    | none => { s with eng := endDomain p idx sub off .noEntry s.eng }
    | some r =>
      let (st, s') := if !(rightOf s p idx r).writes then (Access.noRight, s)
        else if heldBack s.eng p idx sub then (.busy, s) else f s
      { s' with eng := endDomain p idx sub off st s'.eng }

/-- SEM_VALUES_WRITE (R329). -/
def execSemValuesWrite (p : Port) (sem : Fin 4096) (v : Word32) (s : State) : Host.Outcome State Fault Refusal :=
  .next (domCommand p 0x5100 1 (4 * sem.val) (writeSemValues (4 * sem.val) (leBytes 4 v.toNat)) s)

/-- SEM_MAP_WRITE (R331, R419). -/
def execSemMapWrite (p : Port) (ctx : Fin 64) (v : Fin 1024) (w : Word32) (s : State) :
    Host.Outcome State Fault Refusal :=
  .next (domCommand p 0x5101 1 (4096 * ctx.val + 4 * v.val) (writeSemMap (4096 * ctx.val + 4 * v.val) (leBytes 4 w.toNat)) s)

/-- SEM_CMD (R331, R334): an untranslatable target ends BAD_VALUE; while the swap queue is full the operation waits at
its source. -/
def effSemCmd : Effect := fun v s =>
  let code := bits v 0 2
  let op : SemOp := { kind := if code = 2 then .sub else .add, ctx := bits v 2 6, v := bits v 8 10, value := bits v 32 32,
                      source := .command }
  if code = 0 ∨ code = 3 then (.badValue, s)
  else
    let (r, e) := semOp op s.eng
    match r with
    | .untranslated => (.badValue, s)
    | .taken => (.ok, { s with eng := e })
    | .full => (.ok, { s with eng := { e with sems := { e.sems with queued := e.sems.queued ++ [op] } } })

/-- A SEM_CMD word (R334). -/
def semCmdWord (code : Nat) (ctx : Fin 64) (v : Fin 1024) (k : Word32) : Nat :=
  code + ctx.val * 2 ^ 2 + v.val * 2 ^ 8 + k.toNat * 2 ^ 32

/-- SEM_CMD_ADD (R331). -/
def execSemCmdAdd (p : Port) (ctx : Fin 64) (v : Fin 1024) (k : Word32) (s : State) :
    Host.Outcome State Fault Refusal :=
  .next (portWrite p 0x5102 1 (semCmdWord 1 ctx v k) effSemCmd s)

/-- SEM_CMD_SUB (R331). -/
def execSemCmdSub (p : Port) (ctx : Fin 64) (v : Fin 1024) (k : Word32) (s : State) :
    Host.Outcome State Fault Refusal :=
  .next (portWrite p 0x5102 1 (semCmdWord 2 ctx v k) effSemCmd s)

/-- WAITER_EXPIRY (R285, R330): the limit of a waiter passes; its record is free. A WAIT_GE held in the swap queue has no
record: it waits for RESIDENT however long that takes (R419). -/
def waiterExpiry (id : Nat) (e : Eng) : Eng :=
  match e.sems.waiters.find? (·.id == id) with
  | none => e
  | some w =>
    let e := advanceTo w.op.limit e
    let e := { e with sems := { e.sems with waiters := e.sems.waiters.filter (·.id ≠ id) } }
    semDone w.op ⟨.waitExpired, 0⟩ (bump 0x5120 3 e)

/-- WAITER_EXPIRY (R330). -/
def execWaiterExpiry (id : Nat) (s : State) : Host.Outcome State Fault Refusal := .next (onEng (waiterExpiry id) s)

/-- A barrier record (R332). -/
def barrierOf (e : Eng) (b : Nat) : Nat := domNat e 0x5110 1 (16 * b) 16

/-- What a barrier record watches (R332): a link counter or a physical semaphore. -/
def barrierWatch (e : Eng) (w : Nat) : Option Nat :=
  match bits w 0 2 with
  | 1 => if bits w 2 6 < 48 then some (linkCtr e (bits w 2 6) (bits w 8 5)) else none
  | 2 => some (semVal e (bits w 13 12))
  | _ => none

/-- Whether a message of a remote barrier action is still on its way (R332). -/
def actionLives (e : Eng) (action : Nat) : Bool :=
  [0, 1].any fun p => ((linkOf e p).store ++ (linkOf e p).waiting).any fun m =>
    match m.source with | .barrier _ a => a == action | _ => false

/-- BARRIER_FIRE (R332): a record whose condition holds fires: TRIG_VALUE steps on, and its actions are taken. -/
def barrierFire (b : Nat) (e : Eng) : Eng :=
  let w := barrierOf e b
  match barrierWatch e w with
  | none => e
  | some x =>
    if !gateMet x (bits w 32 32) then e
    else
      let e := e |> setDomNat 0x5110 1 (16 * b + 4) 4 ((bits w 32 32 + bits w 116 12) % 2 ^ 32) |> bump 0x5120 6
      let plane := bits w 65 1
      let c := bits w 66 12
      let e := if bit w 64 then
          if linkEnabled e plane ∧ chField e plane c 0 2 = 1 then
            let (id, e) := newId { e with sems := { e.sems with
                failedActions := e.sems.failedActions.filter (actionLives e) } }
            postMessage plane c { source := .barrier plane id, type := 6, body := bits w 90 10 + bits w 100 16 * 2 ^ 10,
                                  last := true } e
          else e |> bump 0x5120 7 |> raise (72 + plane) 0x2017
        else e
      if bit w 78 ∧ bits w 79 6 < 48 then
        sendPost 0 (bits w 79 6) (bits w 85 5) (bits w 100 16) (timeline e) e
      else e

/-- BARRIER_FIRE (R332). -/
def execBarrierFire (b : Fin 64) (s : State) : Host.Outcome State Fault Refusal :=
  .next (onEng (barrierFire b.val) s)

end Sys2Proof.Machine
end

