-- ==== Sys2Proof/Machine/Remote.lean ====
section
/-! DEFINITION. Remote traffic (spec/13_remote_sync.md R306 to R327): channel control, flits received, messages checked
and applied, retransmission, receive queues and multicast cuts. -/

namespace Sys2Proof.Machine

/-- MY_ENDPOINT (R306): refused while LINK_ENABLE is 1. -/
def effMyEndpoint : Effect := fun v s =>
  if reg s.eng 0x5000 2 = 1 then (.denied, s)
  else checked 0x5000 1 (fun v s => onEng (fun e => setReg 0x5000 1 v { e with endpointSet := true }) s) v s

/-- MY_ENDPOINT_WRITE (R306). -/
def execMyEndpointWrite (p : Port) (v : Word32) (s : State) : Host.Outcome State Fault Refusal :=
  .next (portWrite p 0x5000 1 v.toNat effMyEndpoint s)

/-- LINK_ENABLE set: link agents that run become enabled, or stop being so (R306, R334). -/
def setLinkEnable (v : Nat) (e : Eng) : Eng :=
  [0, 1].foldl (fun e p =>
    let st := reg e (0x5001 + p) 1
    if st = 1 ∨ st = 2 then setReg (0x5001 + p) 1 (if v = 1 then 2 else 1) e else e) (setReg 0x5000 2 v e)

/-- LINK_ENABLE (R306): 1 is refused until MY_ENDPOINT has been written since the last reset of the control complex. -/
def effLinkEnable : Effect := fun v s =>
  if v = 1 ∧ !s.eng.endpointSet then (.denied, s)
  else checked 0x5000 2 (fun v s => onEng (setLinkEnable v) s) v s

/-- LINK_ENABLE_WRITE (R306). -/
def execLinkEnableWrite (p : Port) (v : Byte) (s : State) : Host.Outcome State Fault Refusal :=
  .next (portWrite p 0x5000 2 v.toNat effLinkEnable s)

/-- The fields of a channel's entry that a DOMAIN write sets (R312). -/
def channelMask : Nat :=
  0x3FFFFFF - 0x3F + 0xFFF * 2 ^ 26 + 2 ^ 38 + 0x3FF * 2 ^ 39 + 2 ^ 49 + 0x3F * 2 ^ 50 + 0x3F * 2 ^ 64 + 0x7F * 2 ^ 72

/-- A DOMAIN write to CHANNEL_TABLE (R312): refused where an entry is not closed; read-only and reserved fields keep
their values. -/
def writeChannels (p off : Nat) (bs : List Byte) (s : State) : Access × State :=
  let e := s.eng
  let entries := upFrom (off / 32) ((off + bs.length + 31) / 32 - off / 32)
  let after := setDomBytes (0x5004 + p) 1 off bs e
  if entries.any fun c => chField e p c 0 2 ≠ 0 then (.denied, s)
  else if entries.any fun c => chField after p c 72 7 = 0 ∨ 64 < chField after p c 72 7 then (.badValue, s)
  else
    (.ok, { s with eng := entries.foldl (fun e c =>
      let old := chanEntry e p c
      setDomNat (0x5004 + p) 1 (32 * c) 32 (old - (old &&& channelMask) + (chanEntry after p c &&& channelMask)) e) e })

/-- 2 ms in ARCLK periods (R313). -/
def twoMs : Nat := 7200000

/-- Whether 2 ms have passed since a channel was last closed, broken or reset (R313, R334). -/
def quietEnough (e : Eng) (p c : Nat) : Bool :=
  (linkOf e p).readyAt + twoMs ≤ e.now &&
    match (chanOf e p c).closedAt with | some t => t + twoMs ≤ e.now | none => true

/-- CHANNEL_RESULT (R334). -/
def channelResult (p c : Nat) (z : Ending) (e : Eng) : Eng :=
  setReg (0x5004 + p) 3 (z.status.code + z.detail * 2 ^ 8 + c * 2 ^ 24) e

/-- A GRANT sent with REPLY 0, to be repeated (R313). -/
def sendGrant (p c : Nat) (e : Eng) : Eng :=
  onChan p c (fun ch => { ch with grantAt := e.now })
    (sendControl p c 0x10 (chField e p c 72 7) false (chField e p c 8 18) e)

/-- OPEN (R313). -/
def openChannel (p c : Nat) (e : Eng) : Access × Eng :=
  let cls := chField e p c 6 2
  let refuse (z : Ending) : Access × Eng := (.denied, channelResult p c z e)
  if chField e p c 0 2 ≠ 0 then refuse ⟨.denied, 0x5042⟩
  else if bits (reg e (0x5001 + p) 5) (16 * cls) 16 < slotsHeld e p cls + chField e p c 72 7 then
    refuse ⟨.exhausted, 0x5041⟩
  else if !quietEnough e p c then refuse ⟨.denied, 0x5042⟩
  else
    let epoch := (chField e p c 2 4 + 1) % 16
    (.ok, e |> setChField p c 0 2 1 |> setChField p c 2 4 epoch |> setChField p c 128 32 0 |>
      setChField p c 160 32 0 |> setChField p c 80 7 0 |> setChField p c 192 16 0 |>
      onChan p c (fun ch => { closedAt := ch.closedAt }) |> sendGrant p c |> channelResult p c okDone)

/-- CHANNEL_CTRL (R313, R334). -/
def effChannelCtrl (p : Nat) : Effect := fun v s =>
  let c := bits v 0 12
  match bits v 12 2 with
  | 1 =>
    let (st, e) := openChannel p c s.eng
    (st, { s with eng := e })
  | 2 => (.ok, onEng (fun e => channelResult p c okDone (closeChannel p c e)) s)
  | _ => (.ok, s)

/-- CHANNEL_OPEN (R313). -/
def execChannelOpen (p : Port) (l : Fin 2) (c : Fin 4096) (s : State) : Host.Outcome State Fault Refusal :=
  .next (portWrite p (0x5004 + l.val) 2 (c.val + 0x1000) (effChannelCtrl l.val) s)

/-- CHANNEL_CLOSE (R313). -/
def execChannelClose (p : Port) (l : Fin 2) (c : Fin 4096) (s : State) : Host.Outcome State Fault Refusal :=
  .next (portWrite p (0x5004 + l.val) 2 (c.val + 0x2000) (effChannelCtrl l.val) s)

/-- RETRY_FRAMES of a link agent, in ARCLK. -/
def retryTime (e : Eng) (p : Nat) : Nat := reg e (0x5001 + p) 3 * frameT

/-- GRANT_REPEAT (R313): an open channel that has met no GRANT from its peer repeats its own. -/
def execGrantRepeat (l : Fin 2) (c : Fin 4096) (s : State) : Host.Outcome State Fault Refusal :=
  .next (onEng (fun e =>
    let ch := chanOf e l.val c.val
    if chField e l.val c.val 0 2 = 1 ∧ !ch.granted then
      sendGrant l.val c.val (advanceTo (ch.grantAt + retryTime e l.val) e)
    else e) s)

/-- The padded length of a message by its header (R308). -/
def wholeLength (bs : List Byte) : Nat := 32 + (bits (leNat (bs.take 8)) 38 13 + 31) / 32 * 32

/-- A chunk of 32 bytes received on a class: it begins a message, cutting short one that is not whole, or goes on with
one; outside a message it is padding (R308). -/
def takeChunk (p cls : Nat) (som : Bool) (pois : Nat) (bs : List Byte) (e : Eng) : Eng :=
  let old := (linkOf e p).partial_.lookup cls
  let cutShort := match old with | some m => if som then [{ m with short := true }] else [] | none => []
  let cur : Option RxMsg :=
    if som then some ⟨bs, pois, false⟩
    else old.map fun m => { m with bytes := m.bytes ++ bs, pois := m.pois + pois * 2 ^ (m.bytes.length / 4) }
  let whole := cur.any fun m => wholeLength m.bytes ≤ m.bytes.length
  onLink p (fun l => { l with
    arrived := l.arrived ++ cutShort ++ (if whole then cur.toList else [])
    partial_ := (l.partial_.filter (·.1 ≠ cls)) ++ (if whole then [] else cur.toList.map fun m => (cls, m)) }) e

/-- The poison of a flit's words as the receiving adapter gives it: the flit's own, and that of its unit (R274, R308). -/
def takeUnitPois (p pois : Nat) (e : Eng) : Nat × Eng :=
  (pois ||| (linkOf e p).unitPois.headD 0, onLink p (fun l => { l with unitPois := l.unitPois.tail }) e)

/-- FLIT_RECEIVE (R308): a flit is taken and its credit returned. A link agent in reset receives nothing. -/
def execFlitReceive (l : Fin 2) (cls : Fin 4) (som : Byte) (pois : BitVec 64) (data : List Byte) (s : State) :
    Host.Outcome State Fault Refusal :=
  if data.length ≠ 256 then .fault .outsideEnvironment
  else if !partUp s.eng (72 + l.val) then .next s
  else .next (onEng (fun e =>
    let (map, e) := takeUnitPois l.val pois.toNat e
    emit (.rxCredit l.val cls.val) ((below 8).foldl (fun e k =>
      takeChunk l.val cls.val (bit som.toNat k) (bits map (8 * k) 8) ((data.drop (32 * k)).take 32) e) e)) s)

/-- The header bits [223:0] of a message. -/
def RxMsg.header (m : RxMsg) : Nat := leNat (m.bytes.take 28)

/-- Its payload. -/
def RxMsg.payload (m : RxMsg) : List Byte := (m.bytes.drop 32).take (bits m.header 38 13)

/-- R319: CRC correct, no header word poisoned, and no part of it missing. -/
def RxMsg.intact (m : RxMsg) : Bool :=
  !m.short && m.pois % 256 == 0 && leNat ((m.bytes.drop 28).take 4) == crc32 (m.bytes.take 28 ++ m.payload)

/-- R310, R311: TYPE, LEN, ADDR and the reserved fields of a header. -/
def headerFits (h : Nat) : Bool :=
  let len := bits h 38 13
  let addr := bits h 160 46
  let inGranule := addr % 4096 + len ≤ 4096
  bits h 51 13 == 0 && bits h 100 28 == 0 && match bits h 0 8 with
    | 1 => 1 ≤ len && inGranule
    | 2 => len == 64 && addr % 32 == 0
    | 3 => len % 4 == 0 && addr % 4 == 0 && inGranule
    | 4 => len % 2 == 0 && addr % 2 == 0 && inGranule
    | 5 => len % 4 == 0 && addr % 4 == 0 && inGranule
    | 6 => len == 0 && bits h 186 6 == 0
    | 0x10 => len == 0 && 1 ≤ bits h 160 7 && bits h 160 7 ≤ 64
    | 0x11 => len == 0 && bits h 192 8 ≤ 0x10
    | _ => false

/-- R319: the checks of every arriving message, in order; the header of one that passes them. -/
def letIn (p : Nat) (m : RxMsg) (e : Eng) : Option Nat × Eng :=
  let h := m.header
  let c := bits h 16 12
  let src := bits h 64 18
  let e := linkBump p 2 e
  if !m.intact then (none, linkBump p 5 e)
  else if !linkEnabled e p then (none, linkBump p 6 e)
  else if bits h 82 18 ≠ reg e 0x5000 1 then (none, linkBump p 7 e)
  else if !headerFits h then (none, linkBump p 8 e)
  else if chField e p c 0 2 ≠ 1 ∨ chField e p c 8 18 ≠ src then
    (none, sendControl p c 0x11 (responseBody (bits h 128 32) ⟨.remoteError, 0x5003⟩ 0 false) false src e)
  else (some h, e)

/-- The oldest message that has arrived, where its TYPE is one that the command takes. -/
def takeArrived (p : Nat) (want : Nat → Bool) (f : RxMsg → Nat → Eng → Eng) (e : Eng) : Eng :=
  match (linkOf e p).arrived with
  | [] => e
  | m :: t =>
    if want (bits m.header 0 8) then
      let (h, e) := letIn p m (onLink p (fun l => { l with arrived := t }) e)
      match h with
      | some h => f m h e
      | none => e
    else e

/-- GRANT_ARRIVE (R313): the peer's epoch and credits. A changed epoch fails what was sent and discards what is held;
a GRANT with REPLY 0 is answered. -/
def takeGrant (p h : Nat) (e : Eng) : Eng :=
  let c := bits h 16 12
  let changed := bits h 10 4 ≠ chField e p c 87 4
  let e := e |> setChField p c 87 4 (bits h 10 4) |> setChField p c 80 7 (bits h 160 7) |>
    onChan p c (fun ch => { ch with granted := true })
  let e := if changed then
      e |> setChField p c 128 32 0 |>
        onChan p c (fun ch => { ch with freed := ch.freed + ch.held.length, held := [], ackTaken := 0 }) |>
        failChannel p c ⟨.remoteError, 0x5031⟩ false
    else pump p e
  if bit h 15 then e else sendControl p c 0x10 (chField e p c 72 7) true (chField e p c 8 18) e

/-- GRANT_ARRIVE (R313). -/
def execGrantArrive (l : Fin 2) (s : State) : Host.Outcome State Fault Refusal :=
  .next (onEng (takeArrived l.val (· == 0x10) fun _ h e => takeGrant l.val h e) s)

/-- RESPONSE_ARRIVE (R318, R321): credits come back; messages below ACK_SEQ are covered, and a failure status fails the
message that ACK_SEQ names. An ACK_SEQ below one already taken is ignored. -/
def takeResponse (p h : Nat) (e : Eng) : Eng :=
  let c := bits h 16 12
  let ack := bits h 160 32
  let st := bits h 192 8
  let part := bit h 207
  let credits := chField e p c 80 7 + bits h 200 7
  let e := setChField p c 80 7 (min credits 127) e
  if !gateMet ack (chanOf e p c).ackTaken then pump p e
  else
    let l := linkOf e p
    let covered (m : OutMsg) : Bool := m.channel == c && !gateMet m.seq ack
    let failed (m : OutMsg) : Bool := m.channel == c && st ≠ 0 && m.seq == ack
    let done := l.store.filter covered
    let bad := l.store.filter failed
    let e := e |> onChan p c (fun ch => { ch with ackTaken := ack }) |>
      onLink p (fun l => { l with store := l.store.filter fun m => !covered m && !failed m })
    let e := done.foldl (fun e m => msgDone m none part e) e
    let e := bad.foldl (fun e m => msgDone m (some ⟨statusOf st, bits h 208 16⟩) part e) e
    pump p e

/-- RESPONSE_ARRIVE (R318). -/
def execResponseArrive (l : Fin 2) (s : State) : Host.Outcome State Fault Refusal :=
  .next (onEng (takeArrived l.val (· == 0x11) fun _ h e => takeResponse l.val h e) s)

/-- MESSAGE_ARRIVE (R319): the epoch, the window, and a landing slot. -/
def takeMessage (p : Nat) (m : RxMsg) (h : Nat) (e : Eng) : Eng :=
  let c := bits h 16 12
  let seq := bits h 128 32
  let ahead := (seq + 2 ^ 32 - chField e p c 160 32) % 2 ^ 32
  if bits h 10 4 ≠ chField e p c 87 4 then linkBump p 9 e
  else if 2 ^ 31 ≤ ahead then
    let e := linkBump p 10 e
    respond p c (ackSeq e p c) okDone false e
  else if chField e p c 72 7 ≤ ahead ∨ (chanOf e p c).held.any (·.seq == seq) then linkBump p 10 e
  else
    let (id, e) := newId e
    onChan p c (fun ch => { ch with held := ch.held ++ [{ id, seq, bytes := m.bytes, pois := m.pois }] }) e

/-- MESSAGE_ARRIVE (R319). -/
def execMessageArrive (l : Fin 2) (s : State) : Host.Outcome State Fault Refusal :=
  .next (onEng (takeArrived l.val (fun t => t ≠ 0x10 && t ≠ 0x11) fun m h e => takeMessage l.val m h e) s)

/-- The message whose turn it is on an open channel (R319). -/
def headMessage (e : Eng) (p c : Nat) : Option InMsg :=
  if chField e p c 0 2 = 1 then (chanOf e p c).held.find? (·.seq == chField e p c 160 32) else none

/-- The header bits [223:0] of a held message. -/
def InMsg.header (m : InMsg) : Nat := leNat (m.bytes.take 28)

/-- Its payload. -/
def InMsg.payload (m : InMsg) : List Byte := (m.bytes.drop 32).take (bits m.header 38 13)

/-- Whether the word of payload byte `i` is poisoned. -/
def InMsg.poisAt (m : InMsg) (i : Nat) : Bool := bit m.pois (8 + i / 4)

/-- The atoms of a combining message: one addition for each element (R256). -/
def addAtoms (m : InMsg) (f : Fmt) (w addr : Nat) : List Atom :=
  (below (m.payload.length / w)).map fun k =>
    .add ((addr + w * k : Nat) : Int) f (leNat ((m.payload.drop (w * k)).take w))
      (m.poisAt (w * k) || m.poisAt (w * k + w - 1))

/-- What a write message does to memory, byte by byte (R311, R320). -/
def messageAtoms (m : InMsg) : List Atom :=
  let addr := bits m.header 160 46
  let data := m.payload
  match bits m.header 0 8 with
  | 1 => ((below data.length).zip data).map fun x => .bits ((addr + x.1 : Nat) : Int) 255 x.2.toNat (m.poisAt x.1)
  | 2 => ((below 32).zip (data.zip (data.drop 32))).filterMap fun x =>
      if x.2.2 = 0 then none
      else some (.bits ((addr + x.1 : Nat) : Int) x.2.2.toNat (x.2.1.toNat &&& x.2.2.toNat) (m.poisAt x.1))
  | 3 => addAtoms m .fp32 4 addr
  | 4 => addAtoms m .bf16 2 addr
  | _ => addAtoms m .int32 4 addr

/-- The access of an arriving message (R320). -/
def messageAccess (e : Eng) (p : Nat) (m : InMsg) : AccessBy :=
  let cls := bits m.header 8 2
  { owner := .message p m.id, lane := laneRemote, cls, lst := spNow e + 4096 * reg e 0x4200 (cls + 1),
    own := 72 + p, field := linkField p }

/-- A write message is applied: its requests go to the stack agents, OUTSTANDING rises, RX_SEQ passes it (R319, R320). -/
def applyWrite (p c : Nat) (m : InMsg) (atoms : List Atom) (index : Option (Nat × Nat)) (e : Eng) : Eng :=
  let last := bit m.header 15
  let (ids, e) := submitWrites (messageAccess e p m) atoms e
  let e := e |> onChan p c (fun ch => { ch with
      held := ch.held.filter (·.id ≠ m.id), jobFailed := !last && ch.jobFailed,
      applied := ch.applied ++ [{ m with waits := ids, index }] }) |>
    setChField p c 160 32 ((m.seq + 1) % 2 ^ 32) |> setChField p c 192 16 (chField e p c 192 16 + 1) |>
    chanBump p c 1 |> passOnCopies p c m
  respondIfDue p c false e

/-- Receive queue `q` (R322). -/
def queueOf (e : Eng) (p q : Nat) : RxQueue := storeGet (fun _ => {}) (linkOf e p).queues q

/-- A receive queue set. -/
def setQueue (p q : Nat) (x : RxQueue) (e : Eng) : Eng :=
  onLink p (fun l => { l with queues := storeSet (fun _ => {}) q x l.queues }) e

/-- A field of a queue's description (R322). -/
def queueField (e : Eng) (p q byte n : Nat) : Nat := domNat e (0x5006 + p) 1 (32 * q + byte) n

/-- Whether a queue is active (R322, R334). -/
def queueActive (e : Eng) (p q : Nat) : Bool := bit (reg e (0x5006 + p) 3) q

/-- The access of a link agent to the indices of a queue in stack memory (R248, R323), in the class of a message. -/
def queueAccess (e : Eng) (p q cls : Nat) : AccessBy :=
  { owner := .queue p q, lane := laneRemote, cls, lst := spNow e + 4096 * reg e 0x4200 (cls + 1), own := 72 + p,
    field := linkField p }

/-- The bytes of a record: the header with CRC 0, and the padded payload (R323). -/
def recordBytes (m : InMsg) : List Byte := m.bytes.take 28 ++ [0, 0, 0, 0] ++ pad32 m.payload

/-- A pad record's header (R323). -/
def padRecord (n : Nat) : List Byte := leBytes 32 (0xFF + (n - 32) * 2 ^ 38)

/-- The atoms that write bytes with the poison of a message's words. -/
def recordAtoms (m : InMsg) (a : Nat) (bs : List Byte) : List Atom :=
  ((below bs.length).zip bs).map fun x => .bits ((a + x.1 : Nat) : Int) 255 x.2.toNat (bit m.pois (x.1 / 4))

/-- Clean bytes written. -/
def plainAtoms (a : Nat) (bs : List Byte) : List Atom :=
  ((below bs.length).zip bs).map fun x => .bits ((a + x.1 : Nat) : Int) 255 x.2.toNat false

/-- A message waits in its slot for its queue (R322, R323). -/
def waitInQueue (p c : Nat) (m : InMsg) (e : Eng) : Eng :=
  onChan p c (fun ch => { ch with held := ch.held.map fun y => if y.id = m.id then { y with inQueue := true } else y }) e

/-- R323: a frame in which a channel's message waits for room in its queue adds 1 to QUEUE_HOLDS, once. -/
def noteHold (p c : Nat) (e : Eng) : Eng :=
  if (chanOf e p c).holdFrame = some (frameNo e) then e
  else linkBump p 13 (onChan p c (fun ch => { ch with holdFrame := some (frameNo e) }) e)

/-- R323: the space test and the placement of a record; without room the message waits in its slot. -/
def writeRecord (p c q : Nat) (m : InMsg) (e : Eng) : Eng :=
  let x := queueOf e p q
  let size := 2 ^ queueField e p q 8 1
  let base := queueField e p q 0 8
  let rec_ := recordBytes m
  let n := rec_.length
  let at_ := x.write % size
  let used := (x.write + 2 ^ 32 - x.read % 2 ^ 32) % 2 ^ 32
  let toEnd := size - at_
  let done (atoms : List Atom) (w : Nat) : Eng :=
    applyWrite p c m atoms (some (q, w % 2 ^ 32))
      (setQueue p q { x with write := w % 2 ^ 32, open_ := x.open_ ++ [(m.id, w % 2 ^ 32, false)] } e)
  if at_ + n ≤ size ∧ used + n ≤ size then done (recordAtoms m (base + at_) rec_) (x.write + n)
  else if size < at_ + n ∧ used + toEnd + n ≤ size then
    done (plainAtoms (base + at_) (padRecord toEnd) ++ recordAtoms m base rec_) (x.write + toEnd + n)
  else noteHold p c (waitInQueue p c m e)

/-- The value at RD_ADDR has been read (R322, R323): at a START it becomes the write index too; messages that wait for the
queue are written where they fit. -/
def queueIndexRead (p q v : Nat) (e : Eng) : Eng :=
  if !queueActive e p q then e
  else
    let x := queueOf e p q
    let e := setQueue p q { x with read := v, write := if x.starting then v else x.write, starting := false, reading := none } e
    (liveChannels e p).foldl (fun e c =>
      if chField e p c 49 1 = 1 ∧ chField e p c 50 6 = q then
        match headMessage e p c with
        | some m => if m.inQueue then writeRecord p c q m e else e
        | none => e
      else e) e

/-- RD_ADDR of a queue is read (R322, R323): in stack memory by a request of the REMOTE lane, unless one is under way. The
host's memory is the surroundings', so what stands there is a free value. -/
def readRdAddr (p q cls : Nat) (e : Eng) : Eng :=
  let a := queueField e p q 16 8
  match (regionOf a).1 with
  | .stack =>
    if (queueOf e p q).reading.isSome then e
    else
      let (ids, e) := submitReads (queueAccess e p q cls) [(a, 4)] e
      setQueue p q { queueOf e p q with reading := ids.head? } e
  | .host => let (x, e) := takeFree e; queueIndexRead p q (x % 2 ^ 32) e
  | _ => queueIndexRead p q (leNat ((readLocal e a 4).map (·.1))) e

/-- WR_ADDR of a queue is written (R323). -/
def writeWrAddr (p q cls v : Nat) (e : Eng) : Eng :=
  let a := queueField e p q 24 8
  match (regionOf a).1 with
  | .stack => (submitWrites (queueAccess e p q cls) (plainAtoms a (leBytes 4 v)) e).2
  | _ => writeLocalNat a 4 v e

/-- R323: a record is durable; WR_ADDR takes the end of the records that are durable without a gap. -/
def recordDurable (p q cls id : Nat) (e : Eng) : Eng :=
  let x := queueOf e p q
  let xs := x.open_.map fun y => if y.1 = id then (y.1, y.2.1, true) else y
  let done := xs.takeWhile (·.2.2)
  let e := setQueue p q { x with open_ := xs.drop done.length } e
  match done.getLast? with
  | some y => writeWrAddr p q cls y.2.1 e
  | none => e

/-- MESSAGE_APPLY (R319 to R324): the message whose turn it is, where it carries data. -/
def messageApply (p c : Nat) (e : Eng) : Eng :=
  match headMessage e p c with
  | none => e
  | some m =>
    let h := m.header
    let type := bits h 0 8
    let addr := bits h 160 46
    let len := bits h 38 13
    let queued := chField e p c 49 1 = 1
    let q := chField e p c 50 6
    if type = 6 ∨ m.inQueue then e
    else if (regionOf addr).1 ≠ .stack ∨ 0x018000000000 < addr + len then failMessage p c m ⟨.remoteError, 0x5006⟩ e
    else if queued ∧ !queueActive e p q then failMessage p c m ⟨.noReader, 0x5007⟩ e
    else if queued ∧ 3 ≤ type then failMessage p c m ⟨.remoteError, 0x5008⟩ e
    else if queued ∧ (queueOf e p q).starting then waitInQueue p c m e
    else if queued then writeRecord p c q m e
    else applyWrite p c m (messageAtoms m) none e

/-- MESSAGE_APPLY (R319). -/
def execMessageApply (l : Fin 2) (c : Fin 4096) (s : State) : Host.Outcome State Fault Refusal :=
  .next (onEng (messageApply l.val c.val) s)

/-- SEM_ADD_APPLY (R319, R321): a SEM_ADD whose turn it is, once OUTSTANDING is 0. Held in the swap queue, or with no
room there, it keeps its slot (R331). -/
def semAddApply (p c : Nat) (e : Eng) : Eng :=
  match headMessage e p c with
  | none => e
  | some m =>
    let w := bits m.header 160 32
    let ctx := chField e p c 64 6
    if bits m.header 0 8 ≠ 6 ∨ m.semHeld ∨ chField e p c 192 16 ≠ 0 then e
    else if !translates e ctx (bits w 0 10) then failMessage p c m ⟨.remoteError, 0x5009⟩ e
    else if (chanOf e p c).jobFailed then failMessage p c m ⟨.remoteError, 0x500A⟩ e
    else
      let hold (b : Bool) (e : Eng) : Eng :=
        onChan p c (fun ch => { ch with held := ch.held.map fun y => if y.id = m.id then { y with semHeld := b } else y }) e
      let (r, e) := semOp { kind := .add, ctx, v := bits w 0 10, value := bits w 10 16, source := .message p c m.id }
        (hold true e)
      if r = .full then hold false e else e

/-- SEM_ADD_APPLY (R321). -/
def execSemAddApply (l : Fin 2) (c : Fin 4096) (s : State) : Host.Outcome State Fault Refusal :=
  .next (onEng (semAddApply l.val c.val) s)

/-- REMOTE_WRITE_DURABLE (R320, R321, R323): the requests of an applied write message are all durable. -/
def writeDurable (p c : Nat) (e : Eng) : Eng :=
  match (chanOf e p c).applied.find? fun m => !m.durable && m.waits.isEmpty && bits m.header 0 8 ≠ 6 with
  | none => e
  | some m =>
    let e := match m.index with | some (q, _) => recordDurable p q (bits m.header 8 2) m.id e | none => e
    let e := e |> setChField p c 192 16 (chField e p c 192 16 - 1) |> onChan p c (fun ch => { ch with
      freed := ch.freed + 1, durable := ch.durable + 1
      applied := ch.applied.map fun x => if x.id = m.id then { x with durable := true } else x })
    let (cut, e) := settleList p c (chanOf e p c).applied false e
    respondIfDue p c cut e

/-- REMOTE_WRITE_DURABLE (R320). -/
def execRemoteWriteDurable (l : Fin 2) (c : Fin 4096) (s : State) : Host.Outcome State Fault Refusal :=
  .next (onEng (writeDurable l.val c.val) s)

/-- The message of a list that was sent longest ago; of two sent together, the earlier one in the list. -/
def longestSent : List OutMsg → Option OutMsg
  | [] => none
  | m :: t =>
    match longestSent t with
    | some x => some (if x.sentAt.getD 0 < m.sentAt.getD 0 then x else m)
    | none => some m

/-- RETRANSMIT_TIMEOUT (R317): the message whose RETRY_FRAMES pass first is sent again, or its channel breaks. -/
def retransmit (p c : Nat) (e : Eng) : Eng :=
  match longestSent ((linkOf e p).store.filter fun m => m.channel == c && m.sentAt.isSome) with
  | none => e
  | some m =>
    let e := advanceTo (m.sentAt.getD 0 + retryTime e p) e
    if reg e (0x5001 + p) 4 < m.sends then
      e |> setChField p c 0 2 2 |> onChan p c (fun ch => { ch with closedAt := some e.now }) |>
        failChannel p c ⟨.remoteError, 0x5030⟩ true
    else
      e |> onLink p (fun l => { l with store := l.store.map fun x =>
          if x.id = m.id then { x with sends := x.sends + 1, sentAt := none } else x }) |>
        enqueue p m.cls (some m.id) (m.pois * 256) m.bytes |> linkBump p 3 |> chanBump p c 3

/-- RETRANSMIT_TIMEOUT (R317). -/
def execRetransmitTimeout (l : Fin 2) (c : Fin 4096) (s : State) : Host.Outcome State Fault Refusal :=
  .next (onEng (fun e => if chField e l.val c.val 0 2 = 1 then retransmit l.val c.val e else e) s)

/-- A queue finished (R322, R324): the messages that wait in it fail. -/
def finishQueue (p q : Nat) (e : Eng) : Eng :=
  let e := setReg (0x5006 + p) 3 (reg e (0x5006 + p) 3 &&& (2 ^ 64 - 1 - 2 ^ q)) e
  (liveChannels e p).foldl (fun e c =>
    if chField e p c 49 1 = 1 ∧ chField e p c 50 6 = q then
      match (chanOf e p c).held.find? (·.inQueue) with
      | some m => failMessage p c m ⟨.noReader, 0x5007⟩ e
      | none => e
    else e) e

/-- QUEUE_CTRL (R322, R334). -/
def effQueueCtrl (p : Nat) : Effect := fun v s =>
  let q := bits v 0 6
  match bits v 6 2 with
  | 1 =>
    (.ok, onEng (fun e =>
      e |> setQueue p q { starting := true } |> setReg (0x5006 + p) 3 (reg e (0x5006 + p) 3 ||| 2 ^ q) |> readRdAddr p q 0) s)
  | 2 => (.ok, onEng (finishQueue p q) s)
  | _ => (.badValue, s)

/-- QUEUE_START (R322). -/
def execQueueStart (p : Port) (l : Fin 2) (q : Fin 64) (s : State) : Host.Outcome State Fault Refusal :=
  .next (portWrite p (0x5006 + l.val) 2 (q.val + 0x40) (effQueueCtrl l.val) s)

/-- QUEUE_FINISH (R324). -/
def execQueueFinish (p : Port) (l : Fin 2) (q : Fin 64) (s : State) : Host.Outcome State Fault Refusal :=
  .next (portWrite p (0x5006 + l.val) 2 (q.val + 0x80) (effQueueCtrl l.val) s)

/-- A DOMAIN write to QUEUE_TABLE (R322): refused where a queue is active. -/
def writeQueues (p off : Nat) (bs : List Byte) (s : State) : Access × State :=
  if (upFrom (off / 32) ((off + bs.length + 31) / 32 - off / 32)).any (queueActive s.eng p) then (.denied, s)
  else (.ok, onEng (setDomBytes (0x5006 + p) 1 off
    (((below bs.length).zip bs).map fun x => if 9 ≤ (off + x.1) % 32 ∧ (off + x.1) % 32 < 16 then 0 else x.2)) s)

/-- QUEUE_RECORD_WRITE (R323): the link agent reads RD_ADDR again; once read, the waiting message is written where it
fits. -/
def queueRecord (p c : Nat) (e : Eng) : Eng :=
  match headMessage e p c with
  | none => e
  | some m =>
    if !m.inQueue then e
    else
      readRdAddr p (chField e p c 50 6) (bits m.header 8 2) e

/-- QUEUE_RECORD_WRITE (R323). -/
def execQueueRecordWrite (l : Fin 2) (c : Fin 4096) (s : State) : Host.Outcome State Fault Refusal :=
  .next (onEng (queueRecord l.val c.val) s)

/-- MULTICAST_CUT (R327): a copy has waited MCAST_STALL_LIMIT for its child channel's credit: the child receives no
further copy of that job, up to and including the group's next LAST. -/
def multicastCut (p c : Nat) (e : Eng) : Eng :=
  match (linkOf e p).waiting.find? fun m => m.channel == c && m.group.isSome with
  | none => e
  | some m =>
    if chField e p c 80 7 ≠ 0 ∨ chField e p c 0 2 ≠ 1 then e
    else
      let e := advanceTo (e.spBase.getD 0 + 2 * (m.since + reg e 0x5008 2)) e
      let here := (linkOf e p).waiting.filter fun x => x.channel == c && x.group == m.group
      let upTo := here.takeWhile (!·.last)
      let gone := upTo ++ ((here.drop upTo.length).head?).toList
      let whole := gone.any (·.last)
      let e := e |> onLink p (fun l => { l with waiting := l.waiting.filter fun x => !gone.any (·.id == x.id) }) |>
        onChan p c (fun ch => { ch with cutGroups := if whole then ch.cutGroups else ch.cutGroups ++ m.group.toList }) |>
        linkBump p 14
      pump p (gone.foldl (fun e x => msgDone x none true e) e)

/-- MULTICAST_CUT (R327). -/
def execMulticastCut (l : Fin 2) (c : Fin 4096) (s : State) : Host.Outcome State Fault Refusal :=
  .next (onEng (multicastCut l.val c.val) s)

/-- What each frame of waiting counts (R315, R323): a channel with a message that waits for credit, and a message that
waits for space in its queue. -/
def countStalls (p : Nat) (e : Eng) : Eng :=
  (liveChannels e p).foldl (fun e c =>
    let e := if chField e p c 0 2 = 1 ∧ chField e p c 80 7 = 0 ∧ (linkOf e p).waiting.any (·.channel == c) then
        noteStall p c e else e
    if (chanOf e p c).held.any fun m => m.inQueue && !(queueOf e p (chField e p c 50 6)).starting then noteHold p c e
    else e) e

/-- A DOMAIN write to GROUP_TABLE (R325): reserved bits stay zero. -/
def writeGroups (off : Nat) (bs : List Byte) (s : State) : Access × State :=
  let fix (k : Nat) (b : Byte) : Byte :=
    let i := k % 144
    if i < 2 then b &&& 1 else if i = 2 then b else if i < 16 then 0 else if i % 2 = 1 then b &&& 0x0F else b
  (.ok, onEng (setDomBytes 0x5008 1 off (((below bs.length).zip bs).map fun x => fix (off + x.1) x.2)) s)

/-- A DOMAIN write to BARRIERS (R332): reserved bits stay zero. -/
def writeBarriers (off : Nat) (bs : List Byte) (s : State) : Access × State :=
  (.ok, onEng (setDomBytes 0x5110 1 off
    (((below bs.length).zip bs).map fun x => if (off + x.1) % 16 = 3 then x.2 &&& 1 else x.2)) s)

end Sys2Proof.Machine
end

