-- ==== Sys2Proof/Machine/JobOps.lean ====
section
/-! DEFINITION. Dynamic jobs up to their start (spec/04_move_descriptors.md R94 to R113; spec/07_weight_compression.md
R177, R178; spec/12_dynamic_channels.md R286, R290, R295; spec/14_placement_resharding.md R338, R342): what is read for
their checks, the checks in order, and how a job ends. -/

namespace Sys2Proof.Machine

/-- The stage of a ring entry set (R289). -/
def setEntryStage (r epoch index : Nat) (st : EntryStage) (e : Eng) : Eng :=
  onRing r (fun g => { g with entries := g.entries.map fun y =>
    if y.index = index ∧ y.epoch = epoch then { y with stage := st } else y }) e

/-- The entry of a job that a completion will time under R304. -/
def timeEntry (x : Job) (e : Eng) : Eng :=
  match x.ring with
  | some r => onRing r (fun g => { g with entries := g.entries.map fun y =>
      if y.index = x.index ∧ y.epoch = x.epoch then { y with timed := x.cls == 0, first := x.firstData } else y }) e
  | none => e

/-- A move of a re-shard has ended (R301, R350): its parent notes a failure, by the destination's number, poison, and its
first data. -/
def moveEnded (x : Job) (z : Ending) (e : Eng) : Eng :=
  match x.parent with
  | none => e
  | some (p, d) =>
    match jobOf e p with
    | none => e
    | some y =>
      setJob { y with
        moves := y.moves.filter (·.1 ≠ x.id)
        firstData := match y.firstData, x.firstData with | some a, some b => some (min a b) | a, b => a <|> b
        pois := y.pois || z.status == .poisoned
        moveFail := if z.status = .done ∨ z.status = .poisoned then y.moveFail else firstFail y.moveFail (d, z) } e

/-- JOBS_ORPHANED and JOBS_ABORTED (R366, R374). -/
def countEnding (z : Ending) (e : Eng) : Eng :=
  if z.status = .orphaned then bump 0x6020 6 e
  else if z.status = .aborted ∧ (z.detail = 0x6041 ∨ z.detail = 0x6042) then bump 0x6020 5 e
  else e

/-- A job ends with a status: its handles are unpinned, its ring entry completes, or its parent hears of it. -/
def finishJob (x : Job) (z : Ending) (frag : Nat) (e : Eng) : Eng :=
  let e := x.pins.foldl (fun e h => unpinHandle h e) (removeJob x.id e)
  let e := countEnding z e
  match x.ring with
  | some r => completeEntry r x.epoch x.index z frag e
  | none => moveEnded x z e

/-- A job fails a check (R112). -/
def failCheck (x : Job) (z : Ending) (frag : Nat) (e : Eng) : Eng := finishJob x z frag e

/-- The descriptor of a job. -/
def Job.tmd (x : Job) : Tmd := parseTmd x.desc

/-- The index view of a job, once read. -/
def Job.index? (x : Job) : Option View := x.indexRec.map parseView

/-- What the checks of a job need to know (R93, R98, R105, R312). -/
def jobEnv (e : Eng) (x : Job) : JobEnv :=
  { view := viewEnv e (fun r => r ≠ .reserved)
    ringClass := x.ring.map fun r => reg e (ringIdx r) 3
    channelOpen := fun p c => openFor e p c (endpointOf x.tmd.dst.byteBase.toNat)
    semOk := translates e x.context }

/-- The handles that a view resolves (R338). -/
def View.pins (v : View) : List Nat := if v.handleForm then [v.handle] else []

/-- The latest-service time of a job that passes its checks now (R295). -/
def serviceTime (e : Eng) (cls deadline : Nat) : Nat :=
  spNow e + 4096 * if deadline = 0 then reg e 0x4200 (cls + 1) else deadline

/-- A job has passed its checks: it waits for a station (R290). -/
def passJob (x : Job) (deadline : Nat) (e : Eng) : Eng :=
  setJob { x with stage := .ready, passedAt := spNow e, lst := serviceTime e x.cls deadline, waits := [] } e

/-- The handles that a job's validation has resolved are pinned, each once (R338). -/
def pinResolved (x : Job) (hs : List Nat) (e : Eng) : Job × Eng :=
  let new := hs.eraseDups.filter fun h => !x.pins.contains h
  ({ x with pins := x.pins ++ new }, new.foldl (fun e h => pinHandle h e) e)

/-- The checks after the last one of R111 (R129, R148, R286). -/
def checkLast (x : Job) (e : Eng) : Eng :=
  let t := x.tmd
  let anyStation := match x.ring with | some r => reg e (ringIdx r) 5 == 0xFF | none => false
  match firstFailure [checkLayout t, failUnless (!(t.has .decode && anyStation)) 0x4010 .badDescriptor] with
  | some z => failCheck x z 0 e
  | none => passJob x t.deadline e

/-- Bytes of a record, poisoned where any of them is. -/
def recordNat (bs : List (Byte × Bool)) : Nat × Bool := (leNat (bs.map (·.1)), bs.any (·.2))

/-- The fragment table has been read (R110, R111). -/
def afterTable (x : Job) (bs : List (Byte × Bool)) (e : Eng) : Eng :=
  let (v, p) := recordNat bs
  if p then failCheck x ⟨.poisoned, 0x2103⟩ 0 e
  else
    let raw := (below x.tableCount).map fun k => bits v (128 * k) 128
    match checkFragments (jobEnv e x) x.tmd x.index? 0 (raw.map parseFrag) with
    | some (i, z) => failCheck x z i e
    | none => checkLast { x with frags := raw } e

/-- The field of a job's station; a Weevil copy has none and enters at field A (R294), and so do the reads of a job's
records (log entry 137). -/
def jobField (x : Job) : Nat := (x.station.map fieldOfStation).getD 0

/-- The number of the requester of a job's requests: its station's (R273), and beyond those of R273 74 for the Weevil path
and 75 for the dispatcher. -/
def jobRequester (x : Job) : Nat :=
  match x.station with
  | some s => 24 + s
  | none => if x.op = 4 then 74 else 75

/-- The requests of a job (R247, R273, R295). -/
def jobAccess (x : Job) (lane : Nat) : AccessBy :=
  { owner := .job x.id, lane, cls := x.cls, lst := x.lst, own := jobRequester x, field := jobField x }

/-- A record of a job is read: by requests from stack memory, at once from a Pool, or through HST (R95, R106, R108, R238,
R296). The job stands in the stage that takes it. -/
def fetchRecord (x : Job) (a n : Nat) (k : Job → List (Byte × Bool) → Eng → Eng) (e : Eng) : Eng :=
  match (regionOf a).1 with
  | .host =>
    let (ids, e) := requestRead (.job x.id) x.cls false a n e
    setJob { x with waits := ids, buf := [] } e
  | .stack =>
    let x := { x with lst := serviceTime e x.cls 0 }
    let (ids, e) := submitReads (jobAccess x laneRead) [(a, n)] e
    setJob { x with waits := ids, buf := [] } e
  | _ => k x (readLocal e a n) e

/-- The checks of R111 from the index view on, and the fragment table. -/
def afterIndexView (x : Job) (e : Eng) : Eng :=
  match checkRest (jobEnv e x) x.tmd x.index? with
  | some z => failCheck x z 0 e
  | none =>
    let (x, e) := pinResolved x ((x.index?.map View.pins).getD []) e
    if x.op ≠ 3 then checkLast x e
    else match checkTablePlace x.tableAddr x.tableCount with
      | some z => failCheck x z 0 e
      | none => fetchRecord { x with stage := .table } x.tableAddr (16 * x.tableCount) afterTable e

/-- The index record has been read (R106). -/
def afterIndex (x : Job) (bs : List (Byte × Bool)) (e : Eng) : Eng :=
  let (v, p) := recordNat bs
  if p then failCheck x ⟨.poisoned, 0x200F⟩ 0 e else afterIndexView { x with indexRec := some v } e

/-- A descriptor has been read: the checks of R111 on the record, then on what it names. -/
def checkDescriptor (x : Job) (e : Eng) : Eng :=
  let t := x.tmd
  let x := { x with cls := t.cls }
  match checkRecord (jobEnv e x) t with
  | some z => failCheck x z 0 e
  | none =>
    let (x, e) := pinResolved x ((if t.kind = .fill then [] else t.src.pins) ++ t.dst.pins) e
    if t.indexed then fetchRecord { x with stage := .indexRecord } t.indexRef 96 afterIndex e
    else afterIndexView x e

/-- The fields of a compression job record given as a number (R177). -/
structure PackRec where
  kind : Nat
  flags : Nat
  station : Nat
  slot : Nat
  tag : Nat
  blocks : Nat
  forms : Nat
  cls : Nat
  deadline : Nat
  signal : Nat
  addrs : List Nat
  reserved : Nat
  deriving DecidableEq, Repr

@[inherit_doc PackRec]
def parsePack (x : Nat) : PackRec :=
  { kind := bits x 0 8, flags := bits x 8 3, station := bits x 16 8, slot := bits x 24 3, tag := bits x 27 5,
    blocks := bits x 32 32, forms := bits x 64 4, cls := bits x 72 2, deadline := bits x 80 16, signal := bits x 96 32,
    addrs := (below 4).map fun k => bits x (128 + 64 * k) 64,
    reserved := bits x 11 5 + bits x 68 4 + bits x 74 6 + bits x 122 6 + bits x 384 128 }

/-- CENSUS, ENCODE and SYM8 of a record (R177). -/
def PackRec.census (p : PackRec) : Bool := p.kind == 1 && bit p.flags 0

@[inherit_doc PackRec.census]
def PackRec.encode (p : PackRec) : Bool := p.kind == 1 && bit p.flags 1

@[inherit_doc PackRec.census]
def PackRec.wide (p : PackRec) : Bool := bit p.flags 2

/-- Which of SRC, DST, HDR and TBL a job uses (R177). -/
def PackRec.uses (p : PackRec) (k : Nat) : Bool :=
  match k with
  | 0 => true
  | 3 => p.census
  | _ => p.kind == 2 || p.encode

/-- The bytes that an address field of a record covers (R178). -/
def PackRec.bytes (p : PackRec) (k : Nat) : Nat :=
  match k with | 2 => 128 * p.blocks | 3 => 144 | _ => 4096 * p.blocks

/-- Whether an address field is in handle form. -/
def PackRec.handleForm (p : PackRec) (k : Nat) : Bool := bit p.forms k

/-- An address field. -/
def PackRec.addr (p : PackRec) (k : Nat) : Nat := p.addrs.getD k 0

/-- Check 0x3E04: KIND, reserved fields and fields that the job does not use. -/
def PackRec.fieldsOk (p : PackRec) (op : Nat) : Bool :=
  p.kind == op - 7 && p.reserved == 0 && (p.kind == 1 || p.flags == 0) &&
    (below 4).all (fun k => p.uses k || (p.addr k == 0 && !p.handleForm k)) &&
    (p.census || p.tag == 0) && (p.encode || p.slot == 0)

/-- Check 0x3E08 on one address field. -/
def packRangeOk (e : Eng) (p : PackRec) (k : Nat) : Bool :=
  let a := p.addr k
  let n := p.bytes k
  if p.handleForm k then
    match handleBytes e (a % 2 ^ 24) with
    | some size => a / 2 ^ 24 + n ≤ size
    | none => false
  else
    let l := localOf a
    let (r, _, hi) := regionOf l
    endpointOf a == reg e 0x5000 1 && (r = .stack || r = .pool) && l + n ≤ hi

/-- The pieces of memory, by local address and length, to which an address field resolves, on every copy (R340). -/
def packPieces (e : Eng) (p : PackRec) (k : Nat) : List (Nat × Nat) :=
  let a := p.addr k
  let n := p.bytes k
  if p.handleForm k then
    let h := slotOf e (a % 65536)
    let o := a / 2 ^ 24
    (if h.policy = 2 then below 4 else [h.field]).flatMap fun f =>
      (upFrom (o / 4096) ((o + n + 4095) / 4096 - o / 4096)).map fun g =>
        let lo := max o (4096 * g)
        (h.resolve f lo, min (o + n) (4096 * g + 4096) - lo)
  else (upFrom (a / 4096) ((a + n + 4095) / 4096 - a / 4096)).map fun g =>
    let lo := max a (4096 * g)
    (localOf lo, min (a + n) (4096 * g + 4096) - lo)

/-- Whether two sets of pieces share a byte. -/
def overlaps (a b : List (Nat × Nat)) : Bool := a.any fun x => b.any fun y => x.1 < y.1 + y.2 && y.1 < x.1 + x.2

/-- Check 0x3E09. -/
def packDisjoint (e : Eng) (p : PackRec) : Bool :=
  let pc (k : Nat) := if p.uses k then packPieces e p k else []
  (pc 0 == pc 1 || !overlaps (pc 0) (pc 1)) &&
    [(2, 0), (2, 1), (3, 0), (3, 1), (2, 3)].all fun x => !overlaps (pc x.1) (pc x.2)

/-- R178: the checks of a compression job record, from 0x3E04 on. -/
def checkPack (e : Eng) (x : Job) (p : PackRec) : Option Ending :=
  let i := stIdx p.station (0x20 + p.slot)
  firstFailure [
    failUnless (p.fieldsOk x.op) 0x3E04 .badDescriptor,
    failUnless (match x.ring with | some r => reg e (ringIdx r) 3 ≤ p.cls | none => true) 0x3E05 .denied,
    failUnless (p.station < 48 && 1 ≤ p.blocks && p.blocks ≤ 16777216 && (p.kind == 2 || p.census || p.encode) &&
      (!p.census || 1 ≤ p.tag)) 0x3E06 .badDescriptor,
    failUnless ((below 4).all fun k => !p.uses k || p.addr k / (if p.handleForm k then 2 ^ 24 else 1) %
      (match k with | 2 => 128 | 3 => 16 | _ => 4096) == 0) 0x3E07 .badDescriptor,
    failUnless ((below 4).all fun k => !p.uses k || packRangeOk e p k) 0x3E08 .outOfRange,
    failUnless (packDisjoint e p) 0x3E09 .badDescriptor,
    failUnless (!(p.census && p.encode) || (reg e i 2 == 0 && reg e i 5 ≠ p.tag)) 0x3E0A .denied,
    failUnless (p.census || !p.encode || (reg e i 2 == 1 && (reg e i 7 == 1) == p.wide)) 0x3E0B .tableMismatch,
    failUnless (p.signal == 0 || translates e x.context (bits p.signal 0 10)) 0x3E0C .outOfRange]

/-- The record of a PACK or EXPAND job has been read (R178). -/
def afterPack (x : Job) (bs : List (Byte × Bool)) (e : Eng) : Eng :=
  let (v, bad) := recordNat bs
  let p := parsePack v
  if bad then failCheck x ⟨.poisoned, 0x3E03⟩ 0 e
  else match checkPack e x p with
    | some z => failCheck x z 0 e
    | none =>
      let (x, e) := pinResolved x
        ((below 4).filterMap fun k => if p.uses k ∧ p.handleForm k then some (p.addr k % 2 ^ 24) else none) e
      passJob { x with desc := v, cls := p.cls, census := List.replicate (symbolCount p.wide) 1 } p.deadline e

/-- R111, R178, R349: the pointer of a job to its record: an alignment and a place, then the read. -/
def startRecord (x : Job) (align place n : Nat) (k : Job → List (Byte × Bool) → Eng → Eng) (e : Eng) : Eng :=
  match firstFailure [failUnless (x.addr % 64 == 0) align .badDescriptor,
      failUnless (inMemory x.addr n) place .outOfRange] with
  | some z => failCheck x z 0 e
  | none => fetchRecord { x with stage := .descriptor } x.addr n k e

/-- The descriptor named by a pointer has been read (R111, check 0x2003). -/
def afterDescriptor (x : Job) (bs : List (Byte × Bool)) (e : Eng) : Eng :=
  let (v, bad) := recordNat bs
  if bad then failCheck x ⟨.poisoned, 0x2003⟩ 0 e else checkDescriptor { x with desc := v } e

/-- The bytes of a job's buffer from a local address, as its record. -/
def bufBytes (x : Job) (a n : Nat) : List (Byte × Bool) :=
  (below n).map fun k => let (b, p) := storeGet (fun _ => (0, false)) x.buf (a + k); (BitVec.ofNat 8 b, p)

/-- Bytes put into a job's buffer, by local address. -/
def Job.put (x : Job) (a : Nat) (bs : List (Byte × Bool)) : Job :=
  { x with buf := ((below bs.length).zip bs).foldl (fun m y =>
      storeSet (fun _ => (0, false)) (a + y.1) (y.2.1.toNat, y.2.2) m) x.buf }

/-- Whether a view lies in the stack memory of this package in one place (R290, R342). -/
def viewAgent (e : Eng) (v : View) : Option Nat :=
  if v.handleForm then
    let h := slotOf e (v.handle % 65536)
    if h.policy = 2 then none else some (agentAt (viewAddr e v 0 v.byteBase))
  else
    let a := v.byteBase.toNat
    if endpointOf a = reg e 0x5000 1 ∧ (regionOf (localOf a)).1 = .stack then some (agentAt (localOf a)) else none

/-- The field from which the station of a job is chosen (R290). -/
def stationField (e : Eng) (t : Tmd) : Nat :=
  match viewAgent e t.dst with
  | some n => fieldOfAgent n
  | none =>
    if t.kind = .fill then 0
    else match viewAgent e t.src with
      | some n => fieldOfAgent n
      | none => 0

/-- Whether a station is up and has a free job place of a class (R291). -/
def placeFree (e : Eng) (s cls : Nat) : Bool :=
  partUp e s && !(e.jobs.any fun y => y.station == some s && y.cls == cls && inProgress y)

/-- The station that takes a job now, if any (R290). -/
def chooseStation (e : Eng) (x : Job) : Option Nat :=
  let free (s : Nat) : Bool := placeFree e s x.cls
  if x.op = 8 ∨ x.op = 9 then
    let s := (parsePack x.desc).station
    if free s then some s else none
  else
    let named := match x.ring with | some r => reg e (ringIdx r) 5 | none => 0xFF
    if named < 48 then (if free named then some named else none)
    else
      let f := stationField e x.tmd
      match (upFrom (12 * f) 12).find? free with
      | some s => some s
      | none => (below 48).find? free

end Sys2Proof.Machine
end

