-- ==== Sys2Proof/Machine/Jobs.lean ====
section
/-! DEFINITION. Running dynamic jobs (spec/04_move_descriptors.md R105, R109, R113; spec/05_layout_transforms.md R130,
R131; spec/07_weight_compression.md R172 to R179; spec/12_dynamic_channels.md R294; spec/13_remote_sync.md R316, R318):
reads, conversion, writes, messages, coded blocks, and completion. -/

namespace Sys2Proof.Machine

/-- Ranges that follow each other without a gap put together. -/
def mergeRanges : List (Nat × Nat) → List (Nat × Nat)
  | [] => []
  | (a, n) :: t =>
    match mergeRanges t with
    | (b, m) :: rest => if b = a + n then (a, n + m) :: rest else (a, n) :: (b, m) :: rest
    | [] => [(a, n)]

/-- Whether a job is reading bytes of its source (R301): not an index view's, a coded block's header, or bytes that it
merges into. -/
def readsSource (x : Job) : Bool := x.stage == .reading && (x.op == 4 || [2, 12, 21, 23].contains x.step)

/-- The first data of a job (R301). -/
def noteFirst (x : Job) (e : Eng) : Job :=
  if x.firstData.isNone && readsSource x then { x with firstData := some (spNow e) } else x

/-- A job reads ranges of local memory into its buffer: a Pool at once, stack memory by requests, the host window
through HST (R294, R296). Blocks of sectors of stack memory are requested transposed, for elements of `w` bytes (R255). -/
def readTurned (x : Job) (w : Nat) (blocks : List (List Nat)) (ranges : List (Nat × Nat)) (e : Eng) : Eng :=
  let of (g : Region) := ranges.filter fun r => (regionOf r.1).1 = g
  let x := (of .pool).foldl (fun x r => x.put r.1 (readLocal e r.1 r.2)) x
  let (turned, e) := submitTurned (jobAccess x laneRead) w blocks e
  let plain := (sectorsOf (of .stack)).filter fun s => !blocks.any (·.contains s)
  let (ids, e) := submitSectors (jobAccess x laneRead) plain e
  let ids := turned ++ ids
  let (more, e) := (mergeRanges (of .host)).foldl (fun (acc : List Nat × Eng) r =>
    let (is, e) := requestRead (.job x.id) x.cls true r.1 r.2 acc.2
    (acc.1 ++ is, e)) ([], e)
  let x := if (of .pool).isEmpty then x else noteFirst x e
  setJob { x with waits := ids ++ more } e

@[inherit_doc readTurned]
def readInto (x : Job) (ranges : List (Nat × Nat)) (e : Eng) : Eng := readTurned x 0 [] ranges e

/-- Atoms moved to other addresses. -/
def Atom.move (f : Int → Nat) : Atom → Atom
  | .bits a m v p => .bits (f a : Int) m v p
  | .trit a k d p => .trit (f a : Int) k d p
  | .add a g c p => .add (f a : Int) g c p

/-- Bytes after a sector visit: each byte touched with its new value and poison. -/
def touched (old : Nat → Nat × Bool) (atoms : List Atom) : List (Nat × (Nat × Bool)) :=
  atoms.foldl (fun m a =>
    let k := a.addr.toNat
    let (b, p) := (m.lookup k).getD (old k)
    let keeps := match a with | .bits _ mask _ _ => mask ≠ 255 | _ => true
    storeInsert k (applyAtom b a, (keeps && p) || a.pois) (storeErase k m)) []

/-- Bytes by rising address cut into runs. -/
def runsOf : List (Nat × (Nat × Bool)) → List (Nat × List (Byte × Bool))
  | [] => []
  | (a, b, p) :: t =>
    match runsOf t with
    | (c, bs) :: rest =>
      if c = a + 1 then (a, (BitVec.ofNat 8 b, p) :: bs) :: rest else (a, [(BitVec.ofNat 8 b, p)]) :: (c, bs) :: rest
    | [] => [(a, [(BitVec.ofNat 8 b, p)])]

/-- Writes into a Pool (R131, R413), one sector visit after the other. -/
def poolVisits (vs : List (Nat × List Atom)) (e : Eng) : Eng :=
  vs.foldl (fun e v =>
    (runsOf (touched (fun k => ((memByte e k).toNat, false)) v.2)).foldl (fun e r =>
      if partAnswers e r.1 then poolWrite r.1 r.2 e else e) e) e

/-- The bytes of host memory that a job merges into and has not read (R131, R418). -/
def hostPartial (x : Job) (vs : List (Nat × List Atom)) : List Nat :=
  vs.flatMap fun v => (below 32).filterMap fun k =>
    let a := 32 * v.1 + k
    if (v.2.any fun y => y.addr.toNat == a) && !byteWhole v.2 k && (x.buf.lookup a).isNone then some a else none

/-- Writes into the host window (R131, R413, R374): each run of a sector visit is one write request; a byte partly
written is read and written back. -/
def hostVisits (x : Job) (vs : List (Nat × List Atom)) (e : Eng) : Job × Eng :=
  vs.foldl (fun (acc : Job × Eng) v =>
    let (x, e) := acc
    let bytes := touched (fun k => (x.buf.lookup k).getD (0, false)) v.2
    let x := { x with buf := bytes.foldl (fun m b => storeInsert b.1 b.2 (storeErase b.1 m)) x.buf,
                      suppressed := x.suppressed || e.fw.suppress }
    (x, (runsOf bytes).foldl (fun e r => writeLocal r.1 r.2 e) e)) (x, e)

/-- A message of a remote job before its channel is known: TYPE, ADDR, payload, and which bytes are poisoned. -/
structure Forming where
  type : Nat
  addr : Nat
  payload : List Byte
  pois : List Bool
  deriving DecidableEq, Repr

/-- Whether a piece of a message follows on from another: the same TYPE, the next address, the same granule (R316). -/
def Forming.follows (a b : Forming) : Bool :=
  a.type == b.type && a.type ≠ 2 && a.addr + a.payload.length == b.addr && a.addr / 4096 == b.addr / 4096

/-- A combining element as a piece of a message (R311). -/
def addPiece (a : Nat) (f : Fmt) (code : Nat) (p : Bool) : Forming :=
  let w := f.width / 8
  ⟨match f with | .fp32 => 3 | .bf16 => 4 | _ => 5, a, leBytes w code, List.replicate w p⟩

/-- Whether an atom is a trit of a TERN byte. -/
def Atom.isTrit : Atom → Bool
  | .trit .. => true
  | _ => false

/-- A WRITE_MASKED of a sector visit (R316): data bytes, then the bits inserted. No bit mask inserts some trits of a byte
and keeps the others (R418): such a byte's data and mask are free values (log entry 21). -/
def maskedPiece (sec : Nat) (atoms : List Atom) (e : Eng) : Forming × Eng :=
  let here (k : Nat) : List Atom := atoms.filter fun a => a.addr.toNat == 32 * sec + k
  let open_ (k : Nat) : Bool := (here k).any Atom.isTrit && !byteWhole atoms k
  let (free, e) := if (below 32).any open_ then takeFree e else (0, e)
  let bytes := touched (fun _ => (0, false)) atoms
  let data (k : Nat) : Nat := if open_ k then bits free (16 * k) 8 else ((bytes.lookup (32 * sec + k)).getD (0, false)).1
  let mask (k : Nat) : Nat := if open_ k then bits free (16 * k + 8) 8 else (here k).foldl (fun m a =>
    match a with | .bits _ x _ _ => m ||| x | .trit .. => 255 | .add .. => m) 0
  (⟨2, 32 * sec, (below 32).map (fun k => BitVec.ofNat 8 (data k)) ++ (below 32).map (fun k => BitVec.ofNat 8 (mask k)),
    (below 32).map (fun k => ((bytes.lookup (32 * sec + k)).getD (0, false)).2) ++ List.replicate 32 false⟩, e)

/-- The pieces of one sector visit (R316). -/
def visitPieces (v : Nat × List Atom) (e : Eng) : List Forming × Eng :=
  if v.2.any Atom.isAdd then
    (v.2.filterMap fun a => match a with | .add a f c p => some (addPiece a.toNat f c p) | _ => none, e)
  else if (below 32).all fun k => byteWhole v.2 k || !(v.2.any fun a => a.addr.toNat == 32 * v.1 + k) then
    ((runsOf (touched (fun _ => (0, false)) v.2)).map fun r => ⟨1, r.1, r.2.map (·.1), r.2.map (·.2)⟩, e)
  else
    let (m, e) := maskedPiece v.1 v.2 e
    ([m], e)

/-- The pieces of a remote job's sector visits, in emission order (R316). -/
def formPieces (vs : List (Nat × List Atom)) (e : Eng) : List Forming × Eng :=
  vs.foldl (fun (acc : List Forming × Eng) v =>
    let (p, e) := visitPieces v acc.2
    (acc.1 ++ p, e)) ([], e)

/-- The poison mask of a payload's words. -/
def payloadPois (ps : List Bool) : Nat :=
  ((below ((ps.length + 3) / 4)).filter fun w => ((ps.drop (4 * w)).take 4).any id).foldl (fun m w => m + 2 ^ w) 0

/-- A data message of a job sent on its channel (R316). -/
def sendData (x : Job) (m : Nat × Nat × List Byte × List Bool) (last : Bool) (e : Eng) : Eng :=
  let t := x.tmd
  postMessage t.plane t.channel
    { source := .job x.id, type := m.1, body := m.2.1, last, payload := m.2.2.1, pois := payloadPois m.2.2.2 } e

/-- Pieces of a job joined into messages (R316) and sent, but for the last, which is kept back until it is known whether
another follows or joins it. After a failure none is sent (R318). -/
def sendForming (j : Nat) : List Forming → Eng → Eng
  | [], e => e
  | f :: t, e =>
    match jobOf e j with
    | none => e
    | some x =>
      if x.msgFail.isSome then e
      else
        let hold (g : Forming) : Eng := setJob { x with heldMsg := some (g.type, g.addr, g.payload, g.pois) } e
        sendForming j t (match x.heldMsg with
          | none => hold f
          | some m =>
            let h : Forming := ⟨m.1, m.2.1, m.2.2.1, m.2.2.2⟩
            if h.follows f then hold { h with payload := h.payload ++ f.payload, pois := h.pois ++ f.pois }
            else sendData x m false (hold f))

/-- The status with which a job that has run ends (R105, R175, R318, R350, R374, R385, R413). -/
def jobEnding (x : Job) : Ending :=
  let poisoned : Ending := ⟨.poisoned, if x.isoRead then 0x1201 else 0x1342⟩
  match x.ending with
  | some z => z
  | none =>
    if x.isoWrite then ⟨.aborted, 0x1202⟩
    else match x.moveFail, x.waitEnd, x.msgFail, x.mismatch with
    | some (_, z), _, _, _ => z
    | _, some z, _, _ => if z.status = .done then (if x.pois then poisoned else z) else z
    | _, _, some (_, z), _ => z
    | _, _, _, some d => ⟨.tableMismatch, d⟩
    | _, _, _, _ =>
      if x.cut then ⟨.partialMulticast, 0⟩
      else if x.suppressed then ⟨.orphaned, 0x6062⟩
      else if x.pois then poisoned
      else okDone

/-- Whether a status lets a job's SIGNAL be applied (R105). -/
def signals (z : Ending) : Bool := z.status == .done || z.status == .poisoned

/-- The end of a remote job's sending (R316): its last message has LAST; with SIGNAL a SEM_ADD follows it, unless the
job already ends with a status that applies none (R105). -/
def endSending (j : Nat) (e : Eng) : Eng :=
  match jobOf e j with
  | none => e
  | some x =>
    if x.msgFail.isSome then e
    else
      let t := x.tmd
      let add := t.signal && signals (jobEnding x)
      let e := setJob { x with heldMsg := none } e
      let e := match x.heldMsg with | some m => sendData x m (!add) e | none => e
      if add ∧ !((jobOf e j).any fun y => y.msgFail.isSome) then
        postMessage t.plane t.channel { source := .job j, type := 6, body := t.signalParam, last := true } e
      else e

/-- Whether a job's destination is remote (R91): its template's endpoint decides for every fragment, and the channel's
peer takes the messages whatever endpoint a DST_DELTA carries their addresses to (log entry 128). -/
def remoteJob (e : Eng) (x : Job) : Bool :=
  (x.op < 4 || x.op == 0x100) && x.tmd.remoteDst (reg e 0x5000 1)

/-- The descriptor of the fragment that a job is at (R109). -/
def Job.current (x : Job) : Tmd := if x.op = 3 then x.tmd.fragment (parseFrag (x.frags.getD x.frag 0)) else x.tmd

/-- The fragments of a job; 1 for a job without a table. -/
def Job.fragments (x : Job) : Nat := if x.op = 3 then x.frags.length else 1

/-- Whether the fragment that a job is at moves nothing. -/
def Job.skips (x : Job) : Bool := x.op == 3 && (parseFrag (x.frags.getD x.frag 0)).skip

/-- The fields whose copies a write to a view reaches (R342). -/
def writeFields (e : Eng) (v : View) : List Nat :=
  if v.handleForm ∧ (slotOf e (v.handle % 65536)).policy = 2 then below 4 else [0]

/-- A byte that a job reads, as its buffer or its decoded blocks hold it. -/
def jobByte (e : Eng) (x : Job) (t : Tmd) (a : Int) : Nat × Bool :=
  let k := (a - t.src.byteBase).toNat
  let inBlocks := t.has .decode && decide (t.src.byteBase ≤ a) && k < 4096 * t.src.blocks
  if inBlocks then
    match x.decoded.find? (·.block == k / 4096) with
    | some d => (d.bytes.getD (k % 4096) 0, d.pois.getD (k % 4096 / 4) false)
    | none => (0, true)
  else storeGet (fun _ => (0, false)) x.buf (viewAddr e t.src (jobField x) a)

/-- The index values of a job (R123). -/
def jobIndex (e : Eng) (x : Job) (n : Nat) : Index :=
  match x.index? with
  | none => .miss
  | some v => readIndex v (fun a => storeGet (fun _ => (0, false)) x.buf (viewAddr e v (jobField x) a)) n

/-- The work of the fragment that a job is at (R116 to R131). -/
def fragmentWork (e : Eng) (x : Job) : Work :=
  let t := x.current
  jobWork t
    { src := jobByte e x t, scale := scaleEntry e (x.station.getD 0), tag := if x.op = 3 then x.frag else 0,
      index := jobIndex e x } ((x.index?.map View.count).getD 0)

/-- The local ranges of bytes of a view. -/
def localRanges (e : Eng) (v : View) (field : Nat) (rs : List (Int × Nat)) : List (Nat × Nat) :=
  rs.flatMap fun r => mergeRanges ((below r.2).map fun (k : Nat) => (viewAddr e v field (r.1 + (k : Int)), 1))

/-- The source ranges that a fragment reads; those of its coded blocks come through the expander. -/
def sourceRanges (e : Eng) (x : Job) : List (Nat × Nat) :=
  let t := x.current
  let rs := jobReads t (jobIndex e x)
  let rs := if t.has .decode then rs.filter fun r =>
      decide (r.1 < t.src.byteBase ∨ t.src.byteBase + 4096 * (t.src.blocks : Int) ≤ r.1) else rs
  localRanges e t.src (jobField x) rs

/-- R255: the bytes of an element of a source view of which a job requests transposed reads; 0 where a condition fails. -/
def turnWidth (t : Tmd) : Nat :=
  let v := t.src
  let w := v.fmt.width / 8
  let ok := v.fmt ≠ .tern && [8, 16, 32].contains v.fmt.width && decide (2 ≤ v.rank) && v.permAt 0 == 1 && v.str 0 == 1 &&
    (v.str 1 * (w : Int)) % 32 == 0 && v.byteBase % 32 == 0 && (below v.rank).all (fun k => v.padded k == v.ext k) &&
    v.modDim == 7 && v.ext 0 % (32 / w) == 0 && v.ext 1 % (32 / w) == 0
  if ok && t.kind ≠ .fill && !t.has .decode then w else 0

/-- The blocks of sectors of a source view that a transpose turns (R255): in each, the same run of one sector's elements of
stored dimension 0 at consecutive indices of dimension 1. -/
def turnBlocks (e : Eng) (v : View) (field w : Nat) : List (List Nat) :=
  let n := 32 / w
  let outer := (upFrom 2 (v.rank - 2)).foldl (fun (os : List Int) k =>
    os.flatMap fun o => (below (v.ext k)).map fun i => o + v.str k * (i : Int)) [0]
  let place (o : Int) (p q r : Nat) : Nat :=
    viewAddr e v field (v.byteBase + (o + ((n * p : Nat) : Int) + v.str 1 * ((n * q + r : Nat) : Int)) * (w : Int))
  outer.flatMap fun o => (below (v.ext 1 / n)).flatMap fun q => (below (v.ext 0 / n)).filterMap fun p =>
    let as := (below n).map (place o p q)
    if as.all fun a => a % 32 = 0 ∧ (regionOf a).1 = .stack then some (as.map (· / 32)) else none

/-- The blocks of a job's fragment that are read transposed (R255): those whose sectors fit one card and are all needed,
no sector in two of them (log entry 138). -/
def turnedReads (e : Eng) (x : Job) (ranges : List (Nat × Nat)) : Nat × List (List Nat) :=
  let w := turnWidth x.current
  if w = 0 then (0, [])
  else
    let need := sectorsOf ranges
    (w, (turnBlocks e x.current.src (jobField x) w).foldl (fun acc b =>
      if b.all need.contains && b.eraseDups.length == b.length && onOneCard b && !acc.any (fun c => c.any b.contains)
      then acc ++ [b] else acc) [])

/-- Whether no later fragment of a job moves anything. -/
def Job.lastWork (x : Job) : Bool :=
  (upFrom (x.frag + 1) (x.fragments - x.frag - 1)).all fun k => (parseFrag (x.frags.getD k 0)).skip

/-- Writes split before those of the sector visited last. -/
def splitLast (atoms : List Atom) : List Atom × List Atom :=
  match atoms.getLast? with
  | none => ([], [])
  | some z =>
    let n := (atoms.reverse.takeWhile fun a => a.addr / 32 == z.addr / 32).length
    (atoms.take (atoms.length - n), atoms.drop (atoms.length - n))

/-- R130: what the holding register issues after a fragment's elements, and what stays in its write half: the sector
visited last, until the next element lies in another or the job ends. -/
def issued (x : Job) (w : Work) : List Atom × List Atom :=
  let all := x.carry ++ w.atoms
  if x.lastWork then (all, []) else splitLast all

/-- The sector visits of writes in one copy of the destination: those of elements, then those of scale records. -/
def copyVisits (f : Int → Nat) (atoms records : List Atom) : List (Nat × List Atom) :=
  visits (atoms.map (Atom.move f)) ++ visits (records.map (Atom.move f))

/-- R258: whether a FILL to stack memory is written by fill requests. -/
def fillRequests (t : Tmd) : Bool :=
  t.kind == .fill && t.dst.fmt ≠ .tern && [1, 2, 4, 8, 16, 32].contains t.dst.fmt.width

/-- The writes of a fragment to stack memory as requests, on each copy of the destination; those of a FILL's elements are
fill requests where R258 says so. -/
def submitWork (x : Job) (fields : List Nat) (f : Nat → Int → Nat) (atoms records : List Atom) (e : Eng) : List Nat × Eng :=
  let by_ := jobAccess x laneWrite
  if fillRequests x.current then
    let (ids, e) := submitVisits { by_ with fill := true } (fields.flatMap fun k => copyVisits (f k) atoms []) e
    let (more, e) := submitVisits by_ (fields.flatMap fun k => copyVisits (f k) [] records) e
    (ids ++ more, e)
  else submitVisits by_ (fields.flatMap fun k => copyVisits (f k) atoms records) e

/-- R130, R131: a fragment's counts, and the writes that the holding register issues after it. -/
def writeFragment (x : Job) (w : Work) (e : Eng) : Eng :=
  let t := x.current
  let s := x.station.getD 0
  let e := e |> bumpBy w.sats (stIdx s 0x10) 3 |> bumpBy w.nans (stIdx s 0x10) 6 |>
    bumpBy w.outliers (stIdx s 0x10) 8 |> bumpBy w.misses 0x4002 3
  let (out, keep) := issued x w
  let x := { x with pois := x.pois || w.poisoned, stage := .writing, step := 4, waits := [], carry := keep }
  if remoteJob e x then
    let (ms, e) := formPieces (copyVisits (fun a => localOf a.toNat) out w.records) (setJob x e)
    sendForming x.id ms e
  else
    let vs := (writeFields e t.dst).flatMap fun f => copyVisits (viewAddr e t.dst f) out w.records
    match vs with
    | [] => setJob x e
    | v :: _ =>
      match (regionOf (32 * v.1)).1 with
      | .stack =>
        let (ids, e) := submitWork x (writeFields e t.dst) (fun f => viewAddr e t.dst f) out w.records e
        setJob { x with waits := ids } e
      | .pool => setJob x (poolVisits vs e)
      | _ =>
        let (x, e) := hostVisits x vs e
        setJob x e

/-- The places of block `k` of a job: its header, its place, and where it is written (R177, R179). -/
structure BlockPlace where
  header : Nat
  place : Nat
  dest : Nat

/-- A local address `n` bytes into an address field of a compression job record (R340). -/
def packAt (e : Eng) (p : PackRec) (field k n : Nat) : Nat :=
  let a := p.addr k
  if p.handleForm k then (slotOf e (a % 65536)).resolve field (a / 2 ^ 24 + n) else localOf a + n

@[inherit_doc BlockPlace]
def blockPlace (e : Eng) (x : Job) (k : Nat) : BlockPlace :=
  if x.op = 8 ∨ x.op = 9 then
    let p := parsePack x.desc
    let f := jobField x
    ⟨packAt e p f 2 (128 * k), packAt e p f 0 (4096 * k), packAt e p f 1 (4096 * k)⟩
  else
    let t := x.current
    let at_ (n : Int) : Nat := viewAddr e t.src (jobField x) (t.src.byteBase + n)
    ⟨at_ (t.hdrOff + 128 * (k : Int)), at_ (4096 * (k : Int)), 0⟩

/-- The copies that a write to an address field of a compression job record reaches (R342). -/
def packCopies (e : Eng) (p : PackRec) (k : Nat) : List Nat :=
  if p.handleForm k ∧ (slotOf e (p.addr k % 65536)).policy = 2 then below 4 else [0]

/-- Bytes written whole by a compression job (R178, R179). -/
def writeBlock (x : Job) (p : PackRec) (k off : Nat) (bs : List (Byte × Bool)) (e : Eng) : List Nat × Eng :=
  (packCopies e p k).foldl (fun (acc : List Nat × Eng) f =>
    let f := if (packCopies e p k).length = 1 then jobField x else f
    let e := acc.2
    let a := packAt e p f k off
    match (regionOf a).1 with
    | .pool => (acc.1, if partAnswers e a then poolWrite a bs e else e)
    | _ =>
      let atoms := ((below bs.length).zip bs).map fun y =>
        Atom.bits ((packAt e p f k (off + y.1) : Nat) : Int) 255 y.2.1.toNat y.2.2
      let (ids, e) := submitWrites (jobAccess x laneWrite) atoms e
      (acc.1 ++ ids, e)) ([], e)

/-- The header of a block has been read (R174, R175, R179). -/
def takeJobHeader (x : Job) (e : Eng) : Job × Eng :=
  let s := x.station.getD 0
  let (h, p) := recordNat (bufBytes x (blockPlace e x x.block).header 128)
  if p then ({ x with refs := [(h, .poisoned)], pois := true }, e)
  else
    let (c, detail) := checkHeader e s h
    match c with
    | .coded k => ({ x with refs := [(h, c)] }, setReg (stIdx s (0x20 + k)) 6 (reg e (stIdx s (0x20 + k)) 6 + 1) e)
    | .mismatch =>
      ({ x with refs := [(h, c)], mismatch := some (x.mismatch.getD detail) }, bump (stIdx s 0x28) 4 e)
    | c => ({ x with refs := [(h, c)] }, e)

/-- The bytes of its place that a block needs (R167). -/
def placeNeed (x : Job) : Nat :=
  match x.refs with
  | (h, .coded _) :: _ => min (parseHeader h).len 4096
  | (_, .stored) :: _ => 4096
  | _ => 0

/-- The next block of a job that is decoded: its header is read, then its place. -/
def readHeader (x : Job) (e : Eng) : Eng :=
  readInto { x with step := 11, stage := .reading } [((blockPlace e x x.block).header, 128)] e

/-- One step of a MOVE, GATHER, SCATTER, FILL or FRAGMENTS job, once nothing is outstanding. -/
def stepMove (x : Job) (e : Eng) : Eng :=
  let t := x.current
  match x.step with
  | 0 =>
    if x.skips then setJob { x with step := 5 } e
    else match x.index? with
      | some v => readInto { x with step := 1 } (localRanges e v (jobField x) (indexReads v)) e
      | none => setJob { x with step := 1 } e
  | 1 =>
    if t.has .decode ∧ x.block < t.src.blocks then readHeader x e
    else
      let ranges := sourceRanges e x
      let (w, blocks) := turnedReads e x ranges
      readTurned { x with step := 2 } w blocks ranges e
  | 2 =>
    let w := fragmentWork e x
    let vs := copyVisits (viewAddr e t.dst 0) (issued x w).1 w.records
    let host := !(remoteJob e x) && (vs.head?.any fun v => (regionOf (32 * v.1)).1 = .host)
    let need := if host then hostPartial x vs else []
    if need.isEmpty then writeFragment x w e
    else readInto { x with step := 3 } (need.map fun a => (a, 1)) e
  | 3 => writeFragment x (fragmentWork e x) e
  | 11 =>
    let (x, e) := takeJobHeader x e
    readInto { x with step := 12 } (if placeNeed x = 0 then [] else [((blockPlace e x x.block).place, placeNeed x)]) e
  | 12 =>
    onDock (x.station.getD 0) (fun d => { d with decodeWaits := d.decodeWaits ++ [x.id] })
      (setJob { x with stage := .decoding } e)
  | _ =>
    if x.frag + 1 < x.fragments ∧ x.msgFail.isNone then
      setJob { x with frag := x.frag + 1, step := 0, block := 0, decoded := [], buf := [], stage := .reading } e
    else
      let e := setJob { x with stage := .ended, buf := [] } e
      if remoteJob e x then endSending x.id e else e

/-- One step of an EXPAND job (R179). -/
def stepExpand (x : Job) (e : Eng) : Eng :=
  let p := parsePack x.desc
  match x.step with
  | 11 | 12 => stepMove x e
  | 13 =>
    let d := (x.decoded.head?).getD (zeroBlock x.block true true)
    let bs := ((below d.bytes.length).zip d.bytes).map fun y => (BitVec.ofNat 8 y.2, d.pois.getD (y.1 / 4) false)
    let (ids, e) := writeBlock x p 1 (4096 * x.block) bs e
    setJob { x with stage := .writing, step := 14, waits := ids, decoded := [], pois := x.pois || d.pois.any id } e
  | 14 =>
    if x.block + 1 < p.blocks then readHeader { x with block := x.block + 1, buf := [] } e
    else setJob { x with stage := .ended, buf := [] } e
  | _ => readHeader x e

/-- The census's table and its record (R163, R165, R178). -/
def censusTable (x : Job) (p : PackRec) : Table × Nat :=
  let t : Table := { wide := p.wide, tag := p.tag, lengths := tableLengths x.census }
  (t, tableRecord t (x.census.sum - x.census.length))

/-- One step of a PACK job (R178). A job with ENCODE alone codes each block with what its slot's DOMAIN holds then, also
where the slot has changed since the job's validation (log entry 131). -/
def stepPack (x : Job) (e : Eng) : Eng :=
  let p := parsePack x.desc
  let s := x.station.getD 0
  let read (x : Job) (step : Nat) (e : Eng) : Eng :=
    readInto { x with step, stage := .reading, buf := [] } [(packAt e p (jobField x) 0 (4096 * x.block), 4096)] e
  let block := bufBytes x (packAt e p (jobField x) 0 (4096 * x.block)) 4096
  match x.step with
  | 21 =>
    let x := { x with census := countSymbols p.wide (block.map (·.1.toNat)) x.census }
    if block.any (·.2) then setJob { x with stage := .ended, ending := some ⟨.poisoned, if x.isoRead then 0x1201 else 0x1342⟩,
                                                buf := [] } e
    else if x.block + 1 < p.blocks then read { x with block := x.block + 1 } 21 e
    else
      let (ids, e) := writeBlock x p 3 0 ((leBytes 144 (censusTable x p).2).map fun b => (b, false)) e
      setJob { x with stage := .writing, step := 22, waits := ids, buf := [] } e
  | 22 =>
    if !p.encode then setJob { x with stage := .ended } e
    else if reg e (stIdx s (0x20 + p.slot)) 2 ≠ 0 ∨ reg e (stIdx s (0x20 + p.slot)) 5 = p.tag then
      setJob { x with stage := .ended, ending := some ⟨.denied, 0x3E0A⟩ } e
    else
      read { x with block := 0 } 23 (loadTable s p.slot
        (setDomNat (stIdx s (0x20 + p.slot)) 1 0 144 (censusTable x p).2 e))
  | 23 =>
    let bad := block.any (·.2)
    let (place, header) := encodeBlock (parseTable (slotTable e s p.slot)) p.slot bad (leNat (block.map (·.1)))
    let bytes := ((leBytes 4096 place).zip block).map fun y => (y.1, bad && y.2.2)
    let (ids, e) := writeBlock x p 1 (4096 * x.block) bytes e
    let (more, e) := writeBlock x p 2 (128 * x.block) ((leBytes 128 header).map fun b => (b, false)) e
    setJob { x with stage := .writing, step := 24, waits := ids ++ more, pois := x.pois || bad, buf := [] } e
  | 24 =>
    if x.block + 1 < p.blocks then read { x with block := x.block + 1 } 23 e
    else setJob { x with stage := .ended } e
  | _ => if p.census then read x 21 e else read x 23 e

/-- A small command of a WEEVIL entry (R292): destination form, length, source, destination. -/
structure SmallCmd where
  kind : Nat
  handleForm : Bool
  len : Nat
  src : Nat
  dst : Nat
  deriving DecidableEq, Repr

/-- Small command `c` of an entry's 64 bytes given as a number (R292). -/
def smallCmd (x c : Nat) : SmallCmd :=
  let w := bits x (128 + 128 * c) 128
  { kind := bits w 0 2, handleForm := bit w 2, len := bits w 3 8 + 1, src := bits w 16 46, dst := bits w 64 64 }

/-- The local address of byte `k` of a small command's destination, in the copy of a field (R292, R342). -/
def SmallCmd.dest (m : SmallCmd) (e : Eng) (field k : Nat) : Nat :=
  if m.handleForm then (slotOf e (m.dst % 65536)).resolve field (m.dst / 2 ^ 24 % 2 ^ 40 + k) else m.dst % 2 ^ 46 + k

/-- The copies of a WEEVIL entry in order. -/
def Job.copies (x : Job) : List SmallCmd := ((below 3).map (smallCmd x.desc)).filter (·.kind == 1)

/-- A copy's writes become one Weevil request on each copy of its destination (R294), which crosses the spine under the
allocations of the first station of its field. -/
def weevilWrite (x : Job) (m : SmallCmd) (e : Eng) : List Nat × Eng :=
  let data := bufBytes x m.src m.len
  let fields := if m.handleForm ∧ (slotOf e (m.dst % 65536)).policy = 2 then below 4 else [0]
  fields.foldl (fun (acc : List Nat × Eng) f =>
    let e := acc.2
    let atoms := ((below m.len).zip data).map fun y => Atom.bits ((m.dest e f y.1 : Nat) : Int) 255 y.2.1.toNat y.2.2
    let vs := visits atoms
    let own := 24 + 12 * fieldOfAgent (agentAt (m.dest e f 0))
    let kind := if vs.all fun v => sectorWhole v.2 then ReqKind.write else .mergeRead
    let (id, e) := submitOne { jobAccess x laneWrite with own, weevil := true } kind 0 vs e
    (acc.1 ++ [id], e)) ([], e)

/-- One step of a WEEVIL entry (R294). -/
def stepWeevil (x : Job) (e : Eng) : Eng :=
  match x.step with
  | 0 => readInto { x with step := 1 } (x.copies.map fun m => (m.src, m.len)) e
  | 1 =>
    let p := x.copies.any fun m => (bufBytes x m.src m.len).any (·.2)
    let (ids, e) := x.copies.foldl (fun (acc : List Nat × Eng) m =>
      let (is, e) := weevilWrite x m acc.2
      (acc.1 ++ is, e)) ([], e)
    setJob { x with step := 2, stage := .writing, waits := ids, pois := p, buf := [] } (bumpBy x.copies.length 0x4203 1 e)
  | _ => setJob { x with stage := .ended } e

/-- Whether a job can take its next step: it reads or writes and nothing it waits for is outstanding. -/
def steps (x : Job) : Bool := (x.stage == .reading || x.stage == .writing) && x.waits.isEmpty

/-- A job takes steps until it waits; `fuel` bounds them. -/
def runJob : Nat → Nat → Eng → Eng
  | 0, _, e => e
  | fuel + 1, j, e =>
    match jobOf e j with
    | none => e
    | some x =>
      if steps x then
        runJob fuel j (match x.op with
          | 4 => stepWeevil x e
          | 8 => stepPack x e
          | 9 => stepExpand x e
          | _ => stepMove x e)
      else e

/-- Steps enough for a job to reach its next wait or its end. -/
def jobFuel (x : Job) : Nat := 8 * (x.fragments + (x.tmd.src.blocks + (parsePack x.desc).blocks) + 2)

/-- A job goes on. -/
def continueJob (j : Nat) (e : Eng) : Eng :=
  match jobOf e j with
  | some x => runJob (jobFuel x) j e
  | none => e

/-- A read or a write that a job waited for is done. -/
def jobServed (j id : Nat) (e : Eng) : Eng :=
  match jobOf e j with
  | none => e
  | some x => continueJob j (setJob { x with waits := x.waits.erase id } e)

/-- Sectors read for a job: their bytes enter its buffer. -/
def jobSectors (j : Nat) (sectors : List (Nat × Nat × Nat)) (e : Eng) : Eng :=
  match jobOf e j with
  | none => e
  | some x => setJob (noteFirst (sectors.foldl (fun x s => x.put s.1 (sectorBytes s.2.1 s.2.2)) x) e) e

/-- The records that a job waited for have been read through HST: its checks go on. -/
def resumeChecks (x : Job) (e : Eng) : Eng :=
  match x.stage with
  | .indexRecord => afterIndex x (bufBytes x x.tmd.indexRef 96) e
  | .table => afterTable x (bufBytes x x.tableAddr (16 * x.tableCount)) e
  | _ => afterDescriptor x (bufBytes x x.addr 256) e

/-- The detail of a host-port error on a record's read (R111, R178, R349). -/
def recordDetail (x : Job) : Nat :=
  match x.stage, x.op with
  | .indexRecord, _ => 0x200F
  | .table, _ => 0x2103
  | _, 8 | _, 9 => 0x3E03
  | _, 10 => 0x5803
  | _, _ => 0x2003

/-- Reads of a job that HST has not issued are withdrawn, and its read requests leave the stack agents; data in flight
is discarded (R199, R200). -/
def withdrawReads (j : Nat) (e : Eng) : Eng :=
  let mine (r : Req) : Bool := r.owner == .job j && r.kind == .read
  let e := { e with hostReads := e.hostReads.filter fun h => !(h.use == .job j && !h.issued) }
  (below 24).foldl (fun e n => onAgent n (fun a => { a with
    inbox := a.inbox.filter fun r => !mine r, pending := a.pending.filter fun r => !mine r,
    granted := a.granted.filter fun r => !mine r }) e) e

/-- The references of a job's blocks that are not decoded are given back (R174). -/
def dropJobRefs (x : Job) (e : Eng) : Eng :=
  let s := x.station.getD 0
  let e := onDock s (fun d => { d with decodeWaits := d.decodeWaits.erase x.id }) e
  if x.decoded.any (·.block == x.block) then e
  else x.refs.foldl (fun e r => match r.2 with | .coded k => dropRef s k e | _ => e) e

/-- A started job stops with a status (R113, R200, R287): no further read or write; writes issued complete, and what its
write half holds is discarded. A SIGNAL that waits in the swap queue is withdrawn (R105). -/
def stopJob (x : Job) (z : Ending) (e : Eng) : Eng :=
  let keep := x.stage == .writing
  let e := if x.stage = .waiting then dropSemOps (.job x.id) e
    else if x.stage = .ended then e else dropJobRefs x (withdrawReads x.id e)
  let e := e |> setJob { x with
    stage := .ended, ending := some z, waits := if keep then x.waits else [], refs := [], buf := [], heldMsg := none,
    carry := [] }
  dropWaiting x.id e

/-- DYNAMIC_BLOCK_ADMIT (R172): whether a static block of a station is due to begin input near an ARCLK. -/
def staticDue (e : Eng) (s c : Nat) : Bool :=
  let d := dockOf e s
  d.streams.any fun q =>
    let r := recOf d q.1
    r.decode && r.kind == 1 && q.2.started.isSome && q.2.cancelAt.isNone &&
      (upFrom q.2.nextBlock (r.view.blocks - q.2.nextBlock)).any fun k =>
        blockDue r q.2 k ≤ c + 7 && c ≤ blockDue r q.2 k + 7

/-- R172: a dynamic block waits for the expander at an ARCLK; each window of 8 ARCLK in which one does counts once. -/
def noteDecodeWait (s c : Nat) (e : Eng) : Eng :=
  if (dockOf e s).waitWindow = some (c / 8) then e
  else bump (stIdx s 0x28) 6 (onDock s (fun d => { d with waitWindow := some (c / 8) }) e)

/-- DYNAMIC_BLOCK_ADMIT (R170, R172): the first waiting block enters the expander at ARCLK `c`, and has left it 32 ARCLK
later, or its wait is counted. -/
def dynamicAdmit (s c : Nat) (e : Eng) : Eng :=
  let d := dockOf e s
  match d.decodeWaits with
  | [] => e
  | j :: rest =>
    let e := advanceCycle c e
    if staticDue e s c ∨ d.admits.any (fun a => c < a + 8 ∧ a < c + 8) then noteDecodeWait s c e
    else
      let e := advanceCycle (c + 31) (noteInput s c (onDock s (fun d => { d with decodeWaits := rest }) e))
      match jobOf e j with
      | none => e
      | some x =>
        let (h, chk) := x.refs.headD (0, .mismatch)
        let place := (blockPlace e x x.block).place
        let bs (n : Nat) : List PayloadByte := (bufBytes x place n).map fun b => ⟨b.1.toNat, b.2, false⟩
        let dec := expandBlock e s x.block bs 4096 h chk
        let e := countBlock s chk dec e
        let e := match chk with | .coded k => dropRef s k e | _ => e
        let x := if x.op = 9 then { x with decoded := [dec], step := 13 }
          else { x with decoded := x.decoded ++ [dec], step := 1, block := x.block + 1 }
        continueJob j (setJob { x with stage := .reading, refs := [] } e)

/-- DYNAMIC_BLOCK_ADMIT (R172). -/
def execDynamicBlockAdmit (s : Fin 48) (c : Nat) (st : State) : Host.Outcome State Fault Refusal :=
  .next (onEng (dynamicAdmit s.val c) st)

/-- Whether the dispatcher starts jobs now (R356, R366, R369). -/
def dispatching (e : Eng) : Bool := reg e 0x4000 1 == 1 || reg e 0x4000 1 == 3

/-- Whether an entry of a ring stands before another of the same epoch. -/
def RingEntry.before (a b : RingEntry) : Bool := a.epoch == b.epoch && (b.index + 2 ^ 32 - a.index) % 2 ^ 32 < 2 ^ 31 && a.index ≠ b.index

/-- R284, R285, R290: whether an entry may start: every earlier entry of its ring has started, and none of them is a
WAIT_GE that still waits. -/
def mayStart (e : Eng) (r epoch index : Nat) : Bool :=
  let g := ringOf e r
  match g.entries.find? fun x => x.index == index && x.epoch == epoch with
  | none => false
  | some x => g.entries.all fun y => !y.before x || y.stage == .complete ||
      (y.stage == .started && !(opcodeOf y.bytes == 5 && (y.bytes.getD 16 0).toNat == 1))

/-- JOB_START (R290): a job that has passed its checks starts on a station with a free place of its class. -/
def jobStart (j : Nat) (e : Eng) : Eng :=
  match jobOf e j with
  | none => e
  | some x =>
    let turn := match x.ring with
      | some r => mayStart e r x.epoch x.index && !e.fw.ringHeld
      | none => true
    if x.stage ≠ .ready ∨ !turn ∨ !dispatching e ∨ x.op = 10 then e
    else match chooseStation e x with
      | none => e
      | some s =>
        let e := match x.ring with | some r => setEntryStage r x.epoch x.index .started e | none => e
        continueJob j (setJob { x with stage := .reading, station := some s } e)

/-- The SIGNAL of a job with a local destination (R105, R177): the semaphore and the amount. -/
def jobSignal (e : Eng) (x : Job) : Option (Nat × Nat) :=
  if x.op = 8 ∨ x.op = 9 then
    let w := (parsePack x.desc).signal
    if w = 0 then none else some (bits w 0 10, bits w 10 16)
  else if x.op = 4 ∨ x.op = 10 ∨ remoteJob e x then none
  else if x.tmd.signal then some (bits x.tmd.signalParam 0 10, bits x.tmd.signalParam 10 16) else none

/-- A job that has ended completes: its SIGNAL is applied first, once its writes are durable (R105, R297). -/
def completeJob (x : Job) (e : Eng) : Eng :=
  let z := jobEnding x
  match jobSignal e x, signals z && !x.signalled with
  | some (v, k), true =>
    let (r, e) := semOp { kind := .add, ctx := x.context, v, value := k, source := .job x.id }
      (setJob { x with stage := .waiting } e)
    match r with
    | .full => setJob { x with stage := .ended } e
    | .untranslated => finishJob x ⟨.outOfRange, 0x2018⟩ x.fragFail (timeEntry x e)
    | .taken =>
      match jobOf e x.id with
      | some y => if y.signalled then finishJob y (jobEnding y) y.fragFail (timeEntry y e) else e
      | none => e
  | _, _ => finishJob x z x.fragFail (timeEntry x e)

end Sys2Proof.Machine
end

