-- ==== Sys2Proof/Machine/Reshard.lean ====
section
/-! DEFINITION. Re-shard jobs (spec/14_placement_resharding.md R346 to R350): the record and its checks, the moves that
a package issues, its wait, and how such a job stops and completes. -/

namespace Sys2Proof.Machine

/-- A sharding descriptor (R347). -/
structure Shard where
  meshRank : Nat
  partialAxis : Nat
  axes : List Nat
  shape : List Nat
  base : Nat
  reserved : Nat
  deriving DecidableEq, Repr

/-- The fields of a 64-byte sharding descriptor given as a number (R347). -/
def parseShard (x : Nat) : Shard :=
  { meshRank := bits x 0 8, partialAxis := bits x 8 3, axes := (below 4).map fun k => bits x (16 + 3 * k) 3,
    shape := (below 4).map fun k => bits x (64 + 32 * k) 32, base := bits x 192 64,
    reserved := bits x 11 5 + bits x 28 4 + bits x 32 32 + bits x 256 256 }

/-- A re-shard record (R346). -/
structure ReshardRec where
  format : Nat
  rank : Nat
  srcPos : Nat
  dstPos : Nat
  sem : Nat
  extent : List Nat
  waitLimit : Nat
  semBase : Nat
  peers : Nat
  src : Shard
  dst : Shard
  reserved : Nat
  deriving DecidableEq, Repr

/-- The fields of a 192-byte re-shard record given as a number (R346). -/
def parseReshard (x : Nat) : ReshardRec :=
  { format := bits x 0 6, rank := bits x 8 8, srcPos := bits x 32 32, dstPos := bits x 64 32, sem := bits x 96 10,
    extent := (below 4).map fun k => bits x (128 + 32 * k) 32, waitLimit := bits x 256 32, semBase := bits x 288 32,
    peers := bits x 320 64, src := parseShard (bits x 384 512), dst := parseShard (bits x 896 512),
    reserved := bits x 6 2 + bits x 16 16 + bits x 106 6 + bits x 112 16 + bits x 1408 128 }

/-- No position in a mesh (R346). -/
def noPos : Nat := 0xFFFFFFFF

/-- The positions of a mesh (R347). -/
def Shard.positions (m : Shard) : Nat := (m.shape.take m.meshRank).foldl (· * ·) 1

/-- The coordinate of a mesh position on an axis (R347). -/
def Shard.coord (m : Shard) (p a : Nat) : Nat := p / (m.shape.take a).foldl (· * ·) 1 % max 1 (m.shape.getD a 1)

/-- The indices of dimension `k` that the shard of a position holds: the first one and how many (R347). -/
def Shard.side (m : Shard) (extent p k : Nat) : Nat × Nat :=
  let a := m.axes.getD k 7
  if a = 7 then (0, extent)
  else
    let n := extent / max 1 (m.shape.getD a 1)
    (m.coord p a * n, n)

/-- The box of a position's shard, dimension by dimension (R347). -/
def ReshardRec.box (x : ReshardRec) (m : Shard) (p : Nat) : List (Nat × Nat) :=
  (below x.rank).map fun k => m.side (x.extent.getD k 0) p k

/-- The intersection of two boxes. -/
def meetBoxes (a b : List (Nat × Nat)) : List (Nat × Nat) :=
  (a.zip b).map fun x =>
    let lo := max x.1.1 x.2.1
    (lo, min (x.1.1 + x.1.2) (x.2.1 + x.2.2) - lo)

/-- Whether two boxes share an element. -/
def boxesMeet (a b : List (Nat × Nat)) : Bool := (meetBoxes a b).all fun x => x.2 ≠ 0

/-- R348: whether a source position sends. -/
def ReshardRec.sends (x : ReshardRec) (p : Nat) : Bool :=
  (below x.src.meshRank).all fun a =>
    (x.src.axes.take x.rank).contains a || a == x.src.partialAxis || x.src.coord p a == 0

/-- The destinations that a sending package issues moves to, in the order of R348. -/
def ReshardRec.targets (x : ReshardRec) : List Nat :=
  if x.srcPos = noPos || !x.sends x.srcPos then []
  else
    let n := x.dst.positions
    ((below n).map fun k => (x.srcPos + k) % n).filter fun d =>
      boxesMeet (x.box x.src x.srcPos) (x.box x.dst d)

/-- c_d of R348 for this package's destination position. -/
def ReshardRec.expected (x : ReshardRec) : Nat :=
  ((below x.src.positions).filter fun p =>
    x.sends p && boxesMeet (x.box x.src p) (x.box x.dst x.dstPos)).length

/-- The element format of a record; a reserved code, which check 0x5804 refuses, reads as FP32 here. -/
def ReshardRec.fmt (x : ReshardRec) : Fmt := (fmtOf x.format).getD .fp32

/-- The bytes of one element. -/
def ReshardRec.elemBytes (x : ReshardRec) : Nat := x.fmt.width / 8

/-- The bytes of a shard: its first local address and how many. -/
def ReshardRec.shardBytes (x : ReshardRec) (m : Shard) (p : Nat) : Nat × Nat :=
  (m.base, (x.box m p).foldl (fun n s => n * s.2) x.elemBytes)

/-- The view of a box within a shard as the 96 bytes of a view record (R81, R348). -/
def ReshardRec.viewRecord (x : ReshardRec) (m : Shard) (p : Nat) (box : List (Nat × Nat)) (endpoint : Nat) : Nat :=
  let mine := x.box m p
  let stride (k : Nat) : Nat := (mine.take k).foldl (fun n s => n * s.2) 1
  let off := (below x.rank).foldl (fun n k =>
    n + ((box.getD k (0, 0)).1 - (mine.getD k (0, 0)).1) * stride k * x.elemBytes) 0
  x.format + x.rank * 2 ^ 6 + 7 * 2 ^ 31 + (endpoint * 2 ^ 46 + m.base + off) * 2 ^ 64 +
    (below x.rank).foldl (fun n k => n + (box.getD k (0, 0)).2 * 2 ^ (128 + 32 * k) + stride k * 2 ^ (320 + 48 * k)) 0

/-- One descriptor of R347 under checks 0x5804 and 0x5805: its reserved fields are judged with the record's. -/
def shardOk (x : ReshardRec) (m : Shard) (dest : Bool) : Bool :=
  let axes := m.axes.take x.rank
  let used := axes.filter (· ≠ 7)
  1 ≤ m.meshRank && m.meshRank ≤ 4 && (m.shape.drop m.meshRank).all (· == 0) && m.positions ≤ 262144 &&
    used.all (· < m.meshRank) && (below m.meshRank).all (fun a => (used.filter (· == a)).length ≤ 1) &&
    (below x.rank).all (fun k =>
      let a := m.axes.getD k 7
      a == 7 || (m.shape.getD a 0 ≠ 0 && x.extent.getD k 0 % m.shape.getD a 1 == 0)) &&
    (m.partialAxis == 7 || (!dest && m.partialAxis < m.meshRank && !used.contains m.partialAxis))

/-- The shards that this package holds, as byte ranges (R346). -/
def ReshardRec.ownShards (x : ReshardRec) : List (Nat × Nat) :=
  (if x.srcPos = noPos then [] else [x.shardBytes x.src x.srcPos]) ++
    if x.dstPos = noPos then [] else [x.shardBytes x.dst x.dstPos]

/-- R349: the checks of a re-shard record, from 0x5804 on. -/
def checkReshard (e : Eng) (j : Job) (x : ReshardRec) : Option Ending :=
  let shards := x.ownShards
  firstFailure [
    failUnless (x.reserved + x.src.reserved + x.dst.reserved == 0 &&
      (match fmtOf x.format with | some f => f ≠ .tern && [8, 16, 32].contains f.width | none => false) &&
      1 ≤ x.rank && x.rank ≤ 4 && (x.extent.drop x.rank).all (· == 0)) 0x5804 .badDescriptor,
    failUnless (shardOk x x.src false && shardOk x x.dst true) 0x5805 .badDescriptor,
    failUnless ((x.srcPos == noPos || x.srcPos < x.src.positions) && (x.dstPos == noPos || x.dstPos < x.dst.positions) &&
      !(x.srcPos == noPos && x.dstPos == noPos)) 0x5806 .badDescriptor,
    failUnless (x.src.partialAxis == 7 || x.fmt == .fp32 || x.fmt == .bf16 || x.fmt == .int32) 0x5807 .badDescriptor,
    failUnless (shards.all (fun s => s.1 + s.2 ≤ 0x018000000000) &&
      !(match shards with | [a, b] => overlaps [a] [b] | _ => false)) 0x5808 .outOfRange,
    failUnless (translates e j.context x.sem) 0x5809 .outOfRange,
    failUnless (x.srcPos == noPos || !x.sends x.srcPos ||
      (x.peers % 4 == 0 && inMemory x.peers (4 * x.dst.positions))) 0x580A .outOfRange]

/-- The record of a RESHARD job has been read (R349). -/
def afterReshard (j : Job) (bs : List (Byte × Bool)) (e : Eng) : Eng :=
  let (v, bad) := recordNat bs
  if bad then failCheck j ⟨.poisoned, 0x5803⟩ 0 e
  else match checkReshard e j (parseReshard v) with
    | some z => failCheck j z 0 e
    | none => passJob { j with desc := v } 0 e

/-- The descriptor of the move to destination `d` with its peer entry, as 256 bytes (R348). -/
def moveDescriptor (e : Eng) (x : ReshardRec) (cls d peer : Nat) : Nat :=
  let box := meetBoxes (x.box x.src x.srcPos) (x.box x.dst d)
  let self := bit peer 13
  let plane := if self then 0 else bits peer 12 1
  let channel := if self then 0 else bits peer 0 12
  let here := reg e 0x5000 1
  let there := if self then here else chField e plane channel 8 18
  1 + 2 * 2 ^ 8 + cls * 2 ^ 16 + 2 ^ 24 + (if x.src.partialAxis = 7 then 0 else 6 * 2 ^ 40) + channel * 2 ^ 72 +
    plane * 2 ^ 84 + x.viewRecord x.src x.srcPos box here * 2 ^ 128 + x.viewRecord x.dst d box there * 2 ^ 896 +
    (x.sem + 2 ^ 10) * 2 ^ 1984

/-- One move of a re-shard is issued and checked (R348, R350). A poisoned peer entry names no peer: no move is issued,
and the job is poisoned (log entry 41). -/
def issueMove (p : Job) (d : Nat) (e : Eng) : Eng :=
  let x := parseReshard p.desc
  let bs := bufBytes p (x.peers + 4 * d) 4
  if bs.any (·.2) then setJob { p with todo := p.todo.drop 1, pois := true } e
  else
    let (id, e) := newId e
    let e := bump 0x5804 6 e
    let desc := moveDescriptor e x (max 2 p.cls) d (leNat (bs.map (·.1)))
    let m : Job := { id, op := 0x100, context := p.context, cls := max 2 p.cls, desc, parent := some (p.id, d) }
    checkDescriptor m (addJob m (setJob { p with todo := p.todo.drop 1, moves := p.moves ++ [(id, d)] } e))

/-- Whether CP2 plans (R358, R366, R367): it is neither restarting nor failed. -/
def planning (e : Eng) : Bool := reg e 0x600A 1 ≠ 3 && reg e 0x600A 1 ≠ 4

/-- R348: moves are issued in order while fewer than 64 are in flight; after the last one has completed the job goes
on to its wait (log entry 42). -/
def pumpReshard : Nat → Nat → Eng → Eng
  | 0, _, e => e
  | fuel + 1, j, e =>
    match jobOf e j with
    | none => e
    | some p =>
      match p.todo with
      | d :: _ => if 64 ≤ p.moves.length ∨ !planning e then e else pumpReshard fuel j (issueMove p d e)
      | [] => if p.moves.isEmpty ∧ p.stage = .reading then setJob { p with stage := .ended, buf := [] } e else e

/-- A re-shard goes on. -/
def goReshard (j : Nat) (e : Eng) : Eng :=
  match jobOf e j with
  | some p => if p.op = 10 then pumpReshard (p.todo.length + 1) j e else e
  | none => e

/-- The peer table has been read: the moves begin (R346, R348). -/
def afterPeers (p : Job) (bs : List (Byte × Bool)) (e : Eng) : Eng :=
  let x := parseReshard p.desc
  goReshard p.id (setJob { (p.put x.peers bs) with todo := x.targets } e)

/-- A RESHARD job that has passed its checks starts: its peer table is read where it sends (R290, R348). -/
def startReshard (p : Job) (e : Eng) : Eng :=
  let x := parseReshard p.desc
  let p := { p with stage := .reading, buf := [] }
  let e := match p.ring with | some r => setEntryStage r p.epoch p.index .started e | none => e
  if x.targets.isEmpty then goReshard p.id (setJob p e) else fetchRecord p x.peers (4 * x.dst.positions) afterPeers e

/-- JOB_START (R290): a job that has passed its checks starts. -/
def startJob (j : Nat) (e : Eng) : Eng :=
  match jobOf e j with
  | none => e
  | some x =>
    if x.op = 10 then
      if x.stage = .ready && planning e && dispatching e && !e.fw.ringHeld && (x.ring.any fun r => mayStart e r x.epoch x.index) then
        startReshard x e
      else e
    else jobStart j e

/-- JOB_START (R290). -/
def execJobStart (j : Nat) (s : State) : Host.Outcome State Fault Refusal := .next (onEng (startJob j) s)

/-- A job of any kind stops with a status (R200, R350): a re-shard stops its moves with it. -/
def stopAny (x : Job) (z : Ending) (e : Eng) : Eng :=
  if x.op ≠ 10 then stopJob x z e
  else
    let e := x.moves.foldl (fun e m =>
      match jobOf e m.1 with
      | none => e
      | some y => if inProgress y then stopJob y z e else finishJob y z 0 e) (setJob { x with todo := [] } e)
    let e := dropSemOps (.job x.id) (withdrawReads x.id e)
    match jobOf e x.id with
    | some y => setJob { y with stage := .ended, ending := some z, waits := [], buf := [] } e
    | none => e

/-- The end of a re-shard's run: its wait, or its completion (R348, R350). -/
def completeReshard (x : Job) (e : Eng) : Eng :=
  let r := parseReshard x.desc
  let finish (y : Job) (e : Eng) : Eng := bump 0x5804 5 (finishJob y (jobEnding y) 0 (timeEntry y e))
  if x.ending.isSome ∨ x.waitEnd.isSome ∨ r.dstPos = noPos then finish x e
  else
    let frames := if r.waitLimit = 0 then reg e 0x4001 2 else r.waitLimit
    let (t, e) := semOp { kind := .waitGe, ctx := x.context, v := r.sem, value := (r.semBase + r.expected) % 2 ^ 32,
                          source := .job x.id, limit := e.now + frameT * frames }
      (setJob { x with stage := .waiting } e)
    match t with
    | .full => setJob x e
    | .untranslated => finish { x with waitEnd := some ⟨.outOfRange, 0x5809⟩ } e
    | .taken =>
      match jobOf e x.id with
      | some y => if y.waitEnd.isSome then finish y e else e
      | none => e

/-- JOB_COMPLETE (R105, R113, R297, R350): a job that has ended and waits for nothing completes. -/
def jobComplete (j : Nat) (e : Eng) : Eng :=
  match jobOf e j with
  | none => e
  | some x =>
    if x.op = 10 then
      if x.moves.isEmpty ∧ (x.stage = .ended ∨ (x.stage = .waiting ∧ x.waitEnd.isSome)) then completeReshard x e else e
    else if x.stage = .ended ∧ x.waits.isEmpty ∧ x.sends.isEmpty then
      let e := completeJob x e
      match x.parent, jobOf e j with
      | some p, none => goReshard p.1 e
      | _, _ => e
    else e

/-- JOB_COMPLETE (R297). -/
def execJobComplete (j : Nat) (s : State) : Host.Outcome State Fault Refusal :=
  .next (onEng (fun e =>
    match jobOf e j with
    | some x => if (jobEnding x).status = .hostError then e else jobComplete j e
    | none => e) s)

/-- JOB_HOST_ERROR (R113, R287): a job that a host-port error has stopped completes HOST_ERROR. -/
def execJobHostError (j : Nat) (s : State) : Host.Outcome State Fault Refusal :=
  .next (onEng (fun e =>
    match jobOf e j with
    | some x => if (jobEnding x).status = .hostError then jobComplete j e else e
    | none => e) s)

end Sys2Proof.Machine
end

