-- ==== Sys2Proof/Machine/Rings.lean ====
section
/-! DEFINITION. Host rings (spec/12_dynamic_channels.md R277 to R300): configuration and control, doorbells, scans,
entry checks, the entries' opcodes, the head and the interrupt, and the reads that HST makes for jobs. -/

namespace Sys2Proof.Machine

/-- Where a ring or its head index may lie (R277, R297): the host window, stack memory or a Pool. -/
def ringRegion (a : Nat) : Bool := a < 0x400000000000 && (regionOf a).1 ≠ .reserved

/-- A write to a configuration entry of a ring (R277): only while the ring is disabled. -/
def effRingConfig (r sub : Nat) (ok : Nat → Bool) : Effect := fun v s =>
  if reg s.eng (ringIdx r) 8 ≠ 0 then (.denied, s)
  else if ok v then checked (ringIdx r) sub (fun v s => onEng (setReg (ringIdx r) sub v) s) v s
  else (.badValue, s)

/-- The configuration entries of a ring (R277, R305): RING_BASE, RING_SIZE, RING_CLASS, RING_CONTEXT, RING_STATION,
HEAD_ADDR. -/
def effRingEntry (r sub : Nat) : Effect :=
  effRingConfig r sub fun v => match sub with
    | 1 => v % 4096 == 0 && ringRegion v
    | 5 => v < 48 || v == 0xFF
    | 6 => v % 4 == 0 && ringRegion v
    | _ => true

/-- A scan of a ring is at an end and nothing read is kept; a read under way is not taken (R299). -/
def endScan (r : Nat) (e : Eng) : Eng :=
  onRing r (fun g => { g with
      scanning := false, again := false, paused := false, retry := none, got := [], reading := none, sectors := [] })
    { e with hostReads := e.hostReads.filter fun h => h.use ≠ .ring r }

/-- ENABLE (R279, R299, R356). -/
def enableRing (r : Nat) (s : State) : Access × State :=
  let e := s.eng
  let i := ringIdx r
  if !e.fw.started then (.denied, s)
  else match reg e i 8 with
    | 0 =>
      if reg e i 1 % (64 * ringLen e r) ≠ 0 then (.badValue, s)
      else (.ok, onEng (fun e => endScan r e |> onRing r (fun g => { g with door := none, fresh := none }) |> setReg i 10 0 |>
        setReg i 11 0 |> setReg i 12 ((reg e i 12 + 1) % 16) |> setReg i 8 1) s)
    | 1 => (.ok, s)
    | _ => (.denied, s)

/-- DISABLE (R299): no further scan; a scan in progress ends (log entry 43). -/
def disableRing (r : Nat) (e : Eng) : Eng :=
  let i := ringIdx r
  if reg e i 8 = 1 ∨ reg e i 8 = 3 then setReg i 8 0 (endScan r e) else e

/-- The job of a ring's entry. -/
def entryJob (e : Eng) (r : Nat) (x : RingEntry) : Option Job :=
  e.jobs.find? fun j => j.ring == some r && j.epoch == x.epoch && j.index == x.index

/-- An entry that is not complete ends without having started, with a status (R299, R366, R374). -/
def dropEntry (r : Nat) (z : Ending) (x : RingEntry) (e : Eng) : Eng :=
  match entryJob e r x with
  | some j => finishJob j z 0 { e with hostReads := e.hostReads.filter fun h => !(h.use == .job j.id && !h.issued) }
  | none => completeEntry r x.epoch x.index z 0 (countEnding z e)

/-- ABORT of one entry (R200, R299). -/
def abortEntry (r : Nat) (x : RingEntry) (e : Eng) : Eng :=
  match x.stage with
  | .complete => e
  | .started =>
    match entryJob e r x with
    | some j => stopAny j ⟨.cancelled, 0x3F01⟩ e
    | none =>
      completeEntry r x.epoch x.index ⟨.cancelled, 0x3F01⟩ 0 (dropSemOps (.ring r x.epoch x.index) e)
  | _ => dropEntry r ⟨.cancelled, 0x4020⟩ x e

/-- Whether nothing of a ring is outstanding: its entries are complete and its head is published. -/
def ringQuiet (e : Eng) (r : Nat) : Bool :=
  (ringOf e r).entries.all (fun x => x.stage == .complete) && !(ringOf e r).headDue

/-- An aborting ring with nothing outstanding is disabled (R299). -/
def settleAbort (r : Nat) (e : Eng) : Eng :=
  if reg e (ringIdx r) 8 = 2 ∧ ringQuiet e r then setReg (ringIdx r) 8 0 e else e

/-- ABORT (R299). -/
def abortRing (r : Nat) (e : Eng) : Eng :=
  if reg e (ringIdx r) 8 = 2 then e
  else
    let e := setReg (ringIdx r) 8 2 (endScan r e)
    settleAbort r ((ringOf e r).entries.foldl (fun e x => abortEntry r x e) e)

/-- RING_CTRL (R299). -/
def effRingCtrl (r : Nat) : Effect := fun v s =>
  match v with
  | 0 => (.ok, s)
  | 1 => enableRing r s
  | 2 => (.ok, onEng (disableRing r) s)
  | 3 => (.ok, onEng (abortRing r) s)
  | _ => (.badValue, s)

/-- ENABLE (R279, R299). -/
def execRingEnable (p : Port) (r : Fin 64) (s : State) : Host.Outcome State Fault Refusal :=
  .next (portWrite p (ringIdx r.val) 7 1 (effRingCtrl r.val) s)

/-- DISABLE (R299). -/
def execRingDisable (p : Port) (r : Fin 64) (s : State) : Host.Outcome State Fault Refusal :=
  .next (portWrite p (ringIdx r.val) 7 2 (effRingCtrl r.val) s)

/-- ABORT (R299). -/
def execRingAbort (p : Port) (r : Fin 64) (s : State) : Host.Outcome State Fault Refusal :=
  .next (portWrite p (ringIdx r.val) 7 3 (effRingCtrl r.val) s)

/-- The dispatcher scans and starts ring jobs (R356, R366, R369). -/
def ringsRun (e : Eng) : Bool := dispatching e && !e.fw.ringHeld

/-- Whether a scan of a ring waits for entries to be read. -/
def awaitsRead (e : Eng) (r : Nat) : Bool :=
  (ringOf e r).scanning && reg e (ringIdx r) 8 == 1 && ringsRun e && (ringOf e r).retry.isNone

/-- R289: what one entry read may ask for: from the first entry not read yet, up to four, not past the ring's end. -/
def readRoom (e : Eng) (r : Nat) : Nat :=
  let len := ringLen e r
  min 4 (len - (reg e (ringIdx r) 10 + (ringOf e r).got.length) % len)

/-- The local address of the first entry of a ring that is not read yet (R289). -/
def readAddr (e : Eng) (r : Nat) : Nat := entryAddr e r (reg e (ringIdx r) 10 + (ringOf e r).got.length)

/-- A read of a ring's entries is issued (R238, R289, R296): through HST, by requests to a stack agent, or from a Pool,
which answers when the read completes. Doorbells count afresh for the entries that it reads (R301). -/
def issueEntryRead (r : Nat) (e : Eng) : Eng :=
  let a := readAddr e r
  let n := 64 * readRoom e r
  let cls := reg e (ringIdx r) 3
  let (ids, e) := match (regionOf a).1 with
    | .host => requestRead (.ring r) cls false a n e
    | .stack => submitReads { owner := .ring r, lane := laneRead, cls, lst := serviceTime e cls 0, own := 75, field := 0 } [(a, n)] e
    | _ => let (id, e) := newId e; ([id], e)
  onRing r (fun g => { g with
    reading := ids.head?, sectors := [], fresh := if g.got.isEmpty then none else g.fresh }) e

/-- R289: one read of entries is under way at a time; of the rings whose scan waits for one, the ring of the lowest class
and then of the lowest number is served (log entry 139). -/
def serveRings (e : Eng) : Eng :=
  if (below 64).any fun r => (ringOf e r).reading.isSome then e
  else
    match (below 4).findSome? fun c => (below 64).find? fun r => reg e (ringIdx r) 3 == c && awaitsRead e r with
    | some r => issueEntryRead r e
    | none => e

/-- Whether a scan of a ring has to stop (R289): the limit of jobs, or a FENCE or WAIT_GE of its epoch still in force. -/
def scanHeld (e : Eng) (r : Nat) : Bool :=
  decide (reg e 0x4001 1 ≤ jobsActive e r) || (ringOf e r).entries.any fun x =>
    x.epoch == reg e (ringIdx r) 12 && x.stage ≠ .complete &&
      (opcodeOf x.bytes == 6 || (opcodeOf x.bytes == 5 && (x.bytes.getD 16 0).toNat == 1))

/-- A scan ends at the limit, a FENCE or a WAIT_GE: what it has read beyond is read again when scanning resumes (R289). -/
def pauseScan (r : Nat) (e : Eng) : Eng :=
  onRing r (fun g => { g with scanning := false, again := false, paused := true, got := [] }) e

/-- A scan of a ring begins; it ends at once where it has to stop (R288, R289). -/
def beginScan (r : Nat) (e : Eng) : Eng :=
  if scanHeld e r then pauseScan r e
  else serveRings (onRing r (fun g => { g with scanning := true, paused := false, got := [] }) e)

/-- DOORBELL (R288): a scan begins, or one further scan is marked; the doorbell counts for R301. -/
def ringBell (r : Nat) (e : Eng) : Eng :=
  if reg e (ringIdx r) 8 ≠ 1 then bump 0x4002 6 e
  else
    let e := onRing r (fun g => { g with
      door := some (g.door.getD (spNow e)), fresh := some (g.fresh.getD (spNow e)), again := g.again || g.scanning }) e
    if (ringOf e r).scanning then e else beginScan r e

/-- DOORBELL (R288). -/
def effDoorbell (r : Nat) : Effect := fun _ s => (.ok, onEng (ringBell r) s)

/-- DOORBELL (R288). -/
def execDoorbell (p : Port) (r : Fin 64) (s : State) : Host.Outcome State Fault Refusal :=
  .next (portWrite p (ringIdx r.val) 9 0 (effDoorbell r.val) s)

/-- Byte `k` of an entry. -/
def entryByte (bytes : List Byte) (k : Nat) : Nat := (bytes.getD k 0).toNat

/-- A little-endian field of an entry. -/
def entryField (bytes : List Byte) (k n : Nat) : Nat := leNat ((bytes.drop k).take n)

/-- The end of the body bytes that an opcode uses (R281, R285). -/
def bodyEnd : Nat → Nat
  | 1 | 8 | 9 | 10 => 24
  | 3 => 36
  | 4 => 64
  | 5 => 28
  | _ => 16

/-- How many entries an entry consumes, by its position in the ring (R281, R283, R286). -/
def consumes (op : Nat) (pois : Bool) (pos len : Nat) : Nat :=
  if pois then 1
  else if op = 7 then len - pos
  else if op = 2 then (if pos + 4 ≤ len then 4 else len - pos)
  else 1

/-- R285, check 0x4006 on a SEM_OP body. -/
def semBodyOk (bs : List Byte) : Bool :=
  let op := entryByte bs 16
  (op == 1 || op == 2 || op == 3) && entryByte bs 17 == 0 && entryField bs 18 2 < 1024 &&
    (op == 1 || entryField bs 24 4 == 0)

/-- R286: the checks of a taken entry, in order. -/
def checkEntry (e : Eng) (r : Nat) (x : RingEntry) : Option Ending :=
  let bs := x.bytes
  let op := opcodeOf bs
  let zeros (k n : Nat) : Bool := entryField bs k n == 0
  firstFailure [
    failUnless (!x.pois) 0x4002 .poisoned,
    failUnless (op ≤ 10) 0x4003 .badEntry,
    failUnless (entryByte bs 14 < 2 && zeros 13 1 && (if op = 2 then zeros 252 4 else zeros 0 13)) 0x4004 .badEntry,
    failUnless (op ≠ 2 || x.count == 4) 0x4005 .badEntry,
    failUnless (!x.followPois) 0x4002 .poisoned,
    failUnless (op == 2 || (zeros (bodyEnd op) (64 - bodyEnd op) && (op ≠ 5 || semBodyOk bs))) 0x4006 .badEntry,
    failUnless (op ≠ 5 || translates e (reg e (ringIdx r) 4) (entryField bs 18 2)) 0x4008 .outOfRange]

/-- R289: the entries read so far are taken in order until the scan ends or needs more of them. -/
def scanGot (r : Nat) : Nat → Eng → Eng
  | 0, e => e
  | fuel + 1, e =>
    let g := ringOf e r
    let i := reg e (ringIdx r) 10
    let len := ringLen e r
    if !g.scanning then e
    else if scanHeld e r then pauseScan r e
    else match g.got with
      | [] => e
      | a :: _ =>
        if bit (entryByte a.bytes 14) 0 ≠ (i / len % 2 == 0) then
          onRing r (fun g => { g with scanning := g.again, again := false, got := [], door := g.fresh }) e
        else
          let op := opcodeOf a.bytes
          let n := consumes op a.pois (i % len) len
          let four := op = 2 ∧ !a.pois ∧ n = 4
          if decide four && decide (g.got.length < 4) then e
          else
            let own := if decide four then g.got.take 4 else [a]
            let x : RingEntry := { index := i, count := n, epoch := reg e (ringIdx r) 12,
                                   bytes := (own.map (·.bytes)).flatten, pois := a.pois,
                                   followPois := (own.drop 1).any (·.pois), door := g.door, addr := entryAddr e r i,
                                   owner := reg e (if op = 10 then 0x600A else 0x6009) 5 }
            let e := onRing r (fun g => { g with got := g.got.drop n, entries := g.entries ++ [x] }) e |>
              setReg (ringIdx r) 10 ((i + n) % 2 ^ 32)
            scanGot r fuel (match checkEntry e r x with
              | some z => completeEntry r x.epoch i z 0 e
              | none => e)

/-- Bytes with their poison as entries of 64 bytes. -/
def rawEntries (bs : List (Byte × Bool)) : List RawEntry :=
  (below (bs.length / 64)).map fun k =>
    let x := (bs.drop (64 * k)).take 64
    ⟨x.map (·.1), x.any (·.2)⟩

/-- A read of a ring's entries is over. -/
def endRead (r : Nat) (e : Eng) : Eng :=
  onRing r (fun g => { g with reading := none, sectors := [], retry := none })
    { e with hostReads := e.hostReads.filter fun h => h.use ≠ .ring r }

/-- Entries read enter the scan, and the next read is issued (R289). -/
def takeRead (r : Nat) (bs : List (Byte × Bool)) (e : Eng) : Eng :=
  let e := onRing r (fun g => { g with got := g.got ++ rawEntries bs }) (endRead r e)
  serveRings (scanGot r ((ringOf e r).got.length + 1) e)

/-- Bytes from the host as they reach the block: those of a damaged unit of HST are poisoned (R274). -/
def hostBytes (bytes : List Byte) (ep : Bool) (e : Eng) : List (Byte × Bool) × Eng :=
  (bytes.map fun b => (b, ep || e.hostPois), { e with hostPois := false })

/-- The host's answer to an entry read of a ring (R287, R289). -/
def hostEntryRead (r : Nat) (ans : HostAnswer) (onError : Eng → Eng) (s : State) : Host.Outcome State Fault Refusal :=
  match ans with
  | .error => .next (onEng onError s)
  | .data bytes ep =>
    if bytes.length = 0 ∨ bytes.length % 64 ≠ 0 ∨ 64 * readRoom s.eng r < bytes.length then .fault .outsideEnvironment
    else .next (onEng (fun e => let (bs, e) := hostBytes bytes ep e; takeRead r bs e) s)

/-- The sectors of an entry read from stack memory, once all have come, in address order. -/
def entrySectors (e : Eng) (r : Nat) : Option (List (Byte × Bool)) :=
  let a := readAddr e r
  let xs := (below (2 * readRoom e r)).map fun k => (ringOf e r).sectors.find? (·.1 == a + 32 * k)
  if xs.all (·.isSome) then
    some (xs.flatMap fun x => let s := x.getD (0, 0, 0); sectorBytes s.2.1 s.2.2)
  else none

/-- ENTRY_READ_COMPLETE (R287, R289): the entry read of a ring ends: the host answers it, its sectors have come from stack
memory, or it reads a Pool. After an error response the read is repeated 1024 CCLK later. While no scan takes place (R369)
what comes is not taken, and is read again afterwards. -/
def execEntryReadComplete (r : Fin 64) (ans : HostAnswer) (s : State) : Host.Outcome State Fault Refusal :=
  if (ringOf s.eng r.val).reading.isNone then .next (onEng serveRings s)
  else if !ringsRun s.eng then .next (onEng (endRead r.val) s)
  else match (regionOf (readAddr s.eng r.val)).1 with
    | .host =>
      hostEntryRead r.val ans (fun e =>
        serveRings (onRing r.val (fun g => { g with retry := some (e.now + 1024 * cclkT) }) (endRead r.val e))) s
    | .stack =>
      .next (onEng (fun e => match entrySectors e r.val with | some bs => takeRead r.val bs e | none => e) s)
    | _ =>
      .next (onEng (fun e => takeRead r.val (readLocal e (readAddr e r.val) (64 * readRoom e r.val)) e) s)

/-- R287: the repeat of an entry read has failed too: the ring stops. -/
def stopRing (r : Nat) (e : Eng) : Eng :=
  endScan r e |> setReg (ringIdx r) 8 3 |> bump 0x4002 4 |> raise 79 0

/-- The repeat of an entry read is issued, at its moment (R287). -/
def repeatRead (r t : Nat) (e : Eng) : Eng :=
  issueEntryRead r (onRing r (fun g => { g with retry := none }) (advanceTo t e))

/-- ENTRY_READ_RETRY (R287): the repeat is issued and answered. -/
def execEntryReadRetry (r : Fin 64) (ans : HostAnswer) (s : State) : Host.Outcome State Fault Refusal :=
  match (ringOf s.eng r.val).retry with
  | some t =>
    if (ringOf s.eng r.val).scanning && reg s.eng (ringIdx r.val) 8 == 1 && ringsRun s.eng then
      hostEntryRead r.val ans (stopRing r.val) (onEng (repeatRead r.val t) s)
    else .next s
  | none => .next s

/-- SCAN_RESUME (R289): the limit, the FENCE or the WAIT_GE that ended a scan has cleared. -/
def scanResume (r : Nat) (e : Eng) : Eng :=
  if (ringOf e r).paused && !scanHeld e r && reg e (ringIdx r) 8 == 1 && ringsRun e then beginScan r e else e

/-- SCAN_RESUME (R289). -/
def execScanResume (r : Fin 64) (s : State) : Host.Outcome State Fault Refusal := .next (onEng (scanResume r.val) s)

/-- The entries of a ring that are looked at next: of each epoch the first taken one (R300). -/
def nextEntries (e : Eng) (r : Nat) : List RingEntry :=
  let xs := (ringOf e r).entries.filter (·.stage == .taken)
  xs.filter fun x => xs.all fun y => !y.before x

/-- What follows for a next entry of a ring that has an opcode and can go on now. -/
def onEntry (r op : Nat) (can : Eng → RingEntry → Bool) (f : RingEntry → Eng → Eng) (e : Eng) : Eng :=
  match (nextEntries e r).find? fun x => opcodeOf x.bytes == op && can e x with
  | some x => f x e
  | none => e

/-- Whether an entry's checks may begin: the dispatcher validates while a core restarts and during a handover too (R358). -/
def canCheck : Eng → RingEntry → Bool := fun _ _ => true

/-- Whether an entry may start in its turn (R281, R290), while the dispatcher starts jobs. -/
def canStart (r : Nat) : Eng → RingEntry → Bool := fun e x => ringsRun e && mayStart e r x.epoch x.index

/-- An entry completes DONE. -/
def completeDone (r : Nat) (x : RingEntry) (e : Eng) : Eng := completeEntry r x.epoch x.index okDone 0 e

/-- NOP (R281): it completes as it starts, in its turn. -/
def execNop (r : Fin 64) (s : State) : Host.Outcome State Fault Refusal :=
  .next (onEng (onEntry r.val 0 (canStart r.val) (completeDone r.val)) s)

/-- SKIP (R283): it completes as it starts, in its turn. -/
def execSkip (r : Fin 64) (s : State) : Host.Outcome State Fault Refusal :=
  .next (onEng (onEntry r.val 7 (canStart r.val) (completeDone r.val)) s)

/-- Whether every earlier entry of a ring is complete (R284, R285). -/
def earlierDone (e : Eng) (r : Nat) (x : RingEntry) : Bool :=
  (ringOf e r).entries.all fun y => !y.before x || y.stage == .complete

/-- Whether an entry that follows all earlier ones can go on (R284, R285). -/
def canFollow (r : Nat) : Eng → RingEntry → Bool := fun e x => ringsRun e && earlierDone e r x

/-- FENCE (R284). -/
def execFence (r : Fin 64) (s : State) : Host.Outcome State Fault Refusal :=
  .next (onEng (onEntry r.val 6 (canFollow r.val) (completeDone r.val)) s)

/-- A job for an entry, whose checks now begin (R286). -/
def entryNewJob (r : Nat) (x : RingEntry) (e : Eng) : Job × Eng :=
  let (id, e) := newId e
  let j : Job := { id, op := opcodeOf x.bytes, ring := some r, epoch := x.epoch, index := x.index,
                   context := reg e (ringIdx r) 4, cls := reg e (ringIdx r) 3, addr := entryField x.bytes 16 8,
                   door := x.door }
  (j, addJob j (setEntryStage r x.epoch x.index .checking e))

/-- MOVE (R281): the checks of its descriptor begin. -/
def execMove (r : Fin 64) (s : State) : Host.Outcome State Fault Refusal :=
  .next (onEng (onEntry r.val 1 canCheck fun x e =>
    let (j, e) := entryNewJob r.val x e
    startRecord j 0x2001 0x2002 256 afterDescriptor e) s)

/-- MOVE_INLINE (R282): its four entries hold the descriptor, whose bytes 13 to 15 are taken as zero. -/
def execMoveInline (r : Fin 64) (s : State) : Host.Outcome State Fault Refusal :=
  .next (onEng (onEntry r.val 2 canCheck fun x e =>
    let (j, e) := entryNewJob r.val x e
    checkDescriptor { j with desc := leNat (x.bytes.take 13 ++ [0, 0, 0] ++ x.bytes.drop 16) } e) s)

/-- FRAGMENTS (R108, R281). -/
def execFragments (r : Fin 64) (s : State) : Host.Outcome State Fault Refusal :=
  .next (onEng (onEntry r.val 3 canCheck fun x e =>
    let (j, e) := entryNewJob r.val x e
    startRecord { j with tableAddr := entryField x.bytes 24 8, tableCount := entryField x.bytes 32 4 } 0x2001 0x2002 256
      afterDescriptor e) s)

/-- PACK (R178, R281). -/
def execPack (r : Fin 64) (s : State) : Host.Outcome State Fault Refusal :=
  .next (onEng (onEntry r.val 8 canCheck fun x e =>
    let (j, e) := entryNewJob r.val x e
    startRecord j 0x3E01 0x3E02 64 afterPack e) s)

/-- EXPAND (R178, R281). -/
def execExpand (r : Fin 64) (s : State) : Host.Outcome State Fault Refusal :=
  .next (onEng (onEntry r.val 9 canCheck fun x e =>
    let (j, e) := entryNewJob r.val x e
    startRecord j 0x3E01 0x3E02 64 afterPack e) s)

/-- RESHARD (R281, R349). -/
def execReshard (r : Fin 64) (s : State) : Host.Outcome State Fault Refusal :=
  .next (onEng (onEntry r.val 10 canCheck fun x e =>
    let (j, e) := entryNewJob r.val x e
    startRecord j 0x5801 0x5802 192 afterReshard e) s)

/-- A SEM_OP of an entry reaches the semaphore memory (R285, R331); while the swap queue is full it waits. -/
def entrySemOp (r : Nat) (kind : SemKind) (limit : Nat) (x : RingEntry) (e : Eng) : Eng :=
  let op : SemOp := { kind, ctx := reg e (ringIdx r) 4, v := entryField x.bytes 18 2, value := entryField x.bytes 20 4,
                      source := .ring r x.epoch x.index, limit }
  let (t, e') := semOp op (setEntryStage r x.epoch x.index .started e)
  match t with
  | .full => e
  | .untranslated => completeEntry r x.epoch x.index ⟨.outOfRange, 0x4008⟩ 0 e'
  | .taken => e'

/-- SEM_OP ADD or SUB (R285): applied once every earlier entry is complete. -/
def semAddSub (r code : Nat) (kind : SemKind) (e : Eng) : Eng :=
  onEntry r 5 (fun e x => entryByte x.bytes 16 == code && canFollow r e x) (entrySemOp r kind 0) e

/-- SEM_OP WAIT_GE (R285): it starts in its turn, and its limit runs from then. -/
def execSemOpWaitGe (r : Fin 64) (s : State) : Host.Outcome State Fault Refusal :=
  .next (onEng (onEntry r.val 5 (fun e x => entryByte x.bytes 16 == 1 && canStart r.val e x) fun x e =>
    let n := entryField x.bytes 24 4
    entrySemOp r.val .waitGe (e.now + frameT * if n = 0 then reg e 0x4001 2 else n) x e) s)

/-- SEM_OP ADD (R285). -/
def execSemOpAdd (r : Fin 64) (s : State) : Host.Outcome State Fault Refusal := .next (onEng (semAddSub r.val 2 .add) s)

/-- SEM_OP SUB (R285). -/
def execSemOpSub (r : Fin 64) (s : State) : Host.Outcome State Fault Refusal := .next (onEng (semAddSub r.val 3 .sub) s)

/-- R293 on one small command, after `empty` commands before it: the number of the check that fails, and its status. -/
def checkSmall (e : Eng) (w c : Nat) (empty : Bool) : Option (Nat × Status) :=
  let m := smallCmd (w * 2 ^ (128 + 128 * c)) c
  let inOne (a : Nat) : Bool := a / 4096 == (a + m.len - 1) / 4096
  let reserved := bits w 11 5 + bits w 62 2 + if m.handleForm then 0 else bits w 110 18
  if 1 < m.kind ∨ reserved ≠ 0 ∨ (m.kind = 0 ∧ (c = 0 ∨ w ≠ 0)) ∨ (m.kind = 1 ∧ empty) then some (1, .badEntry)
  else if m.kind = 0 then none
  else if !(ringRegion m.src && inOne m.src) then some (2, .outOfRange)
  else
    let ok := if m.handleForm then
        inOne (m.dst / 2 ^ 24) && (handleBytes e (m.dst % 2 ^ 24)).any fun size => m.dst / 2 ^ 24 + m.len ≤ size
      else (regionOf (m.dst % 2 ^ 46)).1 == .stack && inOne (m.dst % 2 ^ 46)
    if ok then none else some (3, .outOfRange)

/-- R293: the checks of a WEEVIL entry's commands; the first failing command decides. -/
def checkWeevil (e : Eng) (x : Nat) : Option Ending :=
  let w (c : Nat) : Nat := bits x (128 + 128 * c) 128
  (below 3).findSome? fun c =>
    (checkSmall e (w c) c ((below c).any fun k => bits (w k) 0 2 == 0)).map fun f => ⟨f.2, 0x4C00 + 16 * c + f.1⟩

/-- WEEVIL (R293, R294): its commands are checked, and in its turn its copies begin. -/
def weevilEntry (r : Nat) (x : RingEntry) (e : Eng) : Eng :=
  let w := leNat x.bytes
  match checkWeevil e w with
  | some z => completeEntry r x.epoch x.index z 0 e
  | none =>
    let (j, e) := entryNewJob r x e
    let j := { j with desc := w }
    let (j, e) := pinResolved j ((j.copies.filter (·.handleForm)).map fun m => m.dst % 2 ^ 24) e
    let e := passJob j 0 e
    match jobOf e j.id with
    | some y => continueJob y.id (setJob { y with stage := .reading } (setEntryStage r x.epoch x.index .started e))
    | none => e

/-- WEEVIL (R293). -/
def execWeevil (r : Fin 64) (s : State) : Host.Outcome State Fault Refusal :=
  .next (onEng (onEntry r.val 4 (fun e x => (checkWeevil e (leNat x.bytes)).isSome || canStart r.val e x)
    (weevilEntry r.val)) s)

/-- HEAD_WRITE (R297, R298, R304): the latest HEAD_INDEX is written at HEAD_ADDR, the jobs it covers are measured, and
the interrupt is checked. -/
def headWrite (r : Nat) (e : Eng) : Eng :=
  let g := ringOf e r
  if !g.headDue then e
  else
    let e := writeLocalNat (reg e (ringIdx r) 6) 4 (reg e (ringIdx r) 11) e
    let e := g.measure.foldl (fun e m => measureClass0 m.1 m.2 e) e
    settleAbort r (checkIrq r (onRing r (fun g => { g with headDue := false, measure := [] }) e))

/-- HEAD_WRITE (R297). -/
def execHeadWrite (r : Fin 64) (s : State) : Host.Outcome State Fault Refusal := .next (onEng (headWrite r.val) s)

/-- IRQ_MARK (R298): a write arms the ring's interrupt and checks it; while a head write is due the message goes after
it, so that write's own check sends it. -/
def effIrqMark (r : Nat) : Effect := fun v s =>
  (.ok, onEng (fun e =>
    let e := e |> setReg (ringIdx r) 13 v |> setReg (ringIdx r) 15 1
    if (ringOf e r).headDue then e else checkIrq r e) s)

/-- IRQ_MARK_WRITE (R298). -/
def execIrqMarkWrite (p : Port) (r : Fin 64) (v : Word32) (s : State) : Host.Outcome State Fault Refusal :=
  .next (portWrite p (ringIdx r.val) 13 v.toNat (effIrqMark r.val) s)

/-- The records that a job waited for have come: its checks go on, or a re-shard's moves begin. -/
def resumeAny (x : Job) (e : Eng) : Eng :=
  match x.stage, x.op with
  | .descriptor, 8 | .descriptor, 9 => afterPack x (bufBytes x x.addr 64) e
  | .descriptor, 10 => afterReshard x (bufBytes x x.addr 192) e
  | .descriptor, _ | .indexRecord, _ | .table, _ => resumeChecks x e
  | _, 10 =>
    let r := parseReshard x.desc
    afterPeers x (bufBytes x r.peers (4 * r.dst.positions)) e
  | _, _ => continueJob x.id e

/-- A read or a write in stack memory that a job waited for is done (R296). -/
def requestServed (j id : Nat) (e : Eng) : Eng :=
  match jobOf e j with
  | none => e
  | some x =>
    if !x.waits.contains id then e
    else
      let y := { x with waits := x.waits.erase id }
      if y.waits.isEmpty then resumeAny y (setJob y e) else setJob y e

/-- Whether a job is still reading its records. -/
def readsRecords (x : Job) : Bool := x.stage == .descriptor || x.stage == .indexRecord || x.stage == .table

/-- A host read of a job has been answered with data (R294, R296, R413). -/
def hostDataFor (h : HostRead) (x : Job) (bytes : List (Byte × Bool)) (e : Eng) : Eng :=
  let y := { (x.put h.addr bytes) with waits := x.waits.erase h.id }
  let y := if h.data then noteFirst y e else y
  let e := setJob y e
  if y.waits.isEmpty then resumeAny y e else e

/-- A host read of a job has been answered with an error (R111, R287). -/
def hostErrorFor (x : Job) (e : Eng) : Eng :=
  if readsRecords x then failCheck x ⟨.hostError, recordDetail x⟩ 0 e else stopAny x ⟨.hostError, 0x4031⟩ e

/-- Whether a host read is one of a ring's entries, which ENTRY_READ_COMPLETE answers. -/
def HostRead.ofRing (h : HostRead) : Bool := match h.use with | .ring _ => true | _ => false

/-- HOST_READ_COMPLETION (R287, R294, R296): a job's read is answered; the next reads are issued. -/
def execHostReadCompletion (id : Nat) (ans : HostAnswer) (s : State) : Host.Outcome State Fault Refusal :=
  match s.eng.hostReads.find? fun h => h.id == id && h.issued && !h.ofRing with
  | none => .next s
  | some h =>
    let e := { s.eng with hostReads := s.eng.hostReads.filter fun x => x.id ≠ id }
    let job := match h.use with | .job j => (jobOf e j).filter fun x => x.waits.contains id | _ => none
    let go (e : Eng) : State := { s with eng := issueReads e.hostReads.length e }
    match ans, job with
    | .error, some x => .next (go (hostErrorFor x e))
    | .error, none => .next (go e)
    | .data bytes ep, some x =>
      if bytes.length ≠ h.len then .fault .outsideEnvironment
      else
        let (bs, e) := hostBytes bytes ep e
        .next (go (hostDataFor h x bs e))
    | .data bytes ep, none => .next (go (hostBytes bytes ep e).2)

end Sys2Proof.Machine
end

