-- ==== Sys2Proof/Machine/Agents.lean ====
section
/-! DEFINITION. Stack agents (spec/10_stack_agents.md R231 to R261; spec/11_crossings.md R266): sector lists and the
card rule, refresh, read bursts, the Dealer and its grants, near-memory merges, scrub and repair. -/

namespace Sys2Proof.Machine

/-- A counter of a stack agent raised (R261). -/
def agBump (n k by_ : Nat) (e : Eng) : Eng := bumpBy by_ (agIdx n 8) k e

/-- The kind of card (abs, g) at an agent. -/
def kindAt (e : Eng) (n abs g : Nat) : CardKind := cardKind (entryKind (cardAt e n abs g))

/-- R241: the bank that a refresh card refreshes; none where the card is of another kind. -/
def refreshBank (e : Eng) (n abs g : Nat) : Option Nat :=
  if kindAt e n abs g ≠ .refresh then none
  else
    let c := if blankAt e n (abs / 512) then 1 else (countFields (countsAt e (abs / 512))).1 / 64
    let m := ((upFrom (abs / 32 * 32) (abs % 32)).filter fun a => kindAt e n a g == .refresh).length
    some ((c * (abs % 512 / 32) + m) % 16)

/-- R242: whether a bank of a group lies in the shadow of a refresh card in a slot. -/
def shadowed (e : Eng) (n abs g bank : Nat) : Bool :=
  (upFrom (abs - 71) (abs + 13 - (abs - 71))).any fun a => refreshBank e n a g == some bank

/-- An activation that a sector makes on a card (R239). -/
def actOf (abs g off : Nat) (fixed : Bool) : Activation := ⟨abs, g, pcOf off, bankOfOff off, rowOfOff off, fixed⟩

/-- The distinct activations of a card's sectors. -/
def actsOf (abs g : Nat) (offs : List Nat) (fixed : Bool) : List Activation :=
  offs.foldl (fun acc o => let a := actOf abs g o fixed; if acc.contains a then acc else acc ++ [a]) []

/-- R239 on one sector, after the sectors kept on its card, with the activations of other cards to be counted: the first
failing detail. -/
def cardRule (e : Eng) (n abs g : Nat) (others : List Activation) (kept : List Nat) (off : Nat) : Option Nat :=
  let pc := pcOf off
  let mine := (actsOf abs g kept true).filter (·.pc == pc)
  let new := actOf abs g off true
  let fresh := !mine.contains new
  let near := others.filter fun a => a.group == g && a.pc == pc
  let busy := (upFrom (abs - 7) (abs - (abs - 7) + 1)).any fun w =>
    8 < (near.filter fun a => w ≤ a.abs && a.abs < w + 8).length + mine.length + 1
  if groupAt off ≠ g then some 0x3301
  else if 8 ≤ (kept.filter fun o => pcOf o == pc).length then some 0x3302
  else if fresh && 4 ≤ mine.length then some 0x3303
  else if fresh && busy then some 0x3304
  else if fresh && ((near.any fun a => a.bank == new.bank && a.abs < abs + 12 && abs < a.abs + 12) ||
      mine.any fun a => a.bank == new.bank) then some 0x3305
  else if shadowed e n abs g new.bank then some 0x3306
  else none

/-- R266: sectors cut into runs: the number of the run of each sector, from a first number on. -/
def runNumbers : List Nat → Option (Nat × Nat) → Nat → List Nat
  | [], _, _ => []
  | off :: t, last, k =>
    match last with
    | some (prev, len) =>
      if off = prev + 32 ∧ off / 4096 = prev / 4096 ∧ len < 128 then k :: runNumbers t (some (off, len + 1)) k
      else (k + 1) :: runNumbers t (some (off, 1)) (k + 1)
    | none => (k + 1) :: runNumbers t (some (off, 1)) (k + 1)

/-- The slot of a station whose armed stream a share may take sectors from (R194, R213): the stream named, of the
card's direction, armed early enough and not cancelled too early; `start` is the card's start in SPCLK. -/
def shareSlot (e : Eng) (x : Share) (write : Bool) (start : Nat) : Option Nat :=
  let d := dockOf e x.station
  (d.streams.find? fun q =>
    let r := recOf d q.1
    r.id == x.stream && r.inStack && (r.kind == 2) == write && !q.2.expired && !q.2.failed &&
      (q.2.armedAt + 1) / 2 + 128 ≤ start && (match q.2.cancelAt with | some c => start < (c + 1) / 2 + 128 | none => true)).map
    (·.1)

/-- The sectors that one share of a card takes, from place `j` on (R213, R344); a share that carries none counts as an
idle card. -/
def takeShare (n abs g : Nat) (write : Bool) (x : Share) (j : Nat) (e : Eng) : List ListedSector × Nat × Eng :=
  let idle (e : Eng) : Eng := bump (stIdx x.station 0x30) 10 e
  match shareSlot e x write (8 * abs) with
  | none => ([], j, idle e)
  | some slot =>
    let d := dockOf e x.station
    let r := recOf d slot
    match streamOf d slot with
    | none => ([], j, idle e)
    | some y =>
      let (xs, y) := takeSectors e x.station r x.part (pairOf r n g) x.sect y
      let e := onDock x.station (setStream slot y) e
      let listed := ((below xs.length).zip xs).filterMap fun z => z.2.map fun v =>
        let a := viewAddr e r.view (fieldOfStation x.station) v.2
        ({ station := x.station, slot, part := x.part, seq := v.1, off := a % 0x1000000000, j := j + z.1,
           stream := x.stream } : ListedSector)
      (listed, j + xs.length, if listed.isEmpty then idle e else e)

/-- The list of one static card (R194, R213). -/
def cardList (n abs g : Nat) (e : Eng) : Option CardList × Eng :=
  let w := cardAt e n abs g
  if !isStatic w then (none, e)
  else
    let write := entryKind w == 2
    let (xs, _, e) := (sharesOf w).foldl (fun (acc : List ListedSector × Nat × Eng) x =>
      let (ys, j, e) := takeShare n abs g write x acc.2.1 acc.2.2
      (acc.1 ++ ys, j, e)) ([], 0, e)
    (some ⟨abs, g, write, xs⟩, e)

/-- R266: the lists of a slot's four cards sent as at most 24 runs: sectors of later runs are dropped. -/
def dropRuns (n abs : Nat) (ls : List CardList) (e : Eng) : List CardList × Eng :=
  let (ls, _, dropped) := ls.foldl (fun (acc : List CardList × Nat × Nat) l =>
    let ks := runNumbers (l.sectors.map (·.off)) none acc.2.1
    let xs := (l.sectors.zip ks).map fun x => if 24 < x.2 then { x.1 with dropped := true } else x.1
    (acc.1 ++ [{ l with sectors := xs }], (ks.getLast?).getD acc.2.1, acc.2.2 + (ks.filter (24 < ·)).length)) ([], 0, 0)
  if dropped = 0 then (ls, e)
  else (ls, e |> bumpBy dropped (0x3900 + n) 11 |> setReg (0x3900 + n) 12 (0x3901 + abs % 512 * 2 ^ 16) |>
    raise (48 + n) 0x3901)

/-- The sectors of a static write card leave the Pools (R218), each at its own SPCLK ahead of the card. -/
def drawList (n abs : Nat) : List ListedSector → Eng → List ListedSector × Eng
  | [], e => ([], e)
  | x :: t, e =>
    let h := stitches (fieldOfAgent n) (fieldOfStation x.station)
    let (drawn, e) := drainSector x.station x.slot x.part x.seq (((8 * abs + x.j / 16 : Nat) : Int) - 192 - 24 * (h : Int)) e
    let (xs, e) := drawList n abs t e
    ({ x with drawn } :: xs, e)

/-- The sectors of a slot's write cards leave the Pools. -/
def drawLists (n abs : Nat) : List CardList → Eng → List CardList × Eng
  | [], e => ([], e)
  | l :: t, e =>
    let (xs, e) := if l.write then drawList n abs l.sectors e else (l.sectors, e)
    let (ls, e) := drawLists n abs t e
    ({ l with sectors := xs } :: ls, e)

/-- SECTOR_LIST_SEND (R194, R213, R218, R266): the lists of a slot's static cards are made and sent; what their write
cards carry has left the Pools by then. -/
def sectorListSend (n abs : Nat) (e : Eng) : Eng :=
  if e.spBase.isNone ∨ (agentOf e n).lists.any (·.abs == abs) then e
  else
    let e := advanceSp (8 * abs - 128) e
    let (ls, e) := (below 4).foldl (fun (acc : List CardList × Eng) g =>
      let (l, e) := cardList n abs g acc.2
      (acc.1 ++ l.toList, e)) ([], e)
    let (ls, e) := dropRuns n abs ls e
    let (ls, e) := drawLists n abs ls e
    onAgent n (fun a => { a with lists := a.lists ++ ls }) e

/-- SECTOR_LIST_SEND (R194, R266). -/
def execSectorListSend (n : Fin 24) (abs : Nat) (s : State) : Host.Outcome State Fault Refusal :=
  .next (onEng (sectorListSend n.val abs) s)

/-- LAST_CARD_BREAK (R260). -/
def cardBreakWord (abs g detail : Nat) (x : ListedSector) : Nat :=
  detail + abs % 512 * 2 ^ 16 + g * 2 ^ 25 + bankOfOff x.off * 2 ^ 27 + pcOf x.off * 2 ^ 31 + x.stream * 2 ^ 35 + 2 ^ 51

/-- R239, R240: the card rule on a list: its sectors, those that break it dropped, and the breaks in order. -/
def ruleList (e : Eng) (n abs g : Nat) (others : List Activation) :
    List ListedSector → List Nat → List ListedSector × List (Nat × ListedSector)
  | [], _ => ([], [])
  | x :: t, kept =>
    if x.dropped then
      let (xs, bs) := ruleList e n abs g others t kept
      (x :: xs, bs)
    else match cardRule e n abs g others kept x.off with
      | some d =>
        let (xs, bs) := ruleList e n abs g others t kept
        ({ x with dropped := true } :: xs, (d, x) :: bs)
      | none =>
        let (xs, bs) := ruleList e n abs g others t (kept ++ [x.off])
        (x :: xs, bs)

/-- SECTOR_LIST_ARRIVE (R236, R239, R240, R267): a card's list reaches the stack agent, 48 SPCLK after it was sent, and the
agent applies the card rule (log entry 140). -/
def sectorListArrive (n abs g : Nat) (e : Eng) : Eng :=
  let a := agentOf e n
  match a.lists.find? fun l => l.abs == abs && l.group == g with
  | none => e
  | some l =>
    let drop (a : Agent) : Agent := { a with lists := a.lists.filter fun x => !(x.abs == abs && x.group == g) }
    if !partUp e (48 + n) then onAgent n drop e
    else
      let e := advanceSp (8 * abs - 80) e
      let (xs, bs) := ruleList e n abs g (a.acts.filter (·.fixed)) l.sectors []
      let acts := actsOf abs g ((xs.filter fun x => !x.dropped).map (·.off)) true
      let e := onAgent n (fun a =>
        { drop a with kept := a.kept ++ [{ l with sectors := xs }],
                      acts := a.acts.filter (fun x => abs < x.abs + 32) ++ acts }) e
      match bs with
      | [] => e
      | (d, x) :: _ =>
        e |> agBump n 20 bs.length |> setReg (agIdx n 9) 1 (cardBreakWord abs g d x) |> raise (48 + n) d

/-- SECTOR_LIST_ARRIVE (R236, R239). -/
def execSectorListArrive (n : Fin 24) (abs : Nat) (g : Fin 4) (s : State) : Host.Outcome State Fault Refusal :=
  .next (onEng (sectorListArrive n.val abs g.val) s)

/-- A card's commands at XDn (R233), where it has any. -/
def xdnCard (n abs g : Nat) (cmds : List XdnCmd) (e : Eng) : Eng := if cmds.isEmpty then e else emit (.xdn n abs g cmds) e

/-- The activates that a card's sectors need (R239). -/
def activates (abs g : Nat) (offs : List Nat) : List XdnCmd :=
  (actsOf abs g offs true).map fun a => .activate a.pc a.bank a.row

/-- A card that carries sectors counts in the power estimate of its window (R400). -/
def countCard (plain : Bool) (e : Eng) : Eng :=
  { e with power := if plain then { e.power with plain := e.power.plain + 1 }
                    else { e.power with cards := e.power.cards + 1 } }

/-- A write to a sector is accepted (R236, R414). -/
def acceptWrite (n off t data mask pois : Nat) (e : Eng) : Eng :=
  writeSector n off data mask pois (beforeWrite n off t e)

/-- The list of a static card at its time, taken off the agent. -/
def takeKept (n abs g : Nat) (write : Bool) (e : Eng) : Option CardList × Eng :=
  let mine (l : CardList) : Bool := l.abs == abs && l.group == g && l.write == write
  ((agentOf e n).kept.find? mine, onAgent n (fun a => { a with kept := a.kept.filter fun l => !mine l }) e)

/-- The lane on which sector `j` of a card crosses (R263). -/
def laneOf (g j : Nat) : Nat := 16 * g + j % 16

/-- The sectors of a static card that move (R218, R229, R240): those not dropped, whose slots on the spine are static still;
none where the card's own Hand entry was found uncorrectable. -/
def moving (e : Eng) (n abs g : Nat) (l : CardList) : List ListedSector :=
  if e.deck.loosened.contains (n, abs, g) then []
  else l.sectors.filter fun x => !x.dropped && !spineLost e n abs l.write x.station

/-- STATIC_READ_CARD (R218, R229, R236): the Hand entry is read, and the card's sectors are read for their stations. -/
def staticReadCard (n abs g : Nat) (ecc : EccResult) (e : Eng) : Eng :=
  match takeKept n abs g false e with
  | (none, _) => e
  | (some l, e) =>
    let e := readHandEntry n abs g ecc (advanceSp (8 * abs) e)
    let xs := moving e n abs g l
    let bursts := xs.map fun x =>
      let h := stitches (fieldOfAgent n) (fieldOfStation x.station)
      ({ owner := none, req := 0, off := x.off, lane := laneOf g x.j, readAt := 8 * abs + 200, hand := 8 * abs + 448 + x.j / 16,
         station := some (x.station, x.slot, ⟨x.part, x.seq, x.off, 0, 0, 8 * abs + 640 + 24 * h + x.j / 16⟩) } : Burst)
    let e := onAgent n (fun a => { a with bursts := a.bursts ++ bursts }) e
    let e := xdnCard n abs g (activates abs g (xs.map (·.off)) ++ xs.map fun x => .read x.off) e
    if xs.isEmpty then e else countCard false e

/-- STATIC_READ_CARD (R236). -/
def execStaticReadCard (n : Fin 24) (abs : Nat) (g : Fin 4) (ecc : EccResult) (s : State) :
    Host.Outcome State Fault Refusal :=
  .next (onEng (staticReadCard n.val abs g.val ecc) s)

/-- A whole sector as atoms at its stack offset, word by word poisoned. -/
def wholeAtoms (off data pois : Nat) : List Atom :=
  (below 32).map fun k => .bits ((off / 32 * 32 + k : Nat) : Int) 255 (bits data (8 * k) 8) (bit pois (k / 4))

/-- The bytes that atoms write to a sector, with their mask, and the words that carry poison. -/
def atomsData (atoms : List Atom) : Nat × Nat × Nat :=
  atoms.foldl (fun (acc : Nat × Nat × Nat) a =>
    let k := (a.addr % 32).toNat
    match a with
    | .add .. => acc
    | _ => (setBits acc.1 (8 * k) 8 (applyAtom (bits acc.1 (8 * k) 8) a), acc.2.1 ||| 2 ^ k,
        if a.pois then acc.2.2 ||| 2 ^ (k / 4) else acc.2.2)) (0, 0, 0)

/-- R256: the sum of an element and a contribution, and whether it wraps. -/
def combineElem (f : Fmt) (old new : Nat) : Nat × Bool :=
  if f.isInteger then
    let z := signed f.width old + signed f.width new
    (unsigned f.width z, decide (z < -(2 ^ (f.width - 1) : Nat) ∨ (2 ^ (f.width - 1) : Nat) ≤ z))
  else ((convert (valAdd (decodeElem f old) (decodeElem f new)) f .rne true 0).1, false)

/-- R257, R414: what the write phase of a merge writes, from the sector as read: its bytes, its poisoned words, and the
INT32 sums that wrapped. -/
def mergeSector (data pois : Nat) (atoms : List Atom) : Nat × Nat × Nat :=
  let (data', adds, wraps) := atoms.foldl (fun (acc : Nat × Nat × Nat) a =>
    let k := (a.addr % 32).toNat
    match a with
    | .add _ f c p =>
      let w := f.width
      let (v, wrapped) := combineElem f (bits acc.1 (8 * k) w) c
      (setBits acc.1 (8 * k) w v, if p then acc.2.1 ||| 2 ^ (k / 4) else acc.2.1, acc.2.2 + if wrapped then 1 else 0)
    | _ => (setBits acc.1 (8 * k) 8 (applyAtom (bits acc.1 (8 * k) 8) a), acc.2.1, acc.2.2)) (data, 0, 0)
  let (_, _, new) := atomsData atoms
  let wholeWord (w : Nat) : Bool := !(atoms.any Atom.isAdd) && (below 4).all fun b => byteWhole atoms (4 * w + b)
  let kept := (below 8).foldl (fun m w => if wholeWord w then m else m ||| (pois &&& 2 ^ w)) 0
  (data', kept ||| new ||| adds, wraps)

/-- Whether what has left the Pool for a sector is still to be written (R195, R199): its stream has not failed, and was not
cancelled before the card began. -/
def stillWrites (e : Eng) (abs : Nat) (x : ListedSector) : Bool :=
  match streamOf (dockOf e x.station) x.slot with
  | some y => !y.failed && (match y.cancelAt with | some c => decide (16 * abs ≤ c) | none => true)
  | none => true

/-- What a static write card writes to one sector: its bytes, the mask of those touched, and their poison (R87, R218). -/
def listedWrite (e : Eng) (n : Nat) (x : ListedSector) : Nat × Nat × Nat :=
  let atoms := x.drawn.getD []
  let (data, pois, _) := mergeSector (sectorData e n x.off) (poisonMask e n x.off) atoms
  (data, (atomsData atoms).2.1, pois)

/-- The sectors of a static write card are accepted one after the other; the write commands that follow at XDn (R236). -/
def writeSectors (n abs : Nat) : List ListedSector → Eng → List XdnCmd × Eng
  | [], e => ([], e)
  | x :: t, e =>
    let (data, mask, pois) := listedWrite e n x
    let (cmds, e) := writeSectors n abs t (acceptWrite n x.off (8 * abs + x.j / 16) data mask pois e)
    (.write x.off data :: cmds, e)

/-- R201: the sectors that a write card has carried for each result stream are counted; one whose last sector it carried
ends once that is durable, unless it was cancelled. -/
def endDrained (abs last : Nat) (xs : List ListedSector) (e : Eng) : Eng :=
  ((xs.map fun x => (x.station, x.slot)).eraseDups).foldl (fun e q =>
    match streamOf (dockOf e q.1) q.2 with
    | none => e
    | some y =>
      let y := { y with carried := y.carried + (xs.filter fun x => (x.station, x.slot) == q).length }
      let e := onDock q.1 (setStream q.2 y) e
      if allDrained (recOf (dockOf e q.1) q.2) y && y.cancelAt.isNone then
        endStream q.1 q.2 (2 * (8 * abs + 64 + last / 16) + 1280) e
      else e) e

/-- STATIC_WRITE_CARD (R195, R199, R201, R218, R229, R236): what has left the Pools for the card's sectors is written. -/
def staticWriteCard (n abs g : Nat) (ecc : EccResult) (e : Eng) : Eng :=
  match takeKept n abs g true e with
  | (none, _) => e
  | (some l, e) =>
    let e := readHandEntry n abs g ecc (advanceSp (8 * abs) e)
    let came := l.sectors.filter fun x => x.drawn.isSome && stillWrites e abs x
    let xs := (moving e n abs g l).filter came.contains
    let (cmds, e) := writeSectors n abs xs e
    let e := xdnCard n abs g (activates abs g (xs.map (·.off)) ++ cmds) e
    let e := if xs.isEmpty then e else countCard false e
    endDrained abs ((l.sectors.getLast?.map (·.j)).getD 0) came e

/-- STATIC_WRITE_CARD (R236). -/
def execStaticWriteCard (n : Fin 24) (abs : Nat) (g : Fin 4) (ecc : EccResult) (s : State) :
    Host.Outcome State Fault Refusal :=
  .next (onEng (staticWriteCard n.val abs g.val ecc) s)

/-- The owed count of a bank of a group: the same on its 16 pseudo-channels (R243). -/
def owedOf (e : Eng) (n g bank : Nat) : Int := storeGet (fun _ => 0) (agentOf e n).owed (16 * g + bank)

/-- A bank's owed count set, and OWED_MAX kept (R243). -/
def setOwed (n g bank : Nat) (v : Int) (e : Eng) : Eng :=
  let e := onAgent n (fun a => { a with owed := storeSet (fun _ => 0) (16 * g + bank) v a.owed }) e
  if signed 32 (reg e (agIdx n 2) 3) < v then setReg (agIdx n 2) 3 (unsigned 32 v) e else e

/-- Whether some bank of a stack stands at 8 (R246, R402). -/
def anyAtEight (e : Eng) (n : Nat) : Bool := (agentOf e n).owed.any fun x => x.2 == 8

/-- A THROTTLE message (R395, R402): 1 request, 0 clear. -/
def throttleMessage (n on : Nat) (e : Eng) : Eng :=
  sendPwr (BitVec.ofNat 32 (4 * 2 ^ 28 + n + on * 2 ^ 5)) (if on = 1 then bump 0x1103 5 e else e)

/-- R402: a stack whose banks have reached 8 asks for throttling; one whose banks are all below 8 again clears it. -/
def checkThrottle (n : Nat) (e : Eng) : Eng :=
  let standing := bit (reg e 0x1104 1) n
  let need := anyAtEight e n
  let w := reg e 0x1104 1
  if need && !standing then
    let e := throttleMessage n 1 (setReg 0x1104 1 (w + 2 ^ n) e)
    { e with power := { e.power with
        throttleAt := storeSet (fun _ => 0) n (e.now + 1000 * aonT) e.power.throttleAt
        throttleSince := storeSet (fun _ => 0) n (e.now + 1) e.power.throttleSince } }
  else if standing && !need then throttleMessage n 0 (setReg 0x1104 1 (w - 2 ^ n) e)
  else e

/-- R241, R243: a refresh issued to a bank lowers its owed count. -/
def issueRefresh (n g bank : Nat) (e : Eng) : Eng := checkThrottle n (setOwed n g bank (owedOf e n g bank - 1) e)

/-- The last-chance card of a catch-up (R244); none where its window holds no plain dynamic card. -/
def lastChance (e : Eng) (n : Nat) (c : Catchup) : Option Nat :=
  ((upFrom (c.slot + 30) 10).filter fun a => kindAt e n a c.group == .dynamic).getLast?

/-- REFRESH_CARD (R241 to R244): the normal refresh, and a catch-up request where the bank is still behind. -/
def refreshCard (n abs g : Nat) (e : Eng) : Eng :=
  match refreshBank e n abs g with
  | none => e
  | some bank =>
    if !(agentOf e n).initDone ∨ owedOf e n g bank = -8 then e
    else
      let e := xdnCard n abs g [.refresh bank] (agBump n 1 1 (issueRefresh n g bank (advanceSp (8 * abs) e)))
      if owedOf e n g bank < reg e (agIdx n 2) 1 then e
      else
        let c : Catchup := ⟨g, bank, abs⟩
        match lastChance e n c with
        | none => agBump n 21 1 e
        | some _ => onAgent n (fun a => { a with catchups := a.catchups ++ [c] }) e

/-- REFRESH_CARD (R241). -/
def execRefreshCard (n : Fin 24) (abs : Nat) (g : Fin 4) (s : State) : Host.Outcome State Fault Refusal :=
  .next (onEng (refreshCard n.val abs g.val) s)

/-- The SPCLK between two rises of the owed counts, by the sampled refresh-rate indication (R233, R243). -/
def owedPeriod (rate : Nat) : Nat := match rate with | 0 => 7020 | 1 => 3510 | _ => 1755

/-- OWED_TICK (R243, R246): every bank of a stack owes one more refresh. -/
def owedTick (n : Nat) (e : Eng) : Eng :=
  let a := agentOf e n
  if !a.initDone then e
  else
    let t := a.owedAt + owedPeriod (reg e (agIdx n 0) 2)
    let e := onAgent n (fun a => { a with owedAt := t }) (advanceSp t e)
    let e := (below 64).foldl (fun e k =>
      let v := owedOf e n (k / 16) (k % 16)
      if v = 8 then e
      else
        let e := setOwed n (k / 16) (k % 16) (v + 1) e
        if v = 7 then raise (48 + n) 0x3310 (agBump n 4 16 e) else e) e
    checkThrottle n e

/-- OWED_TICK (R243). -/
def execOwedTick (n : Fin 24) (s : State) : Host.Outcome State Fault Refusal := .next (onEng (owedTick n.val) s)

/-- The message of a link agent that a request belongs to. -/
def onMessage (p id : Nat) (f : InMsg → InMsg) (e : Eng) : Eng :=
  let g (m : InMsg) : InMsg := if m.id = id then f m else m
  onLink p (fun l => { l with chans := l.chans.map fun c =>
    (c.1, { c.2 with held := c.2.held.map g, applied := c.2.applied.map g }) }) e

/-- A request is complete: its requester hears of it. -/
def requestDone (owner : Owner) (id : Nat) (e : Eng) : Eng :=
  match owner with
  | .job j => requestServed j id e
  | .message p m => onMessage p m (fun x => { x with waits := x.waits.erase id }) e
  | _ => e

/-- Whether anything of a request is still on its way at an agent (R247). -/
def requestLives (a : Agent) (id : Nat) : Bool :=
  a.pending.any (·.id == id) || a.grants.any (fun g => g.parts.any (·.id == id)) || a.bursts.any (fun b => b.owner.isSome && b.req == id)

/-- R257: after something of a request has been done: a merge whose granted sectors have all been read enters its write
phase, or adds them to it, and a request with nothing left is complete. -/
def settleRequest (n id : Nat) (e : Eng) : Eng :=
  let a := agentOf e n
  match a.granted.find? (·.id == id) with
  | none => e
  | some r =>
    if a.bursts.any (fun b => b.owner.isSome && b.req == id) then e
    else if !r.sects.isEmpty then
      let drain (x : Req) : Bool := x.id == id && x.kind == .mergeWrite
      onAgent n (fun a => { a with
        granted := a.granted.map fun x => if x.id = id then { x with sects := [] } else x
        pending := if a.pending.any drain then
            a.pending.map fun x => if drain x then { x with sects := x.sects ++ r.sects } else x
          else a.pending ++ [{ r with kind := .mergeWrite, drain := true, trumped := false }] }) e
    else if requestLives a id then e
    else requestDone r.owner id (onAgent n (fun a => { a with granted := a.granted.filter (·.id ≠ id) }) e)

/-- A repair of a sector is queued (R238, R259). -/
def queueRepair (n off data pois : Nat) (e : Eng) : Eng :=
  let (id, e) := newId e
  let r : Req := { id, owner := .repair, kind := .repair, lane := laneWrite, cls := 3, lst := spNow e + 65536,
                   group := groupAt off, sects := [⟨off, wholeAtoms off data pois⟩] }
  onAgent n (fun a => { a with inbox := a.inbox ++ [r] }) e

/-- R238, R259: a burst is judged on its severity: what is delivered of its poison, with its counts and its repair. -/
def judgeBurst (n sev off data pois : Nat) (late : Bool) (e : Eng) : Nat × Eng :=
  match sev with
  | 0 => (pois, e)
  | 1 => (pois, let e := agBump n 16 1 e; if late then e else queueRepair n off data pois e)
  | _ => (255, e |> agBump n 17 1 |> setReg (agIdx n 9) 2 off |> raise (48 + n) 0)

/-- A sector after its crossing (R264): words that arrived in the poison code have their data bits as received. -/
def crossed (data pois hurt received : Nat) : Nat × Nat :=
  ((below 8).foldl (fun d w => if bit hurt w then setBits d (32 * w) 32 (bits received (32 * w) 32) else d) data, pois ||| hurt)

/-- A sector of stack memory reaches its reader, by local address (R236). An index of a receive queue is taken from it at
once (R323). -/
def sectorsFor (owner : Owner) (id : Nat) (xs : List (Nat × Nat × Nat)) (e : Eng) : Eng :=
  match owner with
  | .job j => jobSectors j xs e
  | .ring r => onRing r (fun g => if g.reading = some id then { g with sectors := g.sectors ++ xs } else g) e
  | .queue p q =>
    if (queueOf e p q).reading = some id then
      queueIndexRead p q (bits ((xs.headD (0, 0, 0)).2.1) (8 * (queueField e p q 16 8 % 32)) 32) e
    else e
  | _ => e

/-- R255: the sectors of a transposed read have all been read: they cross turned, and its holding register puts their
elements back in their places. -/
def turnedSectors (n : Nat) (r : Req) : List (Nat × Nat × Nat) :=
  let out := (turnSectors r.turn (r.gathered.map fun x => (x.2.1, x.2.2.1))).zip r.gathered
  let came := out.map fun x => crossed x.1.1 x.1.2 x.2.2.2.2.1 x.2.2.2.2.2
  ((turnSectors r.turn came).zip r.gathered).map fun x => (n * 0x1000000000 + x.2.1 / 32 * 32, x.1.1, x.1.2)

/-- A sector of a merge has been read (R256, R257): what its write phase will write is kept with the request. -/
def mergeRead (n : Nat) (b : Burst) (owner : Owner) (data pois : Nat) (e : Eng) : Eng :=
  let (v, p, wraps) := mergeSector data pois b.merge
  let mark := (b.merge.find? Atom.isAdd).toList
  let e := agBump n 15 wraps e
  let e := match owner with
    | .job j => if p = 0 then e else (match jobOf e j with | some x => setJob { x with pois := true } e | none => e)
    | _ => e
  onAgent n (fun a => { a with granted := a.granted.map fun r =>
    if r.id = b.req then { r with sects := r.sects ++ [⟨b.off, wholeAtoms b.off v p ++ mark⟩] } else r }) e

/-- A sector that a request reads crosses and reaches its requester, 192 SPCLK and 24 for each stitch line after its
hand-over (R236, R268); a transposed read waits for all its sectors (R255); what the scrubber reads stays in the agent. -/
def readSector (n : Nat) (b : Burst) (r : Req) (data pois : Nat) (e : Eng) : Eng :=
  if r.owner = .scrub then e
  else if r.turn = 0 then
    let (data, pois) := crossed data pois b.hurt b.received
    sectorsFor r.owner r.id [(n * 0x1000000000 + b.off / 32 * 32, data, pois)]
      (advanceSp (b.hand + 192 + 24 * stitches (fieldOfAgent n) r.field) e)
  else
    let r := { r with gathered := r.gathered ++ [(b.off, data, pois, b.hurt, b.received)] }
    let e := onAgent n (fun a => { a with granted := a.granted.map fun x => if x.id = r.id then r else x }) e
    if r.gathered.length < 32 / r.turn then e
    else sectorsFor r.owner r.id (turnedSectors n r) (advanceSp (b.hand + 192 + 24 * stitches (fieldOfAgent n) r.field) e)

/-- A dynamic burst reaches its requester (R236, R257). One whose request is no longer outstanding under its tag and epoch
is discarded, and its requester counts it (R253). -/
def deliverBurst (n : Nat) (b : Burst) (owner : Owner) (data pois : Nat) (e : Eng) : Eng :=
  match (agentOf e n).granted.find? fun r => r.id == b.req && r.tag == b.tag && r.epoch == b.epoch with
  | none => { e with stale := storeSet (fun _ => 0) b.sender (storeGet (fun _ => 0) e.stale b.sender + 1) e.stale }
  | some r => settleRequest n b.req (if b.merge.isEmpty then readSector n b r data pois e else mergeRead n b owner data pois e)

/-- The burst that is handed over first. -/
def firstBurst : List Burst → Option Burst
  | [] => none
  | b :: t => match firstBurst t with
    | some c => some (if c.hand < b.hand then c else b)
    | none => some b

/-- READ_BURST (R236 to R238, R257): the next burst read leaves the stack agent, at the SPCLK of its hand-over. -/
def readBurst (n sev : Nat) (e : Eng) : Eng :=
  match firstBurst (agentOf e n).bursts with
  | none => e
  | some b =>
    let e := advanceSp b.hand (onAgent n (fun a => { a with bursts := a.bursts.erase b }) e)
    let (data, pois) := b.captured.getD (sectorData e n b.off, poisonMask e n b.off)
    let (pois, e) := judgeBurst n sev b.off data pois b.captured.isSome e
    let pois := if b.lostRoute && b.merge.isEmpty then 255 else pois
    match b.station, b.owner with
    | some (s, slot, l), _ =>
      let (data, pois) := crossed data pois b.hurt b.received
      onDock s (fun d => { d with arriving := d.arriving ++ [⟨n, b.lane, slot, l.pos, { l with data, pois, pos := 0 }⟩] }) e
    | none, some o => deliverBurst n b o data pois e
    | none, none => e

/-- READ_BURST (R238). -/
def execReadBurst (n : Fin 24) (sev : BitVec 2) (s : State) : Host.Outcome State Fault Refusal :=
  .next (onEng (readBurst n.val sev.toNat) s)

/-- R385: a request that meets the isolation wrapper of a part in reset: reads are answered with poison, writes are
discarded. -/
def answerIsolated (n : Nat) (r : Req) (e : Eng) : Eng :=
  let poisoned := r.sects.map fun x => (n * 0x1000000000 + x.off / 32 * 32, 0, 255)
  match r.owner with
  | .job j =>
    let read := r.kind = .read
    let e := match jobOf e j with
      | some x => setJob (if read then { x with isoRead := true, pois := true } else { x with isoWrite := true }) e
      | none => e
    requestServed j r.id (if read then jobSectors j poisoned e else e)
  | .ring _ => sectorsFor r.owner r.id poisoned e
  | .queue p q =>
    if r.kind = .read ∧ (queueOf e p q).reading = some r.id then
      let (v, e) := takeFree e
      queueIndexRead p q (v % 2 ^ 32) e
    else e
  | .message p m =>
    onMessage p m (fun x => { x with
      waits := x.waits.erase r.id, failure := some (x.failure.getD (0, ⟨.remoteError, 0x1203⟩)) }) e
  | _ => e

/-- The requests at an agent that hold a tag (R253): a merge holds one for both phases. -/
def tagged (a : Agent) : List Req := a.pending ++ a.granted

/-- The lowest free tag of an agent. -/
def freeTag (a : Agent) : Option Nat := (below 4096).find? fun t => (tagged a).all (·.tag ≠ t)

/-- The tags of an agent in use (R253, R260). -/
def tagsInUse (a : Agent) : Nat := ((tagged a).map (·.tag)).eraseDups.length

/-- The bytes of write data that a request holds in the staging: those of its sectors, or of a fill request its pattern
(R247, R258). -/
def Req.dataBytes (r : Req) : Nat := if r.kind = .read then 0 else if r.fill then 32 else 32 * r.sects.length

/-- The bytes of write data in an agent's staging (R247): of requests pending or granted, and of merges between their
phases. -/
def stagingUsed (a : Agent) : Nat :=
  let here := (a.pending ++ a.grants.flatMap (·.parts)).filter fun r => r.kind ≠ .read
  let fills := ((tagged a).filter (·.fill)).map (·.id)
  let merging := (a.bursts.filter fun b => !b.merge.isEmpty && !fills.contains b.req).length +
    ((a.granted.filter fun r => !r.fill).map (·.sects.length)).sum
  ((here.filter fun r => !r.fill).map Req.dataBytes).sum + 32 * merging + 32 * fills.eraseDups.length

/-- Requests of an inbox that wait before they reach their agent: each counts once in a counter (R247, R253). -/
def noteWaits (n counter : Nat) (waits : Req → Bool) (e : Eng) : Eng :=
  let new (r : Req) : Bool := waits r && !r.waited.contains counter
  let mark (r : Req) : Req := if new r then { r with waited := counter :: r.waited } else r
  agBump n counter ((agentOf e n).inbox.filter new).length (onAgent n (fun a => { a with inbox := a.inbox.map mark }) e)

/-- Whether a request can reach its agent, and the path eighth it uses: requests and write data cross stitch lines
under an allocation of their station or link agent (R273). -/
def canArrive (e : Eng) (n : Nat) (r : Req) : Option (Option (Nat × Nat × List Nat)) :=
  match r.spine with
  | none => some none
  | some _ => (heldEighth e r.sender none (pathSegs r.field (fieldOfAgent n))).map some

/-- Whether the crossing of an agent has a downward lane that static sectors leave free now (R263). -/
def downFree (e : Eng) (n : Nat) : Bool :=
  let t := spNow e
  let fixed := (agentOf e n).kept.flatMap fun l => if l.write then l.sectors.filter fun x => 8 * l.abs + x.j / 16 == t + 4 else []
  decide (fixed.length < 64)

/-- Whether an agent's staging has room for the data of a request (R247). -/
def stagingRoom (a : Agent) (r : Req) : Bool := stagingUsed a + r.dataBytes ≤ 524288

/-- The order in which waiting requests go down: those without data first, then by class, then as they were issued (R263,
R291). -/
def Req.downBefore (a b : Req) : Bool :=
  let x := if a.kind = .read then 0 else 1
  let y := if b.kind = .read then 0 else 1
  x < y || (x == y && (a.cls < b.cls || (a.cls == b.cls && a.id < b.id)))

/-- The least of some requests under an order. -/
def leastReq (less : Req → Req → Bool) : List Req → Option Req
  | [] => none
  | a :: t => match leastReq less t with
    | none => some a
    | some b => some (if less b a then b else a)

/-- A request reaches its agent: it takes a tag, whose epoch advances, and its number (R247, R253). -/
def admitRequest (n tag : Nat) (r : Req) (e : Eng) : Eng :=
  let epoch := (storeGet (fun _ => 0) (agentOf e n).epochs tag + 1) % 16
  onAgent n (fun a => { a with
    epochs := storeSet (fun _ => 0) tag epoch a.epochs
    arrivals := a.arrivals + 1
    pending := a.pending ++ [{ r with tag, epoch, arrival := a.arrivals, waited := [] }] }) e

/-- A request leaves its requester's wait. -/
def leaveInbox (n : Nat) (r : Req) (e : Eng) : Eng :=
  onAgent n (fun a => { a with inbox := a.inbox.filter (·.id ≠ r.id) }) e

/-- A request crosses to its agent (R267, R273): 48 SPCLK down its crossing, and 24 for each stitch line under its eighth;
the agent's own requests cross nothing. -/
def crossDown (h : Option (Nat × Nat × List Nat)) (r : Req) (e : Eng) : Eng :=
  match r.owner, h with
  | .scrub, _ | .repair, _ => e
  | _, some h => let e := crossUnder h e; advanceSp (8 * h.2.1 + 24 * h.2.2.length + 48) e
  | _, none => advanceSp (r.since + 48) e

/-- REQUEST_ARRIVE (R247, R253, R263, R273, R385): of the waiting requests that can reach their agent, the first in order
does; those that find no tag, or no room for their data, wait. -/
def requestArrive (n : Nat) (e : Eng) : Eng :=
  if !partUp e (48 + n) then
    match (agentOf e n).inbox with
    | [] => e
    | r :: _ => answerIsolated n r (leaveInbox n r e)
  else
    match freeTag (agentOf e n) with
    | none => noteWaits n 11 (fun _ => true) e
    | some tag =>
      let a := agentOf e n
      let e := noteWaits n 13 (fun r => !stagingRoom a r) e
      let go := (agentOf e n).inbox.filter fun r => (canArrive e n r).isSome && stagingRoom a r
      match leastReq Req.downBefore go with
      | some r => if downFree e n then admitRequest n tag r (leaveInbox n r (crossDown ((canArrive e n r).getD none) r e)) else e
      | none => e

/-- REQUEST_ARRIVE (R247). -/
def execRequestArrive (n : Fin 24) (s : State) : Host.Outcome State Fault Refusal := .next (onEng (requestArrive n.val) s)

/-- The locks that stand at an SPCLK (R257). -/
def locksAt (a : Agent) (t : Nat) : List (Nat × Nat × Option Nat) := a.locks.filter fun k => k.2.2.all (t < ·)

/-- The requester of a request (R247): a station's holding register, the Weevil path, the dispatcher, a link agent, or
the agent itself. -/
def Req.requester (r : Req) : Nat × Bool := (match r.owner with | .scrub => 100 | .repair => 101 | _ => r.sender, r.weevil)

/-- Whether a sector may be carried on a card decided at SPCLK `t`, as far as locks go (R257): no other request holds its
lock, a read phase finds room in the lock table, and no request that its requester issued earlier touches it. -/
def lockFree (a : Agent) (t : Nat) (r : Req) (taken : Nat) (off : Nat) : Bool :=
  (locksAt a t).all (fun k => k.1 ≠ off / 32 || k.2.1 == r.id) &&
    (r.kind ≠ .mergeRead || (locksAt a t).length + taken < 256) &&
    (r.kind == .mergeWrite || (a.inbox ++ a.pending).all fun x => !(x.requester == r.requester && x.id < r.id &&
      x.sects.any fun y => y.off / 32 == off / 32))

/-- R249: the prefix of a request's remaining sectors that fits a card after the sectors already on it. -/
def fitPrefix (e : Eng) (n abs g : Nat) (a : Agent) (r : Req) : List Sect → List Nat → List Sect
  | [], _ => []
  | x :: t, kept =>
    if lockFree a (8 * abs - 32) r kept.length x.off && (cardRule e n abs g a.acts kept x.off).isNone then
      x :: fitPrefix e n abs g a r t (kept ++ [x.off])
    else []

/-- Whether a cross-field read holds a path eighth for a card's slot (R273). -/
def eighthFor (e : Eng) (n abs : Nat) (r : Req) : Bool :=
  r.kind ≠ .read || r.spine.isNone ||
    (heldEighth e n (some (abs + 72)) (pathSegs (fieldOfAgent n) r.field)).isSome

/-- The SPCLK, counted from its card's start, at which sector `j` of a read card of an agent reaches a field (R218). -/
def landAt (n field abs j : Nat) : Nat := 8 * abs + 640 + 24 * stitches (fieldOfAgent n) field + j / 16

/-- The station to which a request's data comes; none where it goes elsewhere. -/
def Req.station (r : Req) : Option Nat :=
  if r.kind == .read && decide (24 ≤ r.sender ∧ r.sender < 72) then some (r.sender - 24) else none

/-- The moments at which sectors on their way reach a station's port, as far as they are known (R37): of static cards
listed, and of dynamic cards granted. -/
def dueAt (e : Eng) (s : Nat) : List Nat :=
  (below 24).flatMap fun n =>
    let a := agentOf e n
    ((a.lists ++ a.kept).filter (!·.write)).flatMap (fun l =>
      (l.sectors.filter fun x => !x.dropped && x.station == s).map fun x => landAt n (fieldOfStation s) l.abs x.j) ++
    a.grants.flatMap (fun x =>
      let all := x.parts.flatMap fun r => r.sects.map fun _ => r.station
      ((below all.length).zip all).filterMap fun y =>
        if y.2 = some s then some (landAt n (fieldOfStation s) x.abs y.1) else none) ++
    a.bursts.filterMap (fun b =>
      if (b.station.any (·.1 == s)) || (b.owner.isSome && b.merge.isEmpty && b.sender == 24 + s) then
        some (b.hand + 192 + 24 * stitches (fieldOfAgent n) (fieldOfStation s))
      else none)

/-- R37: whether a station's port has room for the sectors of a dynamic read card, from place `j` on: at most 32 in an
SPCLK. -/
def roomFor (e : Eng) (n abs : Nat) (r : Req) (j count : Nat) : Bool :=
  match r.station with
  | none => true
  | some s =>
    let due := dueAt e s
    let mine := (upFrom j count).map (landAt n (fieldOfStation s) abs)
    mine.all fun t => (due.filter (· == t)).length + (mine.filter (· == t)).length ≤ 32

/-- The prefix of a request that fits a card after other sectors; empty where it does not fit (R249), or where its way has
no room (R37). A transposed read fits whole (R255). -/
def fitOn (e : Eng) (n abs g : Nat) (kept : List Nat) (r : Req) : List Sect :=
  if r.group = g ∧ eighthFor e n abs r then
    let xs := fitPrefix e n abs g (agentOf e n) r r.sects kept
    if (r.turn ≠ 0 && xs.length < r.sects.length) || !roomFor e n abs r kept.length xs.length then [] else xs
  else []

/-- The order of the Dealer (R249): latest-service time, class, arrival. -/
def Req.ahead (a b : Req) : Bool :=
  a.lst < b.lst || (a.lst == b.lst && (a.cls < b.cls || (a.cls == b.cls && a.arrival < b.arrival)))

/-- Requests in the Dealer's order. -/
def sortReqs : List Req → List Req
  | [] => []
  | a :: t =>
    let rest := sortReqs t
    rest.filter (·.ahead a) ++ a :: rest.filter fun b => !b.ahead a

/-- The lane that a plain dynamic card serves first (R248). -/
def laneAt (e : Eng) (n abs : Nat) : Nat := bits (reg e (agIdx n 1) 1) (2 * (abs % 16)) 2

/-- The pool of a plain dynamic card (R248, R249): the requests of the first lane that has any. -/
def lanePool (lane : Nat) (fit : List Req) : List Req :=
  match (below 3).find? fun k => fit.any fun r => r.lane == (lane + k) % 3 with
  | some k => fit.filter fun r => r.lane == (lane + k) % 3
  | none => []

/-- The counter of grants of a lane (R261). -/
def laneCounter (lane : Nat) : Nat := if lane = laneRead then 5 else if lane = laneWrite then 6 else 7

/-- Sectors granted leave their request (R249). -/
def grantPart (n abs : Nat) (r : Req) (xs : List Sect) (e : Eng) : Eng :=
  let e := match r.kind, r.spine with
    | .read, some _ =>
      (match heldEighth e n (some (abs + 72)) (pathSegs (fieldOfAgent n) r.field) with
      | some h => useEighth h e
      | none => e)
    | _, _ => e
  onAgent n (fun a =>
    let left := r.sects.drop xs.length
    let mine (x : Req) : Bool := x.id == r.id && x.kind == r.kind
    let standing := locksAt a (8 * abs - 32)
    let new := if r.kind = .mergeRead then xs.filter fun x => !standing.any (·.1 == x.off / 32) else []
    { a with
      pending := a.pending.flatMap fun x => if !mine x then [x] else if left.isEmpty then [] else [{ x with sects := left }]
      granted := if a.granted.any (·.id == r.id) then a.granted else a.granted ++ [{ r with sects := [] }]
      acts := a.acts ++ (actsOf abs r.group (xs.map (·.off)) false).filter fun x => !a.acts.contains x
      locks := standing ++ new.map fun x => (x.off / 32, r.id, none) }) e

/-- A card is granted to requests with their sectors (R249, R261). -/
def grantCard (n abs g : Nat) (plain : Bool) (parts : List (Req × List Sect)) (e : Eng) : Eng :=
  match parts with
  | [] => e
  | (r, _) :: _ =>
    let e := parts.foldl (fun e x => grantPart n abs x.1 x.2 e) e
    let e := agBump n (laneCounter r.lane) 1 e
    onAgent n (fun a => { a with
      grants := a.grants ++ [{ abs, group := g, parts := parts.map fun x => { x.1 with sects := x.2 } }]
      windowCards := if plain then a.windowCards + 1 else a.windowCards }) e

/-- Whether two requests of one card both touch a sector, one of them by a merge, which locks it (R257). -/
def mergesMeet (r : Req) (x : Req × List Sect) : Bool :=
  (r.kind == .mergeRead || x.1.kind == .mergeRead) && r.sects.any fun s => x.2.any fun y => y.off / 32 == s.off / 32

/-- R249: the whole Weevil requests that one splinter card carries. -/
def splinterTake (e : Eng) (n abs g : Nat) : List Req → List (Req × List Sect) → List (Req × List Sect)
  | [], taken => taken
  | r :: t, taken =>
    let kept := taken.flatMap fun x => x.2.map (·.off)
    if taken.length < 16 && (fitOn e n abs g kept r).length == r.sects.length && !taken.any (mergesMeet r) then
      splinterTake e n abs g t (taken ++ [(r, r.sects)])
    else splinterTake e n abs g t taken

/-- R252: the predicted card of a request: the plain dynamic card of its group and lane after this one that comes after
`ahead` others; within 16 frames of each such card the patterns repeat. -/
def predictCard (e : Eng) (n g lane : Nat) : Nat → Nat → Nat → Option Nat
  | 0, _, _ => none
  | fuel + 1, abs, ahead =>
    let f := abs / 512
    let w := if bit (reg e 0x3800 6) n then builtInKind (abs % 512) g * 2 ^ 28
      else mergedEntry e n (4 * (abs % 512) + g) (patternEntry (reg e 0x3800 2) f)
    if entryKind w = 0 ∧ laneAt e n abs = lane then
      (if ahead = 0 then some abs else predictCard e n g lane fuel (abs + 1) (ahead - 1))
    else predictCard e n g lane fuel (abs + 1) ahead

/-- The hint of a request for a predicted card (R252). -/
def hintWord (r : Req) (g abs : Nat) : Nat :=
  r.tag + r.epoch * 2 ^ 12 + g * 2 ^ 16 + abs % 512 * 2 ^ 18 + abs / 512 % 2 ^ 36 * 2 ^ 28

/-- R252: hints to the requests that lost a decision, and to those whose predicted card has passed without a grant. -/
def sendHints (n abs g : Nat) (pool : List Req) (e : Eng) : Eng :=
  if reg e (agIdx n 1) 3 = 0 then e
  else
    let a := agentOf e n
    let won := (a.grants.filter fun x => x.abs == abs && x.group == g).flatMap fun x => x.parts.map (·.id)
    let lost := a.pending.filter fun r => r.group == g && !won.contains r.id &&
      (pool.any (fun x => x.id == r.id && x.kind == r.kind) || a.hinted.any fun h => h.1 == r.id && h.2 ≤ abs)
    let e := onAgent n (fun a => { a with hinted := a.hinted.filter fun h => a.pending.any (·.id == h.1) }) e
    lost.foldl (fun e r =>
      let ahead := ((agentOf e n).pending.filter fun x => x.group == g && x.lane == r.lane && x.ahead r).length
      match predictCard e n g r.lane (8192 * (ahead + 1)) (abs + 1) ahead with
      | none => e
      | some c =>
        e |> onAgent n (fun a => { a with hinted := (r.id, c) :: a.hinted.filter fun h => h.1 ≠ r.id }) |>
          agBump n 9 1 |> emit (.hint n (BitVec.ofNat 64 (hintWord r g c)))) e

/-- The catch-ups that compete for a card (R244), the earliest latest-service time first. -/
def catchupsAt (e : Eng) (n abs g : Nat) : List (Nat × Catchup) :=
  let cs := ((agentOf e n).catchups.filter fun c => c.group == g && c.slot + 30 ≤ abs && abs ≤ c.slot + 39).map fun c =>
    (8 * (lastChance e n c).getD 0 - 32, c)
  cs.filter fun x => cs.all fun y => x.1 ≤ y.1

/-- A card is granted to a catch-up (R244). -/
def grantCatchup (n abs g : Nat) (c : Catchup) (e : Eng) : Eng :=
  onAgent n (fun a => { a with
    catchups := a.catchups.erase c, grants := a.grants ++ [{ abs, group := g, parts := [], refresh := some c.bank }] }) e

/-- A card that stays unused (R249). -/
def unused (n : Nat) (e : Eng) : Eng := agBump n 10 1 e

/-- The requester grants on plain dynamic cards of a group so far (R249, R250). -/
def plainGrants (a : Agent) (g : Nat) : Nat := storeGet (fun _ => 0) a.plain g

/-- The age grant falls on the next plain grant of a group (R250): the grants are counted by group (log entry 141). -/
def ageTurn (e : Eng) (n g : Nat) : Bool :=
  let k := reg e (agIdx n 1) 2
  plainGrants (agentOf e n) g % max 1 k == k - 1

/-- R249, R398, R400: the decision of a plain dynamic card over the requests that fit it. -/
def decidePlain (n abs g : Nat) (fit : List Req) (e : Eng) : Eng :=
  let a := agentOf e n
  let give (r : Req) (count : Bool) (e : Eng) : Eng :=
    let xs := fitOn e n abs g [] r
    grantCard n abs g true [(r, xs)] (if count then
      onAgent n (fun a => { a with plain := storeSet (fun _ => 0) g (plainGrants a g + 1) a.plain }) e else e)
  let catchup := (catchupsAt e n abs g).head?
  let withheld := decide (a.allowance ≤ a.windowCards)
  let pool := lanePool (laneAt e n abs) fit
  let none_ (e : Eng) : Eng := match catchup with
    | some c => grantCatchup n abs g c.2 e
    | none => unused n (if fit.isEmpty then e else bump 0x1103 4 e)
  let e := if withheld then none_ e
    else match leastReq (fun x y => x.arrival < y.arrival) (fit.filter (·.trumped)) with
      | some r => give r false e
      | none =>
        match ageTurn e n g, leastReq (fun x y => x.arrival < y.arrival) fit with
        | true, some r => agBump n 8 1 (give r true e)
        | _, _ =>
          match leastReq Req.ahead pool, catchup with
          | some r, some c => if c.1 ≤ r.lst then grantCatchup n abs g c.2 e else give r true e
          | some r, none => give r true e
          | none, _ => none_ e
  sendHints n abs g pool e

/-- The decision of a class-0 reserved or a splinter card (R249). -/
def decideReserved (n abs g : Nat) (splinter : Bool) (fit : List Req) (e : Eng) : Eng :=
  let whole := if splinter then splinterTake e n abs g (sortReqs (fit.filter (·.weevil))) [] else []
  let first := fit.filter fun r => if splinter then r.weevil else r.cls == 0
  let pool := if first.isEmpty then fit else first
  let e := if !whole.isEmpty then grantCard n abs g false whole e
    else match leastReq Req.ahead pool with
      | some r => grantCard n abs g false [(r, fitOn e n abs g [] r)] e
      | none => unused n e
  sendHints n abs g (if whole.isEmpty then pool else fit.filter (·.weevil)) e

/-- R257: a read phase that finds the lock table full is counted once. -/
def countLockWaits (n g : Nat) (e : Eng) : Eng :=
  let a := agentOf e n
  let full (r : Req) : Bool :=
    r.kind == .mergeRead && r.group == g && !r.waited.contains 12 && decide (256 ≤ (locksAt a (spNow e)).length)
  let mark (r : Req) : Req := if full r then { r with waited := 12 :: r.waited } else r
  agBump n 12 (a.pending.filter full).length (onAgent n (fun a => { a with pending := a.pending.map mark }) e)

/-- R244, R245: catch-ups that have lost the decision of their last-chance card: where the bank's count calls for it, a
Trump is granted on the card; otherwise they lapse. -/
def settleCatchups (n abs g : Nat) (e : Eng) : Eng :=
  ((agentOf e n).catchups.filter fun c => c.group == g && lastChance e n c == some abs).foldl (fun e c =>
    let e := onAgent n (fun a => { a with catchups := a.catchups.erase c }) e
    let trump := reg e (agIdx n 2) 2 ≤ (owedOf e n g c.bank).toNat &&
      (agentOf e n).grants.any fun x => x.abs == abs && x.group == g && !x.parts.isEmpty && x.refresh.isNone
    if trump then
      onAgent n (fun a => { a with grants := a.grants.map fun x =>
        if x.abs = abs ∧ x.group = g then { x with refresh := some c.bank, trump := true } else x }) e
    else agBump n 21 1 e) e

/-- DEALER_DECISION (R249): who uses a card, decided 32 SPCLK before it begins. -/
def dealerDecision (n abs g : Nat) (e : Eng) : Eng :=
  let kind := kindAt e n abs g
  if !(agentOf e n).initDone || (agentOf e n).grants.any (fun x => x.abs == abs && x.group == g) ||
    !(kind == .dynamic || kind == .class0 || kind == .splinter) then e
  else
    let e := countLockWaits n g (advanceSp (8 * abs - 32) e)
    let a := agentOf e n
    let fit := a.pending.filter fun r => !(fitOn e n abs g [] r).isEmpty
    let fit := if reg e (agIdx n 0) 3 = 1 then fit.filter (·.drain) else fit
    let fit := if bit (reg e 0x1104 1) n then fit.filter fun r => r.cls < 2 || r.trumped else fit
    match kind with
    | .dynamic => settleCatchups n abs g (decidePlain n abs g fit e)
    | k => decideReserved n abs g (k == .splinter) fit e

/-- DEALER_DECISION (R249). -/
def execDealerDecision (n : Fin 24) (abs : Nat) (g : Fin 4) (s : State) : Host.Outcome State Fault Refusal :=
  .next (onEng (dealerDecision n.val abs g.val) s)

/-- R245: a Trump stops the transfer of a card after the bursts of its first 4 SPCLK: what is left resumes first. A merge
keeps its locks (R257). -/
def cutPart (a : Agent) (r : Req) : Agent :=
  let back := r.sects.drop 64
  if back.isEmpty then a
  else
    let mine (x : Req) : Bool := x.id == r.id && x.kind == r.kind
    let resume (xs : List Sect) : Req := { r with sects := back ++ xs, drain := true, trumped := true }
    { a with
      pending := if a.pending.any mine then a.pending.map fun x => if mine x then resume x.sects else x
        else a.pending ++ [resume []] }

/-- A Trump is carried out on a granted card (R245). -/
def takeTrump (n : Nat) (x : Grant) (e : Eng) : Eng :=
  let e := advanceSp (8 * x.abs + 4) e
  let e := onAgent n (fun a =>
    let a := x.parts.foldl cutPart a
    { a with grants := a.grants.map fun y =>
        if y.abs = x.abs ∧ y.group = x.group then
          { y with parts := y.parts.map fun r => { r with sects := r.sects.take 64 }, refresh := none, trump := false }
        else y }) e
  xdnCard n x.abs x.group [.refresh (x.refresh.getD 0)]
    (issueRefresh n x.group (x.refresh.getD 0) (e |> agBump n 3 1 |> agBump n 2 1))

/-- TRUMP_GRANT (R245). -/
def execTrumpGrant (n : Fin 24) (abs : Nat) (g : Fin 4) (s : State) : Host.Outcome State Fault Refusal :=
  .next (onEng (fun e =>
    match (agentOf e n.val).grants.find? fun x => x.abs == abs && x.group == g.val && x.trump with
    | some x => takeTrump n.val x e
    | none => e) s)

/-- The commands at XDn of a granted card (R233, R239): its activates, then its reads and writes in order. -/
def cardCmds (abs g : Nat) (parts : List Req) : List XdnCmd :=
  activates abs g (parts.flatMap fun r => r.sects.map (·.off)) ++ parts.flatMap fun r => r.sects.map fun x =>
    if r.kind == .read || r.kind == .mergeRead then XdnCmd.read x.off else .write x.off (atomsData x.atoms).1

/-- The sectors of a granted read become bursts (R236, R263), from place `j` of the card on. -/
def carryReads (n abs g : Nat) (r : Req) : Nat → List Sect → List Burst
  | _, [] => []
  | j, x :: t =>
    { owner := some r.owner, req := r.id, sender := r.sender, tag := r.tag, epoch := r.epoch, lane := laneOf g j, station := none,
      hand := 8 * abs + 448 + j / 16, off := x.off, readAt := 8 * abs + 200, merge := x.atoms } :: carryReads n abs g r (j + 1) t

/-- One sector of a granted write is accepted (R236, R256 to R259); the lock of a merge is free once its write issues. -/
def carryWrite (n abs j : Nat) (r : Req) (x : Sect) (e : Eng) : Eng :=
  let (data, mask, pois) := atomsData x.atoms
  let e := acceptWrite n x.off (8 * abs + j / 16) data mask pois e
  let e := if x.atoms.any Atom.isAdd then agBump n 14 1 e else e
  match r.kind with
  | .mergeWrite => onAgent n (fun a => { a with locks := a.locks.map fun k =>
      if k.1 = x.off / 32 ∧ k.2.1 = r.id then (k.1, k.2.1, some (8 * abs + 64 + j / 16)) else k }) e
  | .repair => agBump n 18 1 e
  | _ => e

/-- The sectors of a granted write are accepted in order, from place `j` of the card on. -/
def carryWrites (n abs : Nat) (r : Req) : Nat → List Sect → Eng → Eng
  | _, [], e => e
  | j, x :: t, e => carryWrites n abs r (j + 1) t (carryWrite n abs j r x e)

/-- The requests on a granted card are carried in order, from place `j` on (R236, R249). -/
def carryParts (n abs g : Nat) (kind : CardKind) : Nat → List Req → Eng → Eng
  | _, [], e => e
  | j, r :: t, e =>
    let e := if r.weevil ∧ kind = .splinter ∧ r.kind ≠ .mergeRead then bump 0x4203 2 e else e
    let e := if r.kind == .read || r.kind == .mergeRead then
        onAgent n (fun a => { a with bursts := a.bursts ++ carryReads n abs g r j r.sects }) e
      else carryWrites n abs r j r.sects e
    carryParts n abs g kind (j + r.sects.length) t e

/-- The requests that a card wrote are settled once their sectors are durable, 64 SPCLK after their acceptance (R236). -/
def settleWrites (n abs : Nat) (parts : List Req) (e : Eng) : Eng :=
  let writes := parts.filter fun r => !(r.kind == .read || r.kind == .mergeRead)
  let count := (parts.map (·.sects.length)).sum
  if writes.isEmpty then e
  else writes.foldl (fun e r => settleRequest n r.id e) (advanceSp (8 * abs + 64 + (count - 1) / 16) e)

/-- DYNAMIC_CARD (R236): a granted card is carried. -/
def dynamicCard (n abs g : Nat) (e : Eng) : Eng :=
  let find (e : Eng) : Option Grant := (agentOf e n).grants.find? fun x => x.abs == abs && x.group == g
  let e := match find e with | some x => if x.trump then takeTrump n x e else e | none => e
  match find e with
  | none => e
  | some x =>
    let kind := kindAt e n abs g
    let e := advanceSp (8 * abs) (onAgent n (fun a => { a with grants := a.grants.erase x }) e)
    match x.refresh with
    | some bank => xdnCard n abs g [.refresh bank] (issueRefresh n g bank (agBump n 2 1 e))
    | none =>
      let e := if x.parts.any fun r => !r.sects.isEmpty then countCard (kind == .dynamic) e else e
      e |> xdnCard n abs g (cardCmds abs g x.parts) |> carryParts n abs g kind 0 x.parts |> settleWrites n abs x.parts

/-- DYNAMIC_CARD (R236). -/
def execDynamicCard (n : Fin 24) (abs : Nat) (g : Fin 4) (s : State) : Host.Outcome State Fault Refusal :=
  .next (onEng (dynamicCard n.val abs g.val) s)

/-- SCRUB_ISSUE (R259): the scrubber asks for the next granule, as often as SCRUB_RATE allows in the frame. -/
def scrubIssue (n : Nat) (e : Eng) : Eng :=
  let a := agentOf e n
  let f := frameNo e
  let done := if a.scrubFrame = f then a.scrubbed else 0
  if !a.initDone ∨ reg e (agIdx n 3) 1 ≤ done then e
  else
    let k := reg e (agIdx n 3) 2
    let (id, e) := newId e
    let r : Req := { id, owner := .scrub, kind := .read, lane := laneRead, cls := 3, lst := spNow e + 65536,
                     group := groupAt (4096 * k), sects := (below 128).map fun j => ⟨4096 * k + 32 * j, []⟩, since := spNow e }
    let e := onAgent n (fun a => { a with inbox := a.inbox ++ [r], scrubFrame := f, scrubbed := done + 1 }) e
    let e := setReg (agIdx n 3) 2 ((k + 1) % 2 ^ 24) e
    if k + 1 = 2 ^ 24 then agBump n 19 1 e else e

/-- SCRUB_ISSUE (R259). -/
def execScrubIssue (n : Fin 24) (s : State) : Host.Outcome State Fault Refusal := .next (onEng (scrubIssue n.val) s)

/-- FREEZE (R251). -/
def execFreeze (p : Port) (n : Fin 24) (v : Byte) (s : State) : Host.Outcome State Fault Refusal :=
  .next (portWrite p (agIdx n.val 0) 3 v.toNat (plainCommit p (agIdx n.val 0) 3) s)

/-- FROZEN (R251): 1 too while the agent does not run. -/
def frozen (e : Eng) (n : Nat) : Nat :=
  let a := agentOf e n
  if reg e (agIdx n 0) 1 ≠ 2 then 1
  else if reg e (agIdx n 0) 3 = 1 ∧ (locksAt a (spNow e)).isEmpty ∧ a.grants.all (fun x => x.parts.isEmpty) ∧
      a.bursts.all (fun b => b.owner.isNone) ∧ a.pending.all (fun r => !r.drain) then 1
  else 0

/-- The level of XDn.INIT_START (R233, R235), and the record of its change. -/
def setInitStart (n : Nat) (level : Bool) (e : Eng) : Eng :=
  emit (.initStart n (if level then 1 else 0)) (onAgent n (fun a => { a with initStart := level }) e)

/-- INIT_COMPLETE (R235): every bank is refreshed once and owes nothing, and the agent serves frames. These refreshes, and
those of refresh cards, go out at XDn from step 6 on although BT_READY is still low (log entry 126). -/
def initComplete (n : Nat) (e : Eng) : Eng :=
  if reg e (agIdx n 0) 1 ≠ 1 then e
  else
    let e := (below 4).foldl (fun e g => xdnCard n (spNow e / 8) g ((below 16).map .refresh) e) e
    setReg (agIdx n 0) 1 2 (setInitStart n false <| onAgent n (fun a => { a with
      initDone := true, owed := [], owedAt := spNow e, allowance := reg e 0x1101 4 }) e)

/-- A Hand or spine Hand entry that the frame reads shows an error (R229): an uncorrectable one, or one corrected. -/
def readEntryError (f : Nat) (x : HandSlot × Bool) (e : Eng) : Eng :=
  match x.1 with
  | .card n slot g => readHandEntry n.val (512 * f + slot.val) g.val (if x.2 then .uncorrectable else .corrected) e
  | .spine k slot dir => readSpineEntry k.val (512 * f + slot.val) (if dir then 1 else 0) x.2 e

/-- The frame that begins: what each part does at its boundary (R34, R208, R225, R229, R233, R375); `errs` lists the Hand
entries that the frame reads with an error. -/
def frameBegin (rates : Nat) (errs : List (HandSlot × Bool)) (e : Eng) : Eng :=
  match e.spBase with
  | none => e
  | some b =>
    let f := e.nextFrame
    let e := takeSwap f (advanceTo (b + frameT * f) { e with nextFrame := f + 1 })
    let e := { e with deck := { e.deck with
        loosened := e.deck.loosened.filter fun x => f ≤ x.2.1 / 512
        looseSpine := e.deck.looseSpine.filter fun x => f ≤ x.2.1 / 512 } }
    let e := errs.foldl (fun e x => readEntryError f x e) e
    let e := (below 24).foldl (fun e n =>
      if partHeld e (48 + n) then e else setReg (agIdx n 0) 2 (bits rates (2 * n) 2) e) e
    let e := (below 48).foldl (fun e s => if (dockOf e s).hold.isSome then bump (stIdx s 0x30) 11 e else e) e
    let e := countStalls 1 (countStalls 0 e)
    let active := e.docks.any fun d => !d.2.streams.isEmpty || d.2.hold.isSome
    { e with fw := { e.fw with quiet := if active || e.fw.busy then 0 else e.fw.quiet + 1, busy := false } }

/-- FRAME_BEGIN (R34, R225): with the refresh-rate indications of the 24 stacks. -/
def execFrameBegin (report : FrameReport) (s : State) : Host.Outcome State Fault Refusal :=
  .next (onEng (frameBegin report.rates.toNat report.errs) s)

end Sys2Proof.Machine
end

