-- ==== Sys2Proof/Machine/Crossings.lean ====
section
/-! DEFINITION. Die crossings, the spine arbiter and the UCIe modules (spec/11_crossings.md R264 to R276), with the
failure of a start (spec/16_reset_clocks_power.md R387). -/

namespace Sys2Proof.Machine

/-- R387: what a failed start records, with its detail. -/
def startFails (detail : Nat) (e : Eng) : Eng :=
  let b := reg e 0x1202 1
  e |> raise 84 detail |> setReg 0x1200 2 2 |> setReg 0x1200 3 detail |>
    setReg 0x1202 1 (setBits b 0 8 (min 255 (bits b 0 8 + 1))) |> bump 0x1205 3

/-- R386, R387: a start fails in the release of the whole block, which stops at its step; it fails once. -/
def failStart (detail : Nat) (e : Eng) : Eng :=
  match e.run with
  | .release k _ _ _ => { startFails detail e with run := .failed k }
  | _ => e

/-! ### The code of a word -/

/-- The weight of a check-bit pattern. -/
def weight7 (x : Nat) : Nat := ((below 7).filter (bit x)).length

/-- `n` distinct patterns out of a pool, by the free picks. -/
def pickColumns : Nat → List Nat → List Nat
  | 0, _ => []
  | n + 1, pool =>
    let k := Config.secdedPick n % pool.length
    pool.getD k 0 :: pickColumns n (pool.eraseIdx k)

/-- The columns of the data bits: 32 distinct patterns of weight 3, which ones the manual leaves open (R264). -/
def dataColumns : List Nat := pickColumns 32 ((below 128).filter fun x => weight7 x = 3)

/-- The check bits of a word (R264). -/
def checkBits (w : Nat) : Nat := ((below 32).zip dataColumns).foldl (fun c x => if bit w x.1 then c ^^^ x.2 else c) 0

/-- What R264 finds of a received word. -/
inductive WordCheck where
  | clean
  | corrected
  | uncorrectable
  | poisoned
  deriving DecidableEq, Repr

/-- R264: a received word judged by its syndrome: the poison code; a single-bit error, in a data or a check column; any
other is uncorrectable. -/
def judgeWord (w : Word32 × BitVec 7) : WordCheck :=
  let syn := checkBits w.1.toNat ^^^ w.2.toNat
  if syn = 0 then .clean
  else if syn = 127 then .poisoned
  else if weight7 syn = 1 ∨ dataColumns.contains syn then .corrected
  else .uncorrectable

/-- The mask, over the words of a beat, of those that go on in the poison code. -/
def poisonOf (cs : List WordCheck) : Nat :=
  ((below cs.length).zip cs).foldl (fun m x =>
    if x.2 = .uncorrectable ∨ x.2 = .poisoned then m + 2 ^ x.1 else m) 0

/-- A change that a beat's words make to what they belong to: the mask of those in the poison code, and their data bits as
received. -/
abbrev Hit := Nat → Nat → Eng → Eng

/-- A sector on its way to a station takes words in the poison code (R264). -/
def hitArriving (s : Nat) (x : InFlight) : Hit := fun mask data e =>
  let (v, p) := crossed x.sector.data x.sector.pois mask data
  onDock s (fun d => { d with arriving := d.arriving.map fun y =>
    if y = x then { y with sector := { y.sector with data := v, pois := p } } else y }) e

/-- A burst that is still to be handed over takes words in the poison code (R264). -/
def hitBurst (n : Nat) (x : Burst) : Hit := fun mask data e =>
  let (v, p) := crossed x.received x.hurt mask data
  onAgent n (fun a => { a with bursts := a.bursts.map fun y => if y = x then { y with received := v, hurt := p } else y }) e

/-- What an atom writes once the words of its sector have crossed, some of them in the poison code (R264). -/
def hurtAtom (mask data : Nat) (a : Atom) : Atom :=
  let k := (a.addr % 32).toNat
  match a with
  | .bits x m v p => if bit mask (k / 4) then .bits x m (bits data (8 * k) 8 &&& m) true else .bits x m v p
  | .trit x j d p => .trit x j d (p || bit mask (k / 4))
  | .add x f c p =>
    if bit mask (k / 4) then .add x f (bits data (8 * k) f.width) true else .add x f c p

/-- A sector of a static write card takes words in the poison code (R264). -/
def hitDrawn (n : Nat) (x : ListedSector) : Hit := fun mask data e =>
  let hit (y : ListedSector) : ListedSector :=
    if y = x then { y with drawn := y.drawn.map fun as => as.map (hurtAtom mask data) } else y
  let on (l : CardList) : CardList := { l with sectors := l.sectors.map hit }
  onAgent n (fun a => { a with lists := a.lists.map on, kept := a.kept.map on }) e

/-- A sector of dynamic write data takes words in the poison code (R264). -/
def hitWrite (n : Nat) (r : Req) (x : Sect) : Hit := fun mask data e =>
  let hit (y : Req) : Req := if y.id = r.id then { y with sects := y.sects.map fun z =>
    if z = x then { z with atoms := z.atoms.map (hurtAtom mask data) } else z } else y
  onAgent n (fun a => { a with inbox := a.inbox.map hit, pending := a.pending.map hit }) e

/-- The sectors on their way to stations, the earliest to land first. -/
def arrivingInOrder (e : Eng) : List (Nat × InFlight) :=
  let add (acc : List (Nat × InFlight)) (x : Nat × InFlight) :=
    acc.filter (fun y => y.2.land ≤ x.2.land) ++ x :: acc.filter fun y => !(y.2.land ≤ x.2.land)
  (e.docks.flatMap fun d => d.2.arriving.map fun x => (d.1, x)).foldl add []

/-- What crosses upward on a lane of a crossing (R263): the first static sector that has been handed over, else the first
dynamic burst to be. Merges and scrub reads cross nothing. -/
def upTarget (e : Eng) (n lane : Nat) : Option Hit :=
  match (arrivingInOrder e).find? fun x => x.2.agent == n && x.2.lane == lane with
  | some x => some (hitArriving x.1 x.2)
  | none =>
    (firstBurst ((agentOf e n).bursts.filter fun b =>
      b.lane == lane && b.merge.isEmpty && b.owner ≠ some .scrub)).map (hitBurst n)

/-- The sectors that have left Pools for an agent's write cards, with their cards' lists. -/
def drawnSectors (a : Agent) : List (CardList × ListedSector) :=
  (a.lists ++ a.kept).flatMap fun l => (l.sectors.filter (·.drawn.isSome)).map fun x => (l, x)

/-- The sectors of dynamic write data on their way to an agent or in its staging. -/
def writeSects (a : Agent) : List (Req × Sect) :=
  ((a.inbox ++ a.pending).filter fun r => r.kind ≠ .read).flatMap fun r => r.sects.map fun x => (r, x)

/-- What crosses downward on a lane of a crossing (R263): a sector of a static write card, else the dynamic write sector of
that number. -/
def downTarget (e : Eng) (n lane : Nat) : Option Hit :=
  let a := agentOf e n
  match (drawnSectors a).find? fun x => laneOf x.1.group x.2.j == lane with
  | some x => some (hitDrawn n x.2)
  | none => ((writeSects a)[lane]?).map fun x => hitWrite n x.1 x.2

/-- Whether a path from one field to another crosses a stitch line in a direction (R28). -/
def crossesLine (k : Nat) (down : Bool) (a c : Nat) : Bool := if down then a ≤ k && k < c else c ≤ k && k < a

/-- What crosses a stitch line in a direction, in order: sectors on their way to stations, then those of write cards. -/
def stitchTargets (e : Eng) (k : Nat) (down : Bool) : List Hit :=
  ((arrivingInOrder e).filter fun x => crossesLine k down (fieldOfAgent x.2.agent) (fieldOfStation x.1)).map (fun x =>
    hitArriving x.1 x.2) ++
  (below 24).flatMap fun n =>
    ((drawnSectors (agentOf e n)).filter fun x => crossesLine k down (fieldOfStation x.2.station) (fieldOfAgent n)).map
      fun x => hitDrawn n x.2

/-- What the eight words on lane `l` of a beat belong to (log entry 142). -/
def beatTarget (e : Eng) (b : Boundary) (down : Bool) (l : Nat) : Option Hit :=
  match b with
  | .crossing n => if down then downTarget e n.val l else upTarget e n.val l
  | .stitch k => (stitchTargets e k.val down)[l]?

/-- The words of a beat in the poison code reach what they belong to, lane by lane, as it stood before the beat. -/
def poisonBeat (before : Eng) (b : Boundary) (down : Bool) (mask data : Nat) (lanes : Nat) (e : Eng) : Eng :=
  (below lanes).foldl (fun e l =>
    let m := bits mask (8 * l) 8
    if m = 0 then e
    else match beatTarget before b down l with
      | some hit => hit m (bits data (256 * l) 256) e
      | none => e) e

/-- The index of a boundary's counters, the sub of CORRECTED, and its fault source (R264, R276). -/
def boundaryAt : Boundary → Nat × Nat × Nat
  | .crossing n => (0x3900 + n.val, 6, 48 + n.val)
  | .stitch k => (0x3920 + k.val, 1, 78)

/-- CROSSING_BEAT_RECEIVE (R264, R272): the words of one beat at a boundary, in one direction. A beat outside the range of
its crossing's receive buffer is a pin slip: all its words go on in the poison code. -/
def beatReceive (b : Boundary) (down inRange : Bool) (words : List (Word32 × BitVec 7)) (e : Eng) : Eng :=
  let (idx, sub, src) := boundaryAt b
  let slip := match b with | .crossing _ => !inRange | .stitch _ => false
  let data := (words.map fun w => w.1.toNat).foldr (fun w n => w + 2 ^ 32 * n) 0
  let poison (mask : Nat) (e : Eng) : Eng := poisonBeat e b down mask data ((words.length + 7) / 8) e
  if slip then poison (2 ^ words.length - 1) (raise src 0 (bump idx 8 e))
  else
    let cs := words.map judgeWord
    let bad := (cs.filter (· == .uncorrectable)).length
    let e := e |> bumpBy (cs.filter (· == .corrected)).length idx sub |> bumpBy bad idx (sub + 1) |> poison (poisonOf cs)
    if bad = 0 then e else raise src 0 e

/-- CROSSING_BEAT_RECEIVE (R264). -/
def execCrossingBeatReceive (way : BeatWay) (inRange : Bool) (words : List (Word32 × BitVec 7)) (s : State) :
    Host.Outcome State Fault Refusal :=
  .next (onEng (beatReceive way.boundary way.down inRange words) s)

/-! ### The control word -/

/-- The runs of a slot's lists that a lost control word carried drop their sectors (R265, R266): `first` is the number of
the last run of the lists before. -/
def loseRuns (lost : Nat → Bool) : List CardList → Nat → List CardList
  | [], _ => []
  | l :: t, first =>
    let ks := runNumbers (l.sectors.map (·.off)) none first
    { l with sectors := (l.sectors.zip ks).map fun x => if lost x.2 then { x.1 with dropped := true } else x.1 } ::
      loseRuns lost t ((ks.getLast?).getD first)

/-- The sectors of some lists that are dropped. -/
def droppedIn (ls : List CardList) : Nat := (ls.flatMap fun l => l.sectors.filter (·.dropped)).length

/-- The slot of the lists sent to an agent and not arrived yet: the earliest. -/
def nextListSlot (a : Agent) : Option Nat :=
  (a.lists.map (·.abs)).foldl (fun m x => some (match m with | some y => min x y | none => x)) none

/-- R265: a control word is lost. Word `k` of a slot's eight carries its runs 3k + 1 to 3k + 3, whose sectors are dropped;
sideband items are repeated in the next slot; without its routing, the card that is handed over next is poisoned at the
landing. -/
def loseControl (n : Nat) (item : ControlItem) (e : Eng) : Eng :=
  let e := bump (0x3900 + n) 10 e
  match item with
  | .sideband => e
  | .runs k =>
    match nextListSlot (agentOf e n) with
    | none => e
    | some abs =>
      let mine := (agentOf e n).lists.filter (·.abs == abs)
      let new := loseRuns (fun r => decide (3 * k.val < r ∧ r ≤ 3 * k.val + 3)) mine 0
      let count := droppedIn new - droppedIn mine
      if count = 0 then e
      else
        onAgent n (fun a => { a with lists := new ++ a.lists.filter (·.abs != abs) }) e |>
          bumpBy count (0x3900 + n) 11 |> setReg (0x3900 + n) 12 (0x3901 + abs % 512 * 2 ^ 16) |> raise (48 + n) 0x3901
  | .routing =>
    match firstBurst ((agentOf e n).bursts.filter fun b => b.merge.isEmpty && b.owner ≠ some .scrub) with
    | none => e
    | some b =>
      onAgent n (fun a => { a with bursts := a.bursts.map fun x =>
        if x.readAt = b.readAt ∧ groupAt x.off = groupAt b.off then { x with lostRoute := true } else x }) e

/-- CONTROL_WORD_RECEIVE (R265). -/
def execControlWordReceive (n : Fin 24) (parityOk : Bool) (item : ControlItem) (s : State) :
    Host.Outcome State Fault Refusal :=
  .next (if parityOk then s else onEng (loseControl n.val item) s)

/-- FRAME_MARK_ARRIVE (R271): on a pinned crossing, once the counts run, mark f arrives at base count 4096 f, after those
of the frames before; any other count, or none, is an error. -/
def frameMark (n : Nat) (count : Option Nat) (e : Eng) : Eng :=
  let c := storeGet (fun _ => {}) e.crossings n
  if reg e (0x3900 + n) 1 ≠ 2 ∨ e.spBase.isNone then e
  else
    match count.filter fun x => x % 4096 == 0 && decide (c.marks < x / 4096) with
    | some x => { e with crossings := storeSet (fun _ => {}) n { c with marks := x / 4096 } e.crossings }
    | none => e |> bump (0x3900 + n) 9 |> raise (48 + n) 0

/-- FRAME_MARK_ARRIVE (R271). -/
def execFrameMarkArrive (n : Fin 24) (count : Option Nat) (s : State) : Host.Outcome State Fault Refusal :=
  .next (onEng (frameMark n.val count) s)

/-! ### Training -/

/-- R269, R270: the release of the crossings: all train, each in its first attempt. -/
def startTraining (e : Eng) : Eng :=
  let e := { e with trainAt := e.now, crossings := (below 24).map fun n => (n, { step := 1, since := e.now }) }
  (below 24).foldl (fun e n => e |> setReg (0x3900 + n) 1 1 |> setReg (0x3900 + n) 3 1) e

/-- The limit of a training step in AONCLK (R269). -/
def trainLimit : Nat → Nat
  | 1 => 10 | 2 => 40 | 3 => 2 | 4 => 2 | _ => 8

/-- A crossing's training state set. -/
def setCrossing (n : Nat) (c : Crossing) (e : Eng) : Eng :=
  { e with crossings := storeSet (fun _ => {}) n c e.crossings }

/-- TRAIN_TIME once every crossing is pinned or failed (R276). -/
def endTraining (e : Eng) : Eng :=
  if (below 24).all fun n => 2 ≤ reg e (0x3900 + n) 1 then setReg 0x39F0 1 ((e.now - e.trainAt) / aonT) e else e

/-- R270: a crossing fails in a step of its last attempt. -/
def crossingFails (n k : Nat) (e : Eng) : Eng :=
  e |> setReg (0x3900 + n) 1 3 |> raise (48 + n) (0x3910 + k) |> endTraining

/-- R269, R270: a step fails: its record, and the second attempt, which begins then and no later than at the step's limit,
or the failed state. -/
def trainFails (n k info : Nat) (e : Eng) : Eng :=
  let x := 0x3900 + n
  let c := storeGet (fun _ => {}) e.crossings n
  let e := setReg x 2 (0x3910 + k + info * 2 ^ 16) e
  if reg e x 3 = 1 then
    e |> setReg x 3 2 |> setCrossing n { step := 1, since := min e.now (c.since + trainLimit k * aonT) }
  else e |> crossingFails n k |> failStart 0x1213

/-- R270: 124 AONCLK after their release every crossing that is still in training has failed, in the step it was in. -/
def trainingExpires (e : Eng) : Eng :=
  (below 24).foldl (fun e n =>
    let k := (storeGet (fun _ => ({} : Crossing)) e.crossings n).step
    if reg e (0x3900 + n) 1 = 1 then crossingFails n k (setReg (0x3900 + n) 2 (0x3910 + k) e) else e) e

/-- CROSSING_TRAIN_STEP_DONE (R269): the step of the attempt passes or fails; `info` is the wire that failed, or R at
step 4, which passes only up to 88. -/
def trainStep (n : Nat) (ok : Bool) (info : Nat) (e : Eng) : Eng :=
  let x := 0x3900 + n
  let c := storeGet (fun _ => {}) e.crossings n
  let e := if reg e x 1 = 1 ∧ ok ∧ c.step = 4 then e |> setReg x 4 (min info 255) |> setReg x 5 (96 - info) else e
  if reg e x 1 ≠ 1 then e
  else if !ok ∨ c.since + trainLimit c.step * aonT < e.now ∨ (c.step = 4 ∧ 88 < info) then trainFails n c.step info e
  else
    if c.step < 5 then setCrossing n { c with step := c.step + 1, since := e.now } e
    else endTraining (setReg x 1 2 (setCrossing n {} e))

/-- CROSSING_TRAIN_STEP_DONE (R269). -/
def execCrossingTrainStepDone (n : Fin 24) (ok : Bool) (info : BitVec 14) (s : State) :
    Host.Outcome State Fault Refusal :=
  .next (onEng (trainStep n.val ok info.toNat) s)

/-! ### The spine arbiter -/

/-- The cross-field transfers that a requester has pending, each with its class, by the segments of their paths (R273): read
cards of a stack agent; requests, and messages on their way to a link agent, of any other. -/
def pendingTransfers (e : Eng) (q : Nat) : List (Nat × List Nat) :=
  if q < 24 then
    ((agentOf e q).pending.filter fun r => r.kind == .read && r.spine.isSome).map fun r =>
      (r.cls, pathSegs (fieldOfAgent q) r.field)
  else
    ((below 24).flatMap fun n =>
      ((agentOf e n).inbox.filter fun r => r.spine.isSome && r.sender == q).map fun r =>
        (r.cls, pathSegs r.field (fieldOfAgent n))) ++
    [0, 1].flatMap fun p => (linkOf e p).waiting.filterMap fun m => match m.path with
      | some (s, segs) => if s = q then some (m.cls, segs) else none
      | none => none

/-- The cross-field transfers that a requester lists with the arbiter, in class order (R273, R294). -/
def transfersOf (e : Eng) (q : Nat) : List (List Nat) :=
  let xs := pendingTransfers e q
  (below 4).flatMap fun c => (xs.filter (·.1 == c)).map (·.2)

/-- Those of them for which the requester holds no path eighth yet. -/
def uncovered (e : Eng) (q : Nat) : List (List Nat) :=
  (e.spine.held.filter (·.1 == q)).foldl (fun l h => l.erase h.2.2) (transfersOf e q)

/-- Segment number i of a path is used three slots after number i - 1 (R218). -/
def pathSlots (slot : Nat) (segs : List Nat) : List (Nat × Nat) :=
  ((below segs.length).zip segs).map fun x => (x.2, slot + 3 * x.1)

/-- STATIC_EIGHTHS of the spine Hand of a slot, merged in a two-hand frame (R217, R219); none where the entry was found
uncorrectable (R229). -/
def staticEighths (e : Eng) (seg slot dir : Nat) : Nat :=
  if e.deck.looseSpine.contains (seg, slot, dir) then 0
  else
  let f := slot / 512
  let (a, b, two) := patternEntry (patternAt e f) f
  let byte (h : Nat) := bits (spineByte e seg h (slot % 512) dir) 0 4
  byte a + if two then byte b else 0

/-- The dynamic eighths of a spine slot that are allocated (R273). -/
def eighthsTaken (e : Eng) (seg slot dir : Nat) : Nat :=
  let held := e.spine.held.filter fun h => pathDir h.1 h.2.2 == dir && (pathSlots h.2.1 h.2.2).contains (seg, slot)
  let used := e.spine.used.filter fun u => u.1 == dir && (pathSlots u.2.1 u.2.2).contains (seg, slot)
  held.length + used.length

/-- Whether a path has a free eighth in every one of its slots (R273). -/
def pathFree (e : Eng) (dir slot : Nat) (segs : List Nat) : Bool :=
  (pathSlots slot segs).all fun x => staticEighths e x.1 x.2 dir + eighthsTaken e x.1 x.2 dir < 8

/-- The requesters in the order of a direction's rotation (R273). -/
def rotation (e : Eng) (dir : Nat) : List Nat :=
  let last := storeGet (fun _ => 73) e.spine.last dir
  (below 74).map fun k => (last + 1 + k) % 74

/-- Path eighths given one at a time until no requester of the direction can take another (R273). -/
def giveEighths (dir slot : Nat) : Nat → Eng → Eng
  | 0, e => e
  | fuel + 1, e =>
    let want (q : Nat) : Option (List Nat) :=
      (uncovered e q).find? fun segs => pathDir q segs == dir && pathFree e dir slot segs
    match (rotation e dir).findSome? fun q => (want q).map fun segs => (q, segs) with
    | none => e
    | some (q, segs) =>
      giveEighths dir slot fuel { e with spine := { e.spine with
        last := storeSet (fun _ => 73) dir q e.spine.last, held := e.spine.held ++ [(q, slot, segs)] } }

/-- Allocations whose slot has passed unused lapse (R273). -/
def lapseEighths (now : Nat) (e : Eng) : Eng :=
  let old := e.spine.held.filter fun h => h.2.1 < now
  let e := { e with spine := { e.spine with
    held := e.spine.held.filter fun h => !(h.2.1 < now), used := e.spine.used.filter fun u => now ≤ u.2.1 + 8 } }
  old.foldl (fun e h => h.2.2.foldl (fun e k => bump (0x3920 + k) 4 e) e) e

/-- SPINE_ALLOCATE (R273): the path eighths whose first segment lies in slot `abs`, 128 slots ahead of it. -/
def spineAllocate (dir abs : Nat) (e : Eng) : Eng :=
  if e.spBase.isNone then e
  else
    let e := advanceSp (8 * (abs - 128)) e
    giveEighths dir abs 24 (lapseEighths (spNow e / 8) e)

/-- SPINE_ALLOCATE (R273). -/
def execSpineAllocate (dir : Bool) (abs : Nat) (s : State) : Host.Outcome State Fault Refusal :=
  .next (onEng (spineAllocate (if dir then 1 else 0) abs) s)

/-! ### UCIe modules -/

/-- The fault source of a module's boundary (R264). -/
def moduleSource (m : Nat) : Nat := if m = 4 then 79 else 72 + m / 2

/-- The bytes of a poison map: one bit for each 32-bit word (R274). -/
def mapBytes (m : Nat) : Nat := if m = 4 then 4 else 8

/-- The poison map of a received unit goes with its data (R274): with the flit that a link unit holds, or with the data that
HST takes next. -/
def deliverUnit (m map : Nat) (e : Eng) : Eng :=
  if m = 4 then { e with hostPois := e.hostPois || decide (map ≠ 0) }
  else onLink (m / 2) (fun l => { l with unitPois := l.unitPois ++ [map] }) e

/-- UCIE_UNIT_RECEIVE (R274): a unit is checked by its CRC-32 over data and poison map and, on a link, by its sequence
number; a damaged one is delivered with every word in the poison code. -/
def unitReceive (m seq crc pois : Nat) (data : List Byte) (e : Eng) : Eng :=
  if reg e (0x3930 + m) 1 ≠ 2 then e
  else
    let words := data.length / 4
    let map := pois % 2 ^ words
    let inOrder := m = 4 ∨ seq = (linkOf e (m / 2)).unitSeq
    let good := crc = unitCrc (mapBytes m) data map && decide inOrder
    let e := if m = 4 then e else onLink (m / 2) (fun l => { l with unitSeq := (seq + 1) % 16 }) e
    let e := if good then e else e |> bump (0x3930 + m) 2 |> raise (moduleSource m) 0
    let map := if good then map else 2 ^ words - 1
    emit (.unit m data map) (deliverUnit m map (if map = 0 then e else bump (0x3930 + m) 3 e))

/-- UCIE_UNIT_RECEIVE (R274): a link unit holds 256 data bytes, a unit of HST 128. -/
def execUcieUnitReceive (m : Fin 5) (seq : BitVec 4) (crc : Word32) (pois : BitVec 64) (data : List Byte) (s : State) :
    Host.Outcome State Fault Refusal :=
  if data.length = (if m.val = 4 then 128 else 256) then
    .next (onEng (unitReceive m.val seq.toNat crc.toNat pois.toNat data) s)
  else .fault .outsideEnvironment

/-- A module begins to initialise (R275). -/
def startModule (m : Nat) (e : Eng) : Eng :=
  setReg (0x3930 + m) 1 1 { e with modules := storeSet (fun _ => 0) m e.now e.modules }

/-- A link agent whose modules both run is ready, and up where LINK_ENABLE says so (R275, R306). -/
def linkRises (p : Nat) (e : Eng) : Eng :=
  if reg e (0x3930 + 2 * p) 1 = 2 ∧ reg e (0x3931 + 2 * p) 1 = 2 ∧ reg e (0x5001 + p) 1 = 0 then
    onLink p (fun l => { l with readyAt := e.now }) (setReg (0x5001 + p) 1 (if reg e 0x5000 2 = 1 then 2 else 1) e)
  else e

/-- UCIE_INIT_TIMEOUT (R275): 1000 AONCLK have passed. A link agent stays in reset, and the start goes on; without HST
the start fails. -/
def moduleFails (m : Nat) (e : Eng) : Eng :=
  if reg e (0x3930 + m) 1 ≠ 1 then e
  else
    let e := setReg (0x3930 + m) 1 3 (advanceTo (storeGet (fun _ => 0) e.modules m + 1000 * aonT) e)
    if m = 4 then failStart 0x1212 e
    else e |> setReg (0x5001 + m / 2) 1 3 |> setPhase (72 + m / 2) .stuck |> raise (72 + m / 2) 0

/-- UCIE_MODULE_INIT_DONE (R275): within 1000 AONCLK; later, the module has failed. -/
def moduleDone (m : Nat) (e : Eng) : Eng :=
  if reg e (0x3930 + m) 1 ≠ 1 then e
  else if storeGet (fun _ => 0) e.modules m + 1000 * aonT < e.now then moduleFails m e
  else
    let e := setReg (0x3930 + m) 1 2 e
    if m = 4 then e else linkRises (m / 2) e

/-- UCIE_MODULE_INIT_DONE (R275). -/
def execUcieModuleInitDone (m : Fin 5) (s : State) : Host.Outcome State Fault Refusal :=
  .next (onEng (moduleDone m.val) s)

/-- UCIE_INIT_TIMEOUT (R275). -/
def execUcieInitTimeout (m : Fin 5) (s : State) : Host.Outcome State Fault Refusal :=
  .next (onEng (moduleFails m.val) s)

end Sys2Proof.Machine
end

