-- ==== Sys2Proof/Machine/Power.lean ====
section
/-! DEFINITION. The power port (spec/16_reset_clocks_power.md R395 to R402): budgets, the load plan and its forecasts,
the gate-step check, the window estimate with its allowances, and throttling. -/

namespace Sys2Proof.Machine

/-- The power port's state changed. -/
def onPower (f : Power → Power) (e : Eng) : Eng := { e with power := f e.power }

/-- The next AONCLK edge at or after a moment. -/
def aonEdge (e : Eng) (t : Nat) : Nat := e.powerOnAt + (t - e.powerOnAt + aonT - 1) / aonT * aonT

/-! ### Incoming messages -/

/-- Whether a cap lies in the range of R395: 60.0 W to 425.0 W. -/
def capOk (cap : Nat) : Bool := 600 ≤ cap && cap ≤ 4250

/-- A message that no rule acts on is counted in PWR_BAD (R395). -/
def badPower (e : Eng) : Eng := if e.run = .unpowered then e else bump 0x1103 6 e

/-- BUDGET (R395, R400): BUDGET_W at its receipt; the cap at the second window boundary after it. -/
def takeBudget (cap : Nat) (e : Eng) : Eng :=
  if e.run = .unpowered then e
  else if capOk cap then
    e |> setReg 0x1101 1 cap |> onPower (fun p => { p with budgets := p.budgets ++ [(p.windows + 2, cap)] })
  else badPower e

/-- BUDGET (R395, R400). -/
def execBudget (cap : BitVec 16) (s : State) : Host.Outcome State Fault Refusal :=
  .next (onEng (takeBudget cap.toNat) s)

/-- Whether an incoming message is unknown or out of range (R395). -/
def powerWordBad (w : Nat) : Bool :=
  match bits w 28 4 with
  | 1 => !capOk (bits w 0 16)
  | 2 => false
  | _ => true

/-- PWR_MESSAGE_BAD (R395): a message that is none of this kind is a command of its own. -/
def execPwrMessageBad (word : Word32) (s : State) : Host.Outcome State Fault Refusal :=
  .next (if powerWordBad word.toNat then onEng badPower s else s)

/-! ### The load plan -/

/-- An entry of a load plan (R396). -/
structure PlanEntry where
  valid : Bool
  clean : Bool
  pattern : Nat
  offset : Nat
  delta : Int
  ramp : Nat
  deriving DecidableEq, Repr

/-- Entry `k` of a load plan (R396); `clean` says that its reserved bits are zero. -/
def planEntry (plan : List Byte) (k : Nat) : PlanEntry :=
  let x := leNat ((plan.drop (8 * k)).take 8)
  { valid := bit x 0, clean := bits x 1 3 = 0 && bits x 48 16 = 0, pattern := bits x 4 4, offset := bits x 8 16,
    delta := signed 16 (bits x 24 16), ramp := bits x 40 8 }

/-- Check 0x1111 on an entry: its fields lie in the ranges of R396. -/
def PlanEntry.ok (x : PlanEntry) : Bool :=
  x.clean && (!x.valid || (x.offset < 4096 && decide (x.delta ≠ 0) && decide (-2048 ≤ x.delta) &&
    decide (x.delta ≤ 2047) && 1 ≤ x.ramp))

/-- Check 0x1112: the ramp is not too steep. -/
def PlanEntry.slow (x : PlanEntry) : Bool := !x.valid || (x.delta.natAbs + 39) / 40 ≤ x.ramp

/-- Where in the 16-frame cycle an entry's ramp begins, in SPCLK. -/
def PlanEntry.place (x : PlanEntry) : Nat := 4096 * x.pattern + x.offset

/-- Check 0x1113: valid entries lie at least 2048 SPCLK apart, counted cyclically. -/
def planSpaced (xs : List PlanEntry) : Bool :=
  let ps := (xs.filter (·.valid)).map (·.place)
  ((below ps.length).zip ps).all fun a => ((below ps.length).zip ps).all fun b =>
    a.1 == b.1 || (2048 ≤ (a.2 + 65536 - b.2) % 65536 && 2048 ≤ (b.2 + 65536 - a.2) % 65536)

/-- R397: the first failing check of a plan; 0 where it passes. -/
def planCheck (plan : List Byte) : Nat :=
  let xs := (below 32).map (planEntry plan)
  if !xs.all (·.ok) then 0x1111
  else if !xs.all (·.slow) then 0x1112
  else if !planSpaced xs then 0x1113
  else 0

/-- R397: the first frame F, a multiple of 16, that begins at least two frames after now. -/
def planFrame (e : Eng) : Nat :=
  match e.spBase with
  | none => 0
  | some b => ((e.now + 2 * frameT - b + frameT - 1) / frameT + 15) / 16 * 16

/-- A plan takes effect for steps in frames from `planFrame` on (R397). -/
def schedulePlan (plan : List Byte) (e : Eng) : Eng :=
  let f := planFrame e
  onPower (fun p => { p with
    plan := match p.planNext with | some (g, b) => if g < f then b else p.plan | none => p.plan
    planNext := some (f, plan) }) e

/-- The plan in force for steps of a frame. -/
def planOf (p : Power) (f : Nat) : List Byte :=
  match p.planNext with
  | some (g, b) => if g ≤ f then b else p.plan
  | none => p.plan

/-- LOAD_PLAN_COMMIT (R397). -/
def effLoadPlan : Effect := fun v s =>
  let e := s.eng
  match v with
  | 0 => (.ok, s)
  | 1 =>
    let plan := domBytes e 0x1102 1 0 256
    let d := planCheck plan
    if d = 0 then (.ok, onEng (fun e => schedulePlan plan (setReg 0x1102 3 0 e)) s)
    else (.badValue, onEng (setReg 0x1102 3 d) s)
  | 2 => (.ok, onEng (schedulePlan []) s)
  | _ => (.badValue, s)

/-- LOAD_PLAN_COMMIT (R397). -/
def execLoadPlanCommit (p : Port) (s : State) : Host.Outcome State Fault Refusal :=
  .next (portWrite p 0x1102 2 1 effLoadPlan s)

/-- LOAD_PLAN_DISABLE (R397). -/
def execLoadPlanDisable (p : Port) (s : State) : Host.Outcome State Fault Refusal :=
  .next (portWrite p 0x1102 2 2 effLoadPlan s)

/-- The next frame in which an entry of the plan begins a ramp that has not begun and is not forecast (R396). -/
def forecastFrame (e : Eng) (k : Nat) : Option Nat :=
  let sent := storeGet (fun _ => 0) e.power.sent k
  (upFrom (frameNo e) 20).find? fun f =>
    let x := planEntry (planOf e.power f) k
    x.valid && x.pattern == f % 16 && sent ≤ f && spNow e < 4096 * f + x.offset

/-- LOAD_FORECAST (R395, R396): sent at the first AONCLK edge at or after SPCLK 4096 f + OFFSET - 8192. -/
def loadForecast (k : Nat) (e : Eng) : Eng :=
  if !isReady e then e
  else match forecastFrame e k with
    | none => e
    | some f =>
      let x := planEntry (planOf e.power f) k
      let base := e.spBase.getD 0
      let ramp := base + 2 * (4096 * f + x.offset)
      let e := advanceTo (aonEdge e (ramp - 16384)) e
      let lead := (ramp - e.now) / aonT
      let word := 2 ^ 28 + x.ramp * 2 ^ 20 + lead % 256 * 2 ^ 12 + unsigned 12 x.delta
      let now := e.now
      let ramps := (ramp, ramp + x.ramp * aonT) :: e.power.ramps.filter fun (r : Nat × Nat) => now ≤ r.2
      let e := onPower (fun p => { p with sent := storeSet (fun _ => 0) k (f + 1) p.sent, ramps }) e
      sendPwr (BitVec.ofNat 32 word) (bump 0x1103 1 e)

/-- LOAD_FORECAST (R396). -/
def execLoadForecast (k : Fin 32) (s : State) : Host.Outcome State Fault Refusal := .next (onEng (loadForecast k.val) s)

/-- LOAD_STATUS (R395): every 1000 AONCLK; in reset and in recovery mode with value 0. -/
def loadStatus (e : Eng) : Eng :=
  if e.run = .unpowered then e
  else
    let e := advanceTo (max e.powerOnAt e.power.statusAt + 1000 * aonT) e
    let v := if isReady e then reg e 0x1101 3 else 0
    sendPwr (BitVec.ofNat 32 (6 * 2 ^ 28 + v)) (onPower (fun p => { p with statusAt := e.now }) e)

/-- LOAD_STATUS (R395). -/
def execLoadStatus (s : State) : Host.Outcome State Fault Refusal := .next (onEng loadStatus s)

/-! ### The gate-step check -/

/-- R399: a gate change joins the running sum of the last 2 µs; an unannounced sum beyond 20 A is counted and raised. -/
def gateStep (ma : Int) (e : Eng) : Eng :=
  let gates : List (Nat × Int) := (e.now, ma) :: e.power.gates.filter fun (g : Nat × Int) => e.now < g.1 + 2 * aonT
  let e := onPower (fun p => { p with gates }) e
  let covered := e.power.ramps.any fun r => r.1 ≤ e.now && e.now < r.2
  let total : Int := gates.foldl (fun a g => a + g.2) 0
  if 20000 < total.natAbs ∧ !covered then e |> bump 0x1103 2 |> raise 85 0x1122 else e

/-- The current of a unit group in mA (R399). -/
def groupCurrent (result : Bool) : Int := if result then 1330 else 4000

/-- A group's gate (R207). -/
def gateOf (e : Eng) (s : Nat) (result : Bool) : Gate :=
  if result then (dockOf e s).resultGate else (dockOf e s).operandGate

/-- UNIT_GROUP_OPEN (R207, R399). -/
def unitGroupOpen (s : Nat) (result : Bool) (e : Eng) : Eng :=
  match gateOf e s result with
  | .opening _ => gateStep (groupCurrent result) (openGroup s result e)
  | _ => e

/-- UNIT_GROUP_OPEN (R207, R399). -/
def execUnitGroupOpen (s : Fin 48) (result : Bool) (st : State) : Host.Outcome State Fault Refusal :=
  .next (onEng (unitGroupOpen s.val result) st)

/-- UNIT_GROUP_CLOSE (R207, R399). -/
def unitGroupClose (s : Nat) (result : Bool) (e : Eng) : Eng :=
  let e' := closeGroup s result e
  if gateOf e s result = .closing ∧ gateOf e' s result = .closed then gateStep (-groupCurrent result) e' else e'

/-- UNIT_GROUP_CLOSE (R207, R399). -/
def execUnitGroupClose (s : Fin 48) (result : Bool) (st : State) : Host.Outcome State Fault Refusal :=
  .next (onEng (unitGroupClose s.val result) st)

/-! ### The window -/

/-- P_est of a window in eighths of a mW (R400): 60.2 W, 3.0 W for each operand group open, 1.0 W for each result group
open, and 28.125 mW for each card that carried a sector. -/
def estimate (e : Eng) (cards : Nat) : Nat :=
  let ops := (e.docks.filter fun d => d.2.operandGate.isOpen).length
  let res := (e.docks.filter fun d => d.2.resultGate.isOpen).length
  481600 + 24000 * ops + 8000 * res + 225 * cards

/-- OVER_BUDGET (R400): counted in every window, raised, and sent at most once per 1000 AONCLK. -/
def overBudget (p : Nat) (e : Eng) : Eng :=
  let e := e |> bump 0x1103 3 |> raise 85 0x1121
  if e.power.overAt.all fun (t : Nat) => t + 1000 * aonT ≤ e.now then
    sendPwr (BitVec.ofNat 32 (7 * 2 ^ 28 + p)) (onPower (fun w => { w with overAt := some e.now }) e)
  else e

/-- POWER_WINDOW_BOUNDARY (R398, R400): the window that ends is estimated, budgets whose boundary this is take effect,
and each stack agent gets its allowance of plain dynamic grants. -/
def windowBoundary (e : Eng) : Eng :=
  if e.spBase.isNone then e
  else
    let w := e.power.windows + 1
    let e := advanceSp (512 * w) e
    let p := estimate e (e.power.cards + e.power.plain) / 800
    let plainless := estimate e e.power.cards
    let cap := ((e.power.budgets.filter fun b => b.1 ≤ w).getLast?.map (·.2)).getD e.power.cap
    let e := onPower (fun x => { x with
      windows := w, cap, budgets := x.budgets.filter (fun b => w < b.1), cards := 0, plain := 0 }) e
    let limit := (cap - reg e 0x1101 2) * 800
    let share := (limit - plainless) / (24 * 225)
    let e := setReg 0x1101 3 p e
    let e := (below 24).foldl (fun e n => onAgent n (fun a => { a with
      allowance := min share (a.windowCards + reg e 0x1101 4), windowCards := 0 }) e) e
    if limit < plainless then overBudget p e else e

/-- POWER_WINDOW_BOUNDARY (R400). -/
def execPowerWindowBoundary (s : State) : Host.Outcome State Fault Refusal := .next (onEng windowBoundary s)

/-! ### Throttling -/

/-- THROTTLE_REPEAT (R402): a standing request is repeated every 1000 AONCLK. -/
def throttleRepeat (n : Nat) (e : Eng) : Eng :=
  if bit (reg e 0x1104 1) n then
    let e := throttleMessage n 1 (advanceTo (storeGet (fun _ => 0) e.power.throttleAt n) e)
    onPower (fun p => { p with throttleAt := storeSet (fun _ => 0) n (e.now + 1000 * aonT) p.throttleAt }) e
  else e

/-- THROTTLE_REPEAT (R402). -/
def execThrottleRepeat (n : Fin 24) (s : State) : Host.Outcome State Fault Refusal :=
  .next (onEng (throttleRepeat n.val) s)

/-- THROTTLE_LIMIT_EXPIRY (R402): a request that has stood for THROTTLE_LIMIT AONCLK raises source 85, which is
escalated (R406). -/
def throttleLimit (n : Nat) (e : Eng) : Eng :=
  let since := storeGet (fun _ => 0) e.power.throttleSince n
  if bit (reg e 0x1104 1) n ∧ since ≠ 0 then
    let e := advanceTo (since - 1 + reg e 0x1104 2 * aonT) e
    raise 85 0x1131 (onPower (fun p => { p with throttleSince := storeSet (fun _ => 0) n 0 p.throttleSince }) e)
  else e

/-- THROTTLE_LIMIT_EXPIRY (R402). -/
def execThrottleLimitExpiry (n : Fin 24) (s : State) : Host.Outcome State Fault Refusal :=
  .next (onEng (throttleLimit n.val) s)

end Sys2Proof.Machine
end

