-- ==== Sys2Proof/Machine/Firmware.lean ====
section
/-! DEFINITION. Oprun firmware and mailboxes (spec/15_oprun_firmware.md R352 to R376): images and their checks, the
mailboxes and their messages, cores and their restart, compartments, handover, and orphan mode. -/

namespace Sys2Proof.Machine

/-- The firmware's supervision changed. -/
def onFw (f : Fw → Fw) (e : Eng) : Eng := { e with fw := f e.fw }

/-- The index of a core's entries (R377). -/
def coreIdx (k : Nat) : Nat := 0x6008 + k

/-- CORE_STATE (R377). -/
def coreState (e : Eng) (k : Nat) : Nat := reg e (coreIdx k) 1

/-- FW_STATE (R377). -/
def fwState (e : Eng) : Nat := reg e 0x6000 1

/-- FW_STATE set. -/
def setFwState (v : Nat) (e : Eng) : Eng := setReg 0x6000 1 v e

/-! ### The firmware RAM and images -/

/-- The size of an image region, and the region in which FW_INCOMING writes (R352). -/
def regionSize : Nat := 983040

@[inherit_doc regionSize]
def incomingRegion (e : Eng) : Nat := if e.fw.active then 1 - reg e 0x6000 3 else 0

/-- A byte of the firmware RAM, by its offset; unwritten ones are free values of the RAM's generation. -/
def fwByte (e : Eng) (a : Nat) : Byte :=
  storeGet (fun k => Config.undefByte (storeGet (fun _ => e.genBase) e.gens 1000) (2 ^ 60 + k)) e.fwRam a

/-- Bytes of the firmware RAM. -/
def fwBytes (e : Eng) (a n : Nat) : List Byte := (below n).map fun k => fwByte e (a + k)

/-- Bytes of the firmware RAM written. -/
def setFwBytes (a : Nat) (bs : List Byte) (e : Eng) : Eng :=
  { e with fwRam := ((below bs.length).zip bs).foldl (fun m x => memPut (a + x.1) x.2 m) e.fwRam }

/-- A field of the header of the image in a region (R353). -/
def imageField (e : Eng) (region k n : Nat) : Nat := leNat (fwBytes e (region * regionSize + k) n)

/-- IMAGE_CRC as the hardware computes it (R353): bytes 60 to 63 are taken as zero. -/
def imageCrc (e : Eng) (region len : Nat) : Nat :=
  crc32 (fwBytes e (region * regionSize) 60 ++ List.replicate 4 0 ++ fwBytes e (region * regionSize + 64) (len - 64))

/-- The highest HANDOVER field test of check 0x6006. -/
def handoverFits (e : Eng) (region : Nat) : Bool :=
  let out := imageField e (1 - region) 40 2
  imageField e region 36 2 ≤ out && out ≤ imageField e region 38 2

/-- R354: the first failing check of the image in the incoming region, for a BOOT or an UPDATE with a LENGTH and CRC. -/
def checkImage (e : Eng) (update : Bool) (len crc : Nat) : Option Ending :=
  let r := incomingRegion e
  let f := imageField e r
  let minHw := f 44 4
  if !(len = f 12 4 && 64 ≤ len && len ≤ regionSize && len % 64 = 0) then some ⟨.badDescriptor, 0x6001⟩
  else if !(f 0 4 = 0x4E52504F && f 4 1 = 1 && f 7 1 = 0 && f 11 1 = 0 && f 42 2 = 0 && f 48 12 = 0) then
    some ⟨.badDescriptor, 0x6002⟩
  else if !(f 60 4 = imageCrc e r len && crc = imageCrc e r len) then some ⟨.badDescriptor, 0x6003⟩
  else if !(f 5 1 = 1 && f 6 1 = 3 && bits minHw 16 8 = 3 && minHw ≤ reg e 0x1001 1) then some ⟨.denied, 0x6004⟩
  else if !((below 4).all fun k => f (16 + 4 * k) 4 % 4 = 0 && f (16 + 4 * k) 4 < len && f (32 + k) 1 < 16) then
    some ⟨.badDescriptor, 0x6005⟩
  else if update && !handoverFits e r then some ⟨.denied, 0x6006⟩
  else none

/-! ### Messages -/

/-- The 16-byte header of a message in format 3 (R363). -/
def mboxHeader (type seq len status detail : Nat) : List Byte :=
  leBytes 1 3 ++ leBytes 1 type ++ leBytes 2 seq ++ leBytes 2 len ++ leBytes 1 status ++ leBytes 1 0 ++
    leBytes 2 detail ++ leBytes 6 0

/-- A reply is placed in the queue, and the host-to-firmware mailbox is empty again (R364). -/
def reply (type seq : Nat) (z : Ending) (payload : List Byte) (e : Eng) : Eng :=
  setReg 0x6002 3 0 (onFw (fun f => { f with
    taken := none
    queue := f.queue ++ [mboxHeader (type ||| 0x80) seq payload.length z.status.code z.detail ++ payload] }) e)

/-- A notification is queued; one that finds the queue full is dropped and counted (R364). SEQ counts them since BOOT
(R363). -/
def notice (type : Nat) (payload : List Byte) (e : Eng) : Eng :=
  let m := mboxHeader type (e.fw.notices % 65536) payload.length 0 0 ++ payload
  let e := onFw (fun f => { f with notices := f.notices + 1 }) e
  if e.fw.queue.length < 16 then onFw (fun f => { f with queue := f.queue ++ [m] }) e else bump 0x6020 8 e

/-- A field of a message. -/
def msgField (m : List Byte) (k n : Nat) : Nat := leNat ((m.drop k).take n)

/-- The request payload length of a known type (R365). -/
def requestLength : Nat → Option Nat
  | 1 | 2 | 3 | 4 => some 8
  | 5 => some 4
  | 6 => some 0
  | _ => none

/-- Bytes of the retained store written (R389): journals, reset log, user bytes. -/
def setRetained (off : Nat) (bs : List Byte) (e : Eng) : Eng :=
  ((below bs.length).zip bs).foldl (fun e x =>
    let a := off + x.1
    if a < 0x3000 then setDomBytes 0x1203 1 a [x.2] e
    else if a < 0x3080 then setDomBytes 0x1203 2 (a - 0x3000) [x.2] e
    else setDomBytes 0x1203 3 (a - 0x3080) [x.2] e) e

/-- Whether every reserved byte of a request is zero (R21, R363, R365): of its header, and of CORE_RESTART's payload. -/
def requestReserved (m : List Byte) : Bool :=
  msgField m 7 1 == 0 && msgField m 10 6 == 0 && (msgField m 1 1 ≠ 5 || msgField m 17 3 == 0)

/-- R364: the detail of the check that a posted message fails. The manual states none for a reserved byte (R21): free
(log entry 143). -/
def requestBad (e : Eng) (m : List Byte) : Option Nat :=
  if msgField m 0 1 ≠ 3 then some 0x6010
  else match requestLength (msgField m 1 1) with
    | none => some 0x6011
    | some n =>
      if msgField m 4 2 ≠ n then some 0x6012
      else if requestReserved m then none else some (Config.freeNat e.fresh % 2 ^ 16)

/-- Whether the mailbox is served: by the ROM or by a running CP0, with room in the queue (R355, R357, R364). -/
def servesMailbox (e : Eng) : Bool :=
  (e.run == .recovery || (controlUp e && (coreState e 0 == 1 || coreState e 0 == 2))) && e.fw.queue.length < 16

/-- The posted message, where it can be taken. -/
def posted (e : Eng) : Option (List Byte) :=
  if servesMailbox e ∧ reg e 0x6002 3 = 1 then some (domBytes e 0x6002 1 0 256) else none

/-- A posted request of one type is taken (R364). Where no image is active, the ROM answers HELLO and BOOT, and every
other request with DENIED (R355). -/
def takeRequest (type : Nat) (f : List Byte → Nat → Eng → Eng) (e : Eng) : Eng :=
  match posted e with
  | none => e
  | some m =>
    if (requestBad e m).isSome ∨ msgField m 1 1 ≠ type then e
    else
      let seq := msgField m 2 2
      if !e.fw.active ∧ type ≠ 1 ∧ type ≠ 2 then reply type seq ⟨.denied, 0x6013⟩ [] e
      else f m seq e

/-- MAILBOX_BAD_REQUEST (R364). -/
def mailboxBad (e : Eng) : Eng :=
  match posted e with
  | none => e
  | some m =>
    match requestBad e m with
    | none => e
    | some d => bump 0x6020 7 (reply (msgField m 1 1) (msgField m 2 2) ⟨.badEntry, d⟩ [] (takeFree e).2)

/-- MAILBOX_BAD_REQUEST (R364). -/
def execMailboxBadRequest (s : State) : Host.Outcome State Fault Refusal := .next (onEng mailboxBad s)

/-- H2F_CTRL (R364): POST. -/
def effH2fCtrl : Effect := fun v s =>
  match v with
  | 0 => (.ok, s)
  | 1 => if reg s.eng 0x6002 3 = 0 then (.ok, onEng (setReg 0x6002 3 1) s) else (.denied, s)
  | _ => (.badValue, s)

/-- H2F_POST (R364). -/
def execH2fPost (p : Port) (s : State) : Host.Outcome State Fault Refusal :=
  .next (portWrite p 0x6002 2 1 effH2fCtrl s)

/-- The oldest queued message is copied into F2H_MSG (R364). -/
def copyMail (e : Eng) : Eng :=
  match e.fw.queue with
  | [] => e
  | m :: rest =>
    setDomBytes 0x6003 1 0 (m ++ List.replicate (256 - m.length) 0) (onFw (fun f => { f with queue := rest }) e)

/-- SEND (R364): the oldest message is copied into F2H_MSG, the mailbox becomes FULL, and MBOX_VECTOR is sent through HST.
With no message queued F2H_MSG is sent as a core has left it; a SEND while the mailbox is FULL has no effect (log entry
151). -/
def sendMail (e : Eng) : Eng :=
  if reg e 0x6003 3 ≠ 0 then e
  else
    let e := setReg 0x6003 3 1 (copyMail e)
    if e.run = .recovery then e else sendMsi (reg e 0x6003 4) e

/-- F2H_CTRL (R364, R377): ACK from H or D, SEND from F; any other port or code is refused. -/
def effF2hCtrl (p : Port) : Effect := fun v s =>
  match v, p with
  | 1, .h => (.ok, onEng (setReg 0x6003 3 0) s)
  | 1, .d => (.ok, onEng (setReg 0x6003 3 0) s)
  | 2, .f _ => (.ok, onEng sendMail s)
  | _, _ => (.denied, s)

/-- F2H_SEND (R364); in recovery mode the ROM sends (R388). -/
def execF2hSend (p : Port) (s : State) : Host.Outcome State Fault Refusal :=
  if s.eng.run = .recovery ∧ p = .f 0 then .next (if s.eng.fw.queue.isEmpty then s else onEng sendMail s)
  else .next (portWrite p 0x6003 2 2 (effF2hCtrl p) s)

/-- F2H_ACK (R364). -/
def execF2hAck (p : Port) (s : State) : Host.Outcome State Fault Refusal :=
  .next (portWrite p 0x6003 2 1 (effF2hCtrl p) s)

/-! ### Compartments -/

/-- A field of a compartment's record (R359). -/
def compField (e : Eng) (c k n : Nat) : Nat := domNat e (0x6010 + c) 1 k n

/-- Whether a core may enter a compartment: VALID, and its bit of CORE_MASK (R359, R361). -/
def mayEnter (e : Eng) (c k : Nat) : Bool := bit (compField e c 0 1) 0 && bit (compField e c 1 1) k

/-- Whether one window of a record grants a right over bytes (R361). -/
def windowGrants (rec : List Byte) (right a n : Nat) : Bool :=
  (below 6).any fun w =>
    let base := leNat ((rec.drop (16 + 16 * w)).take 4)
    let size := leNat ((rec.drop (20 + 16 * w)).take 4)
    bit (leNat ((rec.drop (24 + 16 * w)).take 1)) right && base ≤ a && a + n ≤ base + size

/-- The record of a compartment. -/
def compRecord (e : Eng) (c : Nat) : List Byte := domBytes e (0x6010 + c) 1 0 128

/-- The reserved bits of a compartment's record dropped (R21, R359). -/
def cleanRecord (bs : List Byte) : List Byte :=
  ((below bs.length).zip bs).map fun x =>
    let k := x.1
    let w := (k - 16) % 16
    if k = 0 then x.2 &&& 3
    else if k = 1 then x.2 &&& 15
    else if k = 2 ∨ k = 3 then 0
    else if 16 ≤ k ∧ k < 112 ∧ w = 8 then x.2 &&& 7
    else if 16 ≤ k ∧ k < 112 ∧ 8 < w then 0
    else x.2

/-- Whether a record meets R359. -/
def recordOk (bs : List Byte) : Bool :=
  (below 6).all (fun w => leNat ((bs.drop (16 + 16 * w)).take 4) % 64 = 0 &&
    leNat ((bs.drop (20 + 16 * w)).take 4) % 64 = 0) &&
  (below 4).all fun j => leNat ((bs.drop (112 + 4 * j)).take 4) % 4 = 0

/-- A write of a compartment's record (R360): from a core without PRIV it is refused; a record that breaks R359, or that
takes from the writing core the window it executes from, is not taken. -/
def writeCompartment (p : Port) (c off : Nat) (bs : List Byte) (s : State) : Access × State :=
  match p with
  | .f k =>
    let own := reg s.eng (coreIdx k.val) 5
    let old := compRecord s.eng c
    let new := cleanRecord (old.take off ++ bs ++ old.drop (off + bs.length))
    let pc := storeGet (fun _ => 0) s.eng.fw.pcs k.val
    if !bit (compField s.eng own 0 1) 1 then (.denied, s)
    else if !recordOk new ∨ (c = own ∧ !windowGrants new 2 pc 4) then (.badValue, s)
    else (.ok, onEng (setDomBytes (0x6010 + c) 1 0 new) s)
  | _ => (.noRight, s)

/-! ### Cores -/

/-- The ring entries whose jobs a compartment owns and that have not started end ABORTED 0x6041; its RESHARD jobs end
ABORTED 0x6042 once their moves complete, without their wait (R366). The count of the jobs ended. -/
def abortOwned (c : Nat) (e : Eng) : Nat × Eng :=
  let mine := e.rings.flatMap fun g => (g.2.entries.filter (·.owner == c)).map fun x => (g.1, x)
  let waiting := mine.filter fun x => x.2.stage == .taken || x.2.stage == .checking
  let plans := mine.filter fun x => x.2.stage == .started && opcodeOf x.2.bytes == 10
  let e := waiting.foldl (fun e x => dropEntry x.1 ⟨.aborted, 0x6041⟩ x.2 e) e
  let e := plans.foldl (fun e x =>
    match entryJob e x.1 x.2 with
    | none => e
    | some j =>
      setJob { j with todo := [], waits := [], ending := some (j.ending.getD ⟨.aborted, 0x6042⟩), stage := .ended }
        (dropSemOps (.job j.id) (withdrawReads j.id e))) e
  (waiting.length + plans.length, e)

/-- A core is released at its ENTRY in its INIT_COMPARTMENT, with the entry cause in a0 (R353, R361, R366): whether that
compartment admits it. -/
def enterImage (k cause : Nat) (e : Eng) : Bool × Eng :=
  let r := reg e 0x6000 3
  let c := imageField e r (32 + k) 1 % 16
  let pc := 0x10000000 + r * regionSize + imageField e r (16 + 4 * k) 4
  let e := e |> setReg (coreIdx k) 5 c |> onFw (fun f => { f with
    pcs := storeSet (fun _ => 0) k pc f.pcs, causes := storeSet (fun _ => 0) k cause f.causes })
  (mayEnter e c k, e)

/-- The record of a compartment fault (R361): kind, address, dictionary index. -/
def noteCompFault (k kind addr idx : Nat) (e : Eng) : Eng :=
  e |> bump 0x6020 1 |>
    setReg 0x6021 1 (k + reg e (coreIdx k) 5 * 2 ^ 2 + kind * 2 ^ 6 + addr % 2 ^ 32 * 2 ^ 32 + idx % 2 ^ 16 * 2 ^ 64)

/-- R366, R367: a restart of a core, with its cause and program counter. The fourth within 1 s stops it instead. A core
whose INIT_COMPARTMENT does not let it in meets a compartment fault at once and is restarted again. -/
def restartLoop : Nat → Nat → Nat → Nat → Eng → Eng
  | 0, _, _, _, e => e
  | fuel + 1, k, cause, pc, e =>
    let c := reg e (coreIdx k) 5
    let recent := e.fw.restarts.filter fun r => r.1 == k && e.now < r.2 + 1000000 * aonT
    let e := onFw (fun f => { f with kicks := f.kicks.filter (·.1 ≠ k) }) e
    if 3 ≤ recent.length then
      let e := e |> setReg (coreIdx k) 1 4 |> raise (74 + k) 0x6045
      if k = 1 then onFw (fun f => { f with ringHeld := true }) e else e
    else
      let e := e |> bump (coreIdx k) 4 |>
        setReg (coreIdx k) 6 (cause + c * 2 ^ 2 + pc % 2 ^ 32 * 2 ^ 8) |> setReg (coreIdx k) 1 3
      let (n, e) := abortOwned c e
      let now := e.now
      let e := onFw (fun f => { f with
        restarts := f.restarts ++ [(k, now)]
        restartsBoot := storeSet (fun _ => 0) k (storeGet (fun _ => 0) f.restartsBoot k + 1) f.restartsBoot
        ended := storeSet (fun _ => 0) k n f.ended
        checking := if k = 0 then none else f.checking
        ringHeld := f.ringHeld || k == 1 }) e
      let (ok, e) := enterImage k 1 e
      if ok then e
      else restartLoop fuel k 2 (storeGet (fun _ => 0) e.fw.pcs k)
        (noteCompFault k 0 (storeGet (fun _ => 0) e.fw.pcs k) 0 e)

/-- R366: a core that runs its image is restarted. -/
def restartCore (k cause pc : Nat) (e : Eng) : Eng :=
  if coreState e k = 2 ∨ coreState e k = 3 then restartLoop 4 k cause pc e else e

/-- A restart whose cause code the manual does not state: one of the three, free (R365, R406). -/
def restartUncaused (k : Nat) (e : Eng) : Eng :=
  let (x, e) := takeFree e
  restartCore k (1 + x % 3) (storeGet (fun _ => 0) e.fw.pcs k) e

/-- R353, R355, R361, R372: a core starts the active image, from reset or in a handover. -/
def startCore (k cause : Nat) (e : Eng) : Eng :=
  let (ok, e) := enterImage k cause e
  let now := e.now
  let e := setReg (coreIdx k) 1 2 (onFw (fun f => { f with kicks := storeSet (fun _ => 0) k now f.kicks }) e)
  if ok then e
  else
    let pc := storeGet (fun _ => 0) e.fw.pcs k
    let e := noteCompFault k 0 pc 0 e
    if e.fw.handover.isSome then e else restartCore k 2 pc e

/-- CORE_RUN (R355): a bit that becomes 1 releases its core. -/
def effCoreRun : Effect := fun v s =>
  (.ok, onEng (fun e =>
    [1, 2, 3].foldl (fun e k => if bit v k && coreState e k == 0 && e.fw.active then startCore k 0 e else e)
      (setReg 0x6000 6 v e)) s)

/-- CORE_RUN_WRITE (R355). -/
def execCoreRunWrite (p : Port) (v : Word32) (s : State) : Host.Outcome State Fault Refusal :=
  .next (portWrite p 0x6000 6 v.toNat effCoreRun s)

/-- Whether a core's journal passes R368. -/
def journalOk (e : Eng) (k : Nat) : Bool :=
  let f (a n : Nat) := domNat e 0x1203 1 (0x0C00 * k + a) n
  let len := 32 + 32 * f 12 2
  let bs := domBytes e 0x1203 1 (0x0C00 * k) len
  f 0 4 = 0x4C4E524A && f 4 4 = reg e 0x6000 4 && f 12 2 ≤ 95 &&
    f 28 4 = crc32 (bs.take 28 ++ List.replicate 4 0 ++ bs.drop 32)

/-- CORE_STATE (R366, R377): running, after a restart; the notifications of the restart, and the reply that a restarted
CP0 owes. -/
def coreRunning (k : Nat) (e : Eng) : Eng :=
  let now := e.now
  let e := setReg (coreIdx k) 1 2 (onFw (fun f => { f with
    kicks := storeSet (fun _ => 0) k now f.kicks, ringHeld := f.ringHeld && k != 1 }) e)
  let last := reg e (coreIdx k) 6
  let e := match k, e.fw.taken with
    | 0, some m => reply (msgField m 1 1) (msgField m 2 2) ⟨.aborted, 0x6043⟩ [] e
    | _, _ => e
  let e := notice 0x41 (leBytes 1 k ++ leBytes 1 (bits last 0 2) ++ leBytes 1 (bits last 2 4) ++ leBytes 1 0 ++
    leBytes 4 (storeGet (fun _ => 0) e.fw.ended k)) e
  let e := if journalOk e k then e else notice 0x42 (leBytes 4 k) e
  if k = 1 then serveRings e else e

/-- CORE_STATE (R377). -/
def effCoreState (k : Nat) : Effect := fun v s =>
  if v ≠ 2 then (.badValue, s)
  else if coreState s.eng k = 3 then (.ok, onEng (coreRunning k) s)
  else (.denied, s)

/-- CORE_STATE_RUNNING (R366). -/
def execCoreStateRunning (p : Port) (k : Fin 4) (s : State) : Host.Outcome State Fault Refusal :=
  .next (portWrite p (coreIdx k.val) 1 2 (effCoreState k.val) s)

/-! ### Handover -/

/-- The active region becomes the other one; nothing has been written to the region that is incoming now. -/
def switchRegion (e : Eng) : Eng := setReg 0x6001 1 0 (setReg 0x6000 3 (1 - reg e 0x6000 3) e)

/-- The cores start the image in the active region (R372); a core that has failed stays out. -/
def startCores (e : Eng) : Eng := (below 4).foldl (fun e k => if coreState e k = 4 then e else startCore k 2 e) e

/-- Whether every core that runs is in a compartment that lets it in (R361). -/
def startsAdmitted (e : Eng) : Bool := (below 4).all fun k => coreState e k ≠ 2 || mayEnter e (reg e (coreIdx k) 5) k

/-- R372: the handover is rolled back. -/
def rollBack (e : Eng) : Eng :=
  match e.fw.handover with
  | none => e
  | some h =>
    if h.rolled then e
    else
      let e := bump 0x6020 3 (onFw (fun f => { f with handover := some { h with rolled := true, ready := false } }) e)
      startCores (if h.switched then switchRegion e else e)

/-- A watchdog expiry or compartment fault: a restart, or in a handover a rollback (R366, R372). -/
def coreFails (k cause pc : Nat) (e : Eng) : Eng :=
  if e.fw.handover.isSome then rollBack e else restartCore k cause pc e

/-- CORE_WATCHDOG_EXPIRY (R362, R404). -/
def watchdogExpiry (k pc : Nat) (e : Eng) : Eng :=
  match e.fw.kicks.lookup k with
  | some t =>
    if coreState e k = 2 then coreFails k 1 pc (raise 87 0 (advanceTo (t + reg e (coreIdx k) 2 * aonT) e)) else e
  | none => e

/-- CORE_WATCHDOG_EXPIRY (R362). -/
def execCoreWatchdogExpiry (k : Fin 4) (pc : Word32) (s : State) : Host.Outcome State Fault Refusal :=
  .next (onEng (watchdogExpiry k.val pc.toNat) s)

/-- WDOG_KICK_k (R362). A kick that comes after the period has passed finds the watchdog expired. -/
def effWdogKick (k : Nat) : Effect := fun _ s =>
  (.ok, onEng (fun e =>
    if (e.fw.kicks.lookup k).any fun t => t + reg e (coreIdx k) 2 * aonT < e.now then
      watchdogExpiry k (storeGet (fun _ => 0) e.fw.pcs k) e
    else if coreState e k = 2 then onFw (fun f => { f with kicks := storeSet (fun _ => 0) k e.now f.kicks }) e
    else e) s)

/-- WDOG_KICK (R362). -/
def execWdogKick (p : Port) (k : Fin 4) (s : State) : Host.Outcome State Fault Refusal :=
  .next (portWrite p (coreIdx k.val) 3 1 (effWdogKick k.val) s)

/-- HANDOVER_SAFE_POINT_DEADLINE (R372): 100 µs into the pause; where every core has parked, the switch is made. A
compartment fault as the new image starts is a rollback too. -/
def safePoint (parked : Bool) (e : Eng) : Eng :=
  match e.fw.handover with
  | none => e
  | some h =>
    if h.switched ∨ h.rolled then e
    else
      let e := advanceTo (h.at_ + 100 * aonT) e
      if parked then
        let e := startCores (switchRegion (onFw (fun f => { f with handover := some { h with switched := true } }) e))
        if startsAdmitted e then e else rollBack e
      else rollBack e

/-- HANDOVER_SAFE_POINT_DEADLINE (R372). -/
def execHandoverSafePointDeadline (parked : Bool) (s : State) : Host.Outcome State Fault Refusal :=
  .next (onEng (safePoint parked) s)

/-- HANDOVER_READY_DEADLINE (R372): 300 µs into the pause. -/
def readyDeadline (e : Eng) : Eng :=
  match e.fw.handover with
  | some h => if h.switched ∧ !h.rolled ∧ !h.ready then rollBack (advanceTo (h.at_ + 300 * aonT) e) else e
  | none => e

/-- HANDOVER_READY_DEADLINE (R372). -/
def execHandoverReadyDeadline (s : State) : Host.Outcome State Fault Refusal := .next (onEng readyDeadline s)

/-- HANDOVER_OLD_READY_DEADLINE (R372): 480 µs into the pause CP0 is restarted with the old image. -/
def oldReadyDeadline (e : Eng) : Eng :=
  match e.fw.handover with
  | some h => if h.rolled ∧ !h.ready then restartUncaused 0 (advanceTo (h.at_ + 480 * aonT) e) else e
  | none => e

/-- HANDOVER_OLD_READY_DEADLINE (R372). -/
def execHandoverOldReadyDeadline (s : State) : Host.Outcome State Fault Refusal := .next (onEng oldReadyDeadline s)

/-! ### Boot -/

/-- The version that the image of the active region carries. -/
def imageVersion (e : Eng) : Nat := imageField e (reg e 0x6000 3) 8 4

/-- BOOT passes (R355): region 0 becomes active, the reply is sent, the journals are cleared, BOOT_GEN advances, and
CP0 starts. -/
def bootPasses (seq : Nat) (e : Eng) : Eng :=
  let e := setFwState 2 (setReg 0x6001 1 0 (setReg 0x6000 3 0
    (onFw (fun f => { f with active := true, checking := none }) e)))
  let e := onFw (fun f => { f with notices := 0, restartsBoot := [] }) (reply 2 seq okDone [] e)
  let e := setReg 0x6000 4 ((reg e 0x6000 4 + 1) % 2 ^ 32) (clearDom 0x1203 1 e)
  startCore 0 0 (clearDom 0x6010 1 e)

/-- UPDATE passes (R369, R372): the pause begins. -/
def updatePasses (seq : Nat) (e : Eng) : Eng :=
  let h : Handover := { at_ := e.now, seq, oldVersion := reg e 0x6000 2 }
  setReg 0x4000 1 2 (setFwState 4 (onFw (fun f => { f with checking := none, handover := some h }) e))

/-- IMAGE_CHECK_COMPLETE (R354). A BOOT whose start has failed meanwhile is answered as one sent then (log entry 91). -/
def imageCheck (e : Eng) : Eng :=
  match e.fw.checking, e.fw.taken with
  | some (type, seq), some m =>
    match checkImage e (type = 3) (msgField m 16 4) (msgField m 20 4) with
    | some z =>
      let e := onFw (fun f => { f with checking := none }) e
      reply type seq z [] (if type = 2 ∧ fwState e = 1 then setFwState 0 e else e)
    | none =>
      if type = 2 then
        if fwState e = 1 then bootPasses seq e
        else reply 2 seq ⟨.denied, 0x6015⟩ [] (onFw (fun f => { f with checking := none }) e)
      else if fwState e = 3 then updatePasses seq e
      else reply 3 seq ⟨.denied, 0x6007⟩ [] (onFw (fun f => { f with checking := none }) e)
  | _, _ => e

/-- IMAGE_CHECK_COMPLETE (R354). -/
def execImageCheckComplete (s : State) : Host.Outcome State Fault Refusal := .next (onEng imageCheck s)

/-- A request whose image is checked before it is answered stays TAKEN (R364). -/
def beginCheck (type : Nat) (m : List Byte) (seq : Nat) (e : Eng) : Eng :=
  setReg 0x6002 3 2 (onFw (fun f => { f with taken := some m, checking := some (type, seq) }) e)

/-- BOOT (R355, R357, R365). -/
def boot (e : Eng) : Eng :=
  takeRequest 2 (fun m seq e =>
    if e.run = .recovery then reply 2 seq ⟨.denied, 0x6014⟩ [] e
    else if fwState e ≠ 0 then reply 2 seq ⟨.denied, 0x6015⟩ [] e
    else beginCheck 2 m seq (setFwState 1 e)) e

/-- BOOT (R355). -/
def execBoot (s : State) : Host.Outcome State Fault Refusal := .next (onEng boot s)

/-- UPDATE (R365, R372). -/
def update (e : Eng) : Eng :=
  takeRequest 3 (fun m seq e =>
    if fwState e ≠ 3 then reply 3 seq ⟨.denied, 0x6007⟩ [] e else beginCheck 3 m seq e) e

/-- UPDATE (R365). -/
def execUpdate (s : State) : Host.Outcome State Fault Refusal := .next (onEng update s)

/-- The first READY after a BOOT (R355, R373, R386, R387): the start has succeeded. -/
def firstReady (e : Eng) : Eng :=
  let now := e.now
  onFw (fun f => { f with heartbeat := some now, started := true }) e |> setReg 0x1200 2 1 |>
    setReg 0x1202 1 (setBits (reg e 0x1202 1) 0 8 0)

/-- FW_START_LIMIT_EXPIRY (R356, R387): the start fails, and the hardware keeps running without firmware. -/
def startLimit (e : Eng) : Eng :=
  match e.fw.waitAt with
  | some t =>
    if e.fw.started ∨ fwState e = 8 ∨ e.run = .recovery then e
    else startFails 0x1215 (setFwState 8 (advanceTo (t + reg e 0x6004 4 * aonT) e))
  | none => e

/-- FW_START_LIMIT_EXPIRY (R356). -/
def execFwStartLimitExpiry (s : State) : Host.Outcome State Fault Refusal := .next (onEng startLimit s)

/-- A limit on READY that has passed takes its effect first: of a start, or of a handover (R356, R372). -/
def readyLimits (e : Eng) : Eng :=
  let e := if fwState e = 2 ∧ (e.fw.waitAt.any fun t => t + reg e 0x6004 4 * aonT < e.now) then startLimit e else e
  if e.fw.handover.any fun h => h.at_ + 300 * aonT < e.now then readyDeadline e else e

/-- The running image reports (R355, R365, R372); nothing else waits for it. -/
def readyNow (e : Eng) : Eng :=
  let go (cause version : Nat) (e : Eng) : Eng :=
    notice 0x40 (leBytes 4 version ++ leBytes 4 (reg e 0x6000 4) ++ leBytes 1 cause ++ leBytes 3 0)
      (setReg 0x6000 2 version (setFwState 3 e))
  if !e.fw.active then e
  else if fwState e = 2 then go 0 (imageVersion e) (firstReady e)
  else if fwState e = 4 then
    match e.fw.handover with
    | some h =>
      if (h.switched ∨ h.rolled) ∧ !h.ready then
        let e := onFw (fun f => { f with handover := some { h with ready := true } }) e
        go 2 (if h.rolled then h.oldVersion else imageVersion e) (if h.rolled then e else bump 0x6020 2 e)
      else e
    | none => go 1 (imageVersion e) e
  else e

/-- READY (R355, R356, R372): one sent after its limit finds the limit expired. -/
def ready (e : Eng) : Eng :=
  let e' := readyLimits e
  if e'.fw.handover.map (·.rolled) = e.fw.handover.map (·.rolled) then readyNow e' else e'

/-- READY (R355). -/
def execReady (s : State) : Host.Outcome State Fault Refusal := .next (onEng ready s)

/-! ### The other requests -/

/-- HELLO (R365). -/
def hello (e : Eng) : Eng :=
  takeRequest 1 (fun _ seq e =>
    reply 1 seq okDone (leBytes 1 (fwState e) ++ leBytes 1 (reg e 0x6000 3) ++ leBytes 2 0 ++ leBytes 4 (reg e 0x6000 2) ++
      leBytes 4 (reg e 0x6000 4) ++ leBytes 4 (reg e 0x6004 2) ++ leBytes 8 (reg e 0x6000 5)) e) e

/-- HELLO (R365). -/
def execHello (s : State) : Host.Outcome State Fault Refusal := .next (onEng hello s)

/-- STATUS (R365). -/
def status (e : Eng) : Eng :=
  takeRequest 6 (fun _ seq e =>
    reply 6 seq okDone ((below 4).flatMap fun k =>
      leBytes 1 (coreState e k) ++ leBytes 1 (reg e (coreIdx k) 5) ++
        leBytes 2 (storeGet (fun _ => 0) e.fw.restartsBoot k)) e) e

/-- STATUS (R365). -/
def execStatus (s : State) : Host.Outcome State Fault Refusal := .next (onEng status s)

/-- CORE_RESTART (R365, R366): not of core 0. -/
def coreRestart (e : Eng) : Eng :=
  takeRequest 5 (fun m seq e =>
    let k := msgField m 16 1
    if k = 0 ∨ 4 ≤ k then reply 5 seq ⟨.denied, 0x6015⟩ [] e
    else reply 5 seq okDone (leBytes 4 k) (restartCore k 3 (storeGet (fun _ => 0) e.fw.pcs k) e)) e

/-- CORE_RESTART (R365). -/
def execCoreRestart (s : State) : Host.Outcome State Fault Refusal := .next (onEng coreRestart s)

/-- ADOPT (R365, R376). -/
def adopt (e : Eng) : Eng :=
  takeRequest 4 (fun _ seq e =>
    if fwState e ≠ 5 ∧ fwState e ≠ 6 then reply 4 seq ⟨.denied, 0x6016⟩ [] e
    else
      let e := reply 4 seq okDone (leBytes 8 (reg e 0x6000 5) ++ leBytes 4 (reg e 0x6020 6) ++ leBytes 4 e.fw.cancelled) e
      let now := e.now
      setReg 0x4000 1 1 (setFwState 3 (onFw (fun f => { f with suppress := false, heartbeat := some now }) e))) e

/-- ADOPT (R376). -/
def execAdopt (s : State) : Host.Outcome State Fault Refusal := .next (onEng adopt s)

/-! ### Orphan mode -/

/-- R374: the block enters orphan mode. -/
def orphan (e : Eng) : Eng :=
  let f := frameNo e
  let e := e |> setReg 0x6000 5 f |> setFwState 5 |> setReg 0x4000 1 3 |> bump 0x6020 4 |>
    onFw (fun w => { w with suppress := true, heartbeat := none, cancelled := 0 })
  let e := (below 64).foldl (fun e r =>
    let xs := (ringOf e r).entries.filter fun x => x.stage == .taken || x.stage == .checking
    xs.foldl (fun e x => dropEntry r ⟨.orphaned, 0x6061⟩ x e) (disableRing r e)) e
  let e := if reg e 0x3810 5 = 4 then e else setReg 0x3810 5 0 e
  notice 0x43 (leBytes 8 f) e

/-- HEARTBEAT_EXPIRY (R373): in a handover it takes effect when that ends. -/
def heartbeatExpiry (e : Eng) : Eng :=
  match e.fw.heartbeat with
  | none => e
  | some t =>
    match e.fw.handover with
    | some h => onFw (fun f => { f with handover := some { h with expired := true } }) e
    | none => orphan (advanceTo (t + reg e 0x6004 2 * aonT) e)

/-- HOST_HEARTBEAT (R373): the timer restarts; one that has expired before takes its effect. During a handover the timer
is held (R369). -/
def effHeartbeat : Effect := fun _ s =>
  (.ok, onEng (fun e =>
    if e.fw.handover.isNone && e.fw.heartbeat.any fun t => t + reg e 0x6004 2 * aonT < e.now then heartbeatExpiry e
    else onFw (fun f => { f with heartbeat := f.heartbeat.map fun _ => e.now }) e) s)

/-- HOST_HEARTBEAT (R373). -/
def execHostHeartbeat (p : Port) (s : State) : Host.Outcome State Fault Refusal :=
  .next (portWrite p 0x6004 1 1 effHeartbeat s)

/-- HEARTBEAT_EXPIRY (R373). -/
def execHeartbeatExpiry (s : State) : Host.Outcome State Fault Refusal := .next (onEng heartbeatExpiry s)

/-- HANDOVER_END (R369, R372): the pause ends, at 500 µs at the latest, and the UPDATE is answered; the heartbeat timer,
held meanwhile, goes on, or an expiry takes its effect. -/
def handoverEnd (e : Eng) : Eng :=
  match e.fw.handover with
  | none => e
  | some h =>
    if !h.ready ∧ !h.rolled then e
    else
      let e := if h.ready then e else advanceTo (h.at_ + 500 * aonT) e
      let e := if h.rolled then reply 3 h.seq ⟨.aborted, 0x6044⟩ [] e
        else reply 3 h.seq okDone (leBytes 4 h.oldVersion ++ leBytes 4 (reg e 0x6000 2)) e
      let now := e.now
      let e := setReg 0x4000 1 1 (onFw (fun f => { f with
        handover := none
        heartbeat := f.heartbeat.map fun t => if t ≤ h.at_ then t + (now - h.at_) else now }) e)
      serveRings (if h.expired then orphan e else e)

/-- HANDOVER_END (R372). -/
def execHandoverEnd (s : State) : Host.Outcome State Fault Refusal := .next (onEng handoverEnd s)

/-- R375: every stream of a station still armed is cancelled at ARCLK cycle `c`. -/
def cancelStreams (s c : Nat) (e : Eng) : Nat × Eng :=
  let live := (dockOf e s).streams.filter fun x => x.2.cancelAt.isNone
  (live.length, live.foldl (fun e x =>
    runCancel s c (3 + x.1 * 2 ^ 8 + (recOf (dockOf e s) x.1).id * 2 ^ 16) e) e)

/-- ORPHAN_PARK (R375): at a frame boundary after 16 quiet frames, or at the limit, where armed streams are cancelled. -/
def orphanPark (e : Eng) : Eng :=
  let f := frameNo e
  let late := reg e 0x6000 5 + reg e 0x6004 3 ≤ f
  if fwState e ≠ 5 ∨ !(16 ≤ e.fw.quiet ∨ late) then e
  else
    let (n, e) := if 16 ≤ e.fw.quiet then (0, e)
      else (below 48).foldl (fun (acc : Nat × Eng) s =>
        let (k, e) := cancelStreams s (timeline acc.2) acc.2
        (acc.1 + k, e)) (0, e)
    let e := (below 48).foldl (fun e s => onGates 3 sleepGate s e) e
    let e := setFwState 6 (onFw (fun w => { w with cancelled := n }) e)
    notice 0x44 (leBytes 8 f ++ leBytes 4 n) e

/-- ORPHAN_PARK (R375). -/
def execOrphanPark (s : State) : Host.Outcome State Fault Refusal := .next (onEng orphanPark s)

/-- Whether the block is orphaned or parked: suppression is in force (R374). -/
def isOrphaned (e : Eng) : Bool := e.fw.suppress

end Sys2Proof.Machine
end

