-- ==== Sys2Proof/Machine/Clear.lean ====
section
/-! DEFINITION. What a reset clears and what starts again (spec/16_reset_clocks_power.md R378, R383, R385;
spec/10_stack_agents.md R235; spec/09_deck.md R228), and the containment of a station (spec/17_faults_limits.md
R406). -/

namespace Sys2Proof.Machine

/-- Whether a stored value belongs to the always-on domain, by its key (R378, R403, R417). -/
def keptKey (k : Nat) : Bool := k < 2 ^ 24 && alwaysOn (k / 256) (k % 256)

/-- R378: every part but the always-on domain takes its defaults, and memory contents are undefined. BUDGET_W stays,
and with it the cap. Events on their way to the collector stay, and so do the model's own clock and records. -/
def clearBlock (e : Eng) : Eng :=
  { now := e.now, powerOnAt := e.powerOnAt, run := e.run, errOut := e.errOut, ids := e.ids, out := e.out,
    raised := e.raised, genBase := e.fresh + 1, fresh := e.fresh + 1,
    regs := e.regs.filter fun x => keptKey x.1,
    dom := e.dom.filter fun x => keptKey (x.1 / 2 ^ 24),
    power := { cap := reg e 0x1101 1, statusAt := e.power.statusAt } }

/-- A job on a station is ended from outside, whatever it waits for (R174, R385, R406): its reads and its waiting SIGNAL
are withdrawn, its blocks give their references back, its unsent messages are dropped, and where it is a move its
re-shard goes on. -/
def endJob (x : Job) (z : Ending) (e : Eng) : Eng :=
  let e := dropWaiting x.id (dropSemOps (.job x.id) (dropJobRefs x (withdrawReads x.id e)))
  let e := finishJob x z 0 e
  match x.parent with
  | some p => goReshard p.1 e
  | none => e

/-- The dynamic jobs running on a station end with a status (R385, R406). -/
def endStationJobs (s : Nat) (z : Ending) (e : Eng) : Eng :=
  (e.jobs.filter fun x => x.station == some s).foldl (fun e x => endJob x z e) e

/-- The requests outstanding at a stack agent: those waiting, those with sectors granted, and bursts on their way. -/
def outstandingReqs (a : Agent) : List Req :=
  a.inbox ++ a.pending ++ (a.grants.map (·.parts)).flatten ++ a.granted ++
    a.bursts.filterMap fun b => b.owner.map fun o =>
      { id := b.req, owner := o, kind := if b.merge.isEmpty then .read else .mergeRead, lane := 0, cls := 0, lst := 0,
        group := groupAt b.off, sects := [⟨b.off, []⟩] }

/-- R385: the isolation wrapper answers what is outstanding at a part whose reset is accepted. -/
def isolatePart (src : Nat) (e : Eng) : Eng :=
  if src < 48 then reclaim src (endStationJobs src ⟨.aborted, 0x1204⟩ e)
  else if src < 72 then
    (outstandingReqs (agentOf e (src - 48))).foldl (fun e r => answerIsolated (src - 48) r e) e
  else closeAllChannels (src - 72) e

/-- The values and DOMAIN data of one index back at their defaults. -/
def clearIndex (i : Nat) (e : Eng) : Eng := clearIndices i (i + 1) e

/-- R378: a station at its defaults: its Pool, record slots, queues, link counters, format profiles, table slots, unit
groups and job places. -/
def clearStation (s : Nat) (e : Eng) : Eng :=
  let e := (dockOf e s).committed.foldl (fun e c => commitRecord s c.1 0 e) e
  let lo := 0x200000000000 + s * 0x400000
  let e := loseMemory s lo (lo + 0x400000) { e with
    docks := storeErase s e.docks, poolPois := storeClear lo (lo + 0x400000) e.poolPois }
  clearIndex (0x1320 + s) (clearIndices (stIdx s 0) (stIdx s 0x40) e)

/-- R228, R378: a stack agent at its defaults, with its Hands, write staging, lock table and tags; its stack's contents
are undefined. The throttling it asked for is cleared with its counts (R402). -/
def clearAgent (n : Nat) (e : Eng) : Eng :=
  let e := if bit (reg e 0x1104 1) n then throttleMessage n 0 (setReg 0x1104 1 (reg e 0x1104 1 - 2 ^ n) e) else e
  let lo := n * 0x1000000000
  let e := loseMemory (48 + n) lo (lo + 0x1000000000) { e with agents := storeErase n e.agents }
  let e := e |> clearIndices (agIdx n 0) (agIdx n 0x40) |> clearIndex (0x3880 + n) |> clearIndex (0x1350 + n)
  raise 82 0 (setReg 0x3800 6 (reg e 0x3800 6 ||| 2 ^ n) e)

/-- R378: a link agent at its defaults, with its UCIe modules, channels and queues. -/
def clearLink (p : Nat) (e : Eng) : Eng :=
  { e with links := storeErase p e.links } |> clearIndex (0x5001 + p) |> clearIndex (0x5004 + p) |>
    clearIndex (0x5006 + p) |> clearIndex (0x5010 + p) |> clearIndices (0x3930 + 2 * p) (0x3932 + 2 * p)

/-- A station reset closes both unit groups (R207), and each that was open is a gate change (R399). -/
def resetGates (s : Nat) (e : Eng) : Eng :=
  let e' := if (gateOf e s false).isOpen then gateStep (-groupCurrent false) e else e
  if (gateOf e s true).isOpen then gateStep (-groupCurrent true) e' else e'

/-- R378: a part, by its fault source, takes its defaults. -/
def clearPart (src : Nat) (e : Eng) : Eng :=
  if src < 48 then clearStation src (resetGates src e)
  else if src < 72 then clearAgent (src - 48) e
  else clearLink (src - 72) e

/-- Step 3 of R383: the control complex runs: CP0 in the boot ROM, which waits on the mailbox (R355), the dispatcher,
and the HST module's initialisation (R275). -/
def startControl (e : Eng) : Eng :=
  let now := e.now
  onFw (fun f => { f with waitAt := some now }) e |> setReg (coreIdx 0) 1 1 |> setReg 0x4000 1 1 |> startModule 4

/-- Step 6 of R383: a stack agent raises INIT_START (R235). -/
def startAgent (n : Nat) (e : Eng) : Eng :=
  let now := e.now
  setReg (agIdx n 0) 1 1 (setInitStart n true (onAgent n (fun a => { a with initAt := some now, initDone := false }) e))

/-- Step 8 of R383: a link agent is released and its modules begin to initialise (R275). -/
def startLink (p : Nat) (e : Eng) : Eng :=
  let now := e.now
  onLink p (fun l => { l with readyAt := now }) e |> startModule (2 * p) |> startModule (2 * p + 1)

/-- A part, by its fault source, begins its own release (R383). -/
def releasePart (src : Nat) (e : Eng) : Eng :=
  if src < 48 then e else if src < 72 then startAgent (src - 48) e else startLink (src - 72) e

/-- R235: the initialisation of a stack agent has taken 50,000 AONCLK: the agent is failed and raises its source; one
reset alone stays out of service. -/
def agentInitFails (n : Nat) (e : Eng) : Eng :=
  match (agentOf e n).initAt with
  | some t =>
    if reg e (agIdx n 0) 1 = 1 then
      let e := e |> advanceTo (t + 50000 * aonT) |> setReg (agIdx n 0) 1 3 |> setInitStart n false |> raise (48 + n) 0
      if isReady e then setPhase (48 + n) .stuck e else e
    else e
  | none => e

/-- INIT_TIMEOUT (R235): at a start, the start fails. -/
def initTimeout (n : Nat) (e : Eng) : Eng :=
  let failing := reg e (agIdx n 0) 1 = 1 ∧ (agentOf e n).initAt.isSome
  let e := agentInitFails n e
  match e.run with
  | .release 6 _ _ _ => if failing then failStart 0x1214 e else e
  | _ => e

/-- INIT_COMPLETE (R235): one that rises after the limit of 50,000 AONCLK finds the agent failed. -/
def initRises (n : Nat) (e : Eng) : Eng :=
  if (agentOf e n).initAt.any fun t => t + 50000 * aonT < e.now then initTimeout n e else initComplete n e

/-- INIT_COMPLETE (R235). -/
def execInitComplete (n : Fin 24) (s : State) : Host.Outcome State Fault Refusal :=
  .next (onEng (initRises n.val) s)

/-- INIT_TIMEOUT (R235). -/
def execInitTimeout (n : Fin 24) (s : State) : Host.Outcome State Fault Refusal :=
  .next (onEng (initTimeout n.val) s)

/-- R406: the containment of a station: every stream is cancelled, its dynamic jobs end, and CMD_READY is held low. -/
def containStation (s : Nat) (e : Eng) : Eng :=
  let e := (cancelStreams s (timeline e) e).2
  onDock s (fun d => { d with contained := true }) (endStationJobs s ⟨.aborted, 0x1311⟩ e)

/-- R406: the containment of stations ends where their status bits are cleared. -/
def endContainment (mask : Nat) (e : Eng) : Eng :=
  (below 48).foldl (fun e s =>
    if bit mask s ∧ (dockOf e s).contained then onDock s (fun d => { d with contained := false }) e else e) e

end Sys2Proof.Machine
end

