-- ==== Sys2Proof/Machine/ResetSeq.lean ====
section
/-! DEFINITION. Resets, the release order, clocks and recovery mode (spec/16_reset_clocks_power.md R378 to R393). -/

namespace Sys2Proof.Machine

/-- Whether step 2 of the next release starts from a stopped source (R383). -/
def sourceStopped (e : Eng) : Bool :=
  match e.run with
  | .unpowered | .recovery => true
  | .hold _ c _ => c
  | .release _ _ c _ => c && reg e 0x1100 1 ≠ 2
  | .failed _ => reg e 0x1100 1 ≠ 2
  | .ready => false

/-- Whether a reset that is accepted now still has the POWER_ON scope: within the hold phase or step 1 of a power-on
reset (R382). -/
def powerScope (e : Eng) : Bool :=
  match e.run with
  | .hold _ _ p => p
  | .release k _ _ p => p && k ≤ 1
  | _ => false

/-- The 16 bytes of a reset log record (R390), with AON_TIME at acceptance. -/
def logRecord (time cause scope part detail : Nat) : List Byte :=
  leBytes 8 time ++ leBytes 1 cause ++ leBytes 1 scope ++ leBytes 1 part ++ leBytes 1 0 ++ leBytes 2 detail ++
    leBytes 2 0

/-- R390: a record at RESET_LOG_NEXT, which advances modulo 8; RESETS counts the reset. -/
def logReset (time cause scope part detail : Nat) (e : Eng) : Eng :=
  let k := bits (reg e 0x1202 2) 0 3
  e |> setDomBytes 0x1203 2 (16 * k) (logRecord time cause scope part detail) |> setReg 0x1202 2 ((k + 1) % 8) |>
    bump 0x1205 2

/-- The number of the latest record of the reset log, where that reset was accepted at an AON_TIME (R382). -/
def sameEdge (time : Nat) (e : Eng) : Option Nat :=
  let k := (bits (reg e 0x1202 2) 0 3 + 7) % 8
  if domNat e 0x1203 2 (16 * k + 8) 1 ≠ 0 ∧ domNat e 0x1203 2 (16 * k) 8 = time then some k else none

/-- A reset accepted at an AON_TIME enters the log (R382, R390): one that meets another in the same AONCLK is merged with
it, under the wider scope and the lowest cause of that scope; resets of different parts are independent. -/
def logAccepted (time cause scope part detail : Nat) (e : Eng) : Eng :=
  match sameEdge time e with
  | none => logReset time cause scope part detail e
  | some k =>
    let f (a : Nat) := domNat e 0x1203 2 (16 * k + a) 1
    let same : Bool := f 9 == scope && f 10 == part
    if (scope = 1 ∧ 1 < f 9) ∨ (same ∧ cause < f 8) then
      setDomBytes 0x1203 2 (16 * k) (logRecord time cause scope part detail) e
    else if same then e
    else logReset time cause scope part detail e

/-- The port state after a reset that clears the control complex: the snapshots, the stagings and the debug counter's
operation are gone; the always-on parts stay (R378). -/
def clearPorts (p : Ports) : Ports := { p with snaps := [], stagings := [] }

/-- R379, R382 to R384: a reset of the whole block is accepted with a cause: a log record, every part but the
always-on domain at its defaults, and the hold phase from this moment. Leaving recovery mode keeps ERR_OUT_N low until
BT_READY rises (R411). A reset accepted within a power-on reset's hold keeps that scope. -/
def acceptBlock (cause detail : Nat) (cold : Bool) (s : State) : State :=
  let e := s.eng
  let power := powerScope e
  let stopped := cold || sourceStopped e
  let kept := e.errOut.kept || e.run == .recovery
  let e1 := if power then e else logAccepted (aonTime e) cause 1 0 detail e
  let e2 : Eng := { clearBlock e1 with
    run := .hold e.now stopped power, errOut := { e.errOut with kept := kept, fallDue := none } }
  { s with port := clearPorts s.port, eng := e2 |> setReg 0x1200 2 0 |> setReg 0x1200 3 0 }

/-- R379, R385: a reset of one part alone is accepted: a log record, the part at its defaults behind its isolation
wrapper, and its hold phase. It has no effect while the block itself is in reset (R382). -/
def resetPart (cause part detail : Nat) (s : State) : State :=
  if isReady s.eng then
    let (scope, idx) := if part < 48 then (2, part) else if part < 72 then (3, part - 48) else (4, part - 72)
    onEng (fun e =>
      let e' := e |> isolatePart part |> clearPart part |> logAccepted (aonTime e) cause scope idx detail |>
        setPhase part (.hold e.now)
      { e' with wdog := none }) s
  else s

/-- POWER_GOOD_RISE (R379, R381): the power-on reset is accepted: everything is cleared. The clock, the queue and the
record of what left the ports are the model's own and go on. -/
def execPowerGoodRise (s : State) : Host.Outcome State Fault Refusal :=
  .next { pending := s.pending, port := {},
          eng := { now := s.eng.now, powerOnAt := s.eng.now, run := .hold s.eng.now true true,
                   genBase := s.eng.fresh + 1, fresh := s.eng.fresh + 1, out := s.eng.out } }

/-- POWER_GOOD_FALL (R12, R381): the block is unpowered and holds nothing. -/
def execPowerGoodFall (s : State) : Host.Outcome State Fault Refusal :=
  .next { pending := s.pending, port := {},
          eng := { now := s.eng.now, run := .unpowered, genBase := s.eng.fresh + 1, fresh := s.eng.fresh + 1,
                   out := s.eng.out } }

/-- BT_RST_N_ASSERT (R379, R381): sampled low on two edges, a BLOCK reset with cause 2 is accepted. -/
def execBtRstNAssert (s : State) : Host.Outcome State Fault Refusal :=
  if s.eng.run = .unpowered then .next s else .next (acceptBlock 2 0 false s)

/-- RST_GLITCH (R381): a low on fewer than two edges is ignored and counted. -/
def execRstGlitch (s : State) : Host.Outcome State Fault Refusal :=
  if s.eng.run = .unpowered then .next s else .next (onEng (bump 0x1205 1) s)

/-- The cause code of a reset command's port (R379). -/
def commandCause : Port → Nat
  | .h => 3
  | .m => 4
  | _ => 5

/-- RESET_CMD (R379): its codes, with DENIED before BAD_VALUE (R420). A part already in reset: no effect, OK. -/
def effResetCmd (p : Port) : Effect := fun v s =>
  let code := bits v 0 4
  let part := bits v 8 6
  if code = 5 ∧ (s.eng.run ≠ .recovery ∨ p = .h) then (.denied, s)
  else
    let limit := match code with | 2 => 48 | 3 => 24 | 4 => 2 | _ => 1
    if 5 < code ∨ limit ≤ part then (.badValue, s)
    else match code with
      | 0 => (.ok, s)
      | 1 => (.ok, acceptBlock (commandCause p) 0 false s)
      | 5 => (.ok, acceptBlock 8 0 true (onEng (fun e => setReg 0x1202 1 (setBits (reg e 0x1202 1) 0 8 0) e) s))
      | c =>
        let src := part + match c with | 2 => 0 | 3 => 48 | _ => 72
        if phaseOf s.eng src = .up ∨ phaseOf s.eng src = .stuck then (.ok, resetPart (commandCause p) src 0 s) else (.ok, s)

/-- RESET_CMD_BLOCK (R379). -/
def execResetCmdBlock (p : Port) (s : State) : Host.Outcome State Fault Refusal :=
  .next (portWrite p 0x1200 1 1 (effResetCmd p) s)

/-- RESET_CMD_STATION (R379). -/
def execResetCmdStation (p : Port) (st : Fin 48) (s : State) : Host.Outcome State Fault Refusal :=
  .next (portWrite p 0x1200 1 (2 + st.val * 256) (effResetCmd p) s)

/-- RESET_CMD_STACK_AGENT (R379). -/
def execResetCmdStackAgent (p : Port) (n : Fin 24) (s : State) : Host.Outcome State Fault Refusal :=
  .next (portWrite p 0x1200 1 (3 + n.val * 256) (effResetCmd p) s)

/-- RESET_CMD_LINK_AGENT (R379). -/
def execResetCmdLinkAgent (p : Port) (l : Fin 2) (s : State) : Host.Outcome State Fault Refusal :=
  .next (portWrite p 0x1200 1 (4 + l.val * 256) (effResetCmd p) s)

/-- RECOVERY_EXIT (R379, R388): BOOT_FAIL_COUNT is cleared and a BLOCK reset with a cold step 2 begins. -/
def execRecoveryExit (p : Port) (s : State) : Host.Outcome State Fault Refusal :=
  .next (portWrite p 0x1200 1 5 (effResetCmd p) s)

/-- The system watchdog expires (R379): SYS_WDOG_PERIOD AONCLK after the last kick, a BLOCK reset with cause 6. The
watchdog's fault source is 87 (R404). -/
def watchdogResets (s : State) : State :=
  match s.eng.wdog with
  | none => s
  | some t =>
    let period := reg s.eng 0x1201 1
    if period = 0 then s
    else acceptBlock 6 0 false (onEng (fun e => raise 87 0 (advanceTo (t + period * aonT) e)) s)

/-- SYSTEM_WATCHDOG_EXPIRY (R379). -/
def execSystemWatchdogExpiry (s : State) : Host.Outcome State Fault Refusal := .next (watchdogResets s)

/-- Whether the release of every reset has completed: of the block, and of parts reset alone (R379, R383). -/
def releaseComplete (e : Eng) : Bool := isReady e && e.parts.all fun x => x.2 == .up || x.2 == .stuck

/-- SYS_WDOG_KICK (R379): any value restarts the count, or starts it once the release of the last reset has completed; a
kick that comes after the period has passed finds the watchdog expired. -/
def effSysWdogKick : Effect := fun _ s =>
  let period := reg s.eng 0x1201 1
  if period ≠ 0 ∧ (s.eng.wdog.any fun t => t + period * aonT < s.eng.now) then (.ok, watchdogResets s)
  else (.ok, if releaseComplete s.eng then onEng (fun e => { e with wdog := some e.now }) s else s)

/-- SYS_WDOG_KICK (R379). -/
def execSysWdogKick (p : Port) (s : State) : Host.Outcome State Fault Refusal :=
  .next (portWrite p 0x1201 2 1 effSysWdogKick s)

/-- R388: recovery mode: no fast clock, ERR_OUT_N low. -/
def enterRecovery (e : Eng) : Eng :=
  { e with run := .recovery, clkReqAt := none, errOut := { e.errOut with low := true, fallDue := none } } |>
    setReg 0x1200 2 3 |> bump 0x1205 4 |> setReg 0x1100 1 0 |> setReg 0x6000 1 7 |> sendPwr 0x50000000#32

/-- Entry of step 2 (R388, R393): recovery mode where BOOT_FAIL_COUNT has reached BOOT_FAIL_LIMIT; else the fast
clocks, requested where the source is stopped. -/
def enterStep2 (cold power : Bool) (e : Eng) : Eng :=
  let b := reg e 0x1202 1
  if bits b 8 8 ≤ bits b 0 8 then enterRecovery e
  else
    let e := { e with run := .release 2 e.now cold power }
    if cold then { e with clkReqAt := some e.now } |> setReg 0x1100 1 1 |> sendPwr 0x50000001#32
    else setReg 0x1100 1 2 e

/-- Entry of a release step after step 2 (R383). -/
def enterStep (k : Nat) (cold power : Bool) (e : Eng) : Eng :=
  let e := { e with run := .release k e.now cold power }
  match k with
  | 3 => startControl e
  | 5 => startTraining e
  | 6 => (below 24).foldl (fun e n => startAgent n e) { e with spBase := some e.now, nextFrame := 0 }
  | 8 => e |> startLink 0 |> startLink 1
  | _ => e

/-- Whether a release step's condition for completion holds (R383, R393, R275, R270, R235). -/
def stepDone (e : Eng) (k : Nat) : Bool :=
  match k with
  | 2 => reg e 0x1100 1 == 2
  | 3 => reg e 0x3934 1 == 2
  | 5 => (below 24).all fun n => reg e (0x3900 + n) 1 == 2
  | 6 => (below 24).all fun n => reg e (agIdx n 0) 1 == 2
  | _ => true

/-- R383 step 9: BT_READY rises. The low of ERR_OUT_N kept from recovery mode counts as a fall now (R411). -/
def riseReady (e : Eng) : Eng :=
  let o := e.errOut
  { e with
    run := .ready
    errOut := if o.kept then { o with kept := false, fellAt := e.now, last := e.now } else o }

/-- R383: the current release step of the whole block completes and the next begins. -/
def completeStep (k : Nat) (cold power : Bool) (e : Eng) : Eng :=
  match k with
  | 1 => e |> logReset 0 1 0 0 0 |> enterStep2 cold power
  | 8 => riseReady (enterStep 9 cold power e)
  | k => enterStep (k + 1) cold power e

/-- HOLD_PHASE_END (R383): at least 16 AONCLK after acceptance the release phase begins: at step 1 for a power-on
reset, at step 2 for a BLOCK reset, at the part's own step for a part. -/
def endHold (t : Target) (e : Eng) : Eng :=
  let part (src : Nat) : Eng :=
    match phaseOf e src with
    | .hold since =>
      let e := advanceTo (since + 16 * aonT) e
      setPhase src (.release e.now) (releasePart src e)
    | _ => e
  match t with
  | .block =>
    match e.run with
    | .hold since cold power =>
      let e := advanceTo (since + 16 * aonT) e
      if power then { e with run := .release 1 e.now cold power } else enterStep2 cold power e
    | _ => e
  | .station s => part s.val
  | .agent n => part (48 + n.val)
  | .link p => part (72 + p.val)

/-- HOLD_PHASE_END (R383). -/
def execHoldPhaseEnd (t : Target) (s : State) : Host.Outcome State Fault Refusal := .next (onEng (endHold t) s)

/-- R383: a part reset alone is back: a station or a link agent once its step ends, a stack agent once it runs. -/
def completePart (src : Nat) (e : Eng) : Eng :=
  match phaseOf e src with
  | .release _ =>
    if src < 48 then setPhase src .up e
    else if src < 72 then (if reg e (agIdx (src - 48) 0) 1 = 2 then setPhase src .up e else e)
    else setPhase src .up e
  | _ => e

/-- RELEASE_STEP_COMPLETE (R383): where the step's condition does not hold yet, nothing completes. -/
def execReleaseStepComplete (t : Target) (s : State) : Host.Outcome State Fault Refusal :=
  .next (onEng (fun e =>
    match t with
    | .block =>
      match e.run with
      | .release k _ cold power => if stepDone e k then completeStep k cold power e else e
      | _ => e
    | .station s => completePart s.val e
    | .agent n => completePart (48 + n.val) e
    | .link p => completePart (72 + p.val) e) s)

/-- The limit of a release step in AONCLK, and the detail with which missing it fails the start (R383, R386). -/
def stepLimit : Nat → Option (Nat × Nat)
  | 2 => some (20, 0x1211)
  | 3 => some (1000, 0x1212)
  | 5 => some (124, 0x1213)
  | 6 => some (50000, 0x1214)
  | _ => none

/-- RELEASE_STEP_TIMEOUT (R386): a step that has not completed by its limit fails the start; a stack agent reset alone
that misses it stays out of service (R235). -/
def execReleaseStepTimeout (t : Target) (s : State) : Host.Outcome State Fault Refusal :=
  .next (onEng (fun e =>
    match t with
    | .block =>
      match e.run with
      | .release k since _ _ =>
        match stepLimit k with
        | some (n, detail) =>
          if stepDone e k then e
          else
            let e := advanceTo (since + n * aonT) e
            failStart detail (match k with
              | 2 => setReg 0x1100 1 3 { e with clkReqAt := none }
              | 3 => setReg 0x3934 1 3 e
              | 5 => trainingExpires e
              | 6 => (below 24).foldl (fun e n => agentInitFails n e) e
              | _ => e)
        | none => e
      | _ => e
    | .agent n => agentInitFails n.val e
    | _ => e) s)

/-- Whether the ARCLK source runs (R383, R393): a BLOCK reset that is warm keeps it. -/
def sourceRuns (e : Eng) : Bool :=
  match e.run with
  | .hold _ cold _ => !cold
  | .release k _ cold _ => reg e 0x1100 1 == 2 || (k ≤ 2 && !cold)
  | _ => reg e 0x1100 1 == 2

/-- CLK_STATE_NOT_STABLE (R393): the running source is reported not stable: source 86, and a BLOCK reset with a cold
step 2 whatever its severity. While step 2 still waits, the report says nothing new (log entry 14). -/
def execClkStateNotStable (s : State) : Host.Outcome State Fault Refusal :=
  if sourceRuns s.eng then .next (acceptBlock 7 0 true (onEng (raise 86 0) s)) else .next s

/-- 20 AONCLK after CLK_REQ without a report of a stable source, the start fails (R386, R393). -/
def clkExpires (e : Eng) : Eng :=
  match e.clkReqAt, e.run with
  | some t, .release 2 _ _ _ =>
    { e with clkReqAt := none } |> advanceTo (t + 20 * aonT) |> setReg 0x1100 1 3 |> failStart 0x1211
  | _, _ => e

/-- CLK_REQ_TIMEOUT (R386, R393). -/
def execClkReqTimeout (s : State) : Host.Outcome State Fault Refusal := .next (onEng clkExpires s)

/-- CLK_STATE_STABLE (R393): the source that step 2 asked for is stable; the gates open. A report that comes after 20
AONCLK finds the start failed. -/
def execClkStateStable (s : State) : Host.Outcome State Fault Refusal :=
  .next (onEng (fun e =>
    if e.clkReqAt.any fun t => t + 20 * aonT < e.now then clkExpires e
    else match e.run with
      | .release 2 _ _ _ => if reg e 0x1100 1 = 1 then setReg 0x1100 1 2 { e with clkReqAt := none } else e
      | _ => e) s)

end Sys2Proof.Machine
end

