-- ==== Sys2Proof/Machine/Faults.lean ====
section
/-! DEFINITION. The fault collector (spec/17_faults_limits.md R404 to R412): taking an event, severities and their
actions, the history, notification, and ERR_OUT_N. -/

namespace Sys2Proof.Machine

/-- The severity at which an event is handled (R406): the programmed one, but 3 for loss of the clock and for detail
0x1131 of source 85. -/
def severityOf (e : Eng) (src detail : Nat) : Nat :=
  if src = 86 ∨ (src = 85 ∧ detail = 0x1131) then 3
  else if src < 64 then bits (reg e 0x1301 1) (2 * src) 2
  else bits (reg e 0x1301 2) (2 * (src - 64)) 2

/-- FRAME of a history record and of a FAULT frame: all ones while the frame counter does not run (R408). -/
def frameField (e : Eng) : Nat := (frameNow e).getD (2 ^ 64 - 1)

/-- The open record, if any (R409). -/
def openRecord (e : Eng) : Option Nat := let k := reg e 0x1302 3; if k = 0xFF then none else some k

/-- A new history record at HISTORY_NEXT (R408, R409). -/
def openHistory (src detail sev : Nat) (e : Eng) : Eng :=
  let k := reg e 0x1302 2
  e |> setDomBytes 0x1302 1 (48 * k)
      (leBytes 8 (frameField e) ++ leBytes 8 (aonTime e) ++ leBytes 1 src ++ leBytes 1 (sev + 4 * sev) ++
        leBytes 2 detail ++ leBytes 2 0 ++ leBytes 1 1 ++ leBytes 25 0)
    |> setReg 0x1302 3 k |> setReg 0x1302 2 ((k + 1) % 16)

/-- MAX_SEVERITY of a history record (R408). -/
def maxSeverity (e : Eng) (k : Nat) : Nat := bits (domNat e 0x1302 1 (48 * k + 17) 1) 2 2

/-- An event merged into the open record (R409). -/
def mergeHistory (k src sev : Nat) (e : Eng) : Eng :=
  let sv := domNat e 0x1302 1 (48 * k + 17) 1
  let n := domNat e 0x1302 1 (48 * k + 20) 2
  let m := domNat e 0x1302 1 (48 * k + 24) 16
  e |> setDomNat 0x1302 1 (48 * k + 17) 1 (setBits sv 2 2 (max sev (bits sv 2 2)))
    |> setDomNat 0x1302 1 (48 * k + 20) 2 (min 65535 (n + 1))
    |> setDomNat 0x1302 1 (48 * k + 24) 16 (m ||| 2 ^ src)
    |> bump 0x1305 2

/-- Whether an event of this severity notifies (R410). -/
def notifies (e : Eng) (sev : Nat) : Bool :=
  1 ≤ sev && match openRecord e with
    | none => true
    | some k => maxSeverity e k < sev

/-- ERR_OUT_N after a notifying event (R411): it falls, or its low is prolonged, or a fall is due 2 AONCLK after it
rose. In reset it holds its level (R13), and in recovery mode and after it, until BT_READY rises, it stays low. -/
def assertErrOut (e : Eng) : Eng :=
  let o := e.errOut
  if e.run ≠ .ready ∨ o.kept then e
  else if o.low then { e with errOut := { o with last := e.now } }
  else match o.roseAt with
    | some t =>
      if e.now < t + 2 * aonT then { e with errOut := { o with fallDue := some (t + 2 * aonT), last := e.now } }
      else { e with errOut := { o with low := true, fellAt := e.now, last := e.now, released := false } }
    | none => { e with errOut := { o with low := true, fellAt := e.now, last := e.now, released := false } }

/-- The FAULT frame of an event (R412). -/
def faultFrame (e : Eng) (nseq src detail sev : Nat) : List Byte :=
  leBytes 1 0xC0 ++ leBytes 1 nseq ++ leBytes 2 detail ++ leBytes 1 src ++ leBytes 1 sev ++ leBytes 2 0 ++
    leBytes 8 (frameField e) ++ leBytes 8 (aonTime e)

/-- R412: a FAULT frame is formed while MGT transmits and MGT_NOTIFY_EN is 1; the fifth waiting is dropped. -/
def formFaultFrame (src detail sev : Nat) (s : State) : State :=
  if reg s.eng 0x1304 3 = 1 ∧ (s.eng.run = .ready ∨ s.eng.run = .recovery) then
    let f := faultFrame s.eng s.port.nseq src detail sev
    let port := { s.port with nseq := (s.port.nseq + 1) % 256 }
    if s.port.faultFrames.length < 4 then
      { s with port := { port with faultFrames := s.port.faultFrames ++ [f] } }
    else { s with port := port, eng := bump 0x1305 3 s.eng }
  else s

/-- R410: the interrupt of a notifying event: not while HST is in reset or the block is orphaned. -/
def faultIrq (e : Eng) : Eng :=
  if reg e 0x1304 2 = 1 ∧ isReady e ∧ !isOrphaned e then emit (.msi (reg e 0x1304 1)) e else e

/-- R410: what a notifying event does. -/
def notifyFault (src detail sev : Nat) (s : State) : State :=
  let s := onEng assertErrOut s
  let s := formFaultFrame src detail sev s
  onEng faultIrq s

/-- A stack agent is frozen (R406); one held in reset keeps its default (R55). -/
def freezeAgent (n : Nat) (e : Eng) : Eng := if partHeld e (48 + n) then e else setReg (agIdx n 0) 3 1 e

/-- R406: the containment of a source at severity 2. -/
def containSource (src : Nat) (e : Eng) : Eng :=
  if src < 48 then containStation src e
  else if src < 72 then freezeAgent (src - 48) e
  else if src < 74 then closeAllChannels (src - 72) e
  else if src < 78 then restartUncaused (src - 74) e
  else if src = 84 ∨ src = 86 then e
  else (below 24).foldl (fun e n => freezeAgent n e) e

/-- R380: the action of a source at severity 3. Source 84 takes none (R388); the reset of source 86 is the one that
R393 takes at the report. -/
def escalateSource (src detail : Nat) (s : State) : State :=
  if src < 48 then resetPart 7 src detail s
  else if src < 74 then resetPart 7 src detail s
  else if src < 78 then onEng (restartUncaused (src - 74)) s
  else if src = 84 ∨ src = 86 then s
  else acceptBlock 7 detail false s

/-- R405: the collector takes an event. -/
def takeEvent (src detail : Nat) (s : State) : State :=
  let sev := severityOf s.eng src detail
  let note := notifies s.eng sev
  let s := onEng (fun e =>
    let e := e |> bump 0x1305 1 |> setReg 0x1300 1 (reg e 0x1300 1 ||| 2 ^ src)
    match openRecord e with
    | none => openHistory src detail sev e
    | some k => mergeHistory k src sev e) s
  let s := if note then notifyFault src detail sev s else s
  if sev = 2 then onEng (containSource src) s
  else if sev = 3 then escalateSource src detail s
  else s

/-- Whether the always-on domain is powered, so that the collector runs. -/
def powered (e : Eng) : Bool := e.run ≠ .unpowered

/-- A Pool word of a station is found uncorrectable (R42, R417): it is counted, and one word turns poisoned, a free one
(log entry 144). -/
def poolWordFails (s : Nat) (e : Eng) : Eng :=
  let (f, e) := takeFree e
  bump (0x1320 + s) 2 (setPoolPois (0x200000000000 + s * 0x400000 + f % 0x100000 * 4) true e)

/-- A word of the retained store or a backup register is found uncorrectable (R389): a free one, which reads as free bits
(log entry 144). -/
def retainedWordFails (e : Eng) : Eng :=
  let (f, e) := takeFree e
  let (w, e) := takeFree e
  let k := f % 0x1008
  if k < 0x1000 then setRetained (k * 4) (leBytes 4 w) e
  else
    let mask := match k - 0x1000 with | 0 => 0xFFFF | 1 => 7 | _ => 2 ^ 32 - 1
    setReg 0x1202 (k - 0x1000 + 1) (w % 2 ^ 32 &&& mask) e

/-- An event that no rule of the model raised: what comes with its cause, which lies in the circuits (log entry 12). -/
def unseenCause (src detail : Nat) (e : Eng) : Eng :=
  if src < 48 ∧ detail = 0 then poolWordFails src e
  else if src = 83 ∧ detail = 0 then retainedWordFails e
  else e

/-- The cause of an event that reaches the collector: one that a rule of the model raised leaves the list of events on
their way. -/
def eventCause (src detail : Nat) (e : Eng) : Eng :=
  if (src, detail) ∈ e.raised then { e with raised := e.raised.erase (src, detail) } else unseenCause src detail e

/-- FAULT_EVENT (R405): an event reaches the collector. -/
def execFaultEvent (src : Fin 88) (detail : BitVec 16) (s : State) : Host.Outcome State Fault Refusal :=
  if powered s.eng then .next (takeEvent src.val detail.toNat (onEng (eventCause src.val detail.toNat) s))
  else .next s

/-- FAULT_CLEAR (R405): the written bits' sources; the containment of a station ends with its bit (R406). -/
def effFaultClear : Effect := fun v s =>
  (.ok, onEng (fun e =>
    (e |> setReg 0x1300 1 (reg e 0x1300 1 &&& (2 ^ 128 - 1 - v % 2 ^ 128))) |> endContainment v) s)

/-- FAULT_CLEAR (R405). -/
def execFaultClear (p : Port) (mask : Cell128) (s : State) : Host.Outcome State Fault Refusal :=
  .next (portWrite p 0x1300 2 mask.toNat effFaultClear s)

/-- FAULT_ACK (R409): the open record is acknowledged; none open, no effect. -/
def effFaultAck : Effect := fun _ s =>
  (.ok, onEng (fun e =>
    match openRecord e with
    | none => e
    | some k =>
      e |> setDomNat 0x1302 1 (48 * k + 22) 1 (domNat e 0x1302 1 (48 * k + 22) 1 ||| 2) |> setReg 0x1302 3 0xFF) s)

/-- FAULT_ACK (R409). -/
def execFaultAck (p : Port) (s : State) : Host.Outcome State Fault Refusal :=
  .next (portWrite p 0x1302 4 1 effFaultAck s)

/-- ERR_OUT_N rises. -/
def raiseErrOut (e : Eng) : Eng :=
  { e with errOut := { e.errOut with low := false, roseAt := some e.now, released := false } }

/-- ERR_OUT_RELEASE (R411): in hold mode it ends the low, but not within 2 AONCLK of the fall; in pulse mode, in
recovery mode and until BT_READY rises after it, it has no effect. -/
def effErrOutRelease : Effect := fun _ s =>
  (.ok, onEng (fun e =>
    if e.run = .ready ∧ reg e 0x1303 1 = 1 ∧ e.errOut.low ∧ !e.errOut.kept then
      if e.errOut.fellAt + 2 * aonT ≤ e.now then raiseErrOut e
      else { e with errOut := { e.errOut with released := true } }
    else e) s)

/-- ERR_OUT_RELEASE (R411). -/
def execErrOutRelease (p : Port) (s : State) : Host.Outcome State Fault Refusal :=
  .next (portWrite p 0x1303 2 1 effErrOutRelease s)

/-- ERR_OUT_MODE (R411): the mode in force when a low would end decides; a switch to hold forgets no release. -/
def effErrOutMode : Effect := checked 0x1303 1 fun v s => onEng (setReg 0x1303 1 v) s

/-- ERR_OUT_MODE (R411). -/
def execErrOutModeWrite (p : Port) (mode : Word32) (s : State) : Host.Outcome State Fault Refusal :=
  .next (portWrite p 0x1303 1 mode.toNat effErrOutMode s)

/-- R411: what the ERR_OUT_N timer does when it ends: a fall that was due takes place; in pulse mode, or after a
release in hold mode, the low ends. -/
def errOutTimer (e : Eng) : Eng :=
  let o := e.errOut
  if e.run ≠ .ready ∨ o.kept then e
  else match o.fallDue with
    | some t =>
      let e := advanceTo t e
      { e with errOut := { o with low := true, fellAt := e.now, last := e.now, fallDue := none, released := false } }
    | none =>
      if !o.low then e
      else if reg e 0x1303 1 = 0 then raiseErrOut (advanceTo (max o.fellAt o.last + 2 * aonT) e)
      else if o.released then raiseErrOut (advanceTo (o.fellAt + 2 * aonT) e)
      else e

/-- ERR_OUT_TIMER_EXPIRY (R411). -/
def execErrOutTimerExpiry (s : State) : Host.Outcome State Fault Refusal := .next (onEng errOutTimer s)

/-- FAULT_FRAME_SEND (R412): the oldest waiting FAULT frame leaves MGT, between responses, while MGT transmits. -/
def execFaultFrameSend (s : State) : Host.Outcome State Fault Refusal :=
  match s.port.faultFrames with
  | [] => .next s
  | f :: fs =>
    if s.eng.run = .ready ∨ s.eng.run = .recovery then
      .next { s with port := { s.port with faultFrames := fs }, eng := emit (.mgtFrame f) s.eng }
    else .next s

end Sys2Proof.Machine
end

