-- ==== Sys2Proof/Machine/Dict.lean ====
section
/-! DEFINITION. The object dictionary (spec/02_object_dictionary.md R44 to R65, R71, R420): what every entry reads as,
what a write to it does by its owning chapter, and the data of the DOMAIN entries. -/

namespace Sys2Proof.Machine

/-! ### Reading -/

/-- The data of POISON_TABLE (R414, R417): an entry for each poisoned sector, by rising sector. -/
def poisonBytes (e : Eng) (n : Nat) : List Byte :=
  ((agentOf e n).poison.take 256).flatMap fun x => leBytes 8 (x.1 * 32 + x.2 * 2 ^ 36)

/-- Whether an entry's part is in reset, so that the entry reads as its default (R55); recovery mode is R388's, and a link
agent whose modules failed shows what it holds (R275). -/
def readsDefault (e : Eng) (idx : Nat) : Bool :=
  match partOf idx with
  | some part => partHeld e part && e.run ≠ .recovery && phaseOf e part ≠ .stuck
  | none => false

/-- `n` bytes of a DOMAIN's data from an offset; the default contents while its part is in reset (R55). -/
def domainBytes (e : Eng) (idx sub off n : Nat) : List Byte :=
  if readsDefault e idx then (below n).map fun k => domDefault (domKey idx sub (off + k))
  else if idx = 0x6001 then fwBytes e (incomingRegion e * regionSize + off) n
  else if 0x1350 ≤ idx ∧ idx < 0x1368 then
    let bs := (poisonBytes e (idx - 0x1350)).drop off
    (bs ++ List.replicate n 0).take n
  else domBytes e idx sub off n

/-- QUERY_RESULT (R71): the type and the four rights of the entry named, as currently in force; 0xF where it is
absent. -/
def queryResult (s : State) (p : Port) : Nat :=
  let t := regOf s.eng p 0x1022 1
  let idx := bits t 0 16
  match rowOf idx (bits t 16 8) with
  | none => 15
  | some r => r.ty.code + r.h.code * 2 ^ 4 + r.m.code * 2 ^ 6 + (rightOf s .d idx r).code * 2 ^ 8 + r.f.code * 2 ^ 10

/-- USE of a Hand or spine Hand, as OWNER shows it (R230). -/
def ownerOf (e : Eng) (idx sub : Nat) : Nat :=
  if (0x3880 ≤ idx ∧ idx < 0x3898) ∨ (0x38A0 ≤ idx ∧ idx < 0x38A3) then handUse e (sub - 1) else 0

/-- What an entry of a station reads as, where the station shows it live (R208). -/
def stationLive (e : Eng) (s r sub : Nat) : Option Nat :=
  match r, sub with
  | 0, 1 => some (dockState e s)
  | 0, 2 => some (unitGates e s)
  | 1, 4 => some (committedMask e s)
  | 1, 5 => some (armedMask e s)
  | _, _ => none

/-- What an entry of a stack agent reads as, where the agent shows it live (R260). -/
def agentLive (e : Eng) (n r sub : Nat) : Option Nat :=
  match r, sub with
  | 0, 4 => some (frozen e n)
  | 10, 1 => some (tagsInUse (agentOf e n))
  | 10, 2 => some (locksAt (agentOf e n) (spNow e)).length
  | _, _ => none

/-- What the entries that stand once read as, where hardware computes them. -/
def fixedLive (s : State) (p : Port) (idx sub : Nat) : Option Nat :=
  let e := s.eng
  match idx, sub with
  | 0x1020, 1 => some (if s.port.dbgLock then 1 else 0)
  | 0x1022, 2 => some (queryResult s p)
  | 0x1100, 2 => some (aonTime e)
  | 0x1303, 3 => some (if e.errOut.low then 1 else 0)
  | 0x3800, 4 => some (frameNo e)
  | 0x4000, 2 => some (jobsInProgress e)
  | 0x5103, 2 => some e.sems.waiters.length
  | 0x5103, 3 => some e.sems.swap.length
  | 0x5800, 2 => some (handlesLive e)
  | 0x5803, 2 => some (handleInfo e (bankOf p))
  | 0x5801, k => some (rowsFree e (k - 1))
  | _, _ => none

/-- What an entry reads as at this moment, on a port that may read it: its default while its part is in reset (R55). -/
def liveValue (s : State) (p : Port) (idx sub : Nat) : Nat :=
  let e := s.eng
  match rowOf idx sub with
  | none => 0
  | some r =>
    if sub = 0 then r.dflt
    else if readsDefault e idx then (if r.ty = .domain then r.dflt + r.cap * 2 ^ 32 else r.dflt)
    else if r.ty = .domain then reg e idx sub + r.cap * 2 ^ 32 + ownerOf e idx sub * 2 ^ 64
    else
      let live : Option Nat :=
        if 0x2000 ≤ idx ∧ idx < 0x2C00 then stationLive e ((idx - 0x2000) / 0x40) ((idx - 0x2000) % 0x40) sub
        else if 0x3000 ≤ idx ∧ idx < 0x3600 then agentLive e ((idx - 0x3000) / 0x40) ((idx - 0x3000) % 0x40) sub
        else if 0x4100 ≤ idx ∧ idx < 0x4140 ∧ sub = 16 then some (jobsActive e (idx - 0x4100))
        else if 0x1350 ≤ idx ∧ idx < 0x1368 ∧ sub = 2 then some (agentOf e (idx - 0x1350)).poison.length
        else fixedLive s p idx sub
      live.getD (regOf e p idx sub)

/-- Whether recovery mode keeps a port from an entry (R388). -/
def beyondReach (e : Eng) (p : Port) (idx sub : Nat) : Bool := reach e p == .limited && !recoveryReach idx sub

/-- A read of an entry: its status and value, zero where it is refused (R44, R48, R388, R420). -/
def readEntry (p : Port) (idx sub : Nat) (s : State) : Access × Nat :=
  match rowOf idx sub with
  | none => (.noEntry, 0)
  | some r =>
    if !(rightOf s p idx r).reads then (.noRight, 0)
    else if beyondReach s.eng p idx sub then (.busy, 0)
    else (.ok, liveValue s p idx sub)

/-- A read of DOMAIN data (R63 to R65, R67, R420). -/
def domRead (p : Port) (idx sub off n : Nat) (s : State) : Access × List Byte :=
  let zeros := List.replicate n 0
  match rowOf idx sub with
  | none => (.noEntry, zeros)
  | some r =>
    if r.ty ≠ .domain then (.noEntry, zeros)
    else if !(rightOf s p idx r).reads then (.noRight, zeros)
    else if r.cap < off + n then (.outOfDomain, zeros)
    else if beyondReach s.eng p idx sub then (.busy, zeros)
    else (.ok, domainBytes s.eng idx sub off n)

/-- The entry and the offset of a port's cursor (R65). -/
def cursorOf (e : Eng) (p : Port) : Nat × Nat × Nat :=
  let t := regOf e p 0x1040 1
  (bits t 0 16, bits t 16 8, regOf e p 0x1040 2)

/-- The value that a cell holds at this moment for a port: of DOM_DATA, the 16 bytes at the port's cursor (R60, R65). -/
def cellNow (p : Port) (idx sub : Nat) (s : State) : Nat :=
  if idx = 0x1040 ∧ sub = 3 then
    let (i, k, off) := cursorOf s.eng p
    leNat (domainBytes s.eng i k off 16)
  else liveValue s p idx sub

/-- The cursor moves on by 16 bytes (R65). -/
def advanceCursor (p : Port) (s : State) : State :=
  onEng (fun e => setRegB (bankOf p) 0x1040 2 ((regOf e p 0x1040 2 + 16) % 2 ^ 32) e) s

/-- A read of an entry as an access: a read of DOM_DATA moves the cursor (R65). -/
def readAccess (p : Port) (idx sub : Nat) (s : State) : Access × Nat × State :=
  let (st, v) := readEntry p idx sub s
  if st = .ok ∧ idx = 0x1040 ∧ sub = 3 then
    let (i, k, off) := cursorOf s.eng p
    let (st, bs) := domRead p i k off 16 s
    if st = .ok then (st, leNat bs, advanceCursor p s) else (st, 0, s)
  else (st, v, s)

/-! ### Writing -/

/-- DBG_LOCK (R50): 1 sets the lock; 0 has no effect. -/
def effDbgLock : Effect := fun v s =>
  (.ok, if bit v 0 then { s with port := { s.port with dbgLock := true } } else s)

/-- Whether a format profile meets R151. -/
def profileOk (v : Nat) : Bool :=
  let codes := (below 4).map fun k => bits v (4 * k) 4
  let used := codes.takeWhile (· ≠ 0)
  (codes.drop used.length).all (· == 0) && used.all (fun c => (opOf c).isSome) &&
    profileChains.contains (used.filterMap opOf) && bits v 16 2 ≠ 3 && bits v 19 2 < 2 &&
    !(bits v 19 2 == 1 && chDim (bits v 32 32) == 0)

/-- An effect that a value must pass a test of its own for (R47). -/
def tested (idx sub : Nat) (ok : Nat → Bool) (p : Port) : Effect := fun v s =>
  if ok v then plainCommit p idx sub v s else (.badValue, s)

/-- An effect on a pending control entry of the Deck: checks start again (R223). -/
def restarting (eff : Effect) : Effect := fun v s =>
  let (st, s) := eff v s
  if st = .ok then (st, onEng restartChecks s) else (st, s)

/-- LAND_SLOTS (R314, R334): refused while a channel is open. -/
def effLandSlots (p : Port) (l : Nat) : Effect := fun v s =>
  if (liveChannels s.eng l).any fun c => chField s.eng l c 0 2 == 1 then (.denied, s)
  else tested (0x5001 + l) 5 (fun v => decide (bits v 0 16 + bits v 16 16 + bits v 32 16 + bits v 48 16 ≤ 1024)) p v s

/-- The effect of a write to an entry of a station (R151, R173, R188, R193, R201, R208). -/
def stationEffect (p : Port) (idx sub : Nat) : Effect :=
  let s := (idx - 0x2000) / 0x40
  let r := (idx - 0x2000) % 0x40
  match r, sub with
  | 1, 2 => effStreamCommit s
  | 4, 1 => effLinkPost s
  | 2, k => effQueue s (k - 1)
  | _, _ =>
    if 0x18 ≤ r ∧ r < 0x20 then tested idx sub profileOk p
    else if 0x20 ≤ r ∧ r < 0x28 ∧ sub = 3 then effSlotCtrl s (r - 0x20)
    else plainCommit p idx sub

/-- The effect of a write to an entry of a stack agent (R260). -/
def agentEffect (p : Port) (idx sub : Nat) : Effect := fun v s =>
  match (idx - 0x3000) % 0x40, sub with
  | 1, 1 => tested idx sub (fun v => (below 16).all fun j => bits v (2 * j) 2 ≠ 3) p v s
  | 2, 2 => tested idx sub (fun v => reg s.eng idx 1 ≤ v && v ≤ 7) p v s
  | _, _ => plainCommit p idx sub v s

/-- The effect of a write to an entry of a ring (R277, R288, R298, R299). -/
def ringEffect (p : Port) (idx sub : Nat) : Effect :=
  let r := idx - 0x4100
  match sub with
  | 7 => effRingCtrl r
  | 9 => effDoorbell r
  | 13 => effIrqMark r
  | k => if k ≤ 6 then effRingEntry r k else plainCommit p idx sub

/-- The effect of a write to an entry that stands once. -/
def fixedEffect (p : Port) (idx sub : Nat) : Effect :=
  match idx, sub with
  | 0x1020, 1 => effDbgLock
  | 0x1102, 2 => effLoadPlan
  | 0x1200, 1 => effResetCmd p
  | 0x1201, 1 => tested idx sub (fun v => v == 0 || 1000 ≤ v) p
  | 0x1201, 2 => effSysWdogKick
  | 0x1202, 1 => tested idx sub (fun v => bits v 8 8 ≠ 0) p
  | 0x1300, 2 => effFaultClear
  | 0x1302, 4 => effFaultAck
  | 0x1303, 1 => effErrOutMode
  | 0x1303, 2 => effErrOutRelease
  | 0x3810, 1 => restarting fun v s => let (st, s) := plainCommit p idx sub v s; (st, onEng noteSwapFrame s)
  | 0x3810, 2 => restarting (plainCommit p idx sub)
  | 0x3810, 3 => restarting effReserveCounts
  | 0x3810, 4 => effSwapCtrl
  | 0x5000, 1 => effMyEndpoint
  | 0x5000, 2 => effLinkEnable
  | 0x5001, 2 => tested idx sub (fun v => bits v 0 8 ≠ 0 && bits v 8 8 ≠ 0 && bits v 16 8 ≠ 0) p
  | 0x5002, 2 => tested idx sub (fun v => bits v 0 8 ≠ 0 && bits v 8 8 ≠ 0 && bits v 16 8 ≠ 0) p
  | 0x5001, 5 => effLandSlots p 0
  | 0x5002, 5 => effLandSlots p 1
  | 0x5004, 2 => effChannelCtrl 0
  | 0x5005, 2 => effChannelCtrl 1
  | 0x5006, 2 => effQueueCtrl 0
  | 0x5007, 2 => effQueueCtrl 1
  | 0x5102, 1 => effSemCmd
  | 0x5800, 1 => effHeapStart
  | 0x5802, 1 => effAllocReq p
  | 0x6000, 6 => effCoreRun
  | 0x6002, 2 => effH2fCtrl
  | 0x6003, 2 => effF2hCtrl p
  | 0x6004, 1 => effHeartbeat
  | _, _ => plainCommit p idx sub

/-- The effect of a write to an entry of a core (R362, R366, R377). -/
def coreEffect (p : Port) (idx sub : Nat) : Effect :=
  match sub with
  | 1 => effCoreState (idx - 0x6008)
  | 3 => effWdogKick (idx - 0x6008)
  | _ => plainCommit p idx sub

/-- The Hand whose data lies at an entry (R230). -/
def handAt (idx sub : Nat) : Option Nat :=
  if (0x3880 ≤ idx ∧ idx < 0x3898) ∨ (0x38A0 ≤ idx ∧ idx < 0x38A3) then some (sub - 1) else none

/-- R224: a write to the data of a current Hand is refused and counted; one to another Hand that the pending pattern
names restarts the checks (R223). -/
def writeHand (h idx sub off : Nat) (bs : List Byte) (s : State) : Access × State :=
  let e := s.eng
  if handUse e h % 2 = 1 then (.denied, onEng (bump 0x3818 6) s)
  else
    let e' := setDomBytes idx sub off bs e
    (.ok, { s with eng := if namesHand (reg e 0x3810 2) h then restartChecks e' else e' })

/-- FW_INCOMING (R354): refused while a BOOT or UPDATE is checked or carried out; SIZE follows the bytes written. -/
def writeIncoming (off : Nat) (bs : List Byte) (s : State) : Access × State :=
  let e := s.eng
  if e.fw.checking.isSome ∨ e.fw.handover.isSome then (.denied, s)
  else (.ok, onEng (fun e => setFwBytes (incomingRegion e * regionSize + off) bs
    (setReg 0x6001 1 (max (reg e 0x6001 1) (off + bs.length)) e)) s)

/-- The bits of a stream map entry that its fields take (R220). -/
def streamMapMask : Nat :=
  1 + 0x3F * 2 ^ 8 + 0xF * 2 ^ 16 + (2 ^ 32 - 1) * 2 ^ 32 + (2 ^ 32 - 1) * 2 ^ 64 + (2 ^ 21 - 1) * 2 ^ 96

/-- Bytes of the stream map set: reserved bits are not stored (R21, R220). -/
def setStreamMap (off : Nat) (bs : List Byte) (e : Eng) : Eng :=
  setDomBytes 0x3820 1 off (((below bs.length).zip bs).map fun x =>
    x.2 &&& BitVec.ofNat 8 (bits streamMapMask (8 * ((off + x.1) % 16)) 8)) e

/-- The effect of a write to a DOMAIN's data by its owning chapter. -/
def domainEffect (p : Port) (idx sub off : Nat) (bs : List Byte) (s : State) : Access × State :=
  match handAt idx sub with
  | some h => writeHand h idx sub off bs s
  | none =>
    let r := (idx - 0x2000) % 0x40
    let plain (s : State) : State := onEng (setDomBytes idx sub off bs) s
    if 0x2000 ≤ idx ∧ idx < 0x2C00 ∧ 0x20 ≤ r ∧ r < 0x28 then
      (if reg s.eng idx 2 = 0 then (.ok, plain s) else (.denied, s))
    else if 0x6010 ≤ idx ∧ idx < 0x6020 then writeCompartment p (idx - 0x6010) off bs s
    else match idx, sub with
    | 0x3820, 1 => (.ok, onEng (fun e => restartChecks (setStreamMap off bs e)) s)
    | 0x5004, 1 => writeChannels 0 off bs s
    | 0x5005, 1 => writeChannels 1 off bs s
    | 0x5006, 1 => writeQueues 0 off bs s
    | 0x5007, 1 => writeQueues 1 off bs s
    | 0x5008, 1 => writeGroups off bs s
    | 0x5100, 1 => writeSemValues off bs s
    | 0x5101, 1 => writeSemMap off bs s
    | 0x5110, 1 => writeBarriers off bs s
    | 0x6001, 1 => writeIncoming off bs s
    | 0x6002, 1 => if reg s.eng 0x6002 3 = 0 then (.ok, plain s) else (.denied, s)
    | _, _ => (.ok, plain s)

/-- A write of DOMAIN data through a port (R63 to R65, R67, R420). -/
def domWrite (p : Port) (idx sub off : Nat) (bs : List Byte) (s : State) : Access × State :=
  match rowOf idx sub with
  | none => (.noEntry, s)
  | some r =>
    if r.ty ≠ .domain then (.noEntry, s)
    else if !(rightOf s p idx r).writes then (.noRight, s)
    else if r.cap < off + bs.length then (.outOfDomain, s)
    else if heldBack s.eng p idx sub then (.busy, s)
    else domainEffect p idx sub off bs s

/-- DOM_DATA (R65): 16 bytes at the cursor, which moves on after an access that ends OK only (log entry 122). -/
def effDomData (p : Port) : Effect := fun v s =>
  let (idx, sub, off) := cursorOf s.eng p
  let (st, s') := domWrite p idx sub off (leBytes 16 v) s
  if st = .ok then (st, advanceCursor p s') else (st, s')

/-- The effect of a write to an entry, by its owning chapter. A DOMAIN's cell holds nothing writable (R63). -/
def entryEffect (p : Port) (idx sub : Nat) : Effect :=
  match rowOf idx sub with
  | some r =>
    if r.ty = .domain then fun _ s => (.ok, s)
    else if idx = 0x1040 ∧ sub = 3 then effDomData p
    else if 0x2000 ≤ idx ∧ idx < 0x2C00 then stationEffect p idx sub
    else if 0x3000 ≤ idx ∧ idx < 0x3600 then agentEffect p idx sub
    else if 0x4100 ≤ idx ∧ idx < 0x4140 then ringEffect p idx sub
    else if 0x6008 ≤ idx ∧ idx < 0x600C then coreEffect p idx sub
    else fixedEffect p idx sub
  | none => fun _ s => (.noEntry, s)

/-- A write of a whole value to an entry through a port that reaches the dictionary (R53, R420). -/
def writeAccess (p : Port) (idx sub v : Nat) (s : State) : Access × State :=
  writeEntry p idx sub v (entryEffect p idx sub) s

end Sys2Proof.Machine
end

