-- ==== Sys2Proof/Machine/HostPort.lean ====
section
/-! DEFINITION. Host access through HST (spec/02_object_dictionary.md R57 to R64): the dictionary window BAR0 with its
read snapshot and write staging, and the DOMAIN apertures of BAR2. The cores' window shares the part rules (R60). -/

namespace Sys2Proof.Machine

/-- The snapshot of a port (R60): key 0 for HST, k + 1 for core k. -/
def snapOf (s : State) (k : Nat) : Snapshot := storeGet (fun _ => {}) s.port.snaps k

/-- The staging of a port (R60). -/
def stagingOf (s : State) (k : Nat) : Staging := storeGet (fun _ => {}) s.port.stagings k

/-- A port's snapshot set. -/
def setSnap (k : Nat) (x : Snapshot) (s : State) : State :=
  { s with port := { s.port with snaps := storeSet (fun _ => {}) k x s.port.snaps } }

/-- A port's staging set. -/
def setStaging (k : Nat) (x : Staging) (s : State) : State :=
  { s with port := { s.port with stagings := storeSet (fun _ => {}) k x s.port.stagings } }

/-- The snapshot key of a port. -/
def partKey : Port → Nat
  | .f k => k.val + 1
  | _ => 0

/-- R60, reads: a part of a cell read through a port that has a snapshot. A part without byte 0 that the snapshot does not
hold shows the live bytes and does not move the port's cursor (log entry 122). -/
def readPart (p : Port) (idx sub byte len : Nat) (s : State) : Access × Nat × State :=
  let k := partKey p
  if byte = 0 then
    let (st, v, s') := readAccess p idx sub s
    if st = .ok then (st, bits v 0 (8 * len), setSnap k ⟨some (idx, sub), v⟩ s') else (st, 0, s')
  else
    let (st, v, _) := readAccess p idx sub s
    if (readEntry p idx sub s).1 ≠ .ok then (st, 0, s)
    else if (snapOf s k).cell = some (idx, sub) then (.ok, bits (snapOf s k).value (8 * byte) (8 * len), s)
    else if st ≠ .ok then (st, 0, s)
    else (.stagingLost, bits v (8 * byte) (8 * len), s)

/-- Whether a write to an entry would be refused before its owning chapter's rules (R420). -/
def refusedWrite (p : Port) (idx sub : Nat) (s : State) : Option Access :=
  match rowOf idx sub with
  | none => some .noEntry
  | some r =>
    if !(rightOf s p idx r).writes then some .noRight
    else if heldBack s.eng p idx sub then some .busy
    else none

/-- R60, writes: a part of a cell written through a port that has a staging buffer. A write that R420 refuses before the
entry's effect leaves the staging as it is; one whose effect ends BAD_VALUE or DENIED has emptied it (log entry 121). -/
def writePart (p : Port) (idx sub byte len v : Nat) (s : State) : Access × State :=
  let k := partKey p
  let g := stagingOf s k
  match refusedWrite p idx sub s with
  | some st => (st, s)
  | none =>
    let mine := g.cell = some (idx, sub)
    if byte = 0 then
      let cur := cellNow p idx sub s
      let base := if mine then
          (below 16).foldl (fun x i => if bit g.mask i then setBits x (8 * i) 8 (bits g.value (8 * i) 8) else x) cur
        else cur
      let (st, s') := writeAccess p idx sub (setBits base 0 (8 * len) v % 2 ^ 128) s
      (st, setStaging k {} s')
    else
      let old : Staging := if mine then g else {}
      let m := ((2 ^ len - 1) * 2 ^ byte) ||| old.mask
      (if g.cell.isSome ∧ !mine then .stagingLost else .ok,
        setStaging k ⟨some (idx, sub), m, setBits old.value (8 * byte) (8 * len) v⟩ s)

/-- Whether a host access has an allowed width and alignment (R59). -/
def hostAligned (off len : Nat) : Bool := (len == 4 || len == 8 || len == 16) && off % len == 0

/-- The completion of a host read with data. -/
def hostReturns (n v : Nat) (s : State) : State := onEng (emit (.hostData (leBytes n v))) s

/-- HOST_DICTIONARY_READ (R57 to R62). While the module runs in reset, the read ends with an error response and all
ones (R13); while it does not run, HST receives nothing (R14). -/
def execHostDictionaryRead (off : BitVec 28) (len : Nat) (s : State) : Host.Outcome State Fault Refusal :=
  let o := off.toNat
  let idx := o / 4096
  let sub := o / 16 % 256
  match reach s.eng .h with
  | .full =>
    if hostAligned o len then
      let (st, v, s') := readPart .h idx sub (o % 16) len s
      .next (hostReturns len v (onEng (recordHost st idx sub o) s'))
    else .next (hostReturns len 0 (onEng (recordHost .badAccess idx sub o) s))
  | .error => .next (onEng (emit (.hostError (List.replicate len 0xFF))) s)
  | _ => .next s

/-- HOST_DICTIONARY_WRITE (R57 to R62). -/
def execHostDictionaryWrite (off : BitVec 28) (data : List Byte) (s : State) : Host.Outcome State Fault Refusal :=
  let o := off.toNat
  let idx := o / 4096
  let sub := o / 16 % 256
  match reach s.eng .h with
  | .full =>
    if hostAligned o data.length then
      let (st, s') := writePart .h idx sub (o % 16) data.length (leNat data) s
      .next (onEng (fun e => emit .hostDone (recordHost st idx sub o e)) s')
    else .next (onEng (fun e => emit .hostDone (recordHost .badAccess idx sub o e)) s)
  | .error => .next (onEng (emit (.hostError [])) s)
  | _ => .next s

/-- The aperture that a BAR2 offset lies in: the entry bound, and the byte of the DOMAIN it reaches (R64). -/
def apertureAt (e : Eng) (off : Nat) : Nat × Nat × Nat :=
  let b := reg e 0x1030 (off / 2 ^ 24 + 1)
  (bits b 0 16, bits b 16 8, bits b 32 32 + off % 2 ^ 24)

/-- HOST_APERTURE_READ (R64). -/
def execHostApertureRead (off : BitVec 26) (len : Nat) (s : State) : Host.Outcome State Fault Refusal :=
  let o := off.toNat
  let (idx, sub, a) := apertureAt s.eng o
  match reach s.eng .h with
  | .full =>
    if hostAligned o len then
      let (st, bs) := domRead .h idx sub a len s
      .next (hostReturns len (leNat bs) (onEng (recordHost st idx sub (o + 2 ^ 31)) s))
    else .next (hostReturns len 0 (onEng (recordHost .badAccess idx sub (o + 2 ^ 31)) s))
  | .error => .next (onEng (emit (.hostError (List.replicate len 0xFF))) s)
  | _ => .next s

/-- HOST_APERTURE_WRITE (R64). -/
def execHostApertureWrite (off : BitVec 26) (data : List Byte) (s : State) : Host.Outcome State Fault Refusal :=
  let o := off.toNat
  let (idx, sub, a) := apertureAt s.eng o
  match reach s.eng .h with
  | .full =>
    if hostAligned o data.length then
      let (st, s') := domWrite .h idx sub a data s
      .next (onEng (fun e => emit .hostDone (recordHost st idx sub (o + 2 ^ 31) e)) s')
    else .next (onEng (fun e => emit .hostDone (recordHost .badAccess idx sub (o + 2 ^ 31) e)) s)
  | .error => .next (onEng (emit (.hostError [])) s)
  | _ => .next s

/-- DOM_DATA_READ (R65): the port's cursor. -/
def execDomDataRead (p : Port) (s : State) : Host.Outcome State Fault Refusal :=
  match reach s.eng p with
  | .none => .next s
  | .error => .next (onEng (emit (.hostError [])) s)
  | .busy => .next (onEng (endAccess p 0x1040 3 .busy) s)
  | _ =>
    let (st, v, s') := readAccess p 0x1040 3 s
    .next (onEng (fun e => emit (.hostData (leBytes 16 v)) (endAccess p 0x1040 3 st e)) s')

/-- DOM_DATA_WRITE (R65). -/
def execDomDataWrite (p : Port) (v : Cell128) (s : State) : Host.Outcome State Fault Refusal :=
  .next (portWrite p 0x1040 3 v.toNat (entryEffect p 0x1040 3) s)

/-- QUERY_TARGET_WRITE (R71): the port's bank; QUERY_RESULT follows it. -/
def execQueryTargetWrite (p : Port) (v : Word32) (s : State) : Host.Outcome State Fault Refusal :=
  .next (portWrite p 0x1022 1 v.toNat (plainCommit p 0x1022 1) s)

/-- DBG_LOCK_WRITE (R50): 1 sets the lock, 0 has no effect. -/
def execDbgLockWrite (p : Port) (v : Byte) (s : State) : Host.Outcome State Fault Refusal :=
  .next (portWrite p 0x1020 1 v.toNat effDbgLock s)

/-- REGISTER_WRITE (R53): a write to an entry with the checks of R420 and its owning chapter's effect. -/
def execRegisterWrite (p : Port) (idx : BitVec 16) (sub : Byte) (v : Cell128) (s : State) :
    Host.Outcome State Fault Refusal :=
  .next (portWrite p idx.toNat sub.toNat v.toNat (entryEffect p idx.toNat sub.toNat) s)

end Sys2Proof.Machine
end

