-- ==== Sys2Proof/Machine/CorePort.lean ====
section
/-! DEFINITION. What a core does at an address (spec/15_oprun_firmware.md R352, R359 to R361): the guard of its
compartment, the memories of the control complex, and the dictionary window. -/

namespace Sys2Proof.Machine

/-- The bit of RIGHTS that an access needs, and its kind in LAST_COMP_FAULT (R359, R377). -/
def kindRight : AccessKind → Nat
  | .load => 0
  | .store => 1
  | .fetch => 2

@[inherit_doc kindRight]
def kindCode : AccessKind → Nat
  | .fetch => 0
  | .load => 1
  | .store => 2

/-- What lies at a core address (R352): an offset in the boot ROM, the firmware RAM, the retained store, or the
dictionary window. -/
inductive CorePlace where
  | rom (off : Nat)
  | ram (off : Nat)
  | retained (off : Nat)
  | dictionary (off : Nat)
  deriving DecidableEq, Repr

/-- The place of bytes that lie wholly within one listed range (R352). -/
def corePlace (a n : Nat) : Option CorePlace :=
  if a + n ≤ 0x10000 then some (.rom a)
  else if 0x10000000 ≤ a ∧ a + n ≤ 0x10200000 then some (.ram (a - 0x10000000))
  else if 0x20000000 ≤ a ∧ a + n ≤ 0x20004000 then some (.retained (a - 0x20000000))
  else if 0x40000000 ≤ a ∧ a + n ≤ 0x50000000 then some (.dictionary (a - 0x40000000))
  else none

/-- Whether an index lies in one OD_RANGE of a record (R359, R361). -/
def rangeGrants (rec : List Byte) (idx : Nat) : Bool :=
  (below 3).any fun i =>
    let lo := leNat ((rec.drop (4 + 4 * i)).take 2)
    let hi := leNat ((rec.drop (6 + 4 * i)).take 2)
    !(lo == 0 && hi == 0) && lo ≤ idx && idx ≤ hi

/-- The compartment whose entry gate lies at an address, other than the core's own (R361). -/
def gateAt (e : Eng) (own a : Nat) : List Nat :=
  (below 16).filter fun c => c ≠ own && a ≠ 0 && (below 4).any fun j => compField e c (112 + 4 * j) 4 == a

/-- A compartment fault (R361): the access is not performed; the core is restarted, or a handover rolled back. -/
def compFault (k kind addr idx : Nat) (e : Eng) : Eng :=
  coreFails k 2 (storeGet (fun _ => 0) e.fw.pcs k) (noteCompFault k kind addr idx e)

/-- A dictionary access of a core (R60, R361): the rules for parts, with the F rights; a read returns its bytes. -/
def coreDictionary (k : Fin 4) (kind : AccessKind) (off n : Nat) (data : List Byte) (s : State) : State :=
  let idx := off / 4096
  let sub := off / 16 % 256
  if !hostAligned off n then
    let s := onEng (endAccess (.f k) idx sub .badAccess) s
    if kind = .store then s else onEng (emit (.coreData k.val (List.replicate n 0))) s
  else match kind with
    | .store =>
      let (st, s) := writePart (.f k) idx sub (off % 16) n (leNat data) s
      onEng (endAccess (.f k) idx sub st) s
    | _ =>
      let (st, v, s) := readPart (.f k) idx sub (off % 16) n s
      onEng (fun e => emit (.coreData k.val (leBytes n v)) (endAccess (.f k) idx sub st e)) s

/-- An access that its compartment lets pass (R352). Loads and fetches of memory change nothing of the block. -/
def corePass (k : Fin 4) (kind : AccessKind) (a n : Nat) (data : List Byte) (s : State) : State :=
  let s := if kind = .fetch then
      onEng (onFw fun f => { f with pcs := storeSet (fun _ => 0) k.val a f.pcs }) s
    else s
  match corePlace a n, kind with
  | some (.ram off), .store => onEng (setFwBytes off data) s
  | some (.retained off), .store => onEng (setRetained off data) s
  | some (.dictionary off), kind => coreDictionary k kind off n data s
  | _, _ => s

/-- CORE_ACCESS (R361) by a core that is not held in reset. -/
def coreAccess (k : Fin 4) (kind : AccessKind) (a n : Nat) (data : List Byte) (s : State) : State :=
  let e := s.eng
  let own := reg e (coreIdx k.val) 5
  let gates := if kind = .fetch ∧ (corePlace a n).isSome then gateAt e own a else []
  match gates.find? fun c => mayEnter e c k.val with
  | some c => corePass k kind a n data (onEng (setReg (coreIdx k.val) 5 c) s)
  | none =>
    let rec_ := compRecord e own
    let idx := match corePlace a n with | some (.dictionary off) => off / 4096 | _ => 0
    let inDict := match corePlace a n with | some (.dictionary _) => true | _ => false
    if windowGrants rec_ (kindRight kind) a n && (corePlace a n).isSome && (!inDict || rangeGrants rec_ idx) then
      corePass k kind a n data s
    else onEng (compFault k.val (if gates.isEmpty then (kindCode kind) else 3) a idx) s

/-- CORE_ACCESS (R361). A core in reset, restarting or failed makes no access; a store carries as many bytes as it
says. -/
def execCoreAccess (k : Fin 4) (kind : AccessKind) (addr : Word32) (len : Nat) (data : List Byte) (s : State) :
    Host.Outcome State Fault Refusal :=
  if len = 0 ∨ (kind = .store ∧ data.length ≠ len) then .fault .outsideEnvironment
  else
    let st := coreState s.eng k.val
    if controlUp s.eng ∧ (st = 1 ∨ st = 2 ∨ st = 3) then .next (coreAccess k kind addr.toNat len data s) else .next s

/-- COMPARTMENT_WRITE (R360). -/
def execCompartmentWrite (p : Port) (c : Fin 16) (off : BitVec 7) (data : List Byte) (s : State) :
    Host.Outcome State Fault Refusal :=
  .next (domCommand p (0x6010 + c.val) 1 off.toNat (domWrite p (0x6010 + c.val) 1 off.toNat data) s)

end Sys2Proof.Machine
end

