-- ==== Sys2Proof/Machine/DbgPort.lean ====
section
/-! DEFINITION. The debug port (spec/02_object_dictionary.md R69, R70): the TAP's instruction register and the
OD_ACCESS data register. -/

namespace Sys2Proof.Machine

/-- The debug state changed. -/
def onDbg (f : Dbg → Dbg) (s : State) : State := { s with port := { s.port with dbg := f s.port.dbg } }

/-- Whether OD_ACCESS is selected and the TAP is powered (R69). -/
def odSelected (s : State) : Bool := s.eng.run ≠ .unpowered && s.port.dbg.ir == 0x2C

/-- TAP_INSTRUCTION_UPDATE (R69): every code but OD_ACCESS behaves as BYPASS. -/
def execTapInstructionUpdate (ir : Byte) (s : State) : Host.Outcome State Fault Refusal :=
  if s.eng.run = .unpowered then .next s
  else .next (onDbg (fun d => { d with ir := if ir = 0x2C then 0x2C else 0xFF }) s)

/-- TAP_RESET (R69): BYPASS is selected. -/
def execTapReset (s : State) : Host.Outcome State Fault Refusal :=
  if s.eng.run = .unpowered then .next s else .next (onDbg (fun d => { d with ir := 0xFF }) s)

/-- An operation started at Update-DR (R70): one while another is pending has no effect and is counted; in reset none
starts (R13). -/
def startDbg (op : DbgOp) (s : State) : State :=
  if odSelected s ∧ reach s.eng .d ≠ .busy then
    if s.port.dbg.pending.isSome then onEng (bump 0x1012 1) s
    else onDbg (fun d => { d with pending := some op }) s
  else s

/-- OD_ACCESS_READ (R70). -/
def execOdAccessRead (idx : BitVec 16) (sub : Byte) (s : State) : Host.Outcome State Fault Refusal :=
  .next (startDbg ⟨false, idx.toNat, sub.toNat, 0⟩ s)

/-- OD_ACCESS_WRITE (R70). -/
def execOdAccessWrite (idx : BitVec 16) (sub : Byte) (v : Cell128) (s : State) : Host.Outcome State Fault Refusal :=
  .next (startDbg ⟨true, idx.toNat, sub.toNat, v.toNat⟩ s)

/-- The value of the data register that Capture-DR loads (R70). -/
def captureValue (s : State) : BitVec 160 :=
  let d := s.port.dbg
  let (idx, sub) := match d.pending with
    | some op => (op.idx, op.sub)
    | none => (d.idx, d.sub)
  let busy := d.pending.isSome || reach s.eng .d == .busy
  BitVec.ofNat 160 ((if busy then 0 else d.data % 2 ^ 128) + idx % 2 ^ 16 * 2 ^ 128 + sub % 2 ^ 8 * 2 ^ 144 +
    d.status % 2 ^ 4 * 2 ^ 154 + (if busy then 2 ^ 158 else 0))

/-- OD_ACCESS_CAPTURE (R70): a scan that captures and shifts in OP 0b00. Its Update-DR starts nothing; while an operation
is pending it is counted (log entry 123), and in reset nothing is (R13). -/
def execOdAccessCapture (s : State) : Host.Outcome State Fault Refusal :=
  if odSelected s then
    let inWay := s.port.dbg.pending.isSome && reach s.eng .d ≠ .busy
    .next (onEng (fun e => emit (.dbgCapture (captureValue s)) (if inWay then bump 0x1012 1 e else e))
      (onDbg (fun d => { d with dr := captureValue s }) s))
  else .next s

/-- OD_ACCESS_COMPLETE (R70): the pending operation ends; a write shows the cell as a read on D returns it: of DOM_DATA,
the 16 bytes at the cursor. -/
def execOdAccessComplete (s : State) : Host.Outcome State Fault Refusal :=
  match s.port.dbg.pending with
  | none => .next s
  | some op =>
    if reach s.eng .d = .busy then .next s
    else if op.write then
      let (st, s') := writeAccess .d op.idx op.sub op.value s
      .next (onDbg (fun d => { d with pending := none, data := (readAccess .d op.idx op.sub s').2.1, idx := op.idx,
                                      sub := op.sub, status := st.code }) s')
    else
      let (st, v, s') := readAccess .d op.idx op.sub s
      .next (onDbg (fun d => { d with pending := none, data := v, idx := op.idx, sub := op.sub, status := st.code }) s')

end Sys2Proof.Machine
end

