-- ==== Sys2Proof/Machine/MgtPort.lean ====
section
/-! DEFINITION. The management port (spec/02_object_dictionary.md R66 to R68): frames received, processed in arrival
order, and answered. -/

namespace Sys2Proof.Machine

/-- Whether MGT receives and transmits (R13, R388). -/
def mgtUp (e : Eng) : Bool := e.run == .ready || e.run == .recovery

/-- Byte `k` of a frame. -/
def frameByte (f : List Byte) (k : Nat) : Nat := (f.getD k 0).toNat

/-- A field of `n` bytes of a frame. -/
def frameNat (f : List Byte) (k n : Nat) : Nat := leNat ((f.drop k).take n)

/-- The request type of a frame that is well formed (R66, R67): its length matches its type, its STATUS and reserved
bytes are zero, and COUNT fits. None for any other frame of 8 bytes or more. That a COUNT which R67 does not allow, a
non-zero STATUS and non-zero padding are answered BAD_FRAME too is the model's choice (log entry 124). -/
def frameType (f : List Byte) : Option Nat :=
  let t := frameByte f 0
  let n := f.length
  let c := frameByte f 6
  let block := 1 ≤ c && c ≤ 48 && frameNat f 12 4 == 0
  let ok := frameByte f 5 == 0 && frameByte f 7 == 0 && match t with
    | 1 => n == 8 && c == 0
    | 2 => n == 24 && c == 0
    | 3 => n == 16 && block
    | 4 => n == 64 && block && frameNat f (16 + c) (48 - c) == 0
    | _ => false
  if ok then some t else none

/-- The first bytes of a response: the request's, with bit 7 of the type and the status set (R66, R67). -/
def responseHead (f : List Byte) (st : Access) : List Byte :=
  leBytes 1 (frameByte f 0 ||| 0x80) ++ leBytes 4 (frameNat f 1 4) ++ leBytes 1 st.code ++
    leBytes 1 (frameByte f 6) ++ leBytes 1 0

/-- Index and sub of a frame (R67). -/
def frameEntry (f : List Byte) : Nat × Nat := (frameNat f 2 2, frameByte f 4)

/-- MGT_FRAME_RECEIVE (R66, R68): a frame is counted; a short one is discarded and counted; one that arrives while 16
are held is dropped and counted; any other waits its turn. In reset a frame is discarded uncounted (R13). -/
def execMgtFrameReceive (frame : List Byte) (s : State) : Host.Outcome State Fault Refusal :=
  if !mgtUp s.eng then .next s
  else
    let s := onEng (bump 0x1011 1) s
    if frame.length < 8 then .next (onEng (bump 0x1011 3) s)
    else if 16 ≤ s.port.mgtRx.length then .next (onEng (bump 0x1011 2) s)
    else .next { s with port := { s.port with mgtRx := s.port.mgtRx ++ [frame] } }

/-- The frame at the head of the queue, where MGT can process it: the previous response has left (R68). -/
def nextFrame (s : State) : Option (List Byte) :=
  if mgtUp s.eng ∧ s.port.mgtTx = none then s.port.mgtRx.head? else none

/-- The oldest frame is answered. -/
def answer (response : List Byte) (s : State) : State :=
  { s with port := { s.port with mgtRx := s.port.mgtRx.tail, mgtTx := some response } }

/-- A meaning that processes the oldest frame where it is of the given type; otherwise that frame waits for the
command of its own type. -/
def processFrame (t : Nat) (f : List Byte → State → List Byte × State) (s : State) : State :=
  match nextFrame s with
  | some fr =>
    if frameType fr = some t then
      let (r, s') := f fr s
      answer r s'
    else s
  | none => s

/-- MGT_READ (R67): the cell, atomically. -/
def execMgtRead (s : State) : Host.Outcome State Fault Refusal :=
  .next (processFrame 1 (fun f s =>
    let (idx, sub) := frameEntry f
    let (st, v, s') := readAccess .m idx sub s
    (responseHead f st ++ leBytes 16 v, s')) s)

/-- MGT_WRITE (R67): the whole cell; the response carries the cell as a READ would return it then. -/
def execMgtWrite (s : State) : Host.Outcome State Fault Refusal :=
  .next (processFrame 2 (fun f s =>
    let (idx, sub) := frameEntry f
    let (st, s') := writeAccess .m idx sub (frameNat f 8 16) s
    (responseHead f st ++ leBytes 16 (readEntry .m idx sub s').2, s')) s)

/-- MGT_BLOCK_READ (R67). -/
def execMgtBlockRead (s : State) : Host.Outcome State Fault Refusal :=
  .next (processFrame 3 (fun f s =>
    let (idx, sub) := frameEntry f
    let (st, bs) := domRead .m idx sub (frameNat f 8 4) (frameByte f 6) s
    (responseHead f st ++ leBytes 4 (frameNat f 8 4) ++ leBytes 4 0 ++ leBytes 48 (leNat bs), s)) s)

/-- MGT_BLOCK_WRITE (R67). -/
def execMgtBlockWrite (s : State) : Host.Outcome State Fault Refusal :=
  .next (processFrame 4 (fun f s =>
    let (idx, sub) := frameEntry f
    let (st, s') := domWrite .m idx sub (frameNat f 8 4) ((f.drop 16).take (frameByte f 6)) s
    (responseHead f st ++ leBytes 4 (frameNat f 8 4) ++ leBytes 4 0, s')) s)

/-- MGT_BAD_FRAME (R66): the oldest frame is malformed; its response is 8 bytes with BAD_FRAME. -/
def execMgtBadFrame (s : State) : Host.Outcome State Fault Refusal :=
  match nextFrame s with
  | some f => if frameType f = none then .next (answer (responseHead f .badFrame) s) else .next s
  | none => .next s

/-- MGT_RESPONSE_SEND (R68): the response leaves, 1 byte per AONCLK. -/
def execMgtResponseSend (s : State) : Host.Outcome State Fault Refusal :=
  match s.port.mgtTx with
  | none => .next s
  | some r =>
    if mgtUp s.eng then
      .next { s with port := { s.port with mgtTx := none }, eng := emit (.mgtFrame r) s.eng }
    else .next s

end Sys2Proof.Machine
end

