-- ==== Sys2Proof/Machine/Dispatch.lean ====
section
/-! DEFINITION. The meaning of each command: one arm for each row of spec/opcode_table.json. -/

namespace Sys2Proof.Machine

def exec (i : Instr) (s : State) : Host.Outcome State Fault Refusal :=
  match i with
  | .powerGoodRise => Sys2Proof.Machine.execPowerGoodRise s
  | .powerGoodFall => Sys2Proof.Machine.execPowerGoodFall s
  | .btRstNAssert => Sys2Proof.Machine.execBtRstNAssert s
  | .rstGlitch => Sys2Proof.Machine.execRstGlitch s
  | .resetCmdBlock p => Sys2Proof.Machine.execResetCmdBlock p s
  | .resetCmdStation p st => Sys2Proof.Machine.execResetCmdStation p st s
  | .resetCmdStackAgent p n => Sys2Proof.Machine.execResetCmdStackAgent p n s
  | .resetCmdLinkAgent p l => Sys2Proof.Machine.execResetCmdLinkAgent p l s
  | .recoveryExit p => Sys2Proof.Machine.execRecoveryExit p s
  | .systemWatchdogExpiry => Sys2Proof.Machine.execSystemWatchdogExpiry s
  | .sysWdogKick p => Sys2Proof.Machine.execSysWdogKick p s
  | .holdPhaseEnd t => Sys2Proof.Machine.execHoldPhaseEnd t s
  | .releaseStepComplete t => Sys2Proof.Machine.execReleaseStepComplete t s
  | .releaseStepTimeout t => Sys2Proof.Machine.execReleaseStepTimeout t s
  | .crossingTrainStepDone n ok info => Sys2Proof.Machine.execCrossingTrainStepDone n ok info s
  | .clkStateStable => Sys2Proof.Machine.execClkStateStable s
  | .clkStateNotStable => Sys2Proof.Machine.execClkStateNotStable s
  | .clkReqTimeout => Sys2Proof.Machine.execClkReqTimeout s
  | .budget cap => Sys2Proof.Machine.execBudget cap s
  | .pwrMessageBad word => Sys2Proof.Machine.execPwrMessageBad word s
  | .loadForecast e => Sys2Proof.Machine.execLoadForecast e s
  | .loadStatus => Sys2Proof.Machine.execLoadStatus s
  | .powerWindowBoundary => Sys2Proof.Machine.execPowerWindowBoundary s
  | .loadPlanCommit p => Sys2Proof.Machine.execLoadPlanCommit p s
  | .loadPlanDisable p => Sys2Proof.Machine.execLoadPlanDisable p s
  | .throttleRepeat n => Sys2Proof.Machine.execThrottleRepeat n s
  | .throttleLimitExpiry n => Sys2Proof.Machine.execThrottleLimitExpiry n s
  | .hostDictionaryRead off len => Sys2Proof.Machine.execHostDictionaryRead off len s
  | .hostDictionaryWrite off data => Sys2Proof.Machine.execHostDictionaryWrite off data s
  | .hostApertureRead off len => Sys2Proof.Machine.execHostApertureRead off len s
  | .hostApertureWrite off data => Sys2Proof.Machine.execHostApertureWrite off data s
  | .mgtFrameReceive frame => Sys2Proof.Machine.execMgtFrameReceive frame s
  | .mgtRead => Sys2Proof.Machine.execMgtRead s
  | .mgtWrite => Sys2Proof.Machine.execMgtWrite s
  | .mgtBlockRead => Sys2Proof.Machine.execMgtBlockRead s
  | .mgtBlockWrite => Sys2Proof.Machine.execMgtBlockWrite s
  | .mgtBadFrame => Sys2Proof.Machine.execMgtBadFrame s
  | .mgtResponseSend => Sys2Proof.Machine.execMgtResponseSend s
  | .faultFrameSend => Sys2Proof.Machine.execFaultFrameSend s
  | .tapInstructionUpdate ir => Sys2Proof.Machine.execTapInstructionUpdate ir s
  | .odAccessRead idx sub => Sys2Proof.Machine.execOdAccessRead idx sub s
  | .odAccessWrite idx sub v => Sys2Proof.Machine.execOdAccessWrite idx sub v s
  | .odAccessCapture => Sys2Proof.Machine.execOdAccessCapture s
  | .odAccessComplete => Sys2Proof.Machine.execOdAccessComplete s
  | .domDataRead p => Sys2Proof.Machine.execDomDataRead p s
  | .domDataWrite p v => Sys2Proof.Machine.execDomDataWrite p v s
  | .queryTargetWrite p v => Sys2Proof.Machine.execQueryTargetWrite p v s
  | .dbgLockWrite p v => Sys2Proof.Machine.execDbgLockWrite p v s
  | .registerWrite p idx sub v => Sys2Proof.Machine.execRegisterWrite p idx sub v s
  | .coreAccess k kind addr len data => Sys2Proof.Machine.execCoreAccess k kind addr len data s
  | .ringEnable p r => Sys2Proof.Machine.execRingEnable p r s
  | .ringDisable p r => Sys2Proof.Machine.execRingDisable p r s
  | .ringAbort p r => Sys2Proof.Machine.execRingAbort p r s
  | .doorbell p r => Sys2Proof.Machine.execDoorbell p r s
  | .entryReadComplete r ans => Sys2Proof.Machine.execEntryReadComplete r ans s
  | .scanResume r => Sys2Proof.Machine.execScanResume r s
  | .entryReadRetry r ans => Sys2Proof.Machine.execEntryReadRetry r ans s
  | .nop r => Sys2Proof.Machine.execNop r s
  | .move r => Sys2Proof.Machine.execMove r s
  | .moveInline r => Sys2Proof.Machine.execMoveInline r s
  | .fragments r => Sys2Proof.Machine.execFragments r s
  | .weevil r => Sys2Proof.Machine.execWeevil r s
  | .semOpWaitGe r => Sys2Proof.Machine.execSemOpWaitGe r s
  | .semOpAdd r => Sys2Proof.Machine.execSemOpAdd r s
  | .semOpSub r => Sys2Proof.Machine.execSemOpSub r s
  | .fence r => Sys2Proof.Machine.execFence r s
  | .skip r => Sys2Proof.Machine.execSkip r s
  | .pack r => Sys2Proof.Machine.execPack r s
  | .expand r => Sys2Proof.Machine.execExpand r s
  | .reshard r => Sys2Proof.Machine.execReshard r s
  | .jobStart j => Sys2Proof.Machine.execJobStart j s
  | .jobHostError j => Sys2Proof.Machine.execJobHostError j s
  | .jobComplete j => Sys2Proof.Machine.execJobComplete j s
  | .headWrite r => Sys2Proof.Machine.execHeadWrite r s
  | .irqMarkWrite p r v => Sys2Proof.Machine.execIrqMarkWrite p r v s
  | .dockNop st c w => Sys2Proof.Machine.execDockNop st c w s
  | .arm st c w => Sys2Proof.Machine.execArm st c w s
  | .start st c w => Sys2Proof.Machine.execStart st c w s
  | .cancel st c w => Sys2Proof.Machine.execCancel st c w s
  | .accept st c w => Sys2Proof.Machine.execAccept st c w s
  | .post st c w => Sys2Proof.Machine.execPost st c w s
  | .wake st c w => Sys2Proof.Machine.execWake st c w s
  | .sleep st c w => Sys2Proof.Machine.execSleep st c w s
  | .unitGroupOpen st result => Sys2Proof.Machine.execUnitGroupOpen st result s
  | .unitGroupClose st result => Sys2Proof.Machine.execUnitGroupClose st result s
  | .resultBeat st c data => Sys2Proof.Machine.execResultBeat st c data s
  | .operandInterval st slot => Sys2Proof.Machine.execOperandInterval st slot s
  | .gateConditionMet st => Sys2Proof.Machine.execGateConditionMet st s
  | .holdRelease st => Sys2Proof.Machine.execHoldRelease st s
  | .linkWaitExpiry st => Sys2Proof.Machine.execLinkWaitExpiry st s
  | .cancelDrainEnd st slot => Sys2Proof.Machine.execCancelDrainEnd st slot s
  | .linkPostApply st ctr => Sys2Proof.Machine.execLinkPostApply st ctr s
  | .streamCommit p st slot => Sys2Proof.Machine.execStreamCommit p st slot s
  | .streamClear p st slot => Sys2Proof.Machine.execStreamClear p st slot s
  | .linkPost p st ctr amount => Sys2Proof.Machine.execLinkPost p st ctr amount s
  | .slotLoad p st k => Sys2Proof.Machine.execSlotLoad p st k s
  | .slotFence p st k => Sys2Proof.Machine.execSlotFence p st k s
  | .expanderBlockInput st slot => Sys2Proof.Machine.execExpanderBlockInput st slot s
  | .dynamicBlockAdmit st c => Sys2Proof.Machine.execDynamicBlockAdmit st c s
  | .sectorListSend n abs => Sys2Proof.Machine.execSectorListSend n abs s
  | .sectorListArrive n abs g => Sys2Proof.Machine.execSectorListArrive n abs g s
  | .staticReadCard n abs g ecc => Sys2Proof.Machine.execStaticReadCard n abs g ecc s
  | .staticWriteCard n abs g ecc => Sys2Proof.Machine.execStaticWriteCard n abs g ecc s
  | .dynamicCard n abs g => Sys2Proof.Machine.execDynamicCard n abs g s
  | .staticSectorLand st => Sys2Proof.Machine.execStaticSectorLand st s
  | .refreshCard n abs g => Sys2Proof.Machine.execRefreshCard n abs g s
  | .owedTick n => Sys2Proof.Machine.execOwedTick n s
  | .dealerDecision n abs g => Sys2Proof.Machine.execDealerDecision n abs g s
  | .trumpGrant n abs g => Sys2Proof.Machine.execTrumpGrant n abs g s
  | .requestArrive n => Sys2Proof.Machine.execRequestArrive n s
  | .readBurst n sev => Sys2Proof.Machine.execReadBurst n sev s
  | .scrubIssue n => Sys2Proof.Machine.execScrubIssue n s
  | .freeze p n v => Sys2Proof.Machine.execFreeze p n v s
  | .initComplete n => Sys2Proof.Machine.execInitComplete n s
  | .initTimeout n => Sys2Proof.Machine.execInitTimeout n s
  | .frameBegin report => Sys2Proof.Machine.execFrameBegin report s
  | .swapCommit p => Sys2Proof.Machine.execSwapCommit p s
  | .swapWithdraw p => Sys2Proof.Machine.execSwapWithdraw p s
  | .swapChecksComplete => Sys2Proof.Machine.execSwapChecksComplete s
  | .swapDecisionPoint => Sys2Proof.Machine.execSwapDecisionPoint s
  | .crossingBeatReceive way inRange words => Sys2Proof.Machine.execCrossingBeatReceive way inRange words s
  | .controlWordReceive n parityOk item => Sys2Proof.Machine.execControlWordReceive n parityOk item s
  | .frameMarkArrive n count => Sys2Proof.Machine.execFrameMarkArrive n count s
  | .spineAllocate dir abs => Sys2Proof.Machine.execSpineAllocate dir abs s
  | .ucieUnitReceive m seq crc pois data => Sys2Proof.Machine.execUcieUnitReceive m seq crc pois data s
  | .ucieModuleInitDone m => Sys2Proof.Machine.execUcieModuleInitDone m s
  | .ucieInitTimeout m => Sys2Proof.Machine.execUcieInitTimeout m s
  | .myEndpointWrite p v => Sys2Proof.Machine.execMyEndpointWrite p v s
  | .linkEnableWrite p v => Sys2Proof.Machine.execLinkEnableWrite p v s
  | .channelOpen p l c => Sys2Proof.Machine.execChannelOpen p l c s
  | .channelClose p l c => Sys2Proof.Machine.execChannelClose p l c s
  | .grantArrive l => Sys2Proof.Machine.execGrantArrive l s
  | .grantRepeat l c => Sys2Proof.Machine.execGrantRepeat l c s
  | .responseArrive l => Sys2Proof.Machine.execResponseArrive l s
  | .flitSend l => Sys2Proof.Machine.execFlitSend l s
  | .flitReceive l cls som pois data => Sys2Proof.Machine.execFlitReceive l cls som pois data s
  | .creditReturn l cls => Sys2Proof.Machine.execCreditReturn l cls s
  | .messageArrive l => Sys2Proof.Machine.execMessageArrive l s
  | .messageApply l c => Sys2Proof.Machine.execMessageApply l c s
  | .semAddApply l c => Sys2Proof.Machine.execSemAddApply l c s
  | .remoteWriteDurable l c => Sys2Proof.Machine.execRemoteWriteDurable l c s
  | .retransmitTimeout l c => Sys2Proof.Machine.execRetransmitTimeout l c s
  | .queueStart p l q => Sys2Proof.Machine.execQueueStart p l q s
  | .queueFinish p l q => Sys2Proof.Machine.execQueueFinish p l q s
  | .queueRecordWrite l c => Sys2Proof.Machine.execQueueRecordWrite l c s
  | .multicastCut l c => Sys2Proof.Machine.execMulticastCut l c s
  | .semCmdAdd p ctx v k => Sys2Proof.Machine.execSemCmdAdd p ctx v k s
  | .semCmdSub p ctx v k => Sys2Proof.Machine.execSemCmdSub p ctx v k s
  | .semValuesWrite p sem v => Sys2Proof.Machine.execSemValuesWrite p sem v s
  | .semMapWrite p ctx v w => Sys2Proof.Machine.execSemMapWrite p ctx v w s
  | .waiterExpiry id => Sys2Proof.Machine.execWaiterExpiry id s
  | .barrierFire b => Sys2Proof.Machine.execBarrierFire b s
  | .alloc p policy field phase granules => Sys2Proof.Machine.execAlloc p policy field phase granules s
  | .free p handle => Sys2Proof.Machine.execFree p handle s
  | .allocOperationComplete => Sys2Proof.Machine.execAllocOperationComplete s
  | .handleRelease slot => Sys2Proof.Machine.execHandleRelease slot s
  | .handleQueryWrite p v => Sys2Proof.Machine.execHandleQueryWrite p v s
  | .h2fPost p => Sys2Proof.Machine.execH2fPost p s
  | .f2hSend p => Sys2Proof.Machine.execF2hSend p s
  | .f2hAck p => Sys2Proof.Machine.execF2hAck p s
  | .mailboxBadRequest => Sys2Proof.Machine.execMailboxBadRequest s
  | .hello => Sys2Proof.Machine.execHello s
  | .boot => Sys2Proof.Machine.execBoot s
  | .update => Sys2Proof.Machine.execUpdate s
  | .adopt => Sys2Proof.Machine.execAdopt s
  | .coreRestart => Sys2Proof.Machine.execCoreRestart s
  | .status => Sys2Proof.Machine.execStatus s
  | .imageCheckComplete => Sys2Proof.Machine.execImageCheckComplete s
  | .ready => Sys2Proof.Machine.execReady s
  | .fwStartLimitExpiry => Sys2Proof.Machine.execFwStartLimitExpiry s
  | .coreRunWrite p v => Sys2Proof.Machine.execCoreRunWrite p v s
  | .wdogKick p k => Sys2Proof.Machine.execWdogKick p k s
  | .coreWatchdogExpiry k pc => Sys2Proof.Machine.execCoreWatchdogExpiry k pc s
  | .coreStateRunning p k => Sys2Proof.Machine.execCoreStateRunning p k s
  | .compartmentWrite p c off data => Sys2Proof.Machine.execCompartmentWrite p c off data s
  | .handoverSafePointDeadline parked => Sys2Proof.Machine.execHandoverSafePointDeadline parked s
  | .handoverReadyDeadline => Sys2Proof.Machine.execHandoverReadyDeadline s
  | .handoverOldReadyDeadline => Sys2Proof.Machine.execHandoverOldReadyDeadline s
  | .handoverEnd => Sys2Proof.Machine.execHandoverEnd s
  | .hostHeartbeat p => Sys2Proof.Machine.execHostHeartbeat p s
  | .heartbeatExpiry => Sys2Proof.Machine.execHeartbeatExpiry s
  | .orphanPark => Sys2Proof.Machine.execOrphanPark s
  | .faultEvent src detail => Sys2Proof.Machine.execFaultEvent src detail s
  | .faultClear p mask => Sys2Proof.Machine.execFaultClear p mask s
  | .faultAck p => Sys2Proof.Machine.execFaultAck p s
  | .errOutRelease p => Sys2Proof.Machine.execErrOutRelease p s
  | .errOutModeWrite p mode => Sys2Proof.Machine.execErrOutModeWrite p mode s
  | .errOutTimerExpiry => Sys2Proof.Machine.execErrOutTimerExpiry s
  | .hostReadCompletion id ans => Sys2Proof.Machine.execHostReadCompletion id ans s
  | .tallyLaneBeat st => Sys2Proof.Machine.execTallyLaneBeat st s
  | .tapReset => Sys2Proof.Machine.execTapReset s
  | .reservedDockCommand st c op w => Sys2Proof.Machine.execReservedDockCommand st c op w s

end Sys2Proof.Machine
end

