-- ==== Sys2Proof/Machine/Step.lean ====
section
/-! DEFINITION. One step of the block: the command at the front of its queue, or, with none waiting, one cycle of
ARCLK. -/

namespace Sys2Proof.Machine

/-- One ARCLK cycle passes and nothing else happens: what the table has commands for happens at those commands (log
entry 1). -/
def idle (s : State) : State := { s with eng := { s.eng with now := s.eng.now + 1 } }

/-- The command at the front of the queue is taken and has its effect, the rest of the queue waiting behind it; on an
empty queue the block idles (log entry 1). -/
def step (s : State) : Host.Outcome State Fault Refusal :=
  match s.pending with
  | [] => .next (idle s)
  | c :: rest => exec c { s with pending := rest }

/-- The state with the command of a table word at the front of its queue; the table spells none in bits, so the state
itself (log entry 3). -/
def State.withFetchWord (s : State) (nbits w : Nat) : State :=
  match Sys2Proof.decodeTableWord nbits w with
  | some c => { s with pending := c :: s.pending }
  | none => s

end Sys2Proof.Machine
end

