-- ==== Sys2Proof/Safety.lean ====
section
/-! DEFINITION. What a sound state and a completed command are: the bounds of the ports' queues, the canonical forms of
the stored contents, a command that answers a next state, and what a command leaves alone. -/

namespace Sys2Proof.Machine

/-- The queues of the ports within their sizes: 16 received frames on MGT (R68), 4 waiting FAULT frames, and a
notification number of 8 bits (R412). -/
def Ports.bounded (p : Ports) : Prop := p.mgtRx.length ≤ 16 ∧ p.faultFrames.length ≤ 4 ∧ p.nseq < 256

/-- The stored contents in their canonical forms. -/
def Eng.canonical (e : Eng) : Prop := storeWf regDefault e.regs = true ∧ storeWf domDefault e.dom = true ∧ Memory.wf e.mem = true

/-- A command completes in a state: it answers a next one, no fault and no refusal. -/
def Completes (c : Instr) (s : State) : Prop := ∃ t, exec c s = .next t

/-- A write of an entry through a port meets no refusal of R420 before its owning chapter's rules. -/
def letThrough (p : Port) (i k : Nat) (s : State) : Prop :=
  (reach s.eng p = .full ∨ reach s.eng p = .limited) ∧ refusedWrite p i k s = none

/-- Every entry but those listed holds its value, in every bank. -/
def sameEntries (ks : List (Nat × Nat)) (e e' : Eng) : Prop :=
  ∀ b i k, i < 65536 → k < 256 → (i, k) ∉ ks → regB e' b i k = regB e b i k

/-- Nothing has changed but dictionary values and the record of what left the ports. -/
def onlyEntries (s t : State) : Prop := t = { s with eng := { s.eng with regs := t.eng.regs, out := t.eng.out } }

/-- A host access with a status other than OK is recorded in 0x1010 and counted, and no other entry changes (R62). -/
def hostRecorded (st idx sub off : Nat) (e e' : Eng) : Prop :=
  reg e' 0x1010 1 = st ∧ reg e' 0x1010 2 = idx ∧ reg e' 0x1010 3 = sub ∧ reg e' 0x1010 4 = off ∧
    reg e' 0x1010 5 = (reg e 0x1010 5 + 1) % 2 ^ 32 ∧
    sameEntries [(0x1010, 1), (0x1010, 2), (0x1010, 3), (0x1010, 4), (0x1010, 5)] e e'

/-- All of memory reads as before: stack memory and Pools, the firmware RAM, and the poison of the Pools' words. -/
def sameMemory (e e' : Eng) : Prop :=
  (∀ a, memByte e' a = memByte e a) ∧ e'.fwRam = e.fwRam ∧ e'.poolPois = e.poolPois

/-- A station takes a dock command at an ARCLK cycle: it is up, neither held nor contained, and eight cycles have passed
since the last one (R191, R202). -/
def dockTakes (e : Eng) (s c : Nat) : Prop :=
  isReady e = true ∧ partUp e s = true ∧ (dockOf e s).hold = none ∧ (dockOf e s).contained = false ∧
    ∀ t, (dockOf e s).lastCmd = some t → t + 7 < c

/-- Every dock but one station's stands as before. -/
def otherDocks (s : Nat) (e e' : Eng) : Prop := ∀ q, q ≠ s → dockOf e' q = dockOf e q

/-- A message that passes every check of R319 at a link agent: intact, enabled, for this endpoint, of a sound header,
and from the peer of an open channel. -/
def arrivesSound (e : Eng) (p : Nat) (m : RxMsg) : Prop :=
  m.intact = true ∧ linkEnabled e p = true ∧ bits m.header 82 18 = reg e 0x5000 1 ∧ headerFits m.header = true ∧
    chField e p (bits m.header 16 12) 0 2 = 1 ∧ chField e p (bits m.header 16 12) 8 18 = bits m.header 64 18

end Sys2Proof.Machine
end

