-- ==== Sys2Proof/WellFormed.lean ====
section
/-! DEFINITION. The commands whose operands are events of their ports: the bounds that the ports themselves put on
what can arrive, beside the widths that `Instr` gives its operands. A command that is not well formed ends in
`Fault.outsideEnvironment`. -/

namespace Sys2Proof

/-- The words that HST returns to an entry read: whole entries of 64 bytes, at least one (R280, R287). -/
def HostAnswer.wholeEntries : HostAnswer → Bool
  | .data bytes _ => bytes.length ≠ 0 && bytes.length % 64 = 0
  | .error => true

/-- Whether a command's operands are an event of its port. -/
def Instr.wellFormed : Instr → Bool
  | .coreAccess _ kind _ len data => len ≠ 0 && (kind ≠ .store || data.length = len)
  | .entryReadComplete _ ans => ans.wholeEntries
  | .entryReadRetry _ ans => ans.wholeEntries
  | .ucieUnitReceive m _ _ _ data => data.length = (if m.val = 4 then 128 else 256)
  | .flitReceive _ _ _ _ data => data.length = 256
  | _ => true

end Sys2Proof
end

