-- ==== Sys2Proof/Certificates/Slice0/Obligations.lean ====
section
/-! DEFINITION. The statements for the provers: one `def` for each, a proposition over all states and operands that
formalises rules of the spec, with its frame. A command that completes is stated to answer a next state. -/

open Sys2Proof Sys2Proof.Machine

/-! ### The whole machine -/

/-- A step takes the command at the front of the queue and runs its meaning on the state with the queue's rest (log
entry 1: the queue is the model's own). On an empty queue one ARCLK cycle passes and nothing else happens, which is
the model's choice (log entry 1). -/
def Obligations.StepRunsTheFrontCommand : Prop :=
  (∀ (c : Instr) (rest : List Instr) (s : State), s.pending = c :: rest → step s = exec c { s with pending := rest }) ∧
  (∀ s : State, s.pending = [] → step s = .next { s with eng := { s.eng with now := s.eng.now + 1 } })

/-- No command touches the queue of the commands that wait behind it (log entry 1). -/
def Obligations.NoCommandTouchesTheQueue : Prop :=
  ∀ (c : Instr) (s t : State), exec c s = .next t → t.pending = s.pending

/-- A well-formed command always completes; the operands whose bounds lie in the state are the host's answers to
reads: a record or data read carries as many bytes as it asked for, an entry read at most as many as it asked for. -/
def Obligations.WellFormedCommandsComplete : Prop :=
  ∀ (c : Instr) (s : State), c.wellFormed = true →
    (∀ id bytes ep, c = .hostReadCompletion id (.data bytes ep) →
      ∀ h ∈ s.eng.hostReads, h.id = id → bytes.length = h.len) →
    (∀ r bytes ep, (c = .entryReadComplete r (.data bytes ep) ∨ c = .entryReadRetry r (.data bytes ep)) →
      bytes.length ≤ 64 * readRoom s.eng r.val) →
    Completes c s

/-- The ports' queues are within their sizes after the reset of the model. -/
def Obligations.PortQueuesStartBounded : Prop :=
  State.reset.port.bounded

/-- No step takes the ports' queues beyond their sizes: 16 received frames on MGT, four waiting FAULT frames, and a
notification number of 8 bits. -/
def Obligations.PortQueuesStayBounded : Prop :=
  ∀ s t : State, s.port.bounded → step s = .next t → t.port.bounded

/-! ### Resets, the start sequence and the clocks (spec/16_reset_clocks_power.md) -/

/-- What the model's reset holds: the power-on reset just accepted, in its hold phase; every entry at its default, of
which those of the backup registers, the severities and the notifications are written out; nothing in the Pools, the
stacks or the queues. The time 0 and the free values' generation 0 are the model's choice (log entries 2 and 5). -/
def Obligations.ResetState : Prop :=
  State.reset.eng.run = .hold 0 true true ∧
  (∀ b i k, regB State.reset.eng b i k = regDefault (cellKey b i k)) ∧
  reg State.reset.eng 0x1202 1 = 3 * 2 ^ 8 ∧ reg State.reset.eng 0x1202 2 = 0 ∧
  reg State.reset.eng 0x1301 1 = 0x55555555555555555555555555555555 ∧
  reg State.reset.eng 0x1304 3 = 1 ∧ reg State.reset.eng 0x1200 2 = 0 ∧
  (∀ a, memByte State.reset.eng a = Config.undefByte 0 a) ∧
  State.reset.eng.jobs = [] ∧ State.reset.eng.raised = [] ∧ State.reset.pending = [] ∧
  State.reset.port.dbgLock = false ∧ State.reset.eng.errOut.low = false

/-- The power-on reset clears everything, the always-on domain with it; memory reads as new free values. A fall of
BT_PWRGOOD leaves a block that holds nothing. (The clock, the queue and the record of what left the ports are the
model's own: log entries 1 and 2.) -/
def Obligations.PowerRails : Prop :=
  ∀ s : State,
    (∃ t, exec .powerGoodRise s = .next t ∧ t.pending = s.pending ∧ t.port = {} ∧ t.eng.now = s.eng.now ∧
      t.eng.out = s.eng.out ∧ t.eng.run = .hold s.eng.now true true ∧ t.eng.powerOnAt = s.eng.now ∧
      (∀ b i k, regB t.eng b i k = regDefault (cellKey b i k)) ∧
      (∀ i k o n, domBytes t.eng i k o n = domBytes State.reset.eng i k o n) ∧
      (∀ a, memByte t.eng a = Config.undefByte (s.eng.fresh + 1) a) ∧
      t.eng.jobs = [] ∧ t.eng.docks = [] ∧ t.eng.agents = [] ∧ t.eng.rings = [] ∧ t.eng.links = [] ∧
      t.eng.raised = [] ∧ t.eng.errOut.low = false ∧ t.eng.power.cap = 4250) ∧
    (∃ t, exec .powerGoodFall s = .next t ∧ t.pending = s.pending ∧ t.port = {} ∧ t.eng.run = .unpowered ∧
      t.eng.now = s.eng.now ∧ t.eng.out = s.eng.out ∧ t.eng.wdog = none ∧ t.eng.clkReqAt = none ∧
      (∀ b i k, regB t.eng b i k = regDefault (cellKey b i k)) ∧
      (∀ a, memByte t.eng a = Config.undefByte (s.eng.fresh + 1) a) ∧
      t.eng.jobs = [] ∧ t.eng.docks = [] ∧ t.eng.agents = [] ∧ t.eng.rings = [] ∧ t.eng.links = [])

/-- A BLOCK reset, accepted outside a power-on reset's hold and step 1: the hold phase begins, every entry outside the
always-on domain takes its default, the always-on entries keep their values but for START_STATE, START_DETAIL,
RESET_LOG_NEXT and RESETS; where no other reset was accepted in its AONCLK the log holds the record with AON_TIME, the
cause, scope BLOCK and part 0; jobs, docks, agents, rings and links are gone; memory reads as new free values; MGT's
queues, the FAULT frames and DBG_LOCK stay. A BLOCK reset of BT_RST_N that meets another BLOCK reset in its AONCLK is
merged with it: the log has no further record, RESETS does not count it, and the record's cause is the lower of the
two. RECOVERY_EXIT from M or D in recovery mode clears BOOT_FAIL_COUNT, leaves BOOT_FAIL_LIMIT, and starts a BLOCK
reset whose step 2 is cold; from H, or outside recovery mode, it ends with DENIED and changes nothing but the records
of accesses. -/
def Obligations.BlockResetClears : Prop :=
  (∀ (s : State) (c : Instr) (cause m : Nat), powerScope s.eng = false →
     sameEdge (aonTime { s.eng with now := m }) s.eng = none →
     ((c = .btRstNAssert ∧ s.eng.run ≠ .unpowered ∧ cause = 2 ∧ m = s.eng.now) ∨
       (c = .resetCmdBlock .h ∧ letThrough .h 0x1200 1 s ∧ cause = 3 ∧ m = s.eng.now) ∨
       (c = .resetCmdBlock .m ∧ letThrough .m 0x1200 1 s ∧ cause = 4 ∧ m = s.eng.now) ∨
       (c = .resetCmdBlock .d ∧ letThrough .d 0x1200 1 s ∧ cause = 5 ∧ m = s.eng.now) ∨
       (c = .clkStateNotStable ∧ sourceRuns s.eng = true ∧ cause = 7 ∧ m = s.eng.now) ∨
       (∃ last, c = .systemWatchdogExpiry ∧ s.eng.wdog = some last ∧ reg s.eng 0x1201 1 ≠ 0 ∧ cause = 6 ∧
         m = max s.eng.now (last + reg s.eng 0x1201 1 * aonT))) →
     ∃ t cold, exec c s = .next t ∧ t.pending = s.pending ∧ t.eng.now = m ∧ t.eng.run = .hold m cold false ∧
       (∀ i k, i < 65536 → k < 256 → alwaysOn i k = false → reg t.eng i k = regDefault (cellKey 0 i k)) ∧
       (∀ i k, i < 65536 → k < 256 → alwaysOn i k = true →
         (i, k) ∉ [(0x1200, 2), (0x1200, 3), (0x1202, 2), (0x1205, 2)] → reg t.eng i k = reg s.eng i k) ∧
       reg t.eng 0x1200 2 = 0 ∧ reg t.eng 0x1200 3 = 0 ∧
       reg t.eng 0x1202 2 = (reg s.eng 0x1202 2 % 8 + 1) % 8 ∧
       reg t.eng 0x1205 2 = (reg s.eng 0x1205 2 + 1) % 2 ^ 64 ∧
       domBytes t.eng 0x1203 2 (16 * (reg s.eng 0x1202 2 % 8)) 16 =
         leBytes 8 (aonTime t.eng) ++ leBytes 1 cause ++ leBytes 1 1 ++ leBytes 6 0 ∧
       (∀ a, memByte t.eng a = Config.undefByte (s.eng.fresh + 1) a) ∧
       t.eng.jobs = [] ∧ t.eng.docks = [] ∧ t.eng.agents = [] ∧ t.eng.rings = [] ∧ t.eng.links = [] ∧
       t.eng.wdog = none ∧ t.eng.spBase = none ∧ t.port.mgtRx = s.port.mgtRx ∧ t.port.mgtTx = s.port.mgtTx ∧
       t.port.faultFrames = s.port.faultFrames ∧ t.port.dbgLock = s.port.dbgLock ∧
       (c = .clkStateNotStable → cold = true ∧ t.eng.raised = s.eng.raised ++ [(86, 0)]) ∧
       (c = .systemWatchdogExpiry → t.eng.raised = s.eng.raised ++ [(87, 0)])) ∧
  (∀ (s : State) (k : Nat), powerScope s.eng = false → s.eng.run ≠ .unpowered → sameEdge (aonTime s.eng) s.eng = some k →
     domNat s.eng 0x1203 2 (16 * k + 9) 1 = 1 → domNat s.eng 0x1203 2 (16 * k + 10) 1 = 0 →
     ∃ t cold, exec .btRstNAssert s = .next t ∧ t.eng.run = .hold s.eng.now cold false ∧
       reg t.eng 0x1202 2 = reg s.eng 0x1202 2 ∧ reg t.eng 0x1205 2 = reg s.eng 0x1205 2 ∧
       domNat t.eng 0x1203 2 (16 * k + 8) 1 = min 2 (domNat s.eng 0x1203 2 (16 * k + 8) 1)) ∧
  (∀ (p : Port) (s : State), letThrough p 0x1200 1 s →
     (s.eng.run = .recovery ∧ p ≠ .h →
       ∃ t, exec (.recoveryExit p) s = .next t ∧ t.pending = s.pending ∧ t.eng.run = .hold s.eng.now true false ∧
         reg t.eng 0x1202 1 % 256 = 0 ∧ reg t.eng 0x1202 1 / 256 = reg s.eng 0x1202 1 / 256 ∧
         reg t.eng 0x1200 2 = 0 ∧ t.eng.errOut.kept = true ∧ t.eng.errOut.low = s.eng.errOut.low ∧
         (∀ i k, i < 65536 → k < 256 → alwaysOn i k = false → reg t.eng i k = regDefault (cellKey 0 i k)) ∧
         t.eng.out = .access p 0x1200 1 0 :: s.eng.out) ∧
     (s.eng.run ≠ .recovery ∨ p = .h →
       ∃ t, exec (.recoveryExit p) s = .next t ∧ onlyEntries s t ∧
         sameEntries [(0x1010, 1), (0x1010, 2), (0x1010, 3), (0x1010, 4), (0x1010, 5)] s.eng t.eng ∧
         t.eng.out = .access p 0x1200 1 7 :: s.eng.out))

/-- A part reset through a port, with the block running and the part not in reset (or out of service after a reset
that failed): the watchdog stops, the block goes on running, the part is in its hold phase from now, every entry of
the part reads its default, and the log holds a record with the present AON_TIME, the part's scope and number, and the
cause of the port's command, or a lower one that met it. A part already in reset: no effect, and the access ends with
OK. -/
def Obligations.PartResetHolds : Prop :=
  ∀ (p : Port) (s : State) (c : Instr) (src scope part : Nat), letThrough p 0x1200 1 s →
    ((∃ st, c = .resetCmdStation p st ∧ src = st.val ∧ scope = 2 ∧ part = st.val) ∨
      (∃ n, c = .resetCmdStackAgent p n ∧ src = 48 + n.val ∧ scope = 3 ∧ part = n.val) ∨
      (∃ l, c = .resetCmdLinkAgent p l ∧ src = 72 + l.val ∧ scope = 4 ∧ part = l.val)) →
    (s.eng.run = .ready → phaseOf s.eng src = .up ∨ phaseOf s.eng src = .stuck →
      ∃ t, exec c s = .next t ∧ t.pending = s.pending ∧ t.port = s.port ∧ t.eng.wdog = none ∧
        phaseOf t.eng src = .hold s.eng.now ∧
        (∀ i k, k < 256 → partOf i = some src → reg t.eng i k = regDefault (cellKey 0 i k)) ∧
        (∃ k, k < 8 ∧ domNat t.eng 0x1203 2 (16 * k) 8 = aonTime s.eng ∧
          1 ≤ domNat t.eng 0x1203 2 (16 * k + 8) 1 ∧ domNat t.eng 0x1203 2 (16 * k + 8) 1 ≤ commandCause p ∧
          domNat t.eng 0x1203 2 (16 * k + 9) 1 = scope ∧ domNat t.eng 0x1203 2 (16 * k + 10) 1 = part) ∧
        t.eng.out.head? = some (.access p 0x1200 1 0)) ∧
    (phaseOf s.eng src ≠ .up ∧ phaseOf s.eng src ≠ .stuck →
      exec c s = .next { s with eng := { s.eng with out := .access p 0x1200 1 0 :: s.eng.out } })

/-- A low of BT_RST_N on fewer than two edges adds 1 to RST_GLITCHES and does nothing else. A write of SYS_WDOG_KICK,
with the block running, the release of every reset complete and the watchdog not expired, restarts its count and does
nothing else but answer; where the release has not completed and the watchdog is stopped, it only answers. Step 2, 3,
5 or 6 of the release that has not completed by its limit fails the start with the step's detail, and so does a clock
request without an answer for 20 AONCLK: source 84 is raised last, START_STATE reads failed with the detail in
START_DETAIL, BOOT_FAIL_COUNT and FAILED_STARTS count (the count stays at 255: log entry 13), and the release stops at
its step. A crossing still in training is failed and raises its source; a stack agent still initialising is failed,
lowers INIT_START and raises its source. -/
def Obligations.GlitchesKicksAndTimeouts : Prop :=
  (∀ s : State,
     (s.eng.run ≠ .unpowered →
       ∃ t, exec .rstGlitch s = .next t ∧ onlyEntries s t ∧ sameEntries [(0x1205, 1)] s.eng t.eng ∧ t.eng.out = s.eng.out ∧
         reg t.eng 0x1205 1 = (reg s.eng 0x1205 1 + 1) % 2 ^ 64) ∧
     (∀ p, letThrough p 0x1201 2 s → s.eng.run = .ready → (∀ x ∈ s.eng.parts, x.2 = .up ∨ x.2 = .stuck) →
       (∀ last, s.eng.wdog = some last → reg s.eng 0x1201 1 = 0 ∨ s.eng.now ≤ last + reg s.eng 0x1201 1 * 3600) →
       exec (.sysWdogKick p) s =
         .next { s with eng := { s.eng with wdog := some s.eng.now, out := .access p 0x1201 2 0 :: s.eng.out } }) ∧
     (∀ p, letThrough p 0x1201 2 s → (s.eng.run ≠ .ready ∨ ∃ x ∈ s.eng.parts, x.2 ≠ .up ∧ x.2 ≠ .stuck) → s.eng.wdog = none →
       exec (.sysWdogKick p) s = .next { s with eng := { s.eng with out := .access p 0x1201 2 0 :: s.eng.out } })) ∧
  (∀ (s : State) (c : Instr) (k since limit detail : Nat) (cold power : Bool), s.eng.run = .release k since cold power →
     ((c = .releaseStepTimeout .block ∧ k = 2 ∧ limit = since + 20 * 3600 ∧ detail = 0x1211 ∧ reg s.eng 0x1100 1 ≠ 2) ∨
       (c = .releaseStepTimeout .block ∧ k = 3 ∧ limit = since + 1000 * 3600 ∧ detail = 0x1212 ∧
         reg s.eng 0x3934 1 ≠ 2) ∨
       (c = .releaseStepTimeout .block ∧ k = 5 ∧ limit = since + 124 * 3600 ∧ detail = 0x1213 ∧
         ∃ n, n < 24 ∧ reg s.eng (0x3900 + n) 1 ≠ 2) ∨
       (c = .releaseStepTimeout .block ∧ k = 6 ∧ limit = since + 50000 * 3600 ∧ detail = 0x1214 ∧
         ∃ n, n < 24 ∧ reg s.eng (0x3000 + 0x40 * n) 1 ≠ 2) ∨
       (∃ at_, c = .clkReqTimeout ∧ k = 2 ∧ s.eng.clkReqAt = some at_ ∧ limit = at_ + 20 * 3600 ∧ detail = 0x1211)) →
     ∃ t, exec c s = .next t ∧ t.pending = s.pending ∧ t.port = s.port ∧ (k ≠ 6 → t.eng.out = s.eng.out) ∧
       sameMemory s.eng t.eng ∧ t.eng.run = .failed k ∧ t.eng.raised.getLast? = some (84, detail) ∧
       (k ≠ 6 → t.eng.now = max s.eng.now limit) ∧ (k < 4 → t.eng.raised = s.eng.raised ++ [(84, detail)]) ∧
       (k = 5 → ∀ n, n < 24 → reg s.eng (0x3900 + n) 1 = 1 → reg t.eng (0x3900 + n) 1 = 3 ∧ ∃ d, (48 + n, d) ∈ t.eng.raised) ∧
       (k = 6 → ∀ n, n < 24 → reg s.eng (0x3000 + 0x40 * n) 1 = 1 → (agentOf s.eng n).initAt.isSome = true →
         reg t.eng (0x3000 + 0x40 * n) 1 = 3 ∧ (agentOf t.eng n).initStart = false ∧ (48 + n, 0) ∈ t.eng.raised) ∧
       reg t.eng 0x1200 2 = 2 ∧ reg t.eng 0x1200 3 = detail ∧
       reg t.eng 0x1202 1 % 256 = min 255 (reg s.eng 0x1202 1 % 256 + 1) ∧
       reg t.eng 0x1202 1 / 256 = reg s.eng 0x1202 1 / 256 ∧
       reg t.eng 0x1205 3 = (reg s.eng 0x1205 3 + 1) % 2 ^ 64 ∧ (k = 2 → reg t.eng 0x1100 1 = 3) ∧
       (k = 2 → sameEntries [(0x1100, 1), (0x1200, 2), (0x1200, 3), (0x1202, 1), (0x1205, 3)] s.eng t.eng) ∧
       (k = 3 → sameEntries [(0x3934, 1), (0x1200, 2), (0x1200, 3), (0x1202, 1), (0x1205, 3)] s.eng t.eng))

/-- The end of the hold phase of the whole block, at least 16 AONCLK after the reset was accepted: a power-on reset
goes on at step 1; a BLOCK reset at step 2, which requests the ARCLK source where it starts cold and opens the gates
where the source runs; a BLOCK reset with BOOT_FAIL_COUNT at or above BOOT_FAIL_LIMIT enters recovery mode instead. A
release step of the whole block, from 2 on, completes once its condition holds, and the next begins; step 8 is
followed by the rise of BT_READY. Step 2 waits for the clocks, step 3 for the HST module, step 5 for the crossings and
step 6 for the stack agents; at the start of step 3 CP0 runs in the boot ROM, at that of step 5 every crossing trains,
and at that of step 6 every stack agent raises INIT_START and the frame counter starts. A step whose condition does
not hold stays as it is. Step 1 of a power-on reset ends with the reset's log record, of AON_TIME 0, and goes on to
step 2 or recovery mode. -/
def Obligations.ReleaseFollowsTheHold : Prop :=
  (∀ (s : State) (since : Nat) (cold power : Bool), s.eng.run = .hold since cold power →
     ∃ t, exec (.holdPhaseEnd .block) s = .next t ∧ t.pending = s.pending ∧ t.port = s.port ∧
       t.eng.now = max s.eng.now (since + 16 * 3600) ∧ sameMemory s.eng t.eng ∧
       sameEntries [(0x1100, 1), (0x1200, 2), (0x1205, 4), (0x6000, 1)] s.eng t.eng ∧
       (power = true → t.eng.run = .release 1 t.eng.now cold true ∧ t.eng.regs = s.eng.regs ∧ t.eng.out = s.eng.out) ∧
       (power = false → reg s.eng 0x1202 1 % 256 < reg s.eng 0x1202 1 / 256 % 256 → cold = true →
         t.eng.run = .release 2 t.eng.now true false ∧ reg t.eng 0x1100 1 = 1 ∧ t.eng.clkReqAt = some t.eng.now ∧
         t.eng.out = (sendPwr 0x50000001#32 { s.eng with now := t.eng.now }).out ∧ sameEntries [(0x1100, 1)] s.eng t.eng) ∧
       (power = false → reg s.eng 0x1202 1 % 256 < reg s.eng 0x1202 1 / 256 % 256 → cold = false →
         t.eng.run = .release 2 t.eng.now false false ∧ reg t.eng 0x1100 1 = 2 ∧ t.eng.out = s.eng.out ∧
         sameEntries [(0x1100, 1)] s.eng t.eng) ∧
       (power = false → reg s.eng 0x1202 1 / 256 % 256 ≤ reg s.eng 0x1202 1 % 256 →
         t.eng.run = .recovery ∧ reg t.eng 0x1200 2 = 3 ∧ reg t.eng 0x1100 1 = 0 ∧ reg t.eng 0x6000 1 = 7 ∧
         reg t.eng 0x1205 4 = (reg s.eng 0x1205 4 + 1) % 2 ^ 64 ∧ t.eng.errOut.low = true ∧ t.eng.clkReqAt = none ∧
         t.eng.out = (sendPwr 0x50000000#32 { s.eng with now := t.eng.now }).out)) ∧
  (∀ (s : State) (k since : Nat) (cold power : Bool), s.eng.run = .release k since cold power →
     ((k = 2 ∧ reg s.eng 0x1100 1 ≠ 2) ∨ (k = 3 ∧ reg s.eng 0x3934 1 ≠ 2) ∨
       (k = 5 ∧ ∃ n, n < 24 ∧ reg s.eng (0x3900 + n) 1 ≠ 2) ∨
       (k = 6 ∧ ∃ n, n < 24 ∧ reg s.eng (0x3000 + 0x40 * n) 1 ≠ 2) →
       exec (.releaseStepComplete .block) s = .next s) ∧
     (k = 1 → ∃ t, exec (.releaseStepComplete .block) s = .next t ∧
       (t.eng.run = .release 2 s.eng.now cold power ∨ t.eng.run = .recovery) ∧
       reg t.eng 0x1202 2 = (reg s.eng 0x1202 2 % 8 + 1) % 8 ∧ reg t.eng 0x1205 2 = (reg s.eng 0x1205 2 + 1) % 2 ^ 64 ∧
       domBytes t.eng 0x1203 2 (16 * (reg s.eng 0x1202 2 % 8)) 16 = leBytes 8 0 ++ leBytes 1 1 ++ leBytes 7 0) ∧
     (2 ≤ k → k ≤ 8 → (k = 2 → reg s.eng 0x1100 1 = 2) → (k = 3 → reg s.eng 0x3934 1 = 2) →
       (k = 5 → ∀ n, n < 24 → reg s.eng (0x3900 + n) 1 = 2) →
       (k = 6 → ∀ n, n < 24 → reg s.eng (0x3000 + 0x40 * n) 1 = 2) →
       ∃ t, exec (.releaseStepComplete .block) s = .next t ∧ t.pending = s.pending ∧ t.port = s.port ∧
         t.eng.now = s.eng.now ∧ sameMemory s.eng t.eng ∧ (k ≠ 5 → t.eng.out = s.eng.out) ∧
         (k < 8 → t.eng.run = .release (k + 1) s.eng.now cold power) ∧ (k = 8 → t.eng.run = .ready) ∧
         (k = 2 → reg t.eng 0x6008 1 = 1 ∧ reg t.eng 0x4000 1 = 1 ∧ reg t.eng 0x3934 1 = 1) ∧
         (k = 3 ∨ k = 6 ∨ k = 8 → t.eng.regs = s.eng.regs) ∧
         (k = 4 → ∀ n, n < 24 → reg t.eng (0x3900 + n) 1 = 1 ∧ reg t.eng (0x3900 + n) 3 = 1) ∧
         (k = 5 → t.eng.spBase = some s.eng.now ∧ ∀ n, n < 24 → reg t.eng (0x3000 + 0x40 * n) 1 = 1 ∧
           (agentOf t.eng n).initStart = true ∧ .initStart n 1 ∈ t.eng.out)))

/-- A report of a stable source within 20 AONCLK of the request, while step 2 waits for it, opens the gates and
changes nothing else; at any other moment before that limit it changes nothing. A part's own hold phase ends 16 AONCLK
after its reset or later, and its release begins: a stack agent raises INIT_START, a link agent's modules initialise.
The release of a station or link agent completes at once, that of a stack agent once it runs. -/
def Obligations.ClockStableAndPartReleases : Prop :=
  ∀ s : State,
    (∀ since cold power, s.eng.run = .release 2 since cold power → reg s.eng 0x1100 1 = 1 →
      (∀ at_, s.eng.clkReqAt = some at_ → s.eng.now ≤ at_ + 20 * 3600) →
      ∃ t, exec .clkStateStable s = .next t ∧ reg t.eng 0x1100 1 = 2 ∧ sameEntries [(0x1100, 1)] s.eng t.eng ∧
        t = { s with eng := { s.eng with regs := t.eng.regs, clkReqAt := none } }) ∧
    (reg s.eng 0x1100 1 ≠ 1 → (∀ at_, s.eng.clkReqAt = some at_ → s.eng.now ≤ at_ + 20 * 3600) →
      exec .clkStateStable s = .next s) ∧
    (∀ (tg : Target) (src since : Nat),
      ((∃ st, tg = .station st ∧ src = st.val) ∨ (∃ n, tg = .agent n ∧ src = 48 + n.val) ∨
        (∃ p, tg = .link p ∧ src = 72 + p.val)) →
      (phaseOf s.eng src = .hold since →
        ∃ t, exec (.holdPhaseEnd tg) s = .next t ∧ t.pending = s.pending ∧ t.port = s.port ∧
          t.eng.now = max s.eng.now (since + 16 * 3600) ∧ phaseOf t.eng src = .release t.eng.now ∧
          (∀ q, q ≠ src → phaseOf t.eng q = phaseOf s.eng q) ∧ sameMemory s.eng t.eng ∧
          (src < 48 → t.eng.regs = s.eng.regs ∧ t.eng.out = s.eng.out) ∧
          (∀ n, n < 24 → src = 48 + n → reg t.eng (0x3000 + 0x40 * n) 1 = 1 ∧ (agentOf t.eng n).initStart = true ∧
            t.eng.out = .initStart n 1 :: s.eng.out) ∧
          (∀ p, p < 2 → src = 72 + p → reg t.eng (0x3930 + 2 * p) 1 = 1 ∧ reg t.eng (0x3931 + 2 * p) 1 = 1)) ∧
      (phaseOf s.eng src = .release since →
        (src < 48 ∨ 72 ≤ src ∨ reg s.eng (0x3000 + 0x40 * (src - 48)) 1 = 2 →
          ∃ t, exec (.releaseStepComplete tg) s = .next t ∧ phaseOf t.eng src = .up ∧
            t = { s with eng := { s.eng with parts := t.eng.parts } } ∧
            ∀ q, q ≠ src → phaseOf t.eng q = phaseOf s.eng q) ∧
        (48 ≤ src → src < 72 → reg s.eng (0x3000 + 0x40 * (src - 48)) 1 ≠ 2 →
          exec (.releaseStepComplete tg) s = .next s)))

/-! ### The power port (spec/16_reset_clocks_power.md) -/

/-- A BUDGET in the range 60.0 W to 425.0 W is held in BUDGET_W at its receipt, and takes effect at the second window
boundary after it: the cap in force is not changed yet. One outside the range, and any other message without a rule,
is counted in PWR_BAD and does nothing else. An unpowered block receives nothing. LOAD_STATUS leaves every 1000
AONCLK, with the last estimate, or with 0 while the block is not ready. A forecast of a plan's entry leaves at the
first AONCLK edge at or after 8192 SPCLK before its ramp, with RAMP, the lead left in AONCLK and DELTA, and is
counted. Each takes its turn at PWR, which is the next where no other message waits. -/
def Obligations.PowerMessages : Prop :=
  (∀ s : State,
     (∀ cap : BitVec 16, s.eng.run = .unpowered → exec (.budget cap) s = .next s) ∧
     (∀ cap : BitVec 16, s.eng.run ≠ .unpowered → 600 ≤ cap.toNat → cap.toNat ≤ 4250 →
       ∃ t, exec (.budget cap) s = .next t ∧ reg t.eng 0x1101 1 = cap.toNat ∧
         t.eng.power = { s.eng.power with budgets := s.eng.power.budgets ++ [(s.eng.power.windows + 2, cap.toNat)] } ∧
         sameEntries [(0x1101, 1)] s.eng t.eng ∧
         t = { s with eng := { s.eng with regs := t.eng.regs, power := t.eng.power } }) ∧
     (∀ c : Instr, ((∃ cap : BitVec 16, c = .budget cap ∧ (cap.toNat < 600 ∨ 4250 < cap.toNat)) ∨
         (∃ w : Word32, c = .pwrMessageBad w ∧ w.toNat / 2 ^ 28 ≠ 1 ∧ w.toNat / 2 ^ 28 ≠ 2) ∨
         (∃ w : Word32, c = .pwrMessageBad w ∧ w.toNat / 2 ^ 28 = 1 ∧
           (w.toNat % 2 ^ 16 < 600 ∨ 4250 < w.toNat % 2 ^ 16))) →
       (s.eng.run ≠ .unpowered →
         ∃ t, exec c s = .next t ∧ onlyEntries s t ∧ t.eng.out = s.eng.out ∧ sameEntries [(0x1103, 6)] s.eng t.eng ∧
           reg t.eng 0x1103 6 = (reg s.eng 0x1103 6 + 1) % 2 ^ 64) ∧
       (s.eng.run = .unpowered → exec c s = .next s))) ∧
  (∀ s : State, s.eng.run ≠ .unpowered →
     (∃ t, exec .loadStatus s = .next t ∧
       t.eng.now = max s.eng.now (max s.eng.powerOnAt s.eng.power.statusAt + 1000 * 3600) ∧
       (∀ w, w = BitVec.ofNat 32 (6 * 2 ^ 28 + if s.eng.run = .ready then reg s.eng 0x1101 3 else 0) →
         t.eng.out = (sendPwr w { s.eng with now := t.eng.now }).out ∧
         (pwrWaiting { s.eng with now := t.eng.now } = [] → t.eng.out = .pwr w :: s.eng.out)) ∧
       t = { s with eng := { s.eng with
         now := t.eng.now, out := t.eng.out,
         power := { s.eng.power with statusAt := t.eng.now, line := t.eng.power.line, lineAt := t.eng.power.lineAt } } }) ∧
     (∀ (k : Fin 32) (f b : Nat), s.eng.run = .ready → s.eng.spBase = some b → forecastFrame s.eng k.val = some f →
       let x := planEntry (planOf s.eng.power f) k.val
       let ramp := b + 2 * (4096 * f + x.offset)
       ∃ t, exec (.loadForecast k) s = .next t ∧
         s.eng.now ≤ t.eng.now ∧ ramp - 2 * 8192 ≤ t.eng.now ∧
         (s.eng.now ≤ ramp - 2 * 8192 → s.eng.powerOnAt ≤ ramp - 2 * 8192 →
           (t.eng.now - s.eng.powerOnAt) % 3600 = 0 ∧ t.eng.now < ramp - 2 * 8192 + 3600) ∧
         (∀ w, w = BitVec.ofNat 32 (2 ^ 28 + x.ramp * 2 ^ 20 + (ramp - t.eng.now) / 3600 % 256 * 2 ^ 12 + unsigned 12 x.delta) →
           t.eng.out = (sendPwr w { s.eng with now := t.eng.now }).out ∧
           (pwrWaiting { s.eng with now := t.eng.now } = [] → t.eng.out = .pwr w :: s.eng.out)) ∧
         reg t.eng 0x1103 1 = (reg s.eng 0x1103 1 + 1) % 2 ^ 64 ∧ sameEntries [(0x1103, 1)] s.eng t.eng ∧
         storeGet (fun _ => 0) t.eng.power.sent k.val = f + 1 ∧
         t = { s with eng := { s.eng with
           now := t.eng.now, regs := t.eng.regs, out := t.eng.out,
           power := { s.eng.power with
             sent := t.eng.power.sent, ramps := t.eng.power.ramps, line := t.eng.power.line,
             lineAt := t.eng.power.lineAt } } }))

/-- The checks of a load plan, entry by entry: the plan passes exactly where every entry has its reserved bits zero
and every valid one an OFFSET below 4096, a DELTA other than 0 of 12 bits, a RAMP of at least 1 that is not too steep,
and a place at least 2048 SPCLK away from every other valid entry's, counted cyclically over the 16 frames (log entry
20: reserved bits are checked on invalid entries too). A commit of a passing load plan: it is the plan to come from
the first frame that is a multiple of 16 and begins at least two frames after now; PLAN_CHECK reads 0. A failing plan
is refused with BAD_VALUE and its detail in PLAN_CHECK, and the plan in force stays. A disable schedules an empty plan
in the same way. -/
def Obligations.LoadPlans : Prop :=
  (∀ plan : List Byte, planCheck plan = 0 ↔
     (∀ k, k < 32 →
       let x := planEntry plan k
       x.clean = true ∧ (x.valid = true → x.offset < 4096 ∧ x.delta ≠ 0 ∧ -2048 ≤ x.delta ∧ x.delta ≤ 2047 ∧
         1 ≤ x.ramp ∧ (x.delta.natAbs + 39) / 40 ≤ x.ramp)) ∧
     (∀ k j, k < 32 → j < 32 → k ≠ j → (planEntry plan k).valid = true → (planEntry plan j).valid = true →
       2048 ≤ (4096 * (planEntry plan k).pattern + (planEntry plan k).offset + 65536 -
         (4096 * (planEntry plan j).pattern + (planEntry plan j).offset)) % 65536)) ∧
  (∀ (p : Port) (s : State) (b : Nat), letThrough p 0x1102 2 s → s.eng.spBase = some b → b ≤ s.eng.now →
     (planCheck (domBytes s.eng 0x1102 1 0 256) = 0 →
       ∃ t f, exec (.loadPlanCommit p) s = .next t ∧ reg t.eng 0x1102 3 = 0 ∧
         t.eng.power.planNext = some (f, domBytes s.eng 0x1102 1 0 256) ∧ 16 ∣ f ∧
         s.eng.now + 2 * 8192 ≤ b + 8192 * f ∧ b + 8192 * f < s.eng.now + 2 * 8192 + 16 * 8192 ∧
         sameEntries [(0x1102, 3)] s.eng t.eng ∧ t.eng.out = .access p 0x1102 2 0 :: s.eng.out ∧
         t = { s with eng := { s.eng with
           regs := t.eng.regs, out := t.eng.out,
           power := { s.eng.power with plan := t.eng.power.plan, planNext := t.eng.power.planNext } } }) ∧
     (planCheck (domBytes s.eng 0x1102 1 0 256) ≠ 0 →
       ∃ t, exec (.loadPlanCommit p) s = .next t ∧ onlyEntries s t ∧
         reg t.eng 0x1102 3 = planCheck (domBytes s.eng 0x1102 1 0 256) ∧
         t.eng.out = .access p 0x1102 2 3 :: s.eng.out ∧
         sameEntries [(0x1102, 3), (0x1010, 1), (0x1010, 2), (0x1010, 3), (0x1010, 4), (0x1010, 5)] s.eng t.eng) ∧
     (∃ t f, exec (.loadPlanDisable p) s = .next t ∧ t.eng.power.planNext = some (f, []) ∧ 16 ∣ f ∧
       s.eng.now + 2 * 8192 ≤ b + 8192 * f ∧ b + 8192 * f < s.eng.now + 2 * 8192 + 16 * 8192 ∧
       t.eng.out = .access p 0x1102 2 0 :: s.eng.out ∧
       t = { s with eng := { s.eng with
         out := t.eng.out,
         power := { s.eng.power with plan := t.eng.power.plan, planNext := t.eng.power.planNext } } }))

/-- A window boundary: the window's estimate in LAST_P_EST is 60.2 W with 3.0 W for each operand group and 1.0 W for
each result group open, and 28.125 mW for each card that carried a sector, in tenths of a watt; the counts of cards
begin again; the budgets whose boundary this is take effect; each stack agent's allowance is the headroom's share of
plain dynamic cards, and at most DYN_RAMP more than it granted. An estimate without plain dynamic cards above the cap
less the lent power is counted in OVER_BUDGET_WINDOWS, raises source 85 with 0x1121, and sends OVER_BUDGET where none
was sent within 1000 AONCLK; any other does not. A standing request for throttling is repeated every 1000 AONCLK; one
that has stood for THROTTLE_LIMIT AONCLK raises source 85 with 0x1131, once. A stack without a standing request sends
and raises nothing. -/
def Obligations.WindowsAndThrottling : Prop :=
  (∀ (s : State) (b : Nat), s.eng.spBase = some b →
     let w := s.eng.power.windows + 1
     let groups := 481600 + 24000 * (s.eng.docks.filter fun d => d.2.operandGate.isOpen).length +
       8000 * (s.eng.docks.filter fun d => d.2.resultGate.isOpen).length
     let cap := ((s.eng.power.budgets.filter fun x => x.1 ≤ w).getLast?.map (·.2)).getD s.eng.power.cap
     let beyond := (cap - reg s.eng 0x1101 2) * 800 < groups + 225 * s.eng.power.cards
     ∃ t, exec .powerWindowBoundary s = .next t ∧ t.pending = s.pending ∧ t.port = s.port ∧
       t.eng.now = max s.eng.now (b + 2 * (512 * w)) ∧
       reg t.eng 0x1101 3 = (groups + 225 * (s.eng.power.cards + s.eng.power.plain)) / 800 ∧
       t.eng.power.windows = w ∧ t.eng.power.cap = cap ∧ t.eng.power.cards = 0 ∧ t.eng.power.plain = 0 ∧
       t.eng.power.budgets = s.eng.power.budgets.filter (fun x => w < x.1) ∧
       (beyond → reg t.eng 0x1103 3 = (reg s.eng 0x1103 3 + 1) % 2 ^ 64 ∧
         t.eng.raised = s.eng.raised ++ [(85, 0x1121)] ∧
         ((∀ x, s.eng.power.overAt = some x → x + 1000 * 3600 ≤ t.eng.now) →
           t.eng.out = (sendPwr (BitVec.ofNat 32 (7 * 2 ^ 28 + reg t.eng 0x1101 3)) { s.eng with now := t.eng.now }).out)) ∧
       (∀ n, n < 24 → (agentOf t.eng n).windowCards = 0 ∧ (agentOf t.eng n).allowance =
         min (((cap - reg s.eng 0x1101 2) * 800 - (groups + 225 * s.eng.power.cards)) / 5400)
           ((agentOf s.eng n).windowCards + reg s.eng 0x1101 4)) ∧
       (¬beyond → reg t.eng 0x1103 3 = reg s.eng 0x1103 3 ∧ t.eng.raised = s.eng.raised ∧ t.eng.out = s.eng.out) ∧
       sameEntries [(0x1101, 3), (0x1103, 3)] s.eng t.eng ∧ sameMemory s.eng t.eng) ∧
  (∀ (n : Fin 24) (s : State),
     (bit (reg s.eng 0x1104 1) n.val = true →
       (∃ t, exec (.throttleRepeat n) s = .next t ∧
         t.eng.now = max s.eng.now (storeGet (fun _ => 0) s.eng.power.throttleAt n.val) ∧
         storeGet (fun _ => 0) t.eng.power.throttleAt n.val = t.eng.now + 1000 * 3600 ∧
         t.eng.out = (sendPwr (BitVec.ofNat 32 (4 * 2 ^ 28 + n.val + 2 ^ 5)) { s.eng with now := t.eng.now }).out ∧
         reg t.eng 0x1103 5 = (reg s.eng 0x1103 5 + 1) % 2 ^ 64 ∧ sameEntries [(0x1103, 5)] s.eng t.eng ∧
         t = { s with eng := { s.eng with
           now := t.eng.now, regs := t.eng.regs, out := t.eng.out,
           power := { s.eng.power with
             throttleAt := t.eng.power.throttleAt, line := t.eng.power.line, lineAt := t.eng.power.lineAt } } }) ∧
       (∀ since, storeGet (fun _ => 0) s.eng.power.throttleSince n.val = since + 1 →
         ∃ t, exec (.throttleLimitExpiry n) s = .next t ∧
           t.eng.now = max s.eng.now (since + reg s.eng 0x1104 2 * 3600) ∧
           t.eng.raised = s.eng.raised ++ [(85, 0x1131)] ∧
           storeGet (fun _ => 0) t.eng.power.throttleSince n.val = 0 ∧
           t = { s with eng := { s.eng with
             now := t.eng.now, raised := t.eng.raised,
             power := { s.eng.power with throttleSince := t.eng.power.throttleSince } } })) ∧
     (bit (reg s.eng 0x1104 1) n.val = false →
       exec (.throttleRepeat n) s = .next s ∧ exec (.throttleLimitExpiry n) s = .next s))

/-! ### The object dictionary and its ports (spec/02_object_dictionary.md) -/

/-- The order of R420 on a write through a port that reaches the dictionary: an absent entry ends with NO_ENTRY, one
without the right to write with NO_RIGHT, and one held in reset, or beyond recovery mode's entries, with BUSY. None of
them changes anything but the answer and, for the host, the record of its access. -/
def Obligations.RefusedWritesChangeNothing : Prop :=
  ∀ (p : Port) (idx : BitVec 16) (sub : Byte) (v : Cell128) (s : State) (st : Nat),
    reach s.eng p = .full ∨ reach s.eng p = .limited →
    ((rowOf idx.toNat sub.toNat = none ∧ st = 1) ∨
      (∃ r, rowOf idx.toNat sub.toNat = some r ∧ (rightOf s p idx.toNat r).writes = false ∧ st = 2) ∨
      (∃ r, rowOf idx.toNat sub.toNat = some r ∧ (rightOf s p idx.toNat r).writes = true ∧
        heldBack s.eng p idx.toNat sub.toNat = true ∧ st = 4)) →
    ∃ t, exec (.registerWrite p idx sub v) s = .next t ∧ onlyEntries s t ∧
      t.eng.out = .access p idx.toNat sub.toNat st :: s.eng.out ∧
      (p ≠ .h → t.eng.regs = s.eng.regs) ∧
      (p = .h → reg t.eng 0x1010 1 = st ∧ reg t.eng 0x1010 2 = idx.toNat ∧ reg t.eng 0x1010 3 = sub.toNat ∧
        reg t.eng 0x1010 4 = idx.toNat * 4096 + sub.toNat * 16 ∧
        reg t.eng 0x1010 5 = (reg s.eng 0x1010 5 + 1) % 2 ^ 32) ∧
      sameEntries [(0x1010, 1), (0x1010, 2), (0x1010, 3), (0x1010, 4), (0x1010, 5)] s.eng t.eng

/-- A write of an entry that no chapter gives a rule of its own: with its reserved bits dropped, a value in the
entry's range is what the entry then holds, in the port's bank where the entry is banked, and one out of range ends
with BAD_VALUE and changes nothing but the records of accesses. A write of QUERY_TARGET sets the port's own bank, and
a read of QUERY_RESULT on the same port then answers with the type code and the four rights of the entry named, the
debug right as the lock has it, or with 0xF where the entry is absent. Other ports' banks stay. -/
def Obligations.PlainWritesCommit : Prop :=
  (∀ (p : Port) (idx : BitVec 16) (sub : Byte) (v : Cell128) (s : State) (r : Row),
     letThrough p idx.toNat sub.toNat s → rowOf idx.toNat sub.toNat = some r →
     entryEffect p idx.toNat sub.toNat = plainCommit p idx.toNat sub.toNat →
     let x := v.toNat &&& r.mask
     let bank := if isBanked idx.toNat then bankOf p else 0
     (r.lo ≤ x → x ≤ r.hi →
       ∃ t, exec (.registerWrite p idx sub v) s = .next t ∧ onlyEntries s t ∧
         regB t.eng bank idx.toNat sub.toNat = x ∧
         (∀ b i k, i < 65536 → k < 256 → ¬(b = bank ∧ i = idx.toNat ∧ k = sub.toNat) →
           regB t.eng b i k = regB s.eng b i k) ∧
         t.eng.out = .access p idx.toNat sub.toNat 0 :: s.eng.out) ∧
     (x < r.lo ∨ r.hi < x →
       ∃ t, exec (.registerWrite p idx sub v) s = .next t ∧ onlyEntries s t ∧
         t.eng.out = .access p idx.toNat sub.toNat 3 :: s.eng.out ∧
         sameEntries [(0x1010, 1), (0x1010, 2), (0x1010, 3), (0x1010, 4), (0x1010, 5)] s.eng t.eng)) ∧
  (∀ (p : Port) (v : Word32) (s : State), letThrough p 0x1022 1 s →
     ∃ t, exec (.queryTargetWrite p v) s = .next t ∧ onlyEntries s t ∧
       t.eng.out = .access p 0x1022 1 0 :: s.eng.out ∧
       (∀ b i k, i < 65536 → k < 256 → ¬(b = bankOf p ∧ i = 0x1022 ∧ k = 1) → regB t.eng b i k = regB s.eng b i k) ∧
       (rowOf (v.toNat % 65536) (v.toNat / 65536 % 256) = none → readEntry p 0x1022 2 t = (.ok, 15)) ∧
       (∀ r, rowOf (v.toNat % 65536) (v.toNat / 65536 % 256) = some r →
         readEntry p 0x1022 2 t = (.ok, r.ty.code + r.h.code * 2 ^ 4 + r.m.code * 2 ^ 6 +
           (if s.port.dbgLock ∧ ¬(0x1000 ≤ v.toNat % 65536 ∧ v.toNat % 65536 ≤ 0x1003) then 0 else r.d.code) * 2 ^ 8 +
           r.f.code * 2 ^ 10)))

/-- While DBG_LOCK holds 1 every entry has D right none, but the identity entries 0x1000 to 0x1003, which are read-
only on D. A write of 1 from H or M, which reach it while BT_READY is high, sets it, and a write of 0 has no effect
and ends OK. Once set it stays set in every step but those of the power rail: a power-on reset clears it (an unpowered
block holds nothing). -/
def Obligations.DebugLock : Prop :=
  (∀ (s : State) (idx sub : Nat) (r : Row), s.port.dbgLock = true → rowOf idx sub = some r →
    rightOf s .d idx r = if 0x1000 ≤ idx ∧ idx ≤ 0x1003 then .ro else .none) ∧
  (∀ s : State, s.eng.run = .ready → letThrough .h 0x1020 1 s ∧ letThrough .m 0x1020 1 s) ∧
  (∀ (p : Port) (v : Byte) (s : State), letThrough p 0x1020 1 s →
    (v.toNat % 2 = 1 → exec (.dbgLockWrite p v) s = .next { s with
      port := { s.port with dbgLock := true }
      eng := { s.eng with out := .access p 0x1020 1 0 :: s.eng.out } }) ∧
    (v.toNat % 2 = 0 → exec (.dbgLockWrite p v) s = .next { s with
      eng := { s.eng with out := .access p 0x1020 1 0 :: s.eng.out } })) ∧
  (∀ s t : State, s.port.dbgLock = true → s.pending.head? ≠ some .powerGoodRise →
    s.pending.head? ≠ some .powerGoodFall → step s = .next t → t.port.dbgLock = true) ∧
  (∀ s t : State, exec .powerGoodRise s = .next t → t.port.dbgLock = false)

/-- A host read of 4, 8 or 16 bytes that includes byte 0 of a cell returns the bytes of the entry's value and loads
the read snapshot with the whole value, tagged with the cell; a read of later bytes returns the bytes of a snapshot of
that cell, whatever the entry holds by then, and without one the live bytes, recorded with STAGING_LOST; a read that
R420 refuses returns zeros and is recorded and counted; so is a read of a width or alignment HST does not allow, with
BAD_ACCESS. While the control complex is held HST receives nothing; after that and before BT_READY the read ends with
an error response and all ones. A host write of a whole cell has the effect of a write of the entry, answers, and
empties the write staging; a write of the last eight bytes of a cell only stages them, and the write of the cell's
first eight bytes then commits them together. A write of a width or alignment HST does not allow has no effect and is
recorded with BAD_ACCESS. A write that R420 refuses before the entry's effect is recorded with its status and changes
nothing else (that the staging then stays is the model's choice, log entry 121). -/
def Obligations.HostAccessesOfEntries : Prop :=
  (∀ (off : BitVec 28) (n : Nat) (s : State),
     let idx := off.toNat / 4096
     let sub := off.toNat / 16 % 256
     (s.eng.run = .ready → (n = 4 ∨ n = 8 ∨ n = 16) → off.toNat % 16 = 0 → ∀ v, readEntry .h idx sub s = (.ok, v) →
       ∃ t, exec (.hostDictionaryRead off n) s = .next t ∧ t.eng.out = .hostData (leBytes n v) :: s.eng.out ∧
         snapOf t 0 = ⟨some (idx, sub), v⟩ ∧ onlyEntries { s with port := t.port } t ∧ t.eng.regs = s.eng.regs ∧
         t.port = { s.port with snaps := t.port.snaps }) ∧
     (s.eng.run = .ready → (n = 4 ∨ n = 8) → off.toNat % n = 0 → off.toNat % 16 ≠ 0 → (readEntry .h idx sub s).1 = .ok →
       (snapOf s 0).cell = some (idx, sub) →
       exec (.hostDictionaryRead off n) s = .next { s with eng := { s.eng with
         out := .hostData (leBytes n ((snapOf s 0).value / 2 ^ (8 * (off.toNat % 16)))) :: s.eng.out } }) ∧
     (s.eng.run = .ready → (n = 4 ∨ n = 8) → off.toNat % n = 0 → off.toNat % 16 ≠ 0 →
       (snapOf s 0).cell ≠ some (idx, sub) → ∀ v, readEntry .h idx sub s = (.ok, v) →
       ∃ t, exec (.hostDictionaryRead off n) s = .next t ∧ onlyEntries s t ∧
         t.eng.out = .hostData (leBytes n (v / 2 ^ (8 * (off.toNat % 16)))) :: s.eng.out ∧
         hostRecorded 8 idx sub off.toNat s.eng t.eng) ∧
     (s.eng.run = .ready → (n = 4 ∨ n = 8 ∨ n = 16) → off.toNat % n = 0 →
       ∀ st v, readEntry .h idx sub s = (st, v) → st ≠ .ok →
       ∃ t, exec (.hostDictionaryRead off n) s = .next t ∧ onlyEntries s t ∧
         t.eng.out = .hostData (leBytes n 0) :: s.eng.out ∧ hostRecorded st.code idx sub off.toNat s.eng t.eng) ∧
     (s.eng.run = .ready → (n ≠ 4 ∧ n ≠ 8 ∧ n ≠ 16 ∨ off.toNat % n ≠ 0) →
       ∃ t, exec (.hostDictionaryRead off n) s = .next t ∧ onlyEntries s t ∧
         t.eng.out = .hostData (leBytes n 0) :: s.eng.out ∧ hostRecorded 9 idx sub off.toNat s.eng t.eng) ∧
     (s.eng.run ≠ .ready → controlUp s.eng = true →
       exec (.hostDictionaryRead off n) s = .next { s with eng := { s.eng with
         out := .hostError (List.replicate n 0xFF) :: s.eng.out } }) ∧
     (s.eng.run ≠ .ready → controlUp s.eng = false → exec (.hostDictionaryRead off n) s = .next s)) ∧
  (∀ (off : BitVec 28) (data : List Byte) (s : State),
     let idx := off.toNat / 4096
     let sub := off.toNat / 16 % 256
     s.eng.run = .ready →
     ((data.length ≠ 4 ∧ data.length ≠ 8 ∧ data.length ≠ 16 ∨ off.toNat % data.length ≠ 0) →
       ∃ t, exec (.hostDictionaryWrite off data) s = .next t ∧ onlyEntries s t ∧ t.eng.out = .hostDone :: s.eng.out ∧
         hostRecorded 9 idx sub off.toNat s.eng t.eng) ∧
     ((data.length = 4 ∨ data.length = 8 ∨ data.length = 16) → off.toNat % data.length = 0 →
       ∀ st, refusedWrite .h idx sub s = some st →
       ∃ t, exec (.hostDictionaryWrite off data) s = .next t ∧ onlyEntries s t ∧ t.eng.out = .hostDone :: s.eng.out ∧
         hostRecorded st.code idx sub off.toNat s.eng t.eng) ∧
     (letThrough .h idx sub s → data.length = 16 → off.toNat % 16 = 0 →
       ∀ u, writeAccess .h idx sub (leNat data) s = (.ok, u) →
       ∃ t, exec (.hostDictionaryWrite off data) s = .next t ∧
         t.eng = { u.eng with out := .hostDone :: u.eng.out } ∧ stagingOf t 0 = {}) ∧
     (letThrough .h idx sub s → data.length = 8 → off.toNat % 16 = 8 →
       (stagingOf s 0).cell = none ∨ (stagingOf s 0).cell = some (idx, sub) →
       ∃ t, exec (.hostDictionaryWrite off data) s = .next t ∧
         t.eng = { s.eng with out := .hostDone :: s.eng.out } ∧
         t.port = { s.port with stagings := t.port.stagings } ∧ (stagingOf t 0).cell = some (idx, sub) ∧
         (∀ (d2 : List Byte) (off2 : BitVec 28) (u : State), d2.length = 8 → off2.toNat = off.toNat - 8 →
           letThrough .h idx sub t →
           writeAccess .h idx sub (leNat (d2 ++ data)) t = (.ok, u) →
           ∃ t', exec (.hostDictionaryWrite off2 d2) t = .next t' ∧
             t'.eng = { u.eng with out := .hostDone :: u.eng.out } ∧ stagingOf t' 0 = {})))

/-- A host access of BAR0 or BAR2 that is not an aligned one of 4, 8 or 16 bytes, while BT_READY is high: a read
returns zeros and a write completes; neither has an effect, and the access is recorded with BAD_ACCESS, its index, sub
and offset (bit 31 set for BAR2, whose index and sub are those bound to the aperture), and counted. -/
def Obligations.UnalignedHostAccesses : Prop :=
  ∀ s : State, s.eng.run = .ready →
    (∀ (off : BitVec 28) (n : Nat), ¬((n = 4 ∨ n = 8 ∨ n = 16) ∧ n ∣ off.toNat) →
      (∃ t, exec (.hostDictionaryRead off n) s = .next t ∧ t.eng.out = .hostData (leBytes n 0) :: s.eng.out ∧
        onlyEntries s t ∧ hostRecorded 9 (off.toNat / 4096) (off.toNat / 16 % 256) off.toNat s.eng t.eng) ∧
      (∀ data : List Byte, data.length = n →
        ∃ t, exec (.hostDictionaryWrite off data) s = .next t ∧ t.eng.out = .hostDone :: s.eng.out ∧
          onlyEntries s t ∧ hostRecorded 9 (off.toNat / 4096) (off.toNat / 16 % 256) off.toNat s.eng t.eng)) ∧
    (∀ (off : BitVec 26) (n : Nat), ¬((n = 4 ∨ n = 8 ∨ n = 16) ∧ n ∣ off.toNat) →
      let bound := reg s.eng 0x1030 (off.toNat / 2 ^ 24 + 1)
      (∃ t, exec (.hostApertureRead off n) s = .next t ∧ t.eng.out = .hostData (leBytes n 0) :: s.eng.out ∧
        onlyEntries s t ∧
        hostRecorded 9 (bits bound 0 16) (bits bound 16 8) (off.toNat + 2 ^ 31) s.eng t.eng) ∧
      (∀ data : List Byte, data.length = n →
        ∃ t, exec (.hostApertureWrite off data) s = .next t ∧ t.eng.out = .hostDone :: s.eng.out ∧
          onlyEntries s t ∧
          hostRecorded 9 (bits bound 0 16) (bits bound 16 8) (off.toNat + 2 ^ 31) s.eng t.eng))

/-- While BT_READY is high every host access of BAR0 or BAR2 completes normally. A read of an absent cell, or of an
entry on which H has no read right, returns zeros; a write of an absent cell, of an entry on which H has no write
right, or of an entry of a part held in reset, has no effect. Each is recorded with its status, index, sub and offset,
and counted. While BT_READY is low an access of BAR0 ends with an error response only once the module of HST runs;
before that HST receives nothing. -/
def Obligations.HostAccessesCompleteNormally : Prop :=
  (∀ s : State, s.eng.run = .ready →
    (∀ (off : BitVec 28) (n : Nat),
      ∃ t v, exec (.hostDictionaryRead off n) s = .next t ∧ t.eng.out.head? = some (.hostData v)) ∧
    (∀ (off : BitVec 26) (n : Nat),
      ∃ t v, exec (.hostApertureRead off n) s = .next t ∧ t.eng.out.head? = some (.hostData v)) ∧
    (∀ (off : BitVec 28) (data : List Byte),
      ∃ t, exec (.hostDictionaryWrite off data) s = .next t ∧ t.eng.out.head? = some .hostDone) ∧
    (∀ (off : BitVec 26) (data : List Byte),
      ∃ t, exec (.hostApertureWrite off data) s = .next t ∧ t.eng.out.head? = some .hostDone) ∧
    (∀ (off : BitVec 28) (n st : Nat), n = 4 ∨ n = 8 ∨ n = 16 → n ∣ off.toNat →
      let idx := off.toNat / 4096
      let sub := off.toNat / 16 % 256
      (rowOf idx sub = none ∧ st = 1 ∨
        ∃ r, rowOf idx sub = some r ∧ (rightOf s .h idx r).reads = false ∧ st = 2) →
      ∃ t, exec (.hostDictionaryRead off n) s = .next t ∧ t.eng.out = .hostData (leBytes n 0) :: s.eng.out ∧
        onlyEntries s t ∧ hostRecorded st idx sub off.toNat s.eng t.eng) ∧
    (∀ (off : BitVec 28) (data : List Byte) (st : Nat),
      data.length = 4 ∨ data.length = 8 ∨ data.length = 16 → data.length ∣ off.toNat →
      let idx := off.toNat / 4096
      let sub := off.toNat / 16 % 256
      (rowOf idx sub = none ∧ st = 1 ∨
        ∃ r, rowOf idx sub = some r ∧
          ((rightOf s .h idx r).writes = false ∧ st = 2 ∨
            (rightOf s .h idx r).writes = true ∧ (∃ q, partOf idx = some q ∧ partHeld s.eng q = true) ∧ st = 4)) →
      ∃ t, exec (.hostDictionaryWrite off data) s = .next t ∧ t.eng.out = .hostDone :: s.eng.out ∧
        onlyEntries s t ∧ hostRecorded st idx sub off.toNat s.eng t.eng)) ∧
  (∀ (s : State) (off : BitVec 28) (n : Nat), s.eng.run ≠ .ready →
    exec (.hostDictionaryRead off n) s = .next (if controlUp s.eng then { s with eng := { s.eng with
      out := .hostError (List.replicate n 0xFF) :: s.eng.out } } else s)) ∧
  (∀ (s : State) (off : BitVec 28) (data : List Byte), s.eng.run ≠ .ready →
    exec (.hostDictionaryWrite off data) s = .next (if controlUp s.eng then { s with eng := { s.eng with
      out := .hostError [] :: s.eng.out } } else s))

/-- The DOMAIN data of LOAD_PLAN through a BAR2 aperture bound to it and through a port's cursor: a write stores the
bytes, and no other byte of LOAD_PLAN's data changes; a read returns them; the cursor moves on by 16. An access that
reaches at or beyond the CAPACITY of 256 ends with OUT_OF_DOMAIN and zeros, and changes nothing but the record of the
host's access and what leaves the port. -/
def Obligations.DomainsThroughWindows : Prop :=
  ∀ (s : State), s.eng.run = .ready →
    (∀ (off : BitVec 26) (data : List Byte), reg s.eng 0x1030 (off.toNat / 2 ^ 24 + 1) = 0x1102 + 2 ^ 16 →
      (data.length = 4 ∨ data.length = 8 ∨ data.length = 16) → off.toNat % data.length = 0 →
      let o := off.toNat % 2 ^ 24
      (o + data.length ≤ 256 →
        (∃ t, exec (.hostApertureWrite off data) s = .next t ∧ domBytes t.eng 0x1102 1 o data.length = data ∧
          (∀ j, j < 256 → ¬(o ≤ j ∧ j < o + data.length) →
            domBytes t.eng 0x1102 1 j 1 = domBytes s.eng 0x1102 1 j 1) ∧
          t = { s with eng := { s.eng with dom := t.eng.dom, out := .hostDone :: s.eng.out } }) ∧
        exec (.hostApertureRead off data.length) s = .next { s with eng := { s.eng with
          out := .hostData (domBytes s.eng 0x1102 1 o data.length) :: s.eng.out } }) ∧
      (256 < o + data.length →
        (∃ t, exec (.hostApertureWrite off data) s = .next t ∧ onlyEntries s t ∧ t.eng.out = .hostDone :: s.eng.out ∧
          hostRecorded 6 0x1102 1 (off.toNat + 2 ^ 31) s.eng t.eng) ∧
        (∃ t, exec (.hostApertureRead off data.length) s = .next t ∧ onlyEntries s t ∧
          t.eng.out = .hostData (leBytes data.length 0) :: s.eng.out ∧
          hostRecorded 6 0x1102 1 (off.toNat + 2 ^ 31) s.eng t.eng))) ∧
    (∀ (p : Port) (v : Cell128) (o : Nat), (p = .d ∧ s.port.dbgLock = false) ∨ (∃ k, p = .f k) →
      regB s.eng (bankOf p) 0x1040 1 = 0x1102 + 2 ^ 16 → regB s.eng (bankOf p) 0x1040 2 = o →
      (256 < o + 16 →
        exec (.domDataWrite p v) s = .next { s with eng := { s.eng with out := .access p 0x1040 3 6 :: s.eng.out } } ∧
        exec (.domDataRead p) s = .next { s with eng := { s.eng with
          out := .hostData (leBytes 16 0) :: .access p 0x1040 3 6 :: s.eng.out } }) ∧
      (o + 16 ≤ 256 →
      (∃ t, exec (.domDataWrite p v) s = .next t ∧ domBytes t.eng 0x1102 1 o 16 = leBytes 16 v.toNat ∧
        regB t.eng (bankOf p) 0x1040 2 = o + 16 ∧ t.eng.out = .access p 0x1040 3 0 :: s.eng.out ∧
        (∀ j, j < 256 → ¬(o ≤ j ∧ j < o + 16) → domBytes t.eng 0x1102 1 j 1 = domBytes s.eng 0x1102 1 j 1) ∧
        (∀ b i k, i < 65536 → k < 256 → ¬(b = bankOf p ∧ i = 0x1040 ∧ k = 2) → regB t.eng b i k = regB s.eng b i k) ∧
        t = { s with eng := { s.eng with dom := t.eng.dom, regs := t.eng.regs, out := t.eng.out } }) ∧
      (∃ t, exec (.domDataRead p) s = .next t ∧ regB t.eng (bankOf p) 0x1040 2 = o + 16 ∧ onlyEntries s t ∧
        (∀ b i k, i < 65536 → k < 256 → ¬(b = bankOf p ∧ i = 0x1040 ∧ k = 2) → regB t.eng b i k = regB s.eng b i k) ∧
        t.eng.out = .hostData (domBytes s.eng 0x1102 1 o 16) :: .access p 0x1040 3 0 :: s.eng.out)))

/-- A frame received on MGT is counted in MGT_FRAMES; one of eight bytes or more waits behind those received before
it, unless 16 wait, and is then dropped and counted; a shorter one is discarded and counted. Outside recovery mode and
the running block MGT receives nothing. The oldest frame is answered once the response before it has left. A READ is
answered with the cell as the entry reads on M, a BLOCK_READ with the bytes of the DOMAIN, a malformed frame with
BAD_FRAME; each response repeats the request's tag, INDEX, SUB and COUNT, with bit 7 of the type set. The response
leaves MGT, and so does the oldest FAULT frame. (Which frames count as malformed beyond R66's words is the model's
choice, log entry 124.) A WRITE received on MGT has the effect of a write of the whole cell on M, and is answered with
its status and the cell as a READ would return it then; a BLOCK_WRITE stores its bytes into the DOMAIN and is answered
with its status. The engine changes as that write says, and beside it only the frame's place in MGT's queues. -/
def Obligations.ManagementFrames : Prop :=
  (∀ (f : List Byte) (s : State),
     (s.eng.run ≠ .ready → s.eng.run ≠ .recovery → exec (.mgtFrameReceive f) s = .next s) ∧
     (s.eng.run = .ready ∨ s.eng.run = .recovery →
       ∃ t, exec (.mgtFrameReceive f) s = .next t ∧ t.eng.out = s.eng.out ∧
         reg t.eng 0x1011 1 = (reg s.eng 0x1011 1 + 1) % 2 ^ 32 ∧
         (8 ≤ f.length → s.port.mgtRx.length < 16 → t.port.mgtRx = s.port.mgtRx ++ [f] ∧
           sameEntries [(0x1011, 1)] s.eng t.eng) ∧
         (8 ≤ f.length → 16 ≤ s.port.mgtRx.length → t.port.mgtRx = s.port.mgtRx ∧
           reg t.eng 0x1011 2 = (reg s.eng 0x1011 2 + 1) % 2 ^ 32 ∧
           sameEntries [(0x1011, 1), (0x1011, 2)] s.eng t.eng) ∧
         (f.length < 8 → t.port.mgtRx = s.port.mgtRx ∧ reg t.eng 0x1011 3 = (reg s.eng 0x1011 3 + 1) % 2 ^ 32 ∧
           sameEntries [(0x1011, 1), (0x1011, 3)] s.eng t.eng) ∧
         t = { s with port := { s.port with mgtRx := t.port.mgtRx }, eng := { s.eng with regs := t.eng.regs } })) ∧
  (∀ (s : State) (f : List Byte) (rest : List (List Byte)),
     s.eng.run = .ready ∨ s.eng.run = .recovery →
     (s.port.mgtTx = none → s.port.mgtRx = f :: rest → 8 ≤ f.length →
       (∀ v st, frameType f = some 1 →
         readEntry .m (frameEntry f).1 (frameEntry f).2 s = (st, v) →
         exec .mgtRead s = .next { s with port := { s.port with
           mgtRx := rest,
           mgtTx := some (leBytes 1 (frameByte f 0 ||| 0x80) ++ leBytes 4 (frameNat f 1 4) ++ leBytes 1 st.code ++
             leBytes 1 (frameByte f 6) ++ leBytes 1 0 ++ leBytes 16 v) } }) ∧
       (∀ bs st, frameType f = some 3 →
         domRead .m (frameEntry f).1 (frameEntry f).2 (frameNat f 8 4) (frameByte f 6) s = (st, bs) →
         exec .mgtBlockRead s = .next { s with port := { s.port with
           mgtRx := rest,
           mgtTx := some (leBytes 1 (frameByte f 0 ||| 0x80) ++ leBytes 4 (frameNat f 1 4) ++ leBytes 1 st.code ++
             leBytes 1 (frameByte f 6) ++ leBytes 1 0 ++ leBytes 4 (frameNat f 8 4) ++ leBytes 4 0 ++
             leBytes 48 (leNat bs)) } }) ∧
       (frameType f = none →
         exec .mgtBadFrame s = .next { s with port := { s.port with
           mgtRx := rest,
           mgtTx := some (leBytes 1 (frameByte f 0 ||| 0x80) ++ leBytes 4 (frameNat f 1 4) ++ leBytes 1 5 ++
             leBytes 1 (frameByte f 6) ++ leBytes 1 0) } })) ∧
     (s.port.mgtTx = some f →
       exec .mgtResponseSend s = .next { s with
         port := { s.port with mgtTx := none }, eng := { s.eng with out := .mgtFrame f :: s.eng.out } }) ∧
     (s.port.faultFrames = f :: rest →
       exec .faultFrameSend s = .next { s with
         port := { s.port with faultFrames := rest }, eng := { s.eng with out := .mgtFrame f :: s.eng.out } })) ∧
  (∀ (s : State) (f : List Byte) (rest : List (List Byte)),
     s.eng.run = .ready ∨ s.eng.run = .recovery → s.port.mgtTx = none → s.port.mgtRx = f :: rest →
     (∀ st u, frameType f = some 2 →
       writeAccess .m (frameEntry f).1 (frameEntry f).2 (frameNat f 8 16) s = (st, u) →
       ∃ t, exec .mgtWrite s = .next t ∧ t.eng = u.eng ∧ t.port.mgtRx = rest ∧ t.port.dbgLock = u.port.dbgLock ∧
         t.port.mgtTx = some (leBytes 1 (frameByte f 0 ||| 0x80) ++ leBytes 4 (frameNat f 1 4) ++ leBytes 1 st.code ++
           leBytes 1 (frameByte f 6) ++ leBytes 1 0 ++
           leBytes 16 (readEntry .m (frameEntry f).1 (frameEntry f).2 u).2)) ∧
     (∀ st u, frameType f = some 4 →
       domWrite .m (frameEntry f).1 (frameEntry f).2 (frameNat f 8 4) ((f.drop 16).take (frameByte f 6)) s = (st, u) →
       ∃ t, exec .mgtBlockWrite s = .next t ∧ t.eng = u.eng ∧ t.port.mgtRx = rest ∧
         t.port.mgtTx = some (leBytes 1 (frameByte f 0 ||| 0x80) ++ leBytes 4 (frameNat f 1 4) ++ leBytes 1 st.code ++
           leBytes 1 (frameByte f 6) ++ leBytes 1 0 ++ leBytes 4 (frameNat f 8 4) ++ leBytes 4 0)))

/-- The debug port: the instruction register takes OD_ACCESS and reads every other code as BYPASS, and the TAP's reset
selects BYPASS. Selected, an operation that finds none pending is pending; one that finds one pending has no effect
and is counted. A capture shows BUSY and zero DATA while an operation is pending, and else the data and status of the
last one; its own Update-DR, of OP none, is counted while an operation is pending (log entry 123). A pending read
completes with the entry's value and status, a pending write with the cell as a read on D returns it then. While the
block is in reset a capture shows BUSY. -/
def Obligations.DebugAccesses : Prop :=
  ∀ s : State, (s.eng.run ≠ .ready → s.eng.run ≠ .recovery → s.eng.run ≠ .unpowered → s.port.dbg.ir = 0x2C →
      ∃ t, exec .odAccessCapture s = .next t ∧ t.port.dbg.dr.toNat / 2 ^ 158 % 2 = 1 ∧
        t = { s with port := { s.port with dbg := { s.port.dbg with dr := t.port.dbg.dr } },
                     eng := { s.eng with out := .dbgCapture t.port.dbg.dr :: s.eng.out } }) ∧
    (s.eng.run = .ready ∨ s.eng.run = .recovery →
    (∀ ir : Byte, exec (.tapInstructionUpdate ir) s = .next { s with port := { s.port with
      dbg := { s.port.dbg with ir := if ir = 0x2C then 0x2C else 0xFF } } }) ∧
    exec .tapReset s = .next { s with port := { s.port with dbg := { s.port.dbg with ir := 0xFF } } } ∧
    (∀ (idx : BitVec 16) (sub : Byte) (v : Cell128) (c : Instr) (op : DbgOp), s.port.dbg.ir = 0x2C →
      (c = .odAccessRead idx sub ∧ op = ⟨false, idx.toNat, sub.toNat, 0⟩ ∨
        c = .odAccessWrite idx sub v ∧ op = ⟨true, idx.toNat, sub.toNat, v.toNat⟩) →
      (s.port.dbg.pending = none →
        exec c s = .next { s with port := { s.port with dbg := { s.port.dbg with pending := some op } } }) ∧
      (s.port.dbg.pending.isSome = true →
        ∃ t, exec c s = .next t ∧ onlyEntries s t ∧ t.eng.out = s.eng.out ∧ sameEntries [(0x1012, 1)] s.eng t.eng ∧
          reg t.eng 0x1012 1 = (reg s.eng 0x1012 1 + 1) % 2 ^ 32)) ∧
    (s.port.dbg.ir = 0x2C →
      ∃ t x, exec .odAccessCapture s = .next t ∧ t.port.dbg.dr = x ∧ t.eng.out = .dbgCapture x :: s.eng.out ∧
        x.toNat / 2 ^ 158 % 2 = (if s.port.dbg.pending.isSome then 1 else 0) ∧
        x.toNat % 2 ^ 128 = (if s.port.dbg.pending.isSome then 0 else s.port.dbg.data % 2 ^ 128) ∧
        x.toNat / 2 ^ 154 % 16 = s.port.dbg.status % 16 ∧
        (s.port.dbg.pending = none → t.eng.regs = s.eng.regs) ∧
        (s.port.dbg.pending.isSome = true → reg t.eng 0x1012 1 = (reg s.eng 0x1012 1 + 1) % 2 ^ 32 ∧
          sameEntries [(0x1012, 1)] s.eng t.eng) ∧
        t = { s with port := { s.port with dbg := { s.port.dbg with dr := x } },
                     eng := { s.eng with out := t.eng.out, regs := t.eng.regs } }) ∧
    (∀ op st v u, s.port.dbg.pending = some op → op.write = false → readAccess .d op.idx op.sub s = (st, v, u) →
      exec .odAccessComplete s = .next { u with port := { u.port with dbg := { u.port.dbg with
        pending := none, idx := op.idx, sub := op.sub, data := v, status := st.code } } }) ∧
    (∀ op st u, s.port.dbg.pending = some op → op.write = true →
      writeAccess .d op.idx op.sub op.value s = (st, u) →
      ∃ t, exec .odAccessComplete s = .next t ∧ t.eng = u.eng ∧ t.port.dbg.pending = none ∧
        t.port.dbg.status = st.code ∧ t.port.dbg.data = (readAccess .d op.idx op.sub u).2.1))

/-! ### Host rings and dynamic jobs (spec/12_dynamic_channels.md) -/

/-- ENABLE of a disabled ring whose base is aligned to its size, once the firmware has started: its indices begin at
0, its epoch steps on, and it is enabled; of a misaligned one it ends BAD_VALUE, of an enabled one OK, and of an
aborting or stopped ring or before the firmware has started DENIED, without effect. DISABLE of an enabled or stopped
ring ends its scan and leaves the entries taken alone; of any other it has no effect. ABORT of a ring with nothing
outstanding disables it at once; of an aborting ring it changes nothing. A doorbell of a ring that is not enabled is
counted and ignored; one during a scan marks one further scan; any other begins a scan, which ends at once where the
limit of jobs, a FENCE or a WAIT_GE is in force, and else waits while an entry read is under way (log entry 139). A
write of IRQ_MARK arms the interrupt; where HEAD_INDEX has reached the mark and no head write is due, it is sent at
once while BT_READY is high (log entry 127). -/
def Obligations.RingControls : Prop :=
  ∀ (p : Port) (r : Fin 64) (s : State), letThrough p (0x4100 + r.val) 7 s → letThrough p (0x4100 + r.val) 9 s →
    letThrough p (0x4100 + r.val) 13 s →
    let i := 0x4100 + r.val
    let g := ringOf s.eng r.val
    let others (t : State) : Prop := ∀ q, q ≠ r.val → ringOf t.eng q = ringOf s.eng q
    (∀ st, (s.eng.fw.started = false ∧ st = 7 ∨ s.eng.fw.started = true ∧ (reg s.eng i 8 = 2 ∨ reg s.eng i 8 = 3) ∧ st = 7 ∨
        s.eng.fw.started = true ∧ reg s.eng i 8 = 1 ∧ st = 0 ∨
        s.eng.fw.started = true ∧ reg s.eng i 8 = 0 ∧ ¬(64 * 2 ^ reg s.eng i 2 ∣ reg s.eng i 1) ∧ st = 3) →
      ∃ t, exec (.ringEnable p r) s = .next t ∧ onlyEntries s t ∧ t.eng.out = .access p i 7 st :: s.eng.out ∧
        sameEntries [(0x1010, 1), (0x1010, 2), (0x1010, 3), (0x1010, 4), (0x1010, 5)] s.eng t.eng) ∧
    (s.eng.fw.started = true → reg s.eng i 8 = 0 → 64 * 2 ^ reg s.eng i 2 ∣ reg s.eng i 1 →
      ∃ t, exec (.ringEnable p r) s = .next t ∧ reg t.eng i 8 = 1 ∧ reg t.eng i 10 = 0 ∧ reg t.eng i 11 = 0 ∧
        reg t.eng i 12 = (reg s.eng i 12 + 1) % 16 ∧ sameEntries [(i, 8), (i, 10), (i, 11), (i, 12)] s.eng t.eng ∧
        (ringOf t.eng r.val).entries = g.entries ∧ (ringOf t.eng r.val).scanning = false ∧ others t ∧
        t.eng.out = .access p i 7 0 :: s.eng.out ∧
        t = { s with eng := { s.eng with
          regs := t.eng.regs, rings := t.eng.rings, hostReads := t.eng.hostReads, out := t.eng.out } }) ∧
    (reg s.eng i 8 ≠ 1 → reg s.eng i 8 ≠ 3 →
      exec (.ringDisable p r) s = .next { s with eng := { s.eng with out := .access p i 7 0 :: s.eng.out } }) ∧
    (reg s.eng i 8 = 1 ∨ reg s.eng i 8 = 3 →
      ∃ t, exec (.ringDisable p r) s = .next t ∧ reg t.eng i 8 = 0 ∧ sameEntries [(i, 8)] s.eng t.eng ∧
        ringOf t.eng r.val = { g with scanning := false, again := false, paused := false, retry := none, got := [],
                                      reading := none, sectors := [] } ∧ others t ∧
        t.eng.hostReads = s.eng.hostReads.filter (fun h => h.use ≠ .ring r.val) ∧
        t.eng.out = .access p i 7 0 :: s.eng.out ∧
        t = { s with eng := { s.eng with
          regs := t.eng.regs, rings := t.eng.rings, hostReads := t.eng.hostReads, out := t.eng.out } }) ∧
    (reg s.eng i 8 ≠ 2 → g.entries = [] → g.headDue = false →
      ∃ t, exec (.ringAbort p r) s = .next t ∧ reg t.eng i 8 = 0 ∧ sameEntries [(i, 8)] s.eng t.eng ∧
        (ringOf t.eng r.val).scanning = false ∧ (ringOf t.eng r.val).entries = [] ∧ others t ∧
        t.eng.out = .access p i 7 0 :: s.eng.out ∧
        t = { s with eng := { s.eng with
          regs := t.eng.regs, rings := t.eng.rings, hostReads := t.eng.hostReads, out := t.eng.out } }) ∧
    (reg s.eng i 8 = 2 →
      exec (.ringAbort p r) s = .next { s with eng := { s.eng with out := .access p i 7 0 :: s.eng.out } }) ∧
    (reg s.eng i 8 ≠ 1 →
      ∃ t, exec (.doorbell p r) s = .next t ∧ onlyEntries s t ∧ sameEntries [(0x4002, 6)] s.eng t.eng ∧
        reg t.eng 0x4002 6 = (reg s.eng 0x4002 6 + 1) % 2 ^ 64 ∧ t.eng.out = .access p i 9 0 :: s.eng.out) ∧
    (reg s.eng i 8 = 1 →
      let bell : Ring := { g with door := some (g.door.getD (spNow s.eng)), fresh := some (g.fresh.getD (spNow s.eng)) }
      ∃ t, exec (.doorbell p r) s = .next t ∧ others t ∧
        (g.scanning = true → ringOf t.eng r.val = { bell with again := true }) ∧
        (g.scanning = false → scanHeld s.eng r.val = true →
          ringOf t.eng r.val = { bell with again := false, paused := true, got := [] }) ∧
        (g.scanning = false → scanHeld s.eng r.val = false →
          (∃ q, q < 64 ∧ (ringOf s.eng q).reading.isSome = true) ∨ ringsRun s.eng = false →
          ringOf t.eng r.val = { bell with scanning := true, paused := false, got := [] }) ∧
        ((g.scanning = true ∨ scanHeld s.eng r.val = true ∨ ringsRun s.eng = false ∨
            ∃ q, q < 64 ∧ (ringOf s.eng q).reading.isSome = true) →
          t.eng.out = .access p i 9 0 :: s.eng.out ∧
          t = { s with eng := { s.eng with rings := t.eng.rings, out := t.eng.out } })) ∧
    (reg s.eng i 8 = 1 → ringsRun s.eng = true → g.scanning = false → g.retry = none → scanHeld s.eng r.val = false →
      (∀ q, q < 64 → (ringOf s.eng q).reading = none ∧ (q ≠ r.val → (ringOf s.eng q).scanning = false)) → reg s.eng i 3 < 4 →
      let a := reg s.eng i 1 + 64 * (reg s.eng i 10 % 2 ^ reg s.eng i 2)
      (regionOf a).1 = .host →
      ∃ t n, exec (.doorbell p r) s = .next t ∧ (ringOf t.eng r.val).scanning = true ∧
        (ringOf t.eng r.val).reading = some s.eng.ids ∧ (n = 64 ∨ n = 128 ∨ n = 192 ∨ n = 256) ∧
        t.eng.hostReads.map (fun h => (h.id, h.addr, h.len)) =
          s.eng.hostReads.map (fun h => (h.id, h.addr, h.len)) ++ [(s.eng.ids, a, n)] ∧
        t.eng.regs = s.eng.regs ∧ t.eng.dom = s.eng.dom ∧ sameMemory s.eng t.eng ∧ t.port = s.port) ∧
    (∀ v : Word32, ∃ t, exec (.irqMarkWrite p r v) s = .next t ∧ reg t.eng i 13 = v.toNat ∧ onlyEntries s t ∧
      (g.headDue = true ∨ isReady s.eng = false ∨ gateMet (reg s.eng i 11) v.toNat = false →
        reg t.eng i 15 = 1 ∧ t.eng.out = .access p i 13 0 :: s.eng.out ∧
        sameEntries [(i, 13), (i, 15)] s.eng t.eng) ∧
      (g.headDue = false → isReady s.eng = true → gateMet (reg s.eng i 11) v.toNat = true →
        reg t.eng i 15 = 0 ∧ reg t.eng 0x4002 7 = (reg s.eng 0x4002 7 + 1) % 2 ^ 64 ∧
        t.eng.out = .access p i 13 0 ::
          (if s.eng.fw.suppress then s.eng.out else .msi (reg s.eng i 14) :: s.eng.out) ∧
        sameEntries [(i, 13), (i, 15), (0x4002, 7)] s.eng t.eng))

/-- A due head whose HEAD_ADDR lies in the host window is written there as 4 bytes with HEAD_INDEX and is then not
due; the interrupt is checked after it, class-0 jobs are measured, and an aborting ring with nothing outstanding is
disabled; with none due nothing happens. An entry read that the host answers with an error is repeated 1024 CCLK
later; when the repeat fails too, the ring stops and source 79 is raised. An answer whose first entry is not posted
ends the scan where none further is marked, and else begins that one. A scan that paused resumes once what ended it
has cleared. -/
def Obligations.HeadsAndScans : Prop :=
  ∀ (r : Fin 64) (s : State),
    let i := 0x4100 + r.val
    let g := ringOf s.eng r.val
    (g.headDue = false → exec (.headWrite r) s = .next s) ∧
    (g.headDue = true → (regionOf (reg s.eng i 6)).1 = .host → s.eng.fw.suppress = false →
      let fires := reg s.eng i 15 = 1 ∧ isReady s.eng = true ∧ gateMet (reg s.eng i 11) (reg s.eng i 13) = true
      ∃ t, exec (.headWrite r) s = .next t ∧ ringOf t.eng r.val = { g with headDue := false, measure := [] } ∧
        (¬fires → reg t.eng i 15 = reg s.eng i 15 ∧ reg t.eng 0x4002 7 = reg s.eng 0x4002 7 ∧
          t.eng.out = .hostWrite (reg s.eng i 6 - 0x300000000000) (leBytes 4 (reg s.eng i 11)) false :: s.eng.out) ∧
        (fires → reg t.eng i 15 = 0 ∧ reg t.eng 0x4002 7 = (reg s.eng 0x4002 7 + 1) % 2 ^ 64 ∧
          t.eng.out = .msi (reg s.eng i 14) ::
            .hostWrite (reg s.eng i 6 - 0x300000000000) (leBytes 4 (reg s.eng i 11)) false :: s.eng.out) ∧
        reg t.eng i 8 = (if reg s.eng i 8 = 2 ∧ g.entries.all (fun x => x.stage == .complete) then 0 else reg s.eng i 8) ∧
        sameEntries [(i, 8), (i, 15), (0x4002, 7), (0x4202, 1), (0x4202, 2), (0x4202, 3), (0x4202, 4)] s.eng t.eng ∧
        (g.measure = [] → sameEntries [(i, 8), (i, 15), (0x4002, 7)] s.eng t.eng) ∧
        t = { s with eng := { s.eng with regs := t.eng.regs, rings := t.eng.rings, out := t.eng.out } }) ∧
    (g.reading.isSome = true → ringsRun s.eng = true → (regionOf (readAddr s.eng r.val)).1 = .host →
      ∃ t, exec (.entryReadComplete r .error) s = .next t ∧
        ringOf t.eng r.val = { g with retry := some (s.eng.now + 1024 * 4), reading := none, sectors := [] } ∧
        t.eng.regs = s.eng.regs ∧ t.eng.dom = s.eng.dom ∧ sameMemory s.eng t.eng ∧ t.port = s.port) ∧
    (∀ due, g.retry = some due → g.scanning = true → reg s.eng i 8 = 1 → ringsRun s.eng = true →
        (regionOf (readAddr s.eng r.val)).1 = .host →
        ∃ t, exec (.entryReadRetry r .error) s = .next t ∧ t.eng.now = max s.eng.now due ∧ reg t.eng i 8 = 3 ∧
          t.eng.raised = s.eng.raised ++ [(79, 0)] ∧ reg t.eng 0x4002 4 = (reg s.eng 0x4002 4 + 1) % 2 ^ 64 ∧
          sameEntries [(i, 8), (0x4002, 4)] s.eng t.eng ∧ (ringOf t.eng r.val).scanning = false ∧
          (ringOf t.eng r.val).entries = g.entries ∧ sameMemory s.eng t.eng) ∧
    (∀ bytes : List Byte, g.reading.isSome = true → g.scanning = true → g.got = [] → ringsRun s.eng = true →
        (regionOf (readAddr s.eng r.val)).1 = .host → bytes.length = 64 → scanHeld s.eng r.val = false →
        (bytes.getD 14 0).toNat % 2 ≠ (if reg s.eng i 10 / 2 ^ reg s.eng i 2 % 2 = 0 then 1 else 0) →
        ∃ t, exec (.entryReadComplete r (.data bytes false)) s = .next t ∧
          (g.again = false → ringOf t.eng r.val = { g with scanning := false, door := g.fresh, retry := none,
                                                           reading := none, sectors := [] }) ∧
          (ringOf t.eng r.val).scanning = g.again ∧ (ringOf t.eng r.val).again = false ∧
          (ringOf t.eng r.val).entries = g.entries ∧ (ringOf t.eng r.val).door = g.fresh ∧
          t.eng.regs = s.eng.regs ∧ t.eng.dom = s.eng.dom ∧ sameMemory s.eng t.eng ∧ t.port = s.port) ∧
    (g.paused = true → scanHeld s.eng r.val = false → reg s.eng i 8 = 1 → ringsRun s.eng = true →
      ∃ t, exec (.scanResume r) s = .next t ∧ (ringOf t.eng r.val).scanning = true ∧
        (ringOf t.eng r.val).paused = false ∧ (ringOf t.eng r.val).entries = g.entries ∧
        t.eng.regs = s.eng.regs ∧ t.eng.dom = s.eng.dom ∧ sameMemory s.eng t.eng ∧ t.port = s.port)

/-- The entries that complete as they start: NOP and SKIP in their turn, FENCE once every earlier entry is complete,
and a WAIT_GE in its turn whose condition holds; an ADD or SUB, once every earlier entry is complete, changes its
resident semaphore modulo 2^32 and completes. The entry is complete, JOBS_DONE counts (or, for an entry of an earlier
epoch, STALE_COMPLETIONS), and no byte of memory changes. A WAIT_GE whose condition does not hold becomes a waiter
with its limit in frames. (The waiters of the semaphore, if any, are the subject of a statement of its own.) -/
def Obligations.EntriesInTurn : Prop :=
  ∀ (r : Fin 64) (s : State) (x : RingEntry),
    let next (op : Nat) (can : Eng → RingEntry → Bool) : Prop :=
      (nextEntries s.eng r.val).find? (fun y => opcodeOf y.bytes == op && can s.eng y) = some x
    let ctx := reg s.eng (0x4100 + r.val) 4
    let v := leNat ((x.bytes.drop 18).take 2)
    let k := leNat ((x.bytes.drop 20).take 4)
    let ph := physOf s.eng ctx v
    let done (t : State) : Prop :=
      (∀ y ∈ (ringOf t.eng r.val).entries, y.index = x.index → y.epoch = x.epoch → y.stage = .complete) ∧
      (x.epoch = reg s.eng (0x4100 + r.val) 12 → reg t.eng 0x4002 1 = (reg s.eng 0x4002 1 + 1) % 2 ^ 64 ∧
        reg t.eng 0x4002 5 = reg s.eng 0x4002 5) ∧
      (x.epoch ≠ reg s.eng (0x4100 + r.val) 12 → reg t.eng 0x4002 5 = (reg s.eng 0x4002 5 + 1) % 2 ^ 64 ∧
        reg t.eng 0x4002 1 = reg s.eng 0x4002 1) ∧ sameMemory s.eng t.eng ∧ t.eng.out = s.eng.out ∧
      t.eng.jobs = s.eng.jobs ∧ t.port = s.port ∧ t.pending = s.pending
    (next 0 (canStart r.val) → ∃ t, exec (.nop r) s = .next t ∧ done t ∧ t.eng.dom = s.eng.dom ∧
      sameEntries [(0x4002, 1), (0x4002, 5), (0x4100 + r.val, 8), (0x4100 + r.val, 11)] s.eng t.eng) ∧
    (next 7 (canStart r.val) → ∃ t, exec (.skip r) s = .next t ∧ done t ∧ t.eng.dom = s.eng.dom ∧
      sameEntries [(0x4002, 1), (0x4002, 5), (0x4100 + r.val, 8), (0x4100 + r.val, 11)] s.eng t.eng) ∧
    (next 6 (canFollow r.val) → ∃ t, exec (.fence r) s = .next t ∧ done t ∧ t.eng.dom = s.eng.dom ∧
      sameEntries [(0x4002, 1), (0x4002, 5), (0x4100 + r.val, 8), (0x4100 + r.val, 11)] s.eng t.eng) ∧
    (resident s.eng ctx v = true → translates s.eng ctx v = true → s.eng.sems.waiters = [] →
      (next 5 (fun e y => entryByte y.bytes 16 == 2 && canFollow r.val e y) → ∃ t, exec (.semOpAdd r) s = .next t ∧ done t ∧
        semVal t.eng ph = (semVal s.eng ph + k) % 2 ^ 32) ∧
      (next 5 (fun e y => entryByte y.bytes 16 == 3 && canFollow r.val e y) → ∃ t, exec (.semOpSub r) s = .next t ∧ done t ∧
        semVal t.eng ph = (semVal s.eng ph + 2 ^ 32 - k % 2 ^ 32) % 2 ^ 32) ∧
      (next 5 (fun e y => entryByte y.bytes 16 == 1 && canStart r.val e y) →
        (gateMet (semVal s.eng ph) k = true → ∃ t, exec (.semOpWaitGe r) s = .next t ∧ done t ∧
          t.eng.dom = s.eng.dom) ∧
        (gateMet (semVal s.eng ph) k = false → ∃ t w, exec (.semOpWaitGe r) s = .next t ∧
          t.eng.sems.waiters = [w] ∧ w.sem = ph ∧ w.op.value = k ∧
          w.op.limit = s.eng.now + 8192 * (let n := leNat ((x.bytes.drop 24).take 4)
                                           if n = 0 then reg s.eng 0x4001 2 else n) ∧
          (∀ y ∈ (ringOf t.eng r.val).entries, y.index = x.index → y.epoch = x.epoch → y.stage = .started) ∧
          t.eng.dom = s.eng.dom ∧ sameMemory s.eng t.eng)))

/-- The entries whose jobs read a record first. With a pointer of 64-byte alignment whose record lies in the host
window, MOVE and FRAGMENTS read 256 bytes, PACK and EXPAND 64, and RESHARD 192: a job of the entry waits for that one
read, which HST holds or has issued, and no memory changes. A MOVE_INLINE's descriptor is its four entries, with bytes
13 to 15 as zero: its job has that descriptor and goes on with its checks or waits for a station, or a check has
failed and the entry is complete. A WEEVIL entry in its turn whose commands pass and copy from the host window has a
job that reads their sources, and the entry is started. -/
def Obligations.EntriesBecomeJobs : Prop :=
  (∀ (r : Fin 64) (s : State) (x : RingEntry) (c : Instr) (op n : Nat),
     (c = .move r ∧ op = 1 ∧ n = 256) ∨ (c = .fragments r ∧ op = 3 ∧ n = 256) ∨ (c = .pack r ∧ op = 8 ∧ n = 64) ∨
       (c = .expand r ∧ op = 9 ∧ n = 64) ∨ (c = .reshard r ∧ op = 10 ∧ n = 192) →
     (nextEntries s.eng r.val).find? (fun y => opcodeOf y.bytes == op) = some x →
     let a := leNat ((x.bytes.drop 16).take 8)
     a % 64 = 0 → 0x300000000000 ≤ a → a + n ≤ 0x400000000000 →
     ∃ t j, exec c s = .next t ∧ jobOf t.eng s.eng.ids = some j ∧ j.op = op ∧ j.ring = some r.val ∧
       j.epoch = x.epoch ∧ j.index = x.index ∧ j.stage = .descriptor ∧ j.waits = [s.eng.ids + 1] ∧
       (op = 3 → j.tableAddr = leNat ((x.bytes.drop 24).take 8) ∧ j.tableCount = leNat ((x.bytes.drop 32).take 4)) ∧
       t.eng.hostReads.map (fun h => (h.id, h.addr, h.len)) =
         s.eng.hostReads.map (fun h => (h.id, h.addr, h.len)) ++ [(s.eng.ids + 1, a, n)] ∧
       (∀ y ∈ (ringOf t.eng r.val).entries, y.index = x.index → y.epoch = x.epoch → y.stage = .checking) ∧
       t.eng.regs = s.eng.regs ∧ t.eng.dom = s.eng.dom ∧ sameMemory s.eng t.eng ∧ t.port = s.port ∧
       t.pending = s.pending) ∧
  (∀ (r : Fin 64) (s : State) (x : RingEntry),
     ((nextEntries s.eng r.val).find? (fun y => opcodeOf y.bytes == 2) = some x →
       ∃ t, exec (.moveInline r) s = .next t ∧ t.port = s.port ∧ t.pending = s.pending ∧
         ((∃ j, jobOf t.eng s.eng.ids = some j ∧ j.op = 2 ∧ j.ring = some r.val ∧
             j.desc = leNat (x.bytes.take 13 ++ [0, 0, 0] ++ x.bytes.drop 16) ∧
             (j.stage = .ready ∨ j.stage = .indexRecord)) ∨
           (∀ y ∈ (ringOf t.eng r.val).entries, y.index = x.index → y.epoch = x.epoch → y.stage = .complete))) ∧
     ((nextEntries s.eng r.val).find? (fun y => opcodeOf y.bytes == 4 &&
         ((checkWeevil s.eng (leNat y.bytes)).isSome || canStart r.val s.eng y)) = some x →
       checkWeevil s.eng (leNat x.bytes) = none →
       (∀ c, c < 3 → (smallCmd (leNat x.bytes) c).kind = 1 → 0x300000000000 ≤ (smallCmd (leNat x.bytes) c).src) →
       (smallCmd (leNat x.bytes) 0).kind = 1 →
       ∃ t j, exec (.weevil r) s = .next t ∧ jobOf t.eng s.eng.ids = some j ∧ j.op = 4 ∧ j.desc = leNat x.bytes ∧
         j.stage = .reading ∧ j.waits ≠ [] ∧
         (∀ y ∈ (ringOf t.eng r.val).entries, y.index = x.index → y.epoch = x.epoch → y.stage = .started) ∧
         t.eng.regs = s.eng.regs ∧ sameMemory s.eng t.eng ∧ t.port = s.port ∧ t.pending = s.pending))

/-- A ready job in its turn starts on the station it is given: an EXPAND job whose header lies in stack memory reads
it, and a RESHARD job whose peer table lies in the host window reads that. A job that has ended and waits for nothing
completes: it is gone and its ring entry is complete, JOBS_DONE or ENTRIES_BAD counting where its ring has its epoch;
a job that a host-port error stopped completes by a command of its own. A read of HST that the host has answered is
gone, and the bytes are in the buffer of the job that waits for more. -/
def Obligations.JobsRun : Prop :=
  ∀ (s : State) (j : Nat) (x : Job), jobOf s.eng j = some x → x.id = j →
    (∀ r st, x.ring = some r → x.stage = .ready → x.op = 9 → x.step = 0 → x.waits = [] →
      mayStart s.eng r x.epoch x.index = true → s.eng.fw.ringHeld = false → dispatching s.eng = true →
      chooseStation s.eng x = some st → (regionOf (blockPlace s.eng { x with station := some st } x.block).header).1 = .stack →
      ∃ t y, exec (.jobStart j) s = .next t ∧ jobOf t.eng j = some y ∧ y.station = some st ∧ y.stage = .reading ∧
        y.step = 11 ∧ y.waits ≠ [] ∧ t.eng.dom = s.eng.dom ∧ t.eng.mem = s.eng.mem ∧ t.port = s.port ∧
        t.pending = s.pending) ∧
    (∀ r, x.ring = some r → x.stage = .ready → x.op = 10 → planning s.eng = true → mayStart s.eng r x.epoch x.index = true →
      s.eng.fw.ringHeld = false → dispatching s.eng = true → (parseReshard x.desc).targets ≠ [] →
      (regionOf (parseReshard x.desc).peers).1 = .host → 0 < (parseReshard x.desc).dst.positions →
      ∃ t y, exec (.jobStart j) s = .next t ∧ jobOf t.eng j = some y ∧ y.stage = .reading ∧ y.waits ≠ [] ∧
        t.eng.dom = s.eng.dom ∧ t.eng.regs = s.eng.regs ∧ t.eng.mem = s.eng.mem ∧ t.port = s.port ∧
        t.pending = s.pending) ∧
    (∀ r, x.ring = some r → x.op ≠ 10 → x.stage = .ended → x.waits = [] → x.sends = [] → x.parent = none →
      jobSignal s.eng x = none → x.epoch = reg s.eng (0x4100 + r) 12 → r < 64 →
      (∃ y ∈ (ringOf s.eng r).entries, y.index = x.index ∧ y.epoch = x.epoch ∧ y.stage ≠ .complete) →
      let gone (t : State) : Prop := (∀ y ∈ t.eng.jobs, y.id ≠ j) ∧
        (∀ y ∈ (ringOf t.eng r).entries, y.index = x.index → y.epoch = x.epoch → y.stage = .complete) ∧
        t.eng.dom = s.eng.dom ∧ t.port = s.port ∧ t.pending = s.pending
      ((jobEnding x).status = .done →
        ∃ t, exec (.jobComplete j) s = .next t ∧ gone t ∧ t.eng.mem = s.eng.mem ∧
          reg t.eng 0x4002 1 = (reg s.eng 0x4002 1 + 1) % 2 ^ 64) ∧
      ((jobEnding x).status ≠ .done → (jobEnding x).status ≠ .hostError →
        exec (.jobHostError j) s = .next s ∧
        ∃ t, exec (.jobComplete j) s = .next t ∧ gone t ∧
          reg t.eng 0x4002 2 = (reg s.eng 0x4002 2 + 1) % 2 ^ 64) ∧
      ((jobEnding x).status = .hostError →
        exec (.jobComplete j) s = .next s ∧
        ∃ t, exec (.jobHostError j) s = .next t ∧ gone t ∧
          reg t.eng 0x4002 2 = (reg s.eng 0x4002 2 + 1) % 2 ^ 64)) ∧
    (∀ (h : HostRead) (bytes : List Byte), h ∈ s.eng.hostReads → h.issued = true → h.use = .job j →
      (∀ g ∈ s.eng.hostReads, g.id = h.id → g = h) → h.id ∈ x.waits → x.waits.erase h.id ≠ [] →
      bytes.length = h.len →
      ∃ t y, exec (.hostReadCompletion h.id (.data bytes false)) s = .next t ∧ jobOf t.eng j = some y ∧
        y.waits = x.waits.erase h.id ∧ (∀ g ∈ t.eng.hostReads, g.id ≠ h.id) ∧
        (∀ k (hk : k < bytes.length), storeGet (fun _ => (0, false)) y.buf (h.addr + k) = (bytes[k].toNat, s.eng.hostPois)) ∧
        t.eng.regs = s.eng.regs ∧ t.eng.dom = s.eng.dom ∧ sameMemory s.eng t.eng ∧ t.port = s.port ∧
        t.pending = s.pending)

/-! ### Crossings, spine and UCIe modules (spec/11_crossings.md) -/

/-- A training step of a crossing passes within its limit (10, 40, 2, 2 and 8 AONCLK; step 4 only with R up to 88) or
fails. Passing takes the crossing to the next step and, after step 5, to state pinned; step 4 records R and 96 - R.
The first failure records its detail and begins the second attempt at step 1, no later than at the step's limit; the
second fails the crossing, raises source 48 + n, and fails the start with detail 0x1213. Outside training nothing
happens. -/
def Obligations.CrossingsTrain : Prop :=
  ∀ (n : Fin 24) (ok : Bool) (info : BitVec 14) (s : State),
    let x := 0x3900 + n.val
    let c := storeGet (fun _ => ({} : Crossing)) s.eng.crossings n.val
    let limit := match c.step with | 1 => 10 | 2 => 40 | 3 => 2 | 4 => 2 | _ => 8
    let passes := ok = true ∧ s.eng.now ≤ c.since + limit * 3600 ∧ (c.step = 4 → info.toNat ≤ 88)
    let detail := 0x3910 + c.step
    (reg s.eng x 1 ≠ 1 → exec (.crossingTrainStepDone n ok info) s = .next s) ∧
    (reg s.eng x 1 = 1 → passes → c.step < 5 →
      ∃ t, exec (.crossingTrainStepDone n ok info) s = .next t ∧
        storeGet (fun _ => ({} : Crossing)) t.eng.crossings n.val = { c with step := c.step + 1, since := s.eng.now } ∧
        (∀ m, m ≠ n.val → storeGet (fun _ => ({} : Crossing)) t.eng.crossings m =
          storeGet (fun _ => ({} : Crossing)) s.eng.crossings m) ∧
        (c.step = 4 → reg t.eng x 4 = info.toNat ∧ reg t.eng x 5 = 96 - info.toNat ∧
          sameEntries [(x, 4), (x, 5)] s.eng t.eng) ∧
        (c.step ≠ 4 → t.eng.regs = s.eng.regs) ∧
        t = { s with eng := { s.eng with regs := t.eng.regs, crossings := t.eng.crossings } }) ∧
    (reg s.eng x 1 = 1 → passes → c.step = 5 →
      ∃ t, exec (.crossingTrainStepDone n ok info) s = .next t ∧ reg t.eng x 1 = 2 ∧
        (reg t.eng 0x39F0 1 = reg s.eng 0x39F0 1 ∨
          reg t.eng 0x39F0 1 = (s.eng.now - s.eng.trainAt) / 3600 ∧ ∀ m, m < 24 → 2 ≤ reg t.eng (0x3900 + m) 1) ∧
        sameEntries [(x, 1), (0x39F0, 1)] s.eng t.eng ∧
        t = { s with eng := { s.eng with regs := t.eng.regs, crossings := t.eng.crossings } }) ∧
    (reg s.eng x 1 = 1 → ¬passes → reg s.eng x 3 = 1 →
      ∃ t, exec (.crossingTrainStepDone n ok info) s = .next t ∧ reg t.eng x 1 = 1 ∧ reg t.eng x 3 = 2 ∧
        reg t.eng x 2 = detail + info.toNat * 2 ^ 16 ∧
        storeGet (fun _ => ({} : Crossing)) t.eng.crossings n.val =
          { step := 1, since := min s.eng.now (c.since + limit * 3600) } ∧
        sameEntries [(x, 2), (x, 3), (x, 4), (x, 5)] s.eng t.eng ∧
        t = { s with eng := { s.eng with regs := t.eng.regs, crossings := t.eng.crossings } }) ∧
    (reg s.eng x 1 = 1 → ¬passes → reg s.eng x 3 ≠ 1 → ∀ k since cold power, s.eng.run = .release k since cold power →
      ∃ t, exec (.crossingTrainStepDone n ok info) s = .next t ∧ reg t.eng x 1 = 3 ∧
        reg t.eng x 2 = detail + info.toNat * 2 ^ 16 ∧ t.eng.run = .failed k ∧
        t.eng.raised = s.eng.raised ++ [(48 + n.val, detail), (84, 0x1213)] ∧
        reg t.eng 0x1200 2 = 2 ∧ reg t.eng 0x1200 3 = 0x1213 ∧
        sameEntries [(x, 1), (x, 2), (x, 4), (x, 5), (0x39F0, 1), (0x1200, 2), (0x1200, 3), (0x1202, 1), (0x1205, 3)]
          s.eng t.eng)

/-- A beat at a boundary. Every word with one bad bit is corrected and counted, every uncorrectable one is counted and
its boundary's source raised once for the beat; a beat of clean and corrected words poisons nothing, and an
uncorrectable word alone in its beat reaches the item of lane 0 with its data bits as received (which item that is is
log entry 142). A beat of a crossing outside the range of its receive buffer is a pin slip, counted and raised. A
control word with good parity changes nothing; a lost one is counted; of the runs of the earliest lists on their way
the three that it carried drop their sectors, which are counted, recorded with detail 0x3901 and raised. On a pinned
crossing, once the counts run, the frame mark of a later frame f at base count 4096 f is taken as that frame's; one at
any other count, or none, is counted as an error and raised. -/
def Obligations.CrossingsDeliver : Prop :=
  (∀ (b : Boundary) (down inRange : Bool) (words : List (Word32 × BitVec 7)) (s : State),
    let x := match b with | .crossing n => 0x3900 + n.val | .stitch k => 0x3920 + k.val
    let sub := match b with | .crossing _ => 6 | .stitch _ => 1
    let src := match b with | .crossing n => 48 + n.val | .stitch _ => 78
    let slips := inRange = false ∧ ∃ n, b = .crossing n
    let count (k : WordCheck) := (words.map judgeWord).count k
    (slips → ∃ t, exec (.crossingBeatReceive ⟨b, down⟩ inRange words) s = .next t ∧
      reg t.eng x 8 = (reg s.eng x 8 + 1) % 2 ^ 64 ∧ sameEntries [(x, 8)] s.eng t.eng ∧
      t.eng.raised = s.eng.raised ++ [(src, 0)] ∧
      t = { s with eng := { s.eng with
        regs := t.eng.regs, docks := t.eng.docks, agents := t.eng.agents, raised := t.eng.raised } }) ∧
    (¬slips → ∃ t, exec (.crossingBeatReceive ⟨b, down⟩ inRange words) s = .next t ∧
      reg t.eng x sub = (reg s.eng x sub + count .corrected) % 2 ^ 64 ∧
      reg t.eng x (sub + 1) = (reg s.eng x (sub + 1) + count .uncorrectable) % 2 ^ 64 ∧
      sameEntries [(x, sub), (x, sub + 1)] s.eng t.eng ∧
      t.eng.raised = s.eng.raised ++ (if count .uncorrectable = 0 then [] else [(src, 0)]) ∧
      (count .uncorrectable = 0 → count .poisoned = 0 → t.eng.docks = s.eng.docks ∧ t.eng.agents = s.eng.agents) ∧
      (∀ w hit, words = [w] → judgeWord w = .uncorrectable → beatTarget s.eng b down 0 = some hit →
        t.eng.docks = (hit 1 w.1.toNat s.eng).docks ∧ t.eng.agents = (hit 1 w.1.toNat s.eng).agents) ∧
      t = { s with eng := { s.eng with
        regs := t.eng.regs, docks := t.eng.docks, agents := t.eng.agents, raised := t.eng.raised } })) ∧
  (∀ (n : Fin 24) (item : ControlItem) (s : State),
    let x := 0x3900 + n.val
    exec (.controlWordReceive n true item) s = .next s ∧
    (∃ t, exec (.controlWordReceive n false item) s = .next t ∧ reg t.eng x 10 = (reg s.eng x 10 + 1) % 2 ^ 64 ∧
      sameEntries [(x, 10), (x, 11), (x, 12)] s.eng t.eng ∧
      t = { s with eng := { s.eng with regs := t.eng.regs, agents := t.eng.agents, raised := t.eng.raised } } ∧
      (∀ k abs, item = .runs k → nextListSlot (agentOf s.eng n.val) = some abs →
        let mine := (agentOf s.eng n.val).lists.filter (·.abs == abs)
        let left := loseRuns (fun r => decide (3 * k.val < r ∧ r ≤ 3 * k.val + 3)) mine 0
        let count := droppedIn left - droppedIn mine
        (count = 0 → t.eng.agents = s.eng.agents ∧ t.eng.raised = s.eng.raised ∧ sameEntries [(x, 10)] s.eng t.eng) ∧
        (0 < count → (agentOf t.eng n.val).lists = left ++ (agentOf s.eng n.val).lists.filter (·.abs != abs) ∧
          reg t.eng x 11 = (reg s.eng x 11 + count) % 2 ^ 64 ∧ reg t.eng x 12 = 0x3901 + abs % 512 * 2 ^ 16 ∧
          t.eng.raised = s.eng.raised ++ [(48 + n.val, 0x3901)])) ∧
      (item = .routing ∨ item = .sideband → t.eng.raised = s.eng.raised ∧ sameEntries [(x, 10)] s.eng t.eng ∧
        (agentOf t.eng n.val).lists = (agentOf s.eng n.val).lists))) ∧
  (∀ (n : Fin 24) (count : Option Nat) (s : State),
    let x := 0x3900 + n.val
    let c := storeGet (fun _ => ({} : Crossing)) s.eng.crossings n.val
    (reg s.eng x 1 ≠ 2 ∨ s.eng.spBase = none → exec (.frameMarkArrive n count) s = .next s) ∧
    (reg s.eng x 1 = 2 → s.eng.spBase.isSome = true →
      (∀ f, count = some (4096 * f) → c.marks < f → ∃ t, exec (.frameMarkArrive n count) s = .next t ∧
        storeGet (fun _ => ({} : Crossing)) t.eng.crossings n.val = { c with marks := f } ∧
        t = { s with eng := { s.eng with crossings := t.eng.crossings } }) ∧
      ((∀ f, count = some (4096 * f) → f ≤ c.marks) → ∃ t, exec (.frameMarkArrive n count) s = .next t ∧
        reg t.eng x 9 = (reg s.eng x 9 + 1) % 2 ^ 64 ∧ sameEntries [(x, 9)] s.eng t.eng ∧
        t.eng.raised = s.eng.raised ++ [(48 + n.val, 0)] ∧
        t = { s with eng := { s.eng with regs := t.eng.regs, raised := t.eng.raised } })))

/-- The spine arbiter at its moment for slot `abs`, 128 slots ahead. Each path eighth it gives begins in that slot,
lies in the direction asked, and is for a transfer that its requester has pending; those held for slots that have
passed lapse, and the others stay held. Nothing but the arbiter's own state, the clock and the counts of lapsed
eighths changes, and while no frames run nothing does. -/
def Obligations.SpineAllocates : Prop :=
  ∀ (dir : Bool) (abs : Nat) (s : State),
    (s.eng.spBase = none → exec (.spineAllocate dir abs) s = .next s) ∧
    (∀ base, s.eng.spBase = some base →
      let now := max s.eng.now (base + 16 * (abs - 128))
      ∃ t given, exec (.spineAllocate dir abs) s = .next t ∧ t.eng.now = now ∧
        t.eng.spine.held = (s.eng.spine.held.filter fun h => (now - base) / 16 ≤ h.2.1) ++ given ∧
        (∀ h ∈ given, h.2.1 = abs ∧ pathDir h.1 h.2.2 = (if dir then 1 else 0) ∧ h.1 < 74 ∧
          h.2.2 ∈ transfersOf s.eng h.1) ∧
        (∀ b i k, i < 65536 → k < 256 → k ≠ 4 → regB t.eng b i k = regB s.eng b i k) ∧
        ((∀ h ∈ s.eng.spine.held, (now - base) / 16 ≤ h.2.1) → t.eng.regs = s.eng.regs) ∧
        (∀ q slot k, s.eng.spine.held = [(q, slot, [k])] → k < 3 → slot < (now - base) / 16 →
          reg t.eng (0x3920 + k) 4 = (reg s.eng (0x3920 + k) 4 + 1) % 2 ^ 64) ∧
        t = { s with eng := { s.eng with now := now, regs := t.eng.regs, spine := t.eng.spine } })

/-- A UCIe unit of a running module is delivered with its data and poison map where its CRC-32 and, on a link, its
sequence number are right, and with every word poisoned, counted and raised where they are not; a unit with any poison
is counted, the next sequence number follows the unit's, and the poison map goes with the flit that the unit holds, or
with the data that HST takes next. A module that completes its initialisation in time runs, and with both modules of a
link agent running the agent is ready, and up where LINK_ENABLE says so. One that does not within 1000 AONCLK fails:
its link agent stays in reset and source 72 + p is raised, or without HST the start fails. -/
def Obligations.UcieUnitsAndModules : Prop :=
  ∀ (m : Fin 5) (s : State),
    let x := 0x3930 + m.val
    let p := m.val / 2
    (∀ (seq : BitVec 4) (crc : Word32) (pois : BitVec 64) (data : List Byte),
      data.length = (if m.val = 4 then 128 else 256) →
      let map := pois.toNat % 2 ^ (data.length / 4)
      let good := crc.toNat = crc32 (data ++ leBytes (if m.val = 4 then 4 else 8) map) ∧
        (m.val = 4 ∨ seq.toNat = (linkOf s.eng p).unitSeq)
      (reg s.eng x 1 ≠ 2 → exec (.ucieUnitReceive m seq crc pois data) s = .next s) ∧
      (reg s.eng x 1 = 2 → ∃ t, exec (.ucieUnitReceive m seq crc pois data) s = .next t ∧
        (∀ map', (good → map' = map) → (¬good → map' = 2 ^ (data.length / 4) - 1) →
          (m.val < 4 → t.eng.hostPois = s.eng.hostPois ∧ linkOf t.eng p = { linkOf s.eng p with
            unitSeq := (seq.toNat + 1) % 16, unitPois := (linkOf s.eng p).unitPois ++ [map'] }) ∧
          (m.val = 4 → t.eng.links = s.eng.links ∧ t.eng.hostPois = (s.eng.hostPois || decide (map' ≠ 0)))) ∧
        (good → t.eng.out = .unit m.val data map :: s.eng.out ∧ t.eng.raised = s.eng.raised ∧
          reg t.eng x 2 = reg s.eng x 2 ∧ (map = 0 → t.eng.regs = s.eng.regs)) ∧
        (¬good → t.eng.out = .unit m.val data (2 ^ (data.length / 4) - 1) :: s.eng.out ∧
          t.eng.raised = s.eng.raised ++ [(if m.val = 4 then 79 else 72 + p, 0)] ∧
          reg t.eng x 2 = (reg s.eng x 2 + 1) % 2 ^ 64) ∧
        (¬good ∨ map ≠ 0 → reg t.eng x 3 = (reg s.eng x 3 + 1) % 2 ^ 64) ∧
        sameEntries [(x, 2), (x, 3)] s.eng t.eng ∧
        t = { s with eng := { s.eng with
          regs := t.eng.regs, links := t.eng.links, hostPois := t.eng.hostPois, raised := t.eng.raised,
          out := t.eng.out } })) ∧
    (reg s.eng x 1 ≠ 1 → exec (.ucieModuleInitDone m) s = .next s ∧ exec (.ucieInitTimeout m) s = .next s) ∧
    (reg s.eng x 1 = 1 →
      (storeGet (fun _ => 0) s.eng.modules m.val + 1000 * 3600 < s.eng.now →
        exec (.ucieModuleInitDone m) s = exec (.ucieInitTimeout m) s) ∧
      (s.eng.now ≤ storeGet (fun _ => 0) s.eng.modules m.val + 1000 * 3600 →
        ∃ t, exec (.ucieModuleInitDone m) s = .next t ∧ reg t.eng x 1 = 2 ∧
        (m.val < 4 → reg s.eng (0x3930 + 2 * p + (1 - m.val % 2)) 1 = 2 → reg s.eng (0x5001 + p) 1 = 0 →
          reg t.eng (0x5001 + p) 1 = (if reg s.eng 0x5000 2 = 1 then 2 else 1) ∧
          linkOf t.eng p = { linkOf s.eng p with readyAt := s.eng.now }) ∧
        (m.val < 4 → reg s.eng (0x3930 + 2 * p + (1 - m.val % 2)) 1 ≠ 2 → sameEntries [(x, 1)] s.eng t.eng) ∧
        sameEntries [(x, 1), (0x5001 + p, 1)] s.eng t.eng ∧
        t = { s with eng := { s.eng with regs := t.eng.regs, links := t.eng.links } }) ∧
      (∃ t, exec (.ucieInitTimeout m) s = .next t ∧ reg t.eng x 1 = 3 ∧
        t.eng.now = max s.eng.now (storeGet (fun _ => 0) s.eng.modules m.val + 1000 * 3600) ∧
        (m.val < 4 → reg t.eng (0x5001 + p) 1 = 3 ∧ phaseOf t.eng (72 + p) = .stuck ∧
          t.eng.raised = s.eng.raised ++ [(72 + p, 0)] ∧ t.eng.run = s.eng.run ∧
          sameEntries [(x, 1), (0x5001 + p, 1)] s.eng t.eng) ∧
        (m.val = 4 → ∀ k since cold power, s.eng.run = .release k since cold power →
          t.eng.run = .failed k ∧ reg t.eng 0x1200 2 = 2 ∧ reg t.eng 0x1200 3 = 0x1212 ∧
          t.eng.raised = s.eng.raised ++ [(84, 0x1212)])))

/-! ### Docks and weight compression (spec/08_docks.md, spec/07_weight_compression.md) -/

/-- A dock command of any operation that arrives while BT_READY is low has no effect and is counted nowhere: nothing
of the block changes (the clock, moved on to the cycle of its arrival, is the model's own: log entry 2). -/
def Obligations.DockCommandsInReset : Prop :=
  ∀ (s : Fin 48) (c : Nat) (w : BitVec 124) (op : Fin 8) (cmd : Instr) (st : State),
    cmd ∈ [.dockNop s c w, .arm s c w, .start s c w, .cancel s c w, .accept s c w, .post s c w, .wake s c w,
      .sleep s c w, .reservedDockCommand s c op w] → isReady st.eng = false →
    exec cmd st = .next { st with eng := { st.eng with now := max st.eng.now (st.eng.spBase.getD 0 + c) } }

/-- Which dock commands have an effect. While BT_READY is low, or the station is in reset, a command is discarded and
nothing but the clock changes. One presented during a hold or in the contained state is discarded, counted in
CMDS_HELD and raised (0x3F28: log entry 27); one less than eight cycles after the last is counted and raised with
0x3F20. One that is taken counts in CMDS_ACCEPTED; a malformed one, every reserved OP among them, ends BAD_ENTRY with
0x3F21 and does nothing more, and DOCK_NOP does nothing more. -/
def Obligations.DockCommandsTaken : Prop :=
  ∀ (s : Fin 48) (c : Nat) (w : BitVec 124) (op : Fin 8) (cmd : Instr) (x : Nat) (st : State),
    (cmd = .dockNop s c w ∧ x = dockWord 0 w) ∨ (cmd = .arm s c w ∧ x = dockWord 1 w) ∨
      (cmd = .start s c w ∧ x = dockWord 2 w) ∨ (cmd = .cancel s c w ∧ x = dockWord 3 w) ∨
      (cmd = .accept s c w ∧ x = dockWord 4 w) ∨ (cmd = .post s c w ∧ x = dockWord 5 w) ∨
      (cmd = .wake s c w ∧ x = dockWord 6 w) ∨ (cmd = .sleep s c w ∧ x = dockWord 7 w) ∨
      (cmd = .reservedDockCommand s c op w ∧ x = dockWord (8 + op.val) w) →
    let i := stIdx s.val
    let now := max st.eng.now (st.eng.spBase.getD 0 + c)
    let d := dockOf st.eng s.val
    let runs := isReady st.eng = true ∧ partUp st.eng s.val = true
    (¬runs → exec cmd st = .next { st with eng := { st.eng with now := now } }) ∧
    (runs → d.hold ≠ none ∨ d.contained = true →
      ∃ t, exec cmd st = .next t ∧ reg t.eng (i 0x30) 4 = (reg st.eng (i 0x30) 4 + 1) % 2 ^ 64 ∧ reg t.eng (i 5) 2 = x ∧
        sameEntries [(i 0x30, 4), (i 5, 2)] st.eng t.eng ∧
        t = { st with eng := { st.eng with now := now, regs := t.eng.regs, raised := st.eng.raised ++ [(s.val, 0x3F28)] } }) ∧
    (runs → d.hold = none → d.contained = false → (∃ l, d.lastCmd = some l ∧ c ≤ l + 7) →
      ∃ t, exec cmd st = .next t ∧ reg t.eng (i 0x30) 2 = (reg st.eng (i 0x30) 2 + 1) % 2 ^ 64 ∧ reg t.eng (i 5) 2 = x ∧
        sameEntries [(i 0x30, 2), (i 5, 2)] st.eng t.eng ∧
        t = { st with eng := { st.eng with now := now, regs := t.eng.regs, raised := st.eng.raised ++ [(s.val, 0x3F20)] } }) ∧
    (dockTakes st.eng s.val c → cmdWellFormed x = false →
      ∃ t, exec cmd st = .next t ∧ reg t.eng (i 0x30) 1 = (reg st.eng (i 0x30) 1 + 1) % 2 ^ 64 ∧
        reg t.eng (i 0x30) 3 = (reg st.eng (i 0x30) 3 + 1) % 2 ^ 64 ∧ reg t.eng (i 5) 2 = x ∧
        reg t.eng (i 5) 1 = Status.badEntry.code + 0x3F21 * 2 ^ 8 + x / 2 ^ 16 % 2 ^ 12 * 2 ^ 24 ∧
        sameEntries [(i 0x30, 1), (i 0x30, 3), (i 5, 1), (i 5, 2)] st.eng t.eng ∧
        dockOf t.eng s.val = { d with lastCmd := some c } ∧ otherDocks s.val st.eng t.eng ∧
        t = { st with eng := { st.eng with
          now := now, regs := t.eng.regs, docks := t.eng.docks, raised := st.eng.raised ++ [(s.val, 0x3F21)] } }) ∧
    (8 ≤ x % 16 → cmdWellFormed x = false) ∧
    (dockTakes st.eng s.val c → x = 0 →
      ∃ t, exec cmd st = .next t ∧ reg t.eng (i 0x30) 1 = (reg st.eng (i 0x30) 1 + 1) % 2 ^ 64 ∧
        sameEntries [(i 0x30, 1)] st.eng t.eng ∧ dockOf t.eng s.val = { d with lastCmd := some c } ∧
        otherDocks s.val st.eng t.eng ∧
        t = { st with eng := { st.eng with now := now, regs := t.eng.regs, docks := t.eng.docks } })

/-- ARM of a slot whose record carries the ID, with no stream armed there and its queue free: without a gate, or with
its gate satisfied, the stream is armed at once; else the dock holds. A hold whose predicted length lies above the
threshold lends the station's allocation; the gate's condition, first met at ARCLK m within the limit of R203, takes
it back and sets the release, which arms the stream at the first aligned frame boundary at least 128 ARCLK after m. A
hold whose condition was not met within the limit expires: its allocation is taken back and the stream is armed
expired, at such a boundary after the limit. A parked block discards the ARM with 0x6063. -/
def Obligations.StreamsArmAndHold : Prop :=
  ∀ (s : Fin 48) (c : Nat) (w : BitVec 124) (st : State),
    let i := stIdx s.val
    let x := dockWord 1 w
    let d := dockOf st.eng s.val
    let slot := cmdSlot x
    let r := recOf d slot
    let ctr := reg st.eng (i 3) (r.gateCtr + 1)
    (dockTakes st.eng s.val c → cmdWellFormed x = true → reg st.eng 0x6000 1 = 6 →
      ∃ t, exec (.arm s c w) st = .next t ∧ t.eng.raised = st.eng.raised ++ [(s.val, 0x6063)] ∧ reg t.eng (i 5) 2 = x ∧
        dockOf t.eng s.val = { d with lastCmd := some c } ∧ otherDocks s.val st.eng t.eng) ∧
    (dockTakes st.eng s.val c → cmdWellFormed x = true → reg st.eng 0x6000 1 ≠ 6 → namesRecord d x = true →
      streamOf d slot = none → queueFree st.eng s.val slot r = true →
      ∃ t, exec (.arm s c w) st = .next t ∧ reg t.eng (i 0x30) 1 = (reg st.eng (i 0x30) 1 + 1) % 2 ^ 64 ∧
        t.eng.raised = st.eng.raised ∧ otherDocks s.val st.eng t.eng ∧
        (r.gateEn = false ∨ gateMet ctr (x / 2 ^ 64 % 2 ^ 32) = true →
          dockOf t.eng s.val = { d with lastCmd := some c, streams := storeInsert slot { armedAt := c } (storeErase slot d.streams) } ∧
          t.eng.out = st.eng.out ∧ sameEntries [(i 0x30, 1)] st.eng t.eng) ∧
        (r.gateEn = true → gateMet ctr (x / 2 ^ 64 % 2 ^ 32) = false →
          let h : Hold := ⟨slot, r.gateCtr, x / 2 ^ 64 % 2 ^ 32, x / 2 ^ 28 % 16, c, none, none⟩
          (storeGet (fun _ => 0) d.holdLens r.gateCtr ≤ reg st.eng 0x5103 1 →
            dockOf t.eng s.val = { d with lastCmd := some c, hold := some h } ∧ t.eng.out = st.eng.out ∧
            sameEntries [(i 0x30, 1)] st.eng t.eng) ∧
          (reg st.eng 0x5103 1 < storeGet (fun _ => 0) d.holdLens r.gateCtr →
            dockOf t.eng s.val = { d with lastCmd := some c, hold := some h, lent := true } ∧
            t.eng.out = (sendPwr (lendWord 2 s.val) { st.eng with now := t.eng.now }).out ∧ reg t.eng 0x1101 2 = reg st.eng 0x1101 2 + 50 ∧
            sameEntries [(i 0x30, 1), (0x5120, 8), (0x1101, 2)] st.eng t.eng))) ∧
    (∀ h, d.hold = some h →
      let limit := h.since + 8192 * reg st.eng (i 4) 2
      ((∀ m, h.first = some m → limit < m) → exec (.gateConditionMet s) st = .next st) ∧
      (∀ m, h.met = none → h.first = some m → m ≤ limit →
        exec (.linkWaitExpiry s) st = .next st ∧
        ∃ t, exec (.gateConditionMet s) st = .next t ∧ otherDocks s.val st.eng t.eng ∧ t.eng.now = st.eng.now ∧
          dockOf t.eng s.val = { d with lent := false, hold := some { h with met := some m } } ∧
          (d.lent = true → t.eng.out = (sendPwr (lendWord 3 s.val) st.eng).out ∧
            reg t.eng 0x1101 2 = reg st.eng 0x1101 2 - 50 ∧ sameEntries [(0x1101, 2)] st.eng t.eng) ∧
          (d.lent = false → t.eng.out = st.eng.out ∧ t.eng.regs = st.eng.regs)) ∧
      (∀ m, h.met = some m →
        ∃ t at_, exec (.holdRelease s) st = .next t ∧ 2 ^ h.align * 8192 ∣ at_ ∧ m + 128 ≤ at_ ∧
          at_ < m + 128 + 2 ^ h.align * 8192 ∧ (dockOf t.eng s.val).hold = none ∧
          streamOf (dockOf t.eng s.val) h.slot = some { armedAt := at_ } ∧
          (∀ k, k ≠ h.slot → streamOf (dockOf t.eng s.val) k = streamOf d k) ∧ t.eng.regs = st.eng.regs ∧
          t.eng.now = max st.eng.now (st.eng.spBase.getD 0 + at_) ∧ otherDocks s.val st.eng t.eng) ∧
      ((∀ m, h.first = some m → limit < m) →
        ∃ t at_, exec (.linkWaitExpiry s) st = .next t ∧ 2 ^ h.align * 8192 ∣ at_ ∧
          limit + 128 ≤ at_ ∧ at_ < limit + 128 + 2 ^ h.align * 8192 ∧ (dockOf t.eng s.val).hold = none ∧
          (dockOf t.eng s.val).lent = false ∧ reg t.eng 0x1101 2 = reg st.eng 0x1101 2 - (if d.lent then 50 else 0) ∧
          t.eng.out = (if d.lent then (sendPwr (lendWord 3 s.val) st.eng).out else st.eng.out) ∧
          streamOf (dockOf t.eng s.val) h.slot = some { armedAt := at_, expired := true, poisoned := true } ∧
          reg t.eng (i 5) 1 = Status.waitExpired.code + 0x3F34 * 2 ^ 8 + (recOf d h.slot).id * 2 ^ 24 ∧
          reg t.eng (i 0x30) 12 = (reg st.eng (i 0x30) 12 + 1) % 2 ^ 64 ∧
          sameEntries [(i 5, 1), (i 0x30, 12), (0x1101, 2)] st.eng t.eng ∧
          t.eng.raised = st.eng.raised ++ [(s.val, 0x3F34)] ∧ otherDocks s.val st.eng t.eng))

/-- START of an armed operand stream and ACCEPT of an armed result stream start it at the command's cycle, with the
profile and the tally entries as they stand; where the profile's formats do not fit, or the unit group is closed, it
starts poisoned and the event is recorded. A slot with no armed stream of that kind ends DENIED with 0x3F24, and a
stream that another one still delivering or open would meet with 0x3F25. CANCEL empties the stream's queue and records
CANCELLED; 1792 ARCLK later the slot is free again. -/
def Obligations.StreamsStartAndCancel : Prop :=
  ∀ (s : Fin 48) (c : Nat) (w : BitVec 124) (st : State),
    let i := stIdx s.val
    let d := dockOf st.eng s.val
    (∀ (cmd : Instr) (x kind : Nat),
      (cmd = .start s c w ∧ x = dockWord 2 w ∧ kind = 1) ∨ (cmd = .accept s c w ∧ x = dockWord 4 w ∧ kind = 2) →
      dockTakes st.eng s.val c → cmdWellFormed x = true → namesRecord d x = true →
      let slot := cmdSlot x
      let r := recOf d slot
      let profile := reg st.eng (i (0x18 + cmdProfile x)) 1
      let fits := streamRules (streamTmd r profile).ops (streamTmd r profile).src (streamTmd r profile).dst
      let group := (if kind = 1 then d.operandGate else d.resultGate).isOpen
      let clash := if kind = 1 then deliversAfter d slot (c + startLatency r.decode (emptyChain profile)) else resultOpen d slot
      (streamOf d slot = none →
        ∃ t, exec cmd st = .next t ∧ t.eng.raised = st.eng.raised ++ [(s.val, 0x3F24)] ∧ reg t.eng (i 5) 2 = x ∧
          dockOf t.eng s.val = { d with lastCmd := some c } ∧ otherDocks s.val st.eng t.eng) ∧
      (∀ y det, streamOf d slot = some y →
        ((r.kind ≠ kind ∨ y.started.isSome = true ∨ y.cancelAt.isSome = true) ∧ det = 0x3F24 ∨
          r.kind = kind ∧ y.started = none ∧ y.cancelAt = none ∧ clash = true ∧ det = 0x3F25) →
        ∃ t, exec cmd st = .next t ∧ t.eng.raised = st.eng.raised ++ [(s.val, det)] ∧ reg t.eng (i 5) 2 = x ∧
          reg t.eng (i 5) 1 = Status.denied.code + det * 2 ^ 8 + x / 2 ^ 16 % 2 ^ 12 * 2 ^ 24 ∧
          dockOf t.eng s.val = { d with lastCmd := some c } ∧ otherDocks s.val st.eng t.eng) ∧
      (∀ y, streamOf d slot = some y → r.kind = kind → y.started = none → y.cancelAt = none → clash = false →
        ∃ t z, exec cmd st = .next t ∧ streamOf (dockOf t.eng s.val) slot = some z ∧
          z = { y with started := some c, profile := profile, rows := reg st.eng (i 0x11) 1, cols := reg st.eng (i 0x11) 2,
                       sel := reg st.eng (i 0x11) 3, poisoned := y.poisoned || !(fits && group) } ∧
          (∀ k, k ≠ slot → streamOf (dockOf t.eng s.val) k = streamOf d k) ∧ otherDocks s.val st.eng t.eng ∧
          reg t.eng (i 0x30) 1 = (reg st.eng (i 0x30) 1 + 1) % 2 ^ 64 ∧
          reg t.eng (i 0x30) 5 = (reg st.eng (i 0x30) 5 + 1) % 2 ^ 64 ∧ t.eng.out = st.eng.out ∧
          (fits = true → group = true → t.eng.raised = st.eng.raised ∧
            sameEntries [(i 0x30, 1), (i 0x30, 5)] st.eng t.eng) ∧
          (fits = false → t.eng.raised = st.eng.raised ++ [(s.val, 0x3F26)] ∧
            reg t.eng (i 5) 1 = Status.badView.code + 0x3F26 * 2 ^ 8 + x / 2 ^ 16 % 2 ^ 12 * 2 ^ 24) ∧
          (fits = true → group = false → t.eng.raised = st.eng.raised ++ [(s.val, 0x3F27)] ∧
            reg t.eng (i 5) 1 = Status.denied.code + 0x3F27 * 2 ^ 8 + x / 2 ^ 16 % 2 ^ 12 * 2 ^ 24))) ∧
    (let x := dockWord 3 w
     dockTakes st.eng s.val c → cmdWellFormed x = true → namesRecord d x = true →
      ∀ y, streamOf d (cmdSlot x) = some y → y.cancelAt = none →
      ∃ t, exec (.cancel s c w) st = .next t ∧
        streamOf (dockOf t.eng s.val) (cmdSlot x) =
          some { y with cancelAt := some c, checks := [], landed := [], staged := [], places := [], tile := [] } ∧
        (∀ k, k ≠ cmdSlot x → streamOf (dockOf t.eng s.val) k = streamOf d k) ∧ otherDocks s.val st.eng t.eng ∧
        reg t.eng (i 5) 1 = Status.cancelled.code + 0x3F35 * 2 ^ 8 + x / 2 ^ 16 % 2 ^ 12 * 2 ^ 24 ∧
        t.eng.raised = st.eng.raised ∧ t.eng.out = st.eng.out ∧
        (y.checks = [] → reg t.eng (i 0x30) 6 = (reg st.eng (i 0x30) 6 + 1) % 2 ^ 64 ∧
          sameEntries [(i 0x30, 1), (i 0x30, 6), (i 5, 1)] st.eng t.eng)) ∧
    (∀ (slot : Fin 128) y c', streamOf d slot.val = some y → y.cancelAt = some c' →
      ∃ t, exec (.cancelDrainEnd s slot) st = .next t ∧ streamOf (dockOf t.eng s.val) slot.val = none ∧
        (∀ k, k ≠ slot.val → streamOf (dockOf t.eng s.val) k = streamOf d k) ∧
        t = { st with eng := { st.eng with
          now := max st.eng.now (st.eng.spBase.getD 0 + (c' + 1792)), docks := t.eng.docks } })

/-- POST and LINK_POST send an amount to a link counter, which arrives 32 ARCLK after its event, and 48 more for each
stitch line between the stations' fields; the posts that fall due next at a counter are all added modulo 2^32, and a
hold notes when they first meet its gate. WAKE opens a closed unit group 180 ARCLK later, and SLEEP closes an open one
once nothing uses it; each joins the running sum of gate changes, and a sum beyond 20 A in 2 AONCLK outside every
announced ramp is counted and raised. -/
def Obligations.PostsAndUnitGroups : Prop :=
  ∀ (s : Fin 48) (c : Nat) (w : BitVec 124) (st : State),
    let i := stIdx s.val
    let d := dockOf st.eng s.val
    let now := max st.eng.now (st.eng.spBase.getD 0 + c)
    (let x := dockWord 5 w
     let q := x / 2 ^ 32 % 64
     let h := (if q / 12 ≤ s.val / 12 then s.val / 12 - q / 12 else q / 12 - s.val / 12)
     dockTakes st.eng s.val c → cmdWellFormed x = true →
      ∃ t, exec (.post s c w) st = .next t ∧
        (dockOf t.eng q).posts = (dockOf st.eng q).posts ++ [⟨x / 2 ^ 38 % 32, x / 2 ^ 64 % 2 ^ 32, c + 32 + 48 * h⟩] ∧
        (∀ k, k ≠ q → (dockOf t.eng k).posts = (dockOf st.eng k).posts) ∧
        sameEntries [(i 0x30, 1)] st.eng t.eng ∧
        t = { st with eng := { st.eng with now := now, regs := t.eng.regs, docks := t.eng.docks } }) ∧
    (∀ (p : Port) (ctr : Fin 32) (amount : Word32), letThrough p (i 4) 1 st →
      ∃ t, exec (.linkPost p s ctr amount) st = .next t ∧
        dockOf t.eng s.val = { d with posts := d.posts ++ [⟨ctr.val, amount.toNat, timeline st.eng + 32⟩] } ∧
        otherDocks s.val st.eng t.eng ∧
        t = { st with eng := { st.eng with docks := t.eng.docks, out := .access p (i 4) 1 0 :: st.eng.out } }) ∧
    (∀ ctr : Fin 32,
      ((∀ q ∈ d.posts, q.ctr ≠ ctr.val) → exec (.linkPostApply s ctr) st = .next st) ∧
      (∀ p ∈ d.posts, p.ctr = ctr.val → (∀ q ∈ d.posts, q.ctr = ctr.val → p.due ≤ q.due) →
        let due (q : Post) : Bool := q.ctr == ctr.val && q.due == p.due
        let v := (reg st.eng (i 3) (ctr.val + 1) + ((d.posts.filter due).map (·.amount)).sum) % 2 ^ 32
        ∃ t, exec (.linkPostApply s ctr) st = .next t ∧
          reg t.eng (i 3) (ctr.val + 1) = v ∧ sameEntries [(i 3, ctr.val + 1)] st.eng t.eng ∧
          (dockOf t.eng s.val).posts = (d.posts.filter fun q => !due q) ∧
          (d.hold = none → dockOf t.eng s.val = { d with posts := d.posts.filter fun q => !due q }) ∧
          (∀ h, d.hold = some h → dockOf t.eng s.val = { d with
            posts := d.posts.filter fun q => !due q
            hold := some (if h.ctr = ctr.val ∧ h.first = none ∧ gateMet v h.count = true then { h with first := some p.due }
              else h) }) ∧ otherDocks s.val st.eng t.eng ∧
          t = { st with eng := { st.eng with
            now := max st.eng.now (st.eng.spBase.getD 0 + p.due), regs := t.eng.regs, docks := t.eng.docks } })) ∧
    (∀ (cmd : Instr) (x : Nat) (f : Gate → Gate),
      (cmd = .wake s c w ∧ x = dockWord 6 w ∧ f .closed = .opening (c + 180) ∧ f .closing = .opened ∧ f .opened = .opened ∧
          (∀ a, f (.opening a) = .opening a)) ∨
        (cmd = .sleep s c w ∧ x = dockWord 7 w ∧ f .opened = .closing ∧ f .closed = .closed ∧ f .closing = .closing ∧
          (∀ a, f (.opening a) = .closed)) →
      dockTakes st.eng s.val c → cmdWellFormed x = true →
      ∃ t, exec cmd st = .next t ∧
        dockOf t.eng s.val = { d with
          lastCmd := some c, operandGate := if x.testBit 46 then f d.operandGate else d.operandGate,
          resultGate := if x.testBit 47 then f d.resultGate else d.resultGate } ∧ otherDocks s.val st.eng t.eng ∧
        sameEntries [(i 0x30, 1)] st.eng t.eng ∧
        t = { st with eng := { st.eng with now := now, regs := t.eng.regs, docks := t.eng.docks } }) ∧
    (∀ result : Bool,
      let g := if result then d.resultGate else d.operandGate
      let set (d : Dock) (v : Gate) : Dock := if result then { d with resultGate := v } else { d with operandGate := v }
      let stepped (now : Nat) (ma : Int) (t : State) : Prop :=
        let gates : List (Nat × Int) := (now, ma) :: st.eng.power.gates.filter fun g => decide (now < g.1 + 7200)
        let steep := 20000 < (gates.foldl (fun (a : Int) (g : Nat × Int) => a + g.2) 0).natAbs ∧
          ∀ r ∈ st.eng.power.ramps, ¬(r.1 ≤ now ∧ now < r.2)
        (steep → reg t.eng 0x1103 2 = (reg st.eng 0x1103 2 + 1) % 2 ^ 64 ∧ sameEntries [(0x1103, 2)] st.eng t.eng ∧
          t.eng.raised = st.eng.raised ++ [(85, 0x1122)]) ∧
        (¬steep → t.eng.regs = st.eng.regs ∧ t.eng.raised = st.eng.raised) ∧
        t = { st with eng := { st.eng with
          now := now, docks := t.eng.docks, regs := t.eng.regs, raised := t.eng.raised
          power := { st.eng.power with gates } } }
      (∀ a, g = .opening a → ∃ t, exec (.unitGroupOpen s result) st = .next t ∧
        dockOf t.eng s.val = set d .opened ∧ otherDocks s.val st.eng t.eng ∧
        stepped (max st.eng.now (st.eng.spBase.getD 0 + a)) (if result then 1330 else 4000) t) ∧
      (g = .closing → groupInUse d result = true → exec (.unitGroupClose s result) st = .next st) ∧
      (g = .closing → groupInUse d result = false → ∃ t, exec (.unitGroupClose s result) st = .next t ∧
        dockOf t.eng s.val = set d .closed ∧ otherDocks s.val st.eng t.eng ∧
        stepped st.eng.now (if result then -1330 else -4000) t))

/-- A result beat is taken by the open result stream, whose last one ends it where it is poisoned or has failed; with
none open a beat is lost, counted in RES_DROPPED and raised; a station in reset sees none. An operand interval
delivers a data beat at its last ARCLK, zero with every word poisoned for a poisoned stream, and zero and poisoned in
the words that rest on missing bytes; the stream is then done, and gone where no tally sums are to come. The next two
queued tally sums leave together, one beat an ARCLK; a done stream is gone with its last ones. A block of a started
DECODE stream enters the expander in its turn. A sector that lands is written at its time: an operand stream's into
its queue's ring in the Pool, a full queue refuses it, and one for a stream that drains is discarded. -/
def Obligations.StreamsMove : Prop :=
  ∀ (s : Fin 48) (st : State),
    let i := stIdx s.val
    let d := dockOf st.eng s.val
    let base := st.eng.spBase.getD 0
    (∀ (c : Nat) (data : BitVec 2048),
      (¬(isReady st.eng = true ∧ partUp st.eng s.val = true) → exec (.resultBeat s c data) st = .next st) ∧
      (isReady st.eng = true → partUp st.eng s.val = true → openResult d c = none →
        ∃ t, exec (.resultBeat s c data) st = .next t ∧
          reg t.eng (i 0x30) 9 = (reg st.eng (i 0x30) 9 + 1) % 2 ^ 64 ∧ sameEntries [(i 0x30, 9)] st.eng t.eng ∧
          t = { st with eng := { st.eng with
            now := max st.eng.now (base + c), regs := t.eng.regs, raised := st.eng.raised ++ [(s.val, 0)] } }) ∧
      (isReady st.eng = true → partUp st.eng s.val = true → ∀ slot x, openResult d c = some (slot, x) →
        streamOf d slot = some x → (x.poisoned = true ∨ x.failed = true) → x.beat + 1 = resultBeats (recOf d slot) →
        ∃ t, exec (.resultBeat s c data) st = .next t ∧ streamOf (dockOf t.eng s.val) slot = none ∧
          otherDocks s.val st.eng t.eng ∧ sameMemory st.eng t.eng ∧ t.eng.raised = st.eng.raised) ∧
      (isReady st.eng = true → partUp st.eng s.val = true → ∀ slot x, openResult d c = some (slot, x) →
        streamOf d slot = some x → x.beat + 1 < resultBeats (recOf d slot) →
        ∃ t y, exec (.resultBeat s c data) st = .next t ∧ streamOf (dockOf t.eng s.val) slot = some y ∧
          y.beat = x.beat + 1 ∧ otherDocks s.val st.eng t.eng ∧
          y.taken = x.taken ++ (List.range (beatBytes (recOf d slot).portFmt true)).map (fun k => data.toNat / 2 ^ (8 * k) % 256) ∧
          (x.poisoned = true ∨ x.failed = true → t.eng.regs = st.eng.regs ∧ sameMemory st.eng t.eng))) ∧
    (∀ (slot : Fin 128) (x : Stream) (c : Nat), streamOf d slot.val = some x →
      let r := recOf d slot.val
      let b := x.beat
      let at_ := c + startLatency r.decode (emptyChain x.profile) + interval r * (b + 1) - 1
      let n := beatBytes r.portFmt false
      let e' := advanceCycle at_ st.eng
      let byte (a : Int) : Nat × Bool × Bool := operandByte e' s.val r x (beatUses r b) a
      r.kind = 1 → x.started = some c → x.cancelAt = none → x.done = false → b < r.beats →
      (r.decode = true → x.poisoned = true ∨ (beatRange r b).2 * r.view.fmt.width / 8 ≤ 4096 * x.nextBlock) →
      ∃ t out, exec (.operandInterval s slot) st = .next t ∧ t.eng.now = max st.eng.now (base + at_) ∧
        t.eng.out = out ++ st.eng.out ∧
        out.head? = some (if x.poisoned then .opd s.val at_ 0 (2 ^ 128 - 1)
          else
            let v := assemble (sumWork (beatWork e' s.val r x b fun a => ((byte a).1, (byte a).2.1))).atoms
              ((n * b : Nat) : Int) n
            let gone := (assemble (sumWork (beatWork e' s.val r x b fun a => ((byte a).1, (byte a).2.2))).atoms
              ((n * b : Nat) : Int) n).2
            .opd s.val at_ (clearWords 128 v.1 gone) (v.2 ||| gone)) ∧
        (b + 1 < r.beats → ∃ y, streamOf (dockOf t.eng s.val) slot.val = some y ∧ y.beat = b + 1 ∧ y.done = false) ∧
        (b + 1 = r.beats → ∀ y, streamOf (dockOf t.eng s.val) slot.val = some y → y.done = true) ∧
        (b + 1 = r.beats → x.sel = 0 → (∀ q ∈ d.tally, q.slot ≠ slot.val) →
          streamOf (dockOf t.eng s.val) slot.val = none) ∧
        (r.pass = false → sameMemory st.eng t.eng)) ∧
    (d.tally = [] → exec (.tallyLaneBeat s) st = .next st) ∧
    (∀ y rest a more, d.tally = y :: rest → y.sums = a :: more →
      let at_ := max y.at_ d.tallyFree
      let left := more.drop 1
      ∃ t, exec (.tallyLaneBeat s) st = .next t ∧ t.eng.now = max st.eng.now (base + at_) ∧
        otherDocks s.val st.eng t.eng ∧ sameMemory st.eng t.eng ∧
        t.eng.out = .opt s.val at_
          (unsigned 32 a.value + (match more with | b :: _ => unsigned 32 b.value | [] => 0) * 2 ^ 32)
          (if a.overrun then 3
           else (if a.pois then 1 else 0) + match more with | b :: _ => (if b.pois then 2 else 0) | [] => 0) :: st.eng.out ∧
        (left ≠ [] →
          dockOf t.eng s.val = { d with tallyFree := at_ + 1, tally := { y with sums := left } :: rest } ∧
          t = { st with eng := { st.eng with now := t.eng.now, docks := t.eng.docks, out := t.eng.out } }) ∧
        (left = [] → (dockOf t.eng s.val).tally = rest ∧ (dockOf t.eng s.val).tallyFree = at_ + 1 ∧
          (∀ k, k ≠ y.slot → streamOf (dockOf t.eng s.val) k = streamOf d k) ∧
          ∀ x, streamOf d y.slot = some x → x.done = true → x.cancelAt = none → (recOf d y.slot).kind = 1 →
            (∀ q ∈ rest, q.slot ≠ y.slot) → streamOf (dockOf t.eng s.val) y.slot = none)) ∧
    (∀ (slot : Fin 128) (x : Stream) (c : Nat), streamOf d slot.val = some x →
      let r := recOf d slot.val
      let k := x.nextBlock
      r.decode = true → r.kind = 1 → x.started = some c → x.cancelAt = none → x.poisoned = false → k < r.view.blocks →
      ∃ t y blk, exec (.expanderBlockInput s slot) st = .next t ∧ streamOf (dockOf t.eng s.val) slot.val = some y ∧
        y.nextBlock = k + 1 ∧ y.decoded = x.decoded ++ [blk] ∧ blk.block = k ∧
        t.eng.now = max st.eng.now (base + (c + 16 + 8 * interval r * k)) ∧ t.eng.out = st.eng.out ∧
        otherDocks s.val st.eng t.eng ∧ (r.pass = false → sameMemory st.eng t.eng)) ∧
    (d.arriving = [] → exec (.staticSectorLand s) st = .next st) ∧
    (∀ (f : InFlight) rest (x : Stream), firstArriving d.arriving = some (f, rest) → streamOf d f.slot = some x →
      partUp st.eng s.val = true →
      let r := recOf d f.slot
      let now := max st.eng.now (base + 2 * f.land)
      let left := { d with arriving := rest }
      (x.cancelAt ≠ none → ∃ t, exec (.staticSectorLand s) st = .next t ∧ dockOf t.eng s.val = left ∧
        t = { st with eng := { st.eng with now := now, docks := t.eng.docks } }) ∧
      (x.cancelAt = none → r.kind ≠ 3 → f.sector.part ≠ 2 →
        (queueFull st.eng s.val r x = false → ∃ t, exec (.staticSectorLand s) st = .next t ∧
          dockOf t.eng s.val = setStream f.slot { x with
            landed := x.landed ++ [{ f.sector with data := 0, pois := 0, pos := x.landCount }]
            landCount := x.landCount + 1 } left ∧
          otherDocks s.val st.eng t.eng ∧
          (let q := queueAddr st.eng s.val r x.landCount
           (∀ k, k < 32 → memByte t.eng (q + k) = BitVec.ofNat 8 (f.sector.data / 2 ^ (8 * k) % 256)) ∧
           ∀ a, ¬(q ≤ a ∧ a < q + 32) → memByte t.eng a = memByte st.eng a) ∧
          t = { st with eng := { st.eng with
            now := now, docks := t.eng.docks, mem := t.eng.mem, poolPois := t.eng.poolPois } }) ∧
        (queueFull st.eng s.val r x = true → ∃ t, exec (.staticSectorLand s) st = .next t ∧
          dockOf t.eng s.val = left ∧ t.eng.raised = st.eng.raised ++ [(s.val, 0x3F31)] ∧
          reg t.eng (i 0x30) 7 = (reg st.eng (i 0x30) 7 + 1) % 2 ^ 64 ∧
          reg t.eng (i 5) 1 = Status.exhausted.code + 0x3F31 * 2 ^ 8 + r.id * 2 ^ 24 ∧
          sameEntries [(i 0x30, 7), (i 5, 1)] st.eng t.eng)))

/-- STREAM_COMMIT of a staging record that passes the checks of its table, for a slot with no stream, makes it the
slot's committed record; one that fails them keeps the committed record, ends BAD_VALUE and leaves the check's detail.
STREAM_CLEAR empties the slot. Both are denied while a stream is armed there. SLOT_LOAD of a sound table makes an
empty table slot LIVE with its tag, any other table ends BAD_VALUE, and SLOT_FENCE retires a LIVE slot without
references, leaving its tag as the last one. The first waiting block of a dynamic job enters the expander where no
static block is due and no block entered within 8 ARCLK; else it waits, which each window of 8 ARCLK counts once. -/
def Obligations.RecordsAndTableSlots : Prop :=
  ∀ (p : Port) (s : Fin 48) (st : State),
    let i := stIdx s.val
    let d := dockOf st.eng s.val
    (∀ slot : Fin 128, letThrough p (i 1) 2 st →
      let x := domNat st.eng (i 1) 1 (128 * slot.val) 128
      let bad := firstDetail (recordChecks st.eng s.val slot.val (parseStream x) (parseStream x).kind)
      ((streamOf d slot.val).isSome = true →
        ∃ t, (exec (.streamCommit p s slot) st = .next t ∧ exec (.streamClear p s slot) st = .next t) ∧ onlyEntries st t ∧
          t.eng.out = .access p (i 1) 2 7 :: st.eng.out ∧
          sameEntries [(0x1010, 1), (0x1010, 2), (0x1010, 3), (0x1010, 4), (0x1010, 5)] st.eng t.eng) ∧
      (streamOf d slot.val = none →
        (∀ n, bad = some n → ∃ t, exec (.streamCommit p s slot) st = .next t ∧ reg t.eng (i 1) 3 = n ∧ onlyEntries st t ∧
          t.eng.out = .access p (i 1) 2 3 :: st.eng.out ∧
          sameEntries [(i 1, 3), (0x1010, 1), (0x1010, 2), (0x1010, 3), (0x1010, 4), (0x1010, 5)] st.eng t.eng) ∧
        (bad = none → ∃ t, exec (.streamCommit p s slot) st = .next t ∧ reg t.eng (i 1) 3 = 0 ∧
          recordOf (dockOf t.eng s.val) slot.val = x ∧
          (∀ k, k ≠ slot.val → recordOf (dockOf t.eng s.val) k = recordOf d k) ∧
          otherDocks s.val st.eng t.eng ∧ sameEntries [(i 1, 3)] st.eng t.eng ∧
          t = { st with eng := { st.eng with regs := t.eng.regs, docks := t.eng.docks, heap := t.eng.heap,
                                             out := .access p (i 1) 2 0 :: st.eng.out } }) ∧
        (∃ t, exec (.streamClear p s slot) st = .next t ∧ recordOf (dockOf t.eng s.val) slot.val = 0 ∧
          (∀ k, k ≠ slot.val → recordOf (dockOf t.eng s.val) k = recordOf d k) ∧ otherDocks s.val st.eng t.eng ∧
          t = { st with eng := { st.eng with docks := t.eng.docks, heap := t.eng.heap,
                                             out := .access p (i 1) 2 0 :: st.eng.out } }))) ∧
    (∀ k : Fin 8, letThrough p (i (0x20 + k.val)) 3 st →
      let j := i (0x20 + k.val)
      (reg st.eng j 2 = 0 → tableLoadOk st.eng s.val k.val = true →
        ∃ t, exec (.slotLoad p s k) st = .next t ∧ reg t.eng j 2 = 1 ∧
          reg t.eng j 4 = (parseTable (slotTable st.eng s.val k.val)).tag ∧
          reg t.eng j 7 = (if (parseTable (slotTable st.eng s.val k.val)).wide then 1 else 0) ∧ reg t.eng j 1 = 144 ∧
          sameEntries [(j, 1), (j, 2), (j, 4), (j, 7)] st.eng t.eng ∧ onlyEntries st t ∧
          t.eng.out = .access p j 3 0 :: st.eng.out) ∧
      (reg st.eng j 2 = 0 → tableLoadOk st.eng s.val k.val = false →
        ∃ t, exec (.slotLoad p s k) st = .next t ∧ onlyEntries st t ∧ t.eng.out = .access p j 3 3 :: st.eng.out ∧
          sameEntries [(0x1010, 1), (0x1010, 2), (0x1010, 3), (0x1010, 4), (0x1010, 5)] st.eng t.eng) ∧
      (reg st.eng j 2 ≠ 0 → ∃ t, exec (.slotLoad p s k) st = .next t ∧ onlyEntries st t ∧
          t.eng.out = .access p j 3 7 :: st.eng.out ∧
          sameEntries [(0x1010, 1), (0x1010, 2), (0x1010, 3), (0x1010, 4), (0x1010, 5)] st.eng t.eng) ∧
      (reg st.eng j 2 = 1 →
        ∃ t, exec (.slotFence p s k) st = .next t ∧ onlyEntries st t ∧ t.eng.out = .access p j 3 0 :: st.eng.out ∧
          (reg st.eng j 6 = 0 → reg t.eng j 2 = 0 ∧ reg t.eng j 5 = reg st.eng j 4 ∧ reg t.eng j 4 = 0 ∧
            reg t.eng j 7 = 0 ∧ sameEntries [(j, 1), (j, 2), (j, 4), (j, 5), (j, 7)] st.eng t.eng) ∧
          (reg st.eng j 6 ≠ 0 → reg t.eng j 2 = 2 ∧ sameEntries [(j, 2)] st.eng t.eng))) ∧
    (∀ c : Nat, d.decodeWaits = [] → exec (.dynamicBlockAdmit s c) st = .next st) ∧
    (∀ (c j : Nat) rest, d.decodeWaits = j :: rest →
      let now := max st.eng.now (st.eng.spBase.getD 0 + c)
      let waits := staticDue st.eng s.val c = true ∨ ∃ a ∈ d.admits, c < a + 8 ∧ a < c + 8
      (waits → d.waitWindow = some (c / 8) →
        exec (.dynamicBlockAdmit s c) st = .next { st with eng := { st.eng with now := now } }) ∧
      (waits → d.waitWindow ≠ some (c / 8) → ∃ t, exec (.dynamicBlockAdmit s c) st = .next t ∧
        reg t.eng (i 0x28) 6 = (reg st.eng (i 0x28) 6 + 1) % 2 ^ 64 ∧ sameEntries [(i 0x28, 6)] st.eng t.eng ∧
        dockOf t.eng s.val = { d with waitWindow := some (c / 8) } ∧ otherDocks s.val st.eng t.eng ∧
        t = { st with eng := { st.eng with now := now, regs := t.eng.regs, docks := t.eng.docks } }) ∧
      (¬waits → jobOf st.eng j = none →
        ∃ t, exec (.dynamicBlockAdmit s c) st = .next t ∧
          dockOf t.eng s.val = { d with decodeWaits := rest, admits := c :: d.admits.filter fun a => decide (c < a + 8) } ∧
          otherDocks s.val st.eng t.eng ∧ t.eng.regs = st.eng.regs) ∧
      (¬waits → ∀ x h, jobOf st.eng j = some x → x.id = j →
        x.station = some s.val → x.op = 9 → x.refs = [(h, .stored)] →
        ∃ t, exec (.dynamicBlockAdmit s c) st = .next t ∧
          reg t.eng (i 0x28) 2 = (reg st.eng (i 0x28) 2 + 1) % 2 ^ 64 ∧ otherDocks s.val st.eng t.eng ∧
          ((dockOf t.eng s.val).decodeWaits = rest ∨ (dockOf t.eng s.val).decodeWaits = rest ++ [j]) ∧
          (dockOf t.eng s.val).admits = c :: d.admits.filter (fun a => decide (c < a + 8)) ∧
          t.port = st.port ∧ t.pending = st.pending))

/-! ### Cards and the Deck (spec/09_deck.md, spec/10_stack_agents.md) -/

/-- The lists of a slot's static cards are made and sent once, 128 SPCLK before the slot; one that arrives, 48 SPCLK
later, is ruled by the card rule, and its breaks drop sectors, count, and raise the first one's detail; an agent that
is not up drops it. A static read card makes bursts of the sectors left on its list, each with its read point, hand-
over and lane; a static write card writes, of what left the Pools for its list, the bytes that its stream gives, and
no other byte of memory. An uncorrectable Hand entry, of a configuration in force, reads and writes nothing, counts,
and raises source 82. -/
def Obligations.StaticCards : Prop :=
  ∀ (n : Fin 24) (abs : Nat) (g : Fin 4) (s : State),
    let a := agentOf s.eng n.val
    (s.eng.spBase = none ∨ (a.lists.any fun l => l.abs == abs) = true → exec (.sectorListSend n abs) s = .next s) ∧
    (∀ base, s.eng.spBase = some base → (a.lists.any fun l => l.abs == abs) = false →
      ∃ t ls, exec (.sectorListSend n abs) s = .next t ∧ (agentOf t.eng n.val).lists = a.lists ++ ls ∧
        (∀ l ∈ ls, l.abs = abs ∧ isStatic (cardAt s.eng n.val abs l.group) = true ∧
          (l.write = true ↔ entryKind (cardAt s.eng n.val abs l.group) = 2)) ∧
        ls.length = ((List.range 4).filter fun g => isStatic (cardAt s.eng n.val abs g)).length ∧
        t = { s with eng := { s.eng with
          now := max s.eng.now (base + 2 * (8 * abs - 128)), regs := t.eng.regs, docks := t.eng.docks,
          agents := t.eng.agents, raised := t.eng.raised } }) ∧
    (∀ l, (a.lists.find? fun l => l.abs == abs && l.group == g.val) = some l → partUp s.eng (48 + n.val) = false →
      ∃ t, exec (.sectorListArrive n abs g) s = .next t ∧
        agentOf t.eng n.val = { a with lists := a.lists.filter fun x => !(x.abs == abs && x.group == g.val) } ∧
        t = { s with eng := { s.eng with agents := t.eng.agents } }) ∧
    (∀ l, (a.lists.find? fun l => l.abs == abs && l.group == g.val) = some l → partUp s.eng (48 + n.val) = true →
      let z := ruleList s.eng n.val abs g.val (a.acts.filter (·.fixed)) l.sectors []
      ∃ t, exec (.sectorListArrive n abs g) s = .next t ∧
        (agentOf t.eng n.val).kept = a.kept ++ [{ l with sectors := z.1 }] ∧
        (agentOf t.eng n.val).lists = a.lists.filter (fun x => !(x.abs == abs && x.group == g.val)) ∧
        (z.2 = [] → t.eng.regs = s.eng.regs ∧ t.eng.raised = s.eng.raised) ∧
        (∀ d x rest, z.2 = (d, x) :: rest → t.eng.raised = s.eng.raised ++ [(48 + n.val, d)] ∧
          reg t.eng (agIdx n.val 8) 20 = (reg s.eng (agIdx n.val 8) 20 + z.2.length) % 2 ^ 64 ∧
          reg t.eng (agIdx n.val 9) 1 = cardBreakWord abs g.val d x ∧
          sameEntries [(agIdx n.val 8, 20), (agIdx n.val 9, 1)] s.eng t.eng) ∧
        t = { s with eng := { s.eng with
          now := max s.eng.now (s.eng.spBase.getD 0 + 2 * (8 * abs - 80)), regs := t.eng.regs, agents := t.eng.agents,
          raised := t.eng.raised } }) ∧
    (∀ (l : CardList) (ecc : EccResult) (c : Instr) (wr : Bool),
      (c = .staticReadCard n abs g ecc ∧ wr = false) ∨ (c = .staticWriteCard n abs g ecc ∧ wr = true) →
      (a.kept.find? fun l => l.abs == abs && l.group == g.val && l.write == wr) = some l →
      let blank := blankAt s.eng n.val (abs / 512)
      let moved := moving (readHandEntry n.val abs g.val ecc s.eng) n.val abs g.val l
      let xs := if wr = true then moved.filter fun x => x.drawn.isSome && stillWrites s.eng abs x else moved
      ∃ t, exec c s = .next t ∧
        t.eng.now = max s.eng.now (s.eng.spBase.getD 0 + 16 * abs) ∧
        (agentOf t.eng n.val).kept = a.kept.filter (fun l => !(l.abs == abs && l.group == g.val && l.write == wr)) ∧
        (wr = false → sameMemory s.eng t.eng ∧ t.eng.docks = s.eng.docks ∧
          (agentOf t.eng n.val).bursts.map (fun b => (b.off, b.readAt, b.hand, b.lane)) =
            a.bursts.map (fun b => (b.off, b.readAt, b.hand, b.lane)) ++ xs.map (fun x =>
              (x.off, 8 * abs + 200, 8 * abs + 448 + x.j / 16, 16 * g.val + x.j % 16)) ∧
          t.eng.out = (if xs = [] then [] else [.xdn n.val abs g.val (activates abs g.val (xs.map (·.off)) ++
            xs.map fun x => .read x.off)]) ++ s.eng.out) ∧
        (wr = true → t.eng.fwRam = s.eng.fwRam ∧ t.eng.poolPois = s.eng.poolPois ∧
          (∀ x ∈ xs, (xs.filter fun y => y.off / 32 == x.off / 32) = [x] → ∀ k, k < 32 →
            memByte t.eng (n.val * 0x1000000000 + x.off / 32 * 32 + k) = if bit (listedWrite s.eng n.val x).2.1 k
              then BitVec.ofNat 8 (bits (listedWrite s.eng n.val x).1 (8 * k) 8)
              else memByte s.eng (n.val * 0x1000000000 + x.off / 32 * 32 + k)) ∧
          ∀ b, (∀ x ∈ xs, b < n.val * 0x1000000000 + x.off / 32 * 32 ∨
            n.val * 0x1000000000 + x.off / 32 * 32 + 32 ≤ b) → memByte t.eng b = memByte s.eng b) ∧
        (ecc = .uncorrectable → blank = false → xs = [] ∧ (82, 0) ∈ t.eng.raised ∧
          reg t.eng 0x3818 5 = (reg s.eng 0x3818 5 + 1) % 2 ^ 64) ∧
        (ecc = .corrected → blank = false → reg t.eng 0x3818 4 = (reg s.eng 0x3818 4 + 1) % 2 ^ 64) ∧
        t.port = s.port ∧ t.pending = s.pending)

/-- Of the requests that wait at an agent the first in order, where it crosses no stitch line, takes a free tag, whose
epoch steps on; those without a tag or without room for their data are counted once. The Dealer leaves a card unused,
and counts it, where nothing waits, and grants it to a read that alone waits and fits it whole. A granted card carries
a read as bursts 200 SPCLK after its start and a repair as its sectors' bytes; one granted to a refresh refreshes its
bank. A Trump cuts its card's transfer after 64 sectors and refreshes. The burst that is handed over first leaves to
its station; an uncorrectable one is poisoned whole, counted and raised, a corrected one counted and its repair
queued. -/
def Obligations.DynamicCards : Prop :=
  ∀ (n : Fin 24) (abs : Nat) (g : Fin 4) (s : State),
    let a := agentOf s.eng n.val
    let ctr := agIdx n.val 8
    (∀ r tag, partUp s.eng (48 + n.val) = true → freeTag a = some tag → downFree s.eng n.val = true →
      leastReq Req.downBefore (a.inbox.filter fun x => (canArrive s.eng n.val x).isSome && stagingRoom a x) = some r →
      r.spine = none →
      let epoch := (storeGet (fun _ => 0) a.epochs tag + 1) % 16
      ∃ t, exec (.requestArrive n) s = .next t ∧
        (agentOf t.eng n.val).inbox.map (·.id) = (a.inbox.filter fun x => x.id ≠ r.id).map (·.id) ∧
        (agentOf t.eng n.val).arrivals = a.arrivals + 1 ∧
        (agentOf t.eng n.val).epochs = storeSet (fun _ => 0) tag epoch a.epochs ∧
        (agentOf t.eng n.val).pending =
          a.pending ++ [{ r with tag := tag, epoch := epoch, arrival := a.arrivals, waited := [] }] ∧
        reg t.eng ctr 13 = (reg s.eng ctr 13 +
          (a.inbox.filter fun x => !stagingRoom a x && !x.waited.contains 13).length) % 2 ^ 64 ∧
        sameEntries [(ctr, 13)] s.eng t.eng ∧
        t.eng.now = (if r.owner = .scrub ∨ r.owner = .repair then s.eng.now
          else max s.eng.now (s.eng.spBase.getD 0 + 2 * (r.since + 48))) ∧
        t = { s with eng := { s.eng with now := t.eng.now, regs := t.eng.regs, agents := t.eng.agents } }) ∧
    (partUp s.eng (48 + n.val) = true → freeTag a = none →
      ∃ t, exec (.requestArrive n) s = .next t ∧ (agentOf t.eng n.val).pending = a.pending ∧
        (agentOf t.eng n.val).inbox.map (·.id) = a.inbox.map (·.id) ∧
        reg t.eng ctr 11 = (reg s.eng ctr 11 + (a.inbox.filter fun x => !x.waited.contains 11).length) % 2 ^ 64 ∧
        sameEntries [(ctr, 11)] s.eng t.eng ∧
        t = { s with eng := { s.eng with regs := t.eng.regs, agents := t.eng.agents } }) ∧
    (∀ kind, kindAt s.eng n.val abs g.val = kind → a.initDone = true →
      (a.grants.any fun x => x.abs == abs && x.group == g.val) = false → (kind = .dynamic ∨ kind = .class0 ∨ kind = .splinter) →
      let now := max s.eng.now (s.eng.spBase.getD 0 + 2 * (8 * abs - 32))
      (a.pending = [] → a.catchups = [] →
        ∃ t, exec (.dealerDecision n abs g) s = .next t ∧ reg t.eng ctr 10 = (reg s.eng ctr 10 + 1) % 2 ^ 64 ∧
          (agentOf t.eng n.val).grants = a.grants ∧ t.eng.out = s.eng.out ∧ t.eng.now = now ∧ sameMemory s.eng t.eng) ∧
      (∀ r, a.pending = [r] → a.catchups = [] → r.kind = .read → r.spine = none → r.lane < 3 →
        (r.cls < 2 ∨ r.trumped = true ∨ bit (reg s.eng 0x1104 1) n.val = false) →
        fitOn (advanceCycle (2 * (8 * abs - 32)) s.eng) n.val abs g.val [] r = r.sects → r.sects ≠ [] →
        (reg s.eng (agIdx n.val 0) 3 ≠ 1 ∨ r.drain = true) → reg s.eng (agIdx n.val 1) 3 = 0 →
        (kind = .dynamic → a.windowCards < a.allowance) →
        ∃ t, exec (.dealerDecision n abs g) s = .next t ∧
          (agentOf t.eng n.val).grants = a.grants ++ [{ abs := abs, group := g.val, parts := [r] }] ∧
          (agentOf t.eng n.val).pending = [] ∧ t.eng.out = s.eng.out ∧ t.eng.now = now ∧ sameMemory s.eng t.eng)) ∧
    (∀ x, (a.grants.find? fun x => x.abs == abs && x.group == g.val) = some x →
      let now := max s.eng.now (s.eng.spBase.getD 0 + 16 * abs)
      (∀ r, x.trump = false → x.refresh = none → x.parts = [r] → r.kind = .read →
        ∃ t, exec (.dynamicCard n abs g) s = .next t ∧
          (agentOf t.eng n.val).bursts.take a.bursts.length = a.bursts ∧
          (agentOf t.eng n.val).bursts.length = a.bursts.length + r.sects.length ∧
          (∀ j y, r.sects[j]? = some y → (agentOf t.eng n.val).bursts[a.bursts.length + j]? = some
            { owner := some r.owner, req := r.id, sender := r.sender, tag := r.tag, epoch := r.epoch,
              lane := 16 * g.val + j % 16, hand := 8 * abs + 448 + j / 16, station := none, off := y.off,
              readAt := 8 * abs + 200, merge := y.atoms }) ∧
          (agentOf t.eng n.val).grants = a.grants.erase x ∧ t.eng.now = now ∧ sameMemory s.eng t.eng ∧
          t.eng.out = (if r.sects = [] then [] else [.xdn n.val abs g.val (activates abs g.val (r.sects.map (·.off)) ++
            r.sects.map fun y => .read y.off)]) ++ s.eng.out) ∧
      (∀ r, x.trump = false → x.refresh = none → x.parts = [r] → r.kind = .repair → r.sects ≠ [] →
        (∀ q ∈ a.granted, q.id = r.id → q.owner = .repair) →
        ∃ t, exec (.dynamicCard n abs g) s = .next t ∧ (agentOf t.eng n.val).grants.length + 1 = a.grants.length ∧
          reg t.eng ctr 18 = (reg s.eng ctr 18 + r.sects.length) % 2 ^ 64 ∧
          (∀ y, r.sects = [y] → ∀ k, k < 32 →
            memByte t.eng (n.val * 0x1000000000 + y.off / 32 * 32 + k) = if bit (atomsData y.atoms).2.1 k
              then BitVec.ofNat 8 (bits (atomsData y.atoms).1 (8 * k) 8)
              else memByte s.eng (n.val * 0x1000000000 + y.off / 32 * 32 + k)) ∧
          ∀ b, (∀ y ∈ r.sects, b < n.val * 0x1000000000 + y.off / 32 * 32 ∨
            n.val * 0x1000000000 + y.off / 32 * 32 + 32 ≤ b) → memByte t.eng b = memByte s.eng b) ∧
      (∀ bank, x.trump = false → x.refresh = some bank →
        ∃ t, exec (.dynamicCard n abs g) s = .next t ∧ owedOf t.eng n.val g.val bank = owedOf s.eng n.val g.val bank - 1 ∧
          (agentOf t.eng n.val).grants = a.grants.erase x ∧ reg t.eng ctr 2 = (reg s.eng ctr 2 + 1) % 2 ^ 64 ∧
          t.eng.out.head? = some (.xdn n.val abs g.val [.refresh bank]) ∧ t.eng.now = now ∧ sameMemory s.eng t.eng) ∧
      (x.trump = true → a.grants = [x] →
        ∃ t, exec (.trumpGrant n abs g) s = .next t ∧
          (agentOf t.eng n.val).grants = [{ x with
            parts := x.parts.map (fun r => { r with sects := r.sects.take 64 }), refresh := none, trump := false }] ∧
          reg t.eng ctr 2 = (reg s.eng ctr 2 + 1) % 2 ^ 64 ∧ reg t.eng ctr 3 = (reg s.eng ctr 3 + 1) % 2 ^ 64 ∧
          owedOf t.eng n.val g.val (x.refresh.getD 0) = owedOf s.eng n.val g.val (x.refresh.getD 0) - 1 ∧
          t.eng.out.head? = some (.xdn n.val abs g.val [.refresh (x.refresh.getD 0)]) ∧
          t.eng.now = max s.eng.now (s.eng.spBase.getD 0 + 2 * (8 * abs + 4)) ∧ sameMemory s.eng t.eng)) ∧
    (∀ (sev : BitVec 2) b, firstBurst a.bursts = some b → b.captured = none → b.lostRoute = false →
      let now := max s.eng.now (s.eng.spBase.getD 0 + 2 * b.hand)
      let pois := if sev.toNat < 2 then poisonMask s.eng n.val b.off else 255
      let came := crossed (sectorData s.eng n.val b.off) pois b.hurt b.received
      ∀ q slot l, b.station = some (q, slot, l) →
        (∃ t, exec (.readBurst n sev) s = .next t ∧ t.eng.now = now ∧ (agentOf t.eng n.val).bursts = a.bursts.erase b ∧
          (dockOf t.eng q).arriving = (dockOf s.eng q).arriving ++
            [⟨n.val, b.lane, slot, l.pos, { l with data := came.1, pois := came.2, pos := 0 }⟩] ∧
          otherDocks q s.eng t.eng ∧ sameMemory s.eng t.eng ∧
          (sev.toNat = 0 → t.eng.regs = s.eng.regs) ∧
          (sev.toNat = 1 → reg t.eng ctr 16 = (reg s.eng ctr 16 + 1) % 2 ^ 64 ∧ sameEntries [(ctr, 16)] s.eng t.eng ∧
            (agentOf t.eng n.val).inbox.length = a.inbox.length + 1) ∧
          (2 ≤ sev.toNat → reg t.eng ctr 17 = (reg s.eng ctr 17 + 1) % 2 ^ 64 ∧
            reg t.eng (agIdx n.val 9) 2 = b.off ∧ t.eng.raised = s.eng.raised ++ [(48 + n.val, 0)] ∧
            sameEntries [(ctr, 17), (agIdx n.val 9, 2)] s.eng t.eng)))

/-- A refresh card lowers its bank's owed count and refreshes it; every rise of the counts adds one to each bank below
8, and a bank that reaches 8 is raised with 0x3310. FREEZE takes 0 and 1 only. The scrubber asks for one granule after
the other, as many in a frame as its rate, and counts its passes. An initialised agent has refreshed every bank and
owes nothing; one that does not initialise in 50,000 AONCLK, or does after them, fails, and in a start fails the start
with 0x1214. -/
def Obligations.RefreshAndService : Prop :=
  ∀ (n : Fin 24) (s : State),
    let a := agentOf s.eng n.val
    let ctr := agIdx n.val 8
    let base := s.eng.spBase.getD 0
    (∀ (abs : Nat) (g : Fin 4), (refreshBank s.eng n.val abs g.val = none → exec (.refreshCard n abs g) s = .next s) ∧
      (∀ bank, refreshBank s.eng n.val abs g.val = some bank → a.initDone = true → owedOf s.eng n.val g.val bank ≠ -8 →
        ∃ t, exec (.refreshCard n abs g) s = .next t ∧ t.eng.now = max s.eng.now (base + 16 * abs) ∧
          owedOf t.eng n.val g.val bank = owedOf s.eng n.val g.val bank - 1 ∧
          reg t.eng ctr 1 = (reg s.eng ctr 1 + 1) % 2 ^ 64 ∧ t.eng.out.head? = some (.xdn n.val abs g.val [.refresh bank]) ∧
          (owedOf s.eng n.val g.val bank - 1 < reg s.eng (agIdx n.val 2) 1 →
            (agentOf t.eng n.val).catchups = a.catchups) ∧
          ((reg s.eng (agIdx n.val 2) 1 : Int) ≤ owedOf s.eng n.val g.val bank - 1 →
            lastChance s.eng n.val ⟨g.val, bank, abs⟩ ≠ none →
            (agentOf t.eng n.val).catchups = a.catchups ++ [⟨g.val, bank, abs⟩]) ∧ sameMemory s.eng t.eng)) ∧
    (a.initDone = false → exec (.owedTick n) s = .next s ∧ exec (.scrubIssue n) s = .next s) ∧
    (a.initDone = true →
      let t' := a.owedAt + (match reg s.eng (agIdx n.val 0) 2 with | 0 => 7020 | 1 => 3510 | _ => 1755)
      ∃ t, exec (.owedTick n) s = .next t ∧ t.eng.now = max s.eng.now (base + 2 * t') ∧
        (agentOf t.eng n.val).owedAt = t' ∧
        (∀ g b, g < 4 → b < 16 → owedOf t.eng n.val g b =
          if owedOf s.eng n.val g b = 8 then 8 else owedOf s.eng n.val g b + 1) ∧
        ((∀ g b, g < 4 → b < 16 → owedOf s.eng n.val g b ≠ 7) → t.eng.raised = s.eng.raised) ∧
        ((∃ g b, g < 4 ∧ b < 16 ∧ owedOf s.eng n.val g b = 7) → (48 + n.val, 0x3310) ∈ t.eng.raised) ∧
        sameMemory s.eng t.eng) ∧
    (∀ (p : Port) (v : Byte), letThrough p (agIdx n.val 0) 3 s → v.toNat ≤ 1 →
      ∃ t, exec (.freeze p n v) s = .next t ∧ onlyEntries s t ∧ reg t.eng (agIdx n.val 0) 3 = v.toNat ∧
        sameEntries [(agIdx n.val 0, 3)] s.eng t.eng ∧ t.eng.out = .access p (agIdx n.val 0) 3 0 :: s.eng.out) ∧
    (∀ (p : Port) (v : Byte), letThrough p (agIdx n.val 0) 3 s → 1 < v.toNat →
      ∃ t, exec (.freeze p n v) s = .next t ∧ reg t.eng (agIdx n.val 0) 3 = reg s.eng (agIdx n.val 0) 3 ∧
        t.eng.out = .access p (agIdx n.val 0) 3 3 :: s.eng.out) ∧
    (let k := reg s.eng (agIdx n.val 3) 2
     let done := if a.scrubFrame = frameNo s.eng then a.scrubbed else 0
     (reg s.eng (agIdx n.val 3) 1 ≤ done → exec (.scrubIssue n) s = .next s) ∧
     (a.initDone = true → done < reg s.eng (agIdx n.val 3) 1 →
      ∃ t r, exec (.scrubIssue n) s = .next t ∧ (agentOf t.eng n.val).inbox = a.inbox ++ [r] ∧ r.kind = .read ∧
        r.owner = .scrub ∧ r.cls = 3 ∧ r.sects = (List.range 128).map (fun j => ⟨4096 * k + 32 * j, []⟩) ∧
        reg t.eng (agIdx n.val 3) 2 = (k + 1) % 2 ^ 24 ∧
        (k + 1 = 2 ^ 24 → reg t.eng ctr 19 = (reg s.eng ctr 19 + 1) % 2 ^ 64) ∧
        sameEntries (if k + 1 = 2 ^ 24 then [(agIdx n.val 3, 2), (ctr, 19)] else [(agIdx n.val 3, 2)]) s.eng t.eng ∧
        t = { s with eng := { s.eng with ids := s.eng.ids + 1, regs := t.eng.regs, agents := t.eng.agents } })) ∧
    (reg s.eng (agIdx n.val 0) 1 ≠ 1 → exec (.initComplete n) s = .next s ∧ exec (.initTimeout n) s = .next s) ∧
    (reg s.eng (agIdx n.val 0) 1 = 1 →
      ((∀ t0, a.initAt = some t0 → s.eng.now ≤ t0 + 50000 * 3600) →
        ∃ t, exec (.initComplete n) s = .next t ∧ reg t.eng (agIdx n.val 0) 1 = 2 ∧
        sameEntries [(agIdx n.val 0, 1)] s.eng t.eng ∧
        agentOf t.eng n.val = { a with initStart := false, initDone := true, owed := [], owedAt := spNow s.eng,
                                       allowance := reg s.eng 0x1101 4 } ∧
        t.eng.out = .initStart n.val 0 :: ([3, 2, 1, 0].map fun g =>
          .xdn n.val (spNow s.eng / 8) g ((List.range 16).map XdnCmd.refresh)) ++ s.eng.out ∧
        t = { s with eng := { s.eng with regs := t.eng.regs, agents := t.eng.agents, out := t.eng.out } }) ∧
      (a.initAt = none → exec (.initTimeout n) s = .next s) ∧
      (∀ t0, a.initAt = some t0 → t0 + 50000 * 3600 < s.eng.now → exec (.initComplete n) s = exec (.initTimeout n) s) ∧
      (∀ t0, a.initAt = some t0 →
        ∃ t, exec (.initTimeout n) s = .next t ∧ reg t.eng (agIdx n.val 0) 1 = 3 ∧
          t.eng.now = max s.eng.now (t0 + 50000 * 3600) ∧
          (agentOf t.eng n.val).initStart = false ∧
          (s.eng.run = .ready → phaseOf t.eng (48 + n.val) = .stuck ∧ t.eng.run = .ready ∧
            t.eng.out = .initStart n.val 0 :: s.eng.out ∧
            t.eng.raised = s.eng.raised ++ [(48 + n.val, 0)]) ∧
          (∀ since cold power, s.eng.run = .release 6 since cold power → t.eng.run = .failed 6 ∧
            reg t.eng 0x1200 2 = 2 ∧ reg t.eng 0x1200 3 = 0x1214 ∧
            t.eng.raised = s.eng.raised ++ [(48 + n.val, 0), (84, 0x1214)])))

/-- A swap: a commit starts the checks, whose first failure ends them with its record and which otherwise make the
swap due; at the decision point before its frame it is decided, and with that frame the pending configuration is in
force. A commit and a withdrawal are denied once the swap is decided. A frame that begins samples the refresh-rate
indications of the agents that are not held in reset, is the next one, counts a hold in force at each dock, and counts
and raises the errors of the Hand entries that it reads. -/
def Obligations.SwapsAndFrames : Prop :=
  ∀ s : State,
    (∀ p, letThrough p 0x3810 4 s →
      (reg s.eng 0x3810 5 = 4 → ∃ t, (exec (.swapCommit p) s = .next t ∧ exec (.swapWithdraw p) s = .next t) ∧
        onlyEntries s t ∧ t.eng.out = .access p 0x3810 4 7 :: s.eng.out ∧
        sameEntries [(0x1010, 1), (0x1010, 2), (0x1010, 3), (0x1010, 4), (0x1010, 5)] s.eng t.eng) ∧
      (reg s.eng 0x3810 5 ≠ 4 →
        (∃ t, exec (.swapCommit p) s = .next t ∧ reg t.eng 0x3810 5 = 1 ∧ sameEntries [(0x3810, 5)] s.eng t.eng ∧
          (t.eng.deck.late = true ↔ ∃ f, frameNow s.eng = some f ∧ reg s.eng 0x3810 1 ≤ f) ∧
          t = { s with eng := { s.eng with regs := t.eng.regs, deck := { s.eng.deck with late := t.eng.deck.late },
                                           out := .access p 0x3810 4 0 :: s.eng.out } }) ∧
        (∃ t, exec (.swapWithdraw p) s = .next t ∧ reg t.eng 0x3810 5 = 0 ∧ sameEntries [(0x3810, 5)] s.eng t.eng ∧
          onlyEntries s t ∧ t.eng.out = .access p 0x3810 4 0 :: s.eng.out))) ∧
    (reg s.eng 0x3810 5 ≠ 1 → exec .swapChecksComplete s = .next s) ∧
    (reg s.eng 0x3810 5 = 1 →
      (loadChecks s.eng = none → ∃ t, exec .swapChecksComplete s = .next t ∧ reg t.eng 0x3810 5 = 2 ∧
        sameEntries [(0x3810, 5)] s.eng t.eng ∧ onlyEntries s t ∧ t.eng.out = s.eng.out) ∧
      (∀ x, loadChecks s.eng = some x → ∃ t, exec .swapChecksComplete s = .next t ∧ reg t.eng 0x3810 5 = 3 ∧
        reg t.eng 0x3810 6 = x.word ∧ reg t.eng 0x3818 3 = (reg s.eng 0x3818 3 + 1) % 2 ^ 64 ∧
        sameEntries [(0x3810, 5), (0x3810, 6), (0x3818, 3)] s.eng t.eng ∧ onlyEntries s t ∧ t.eng.out = s.eng.out)) ∧
    (∀ b, s.eng.spBase = some b →
      let f := s.eng.nextFrame
      let now := max s.eng.now (b + 8192 * f - 384)
      (reg s.eng 0x3810 5 = 2 → reg s.eng 0x3810 1 ≤ f →
        ∃ t, exec .swapDecisionPoint s = .next t ∧ reg t.eng 0x3810 5 = 4 ∧ sameEntries [(0x3810, 5)] s.eng t.eng ∧
          t = { s with eng := { s.eng with now := now, regs := t.eng.regs, deck := { s.eng.deck with
            decided := some f, pattern := reg s.eng 0x3810 2, counts := reg s.eng 0x3810 3 } } }) ∧
      (reg s.eng 0x3810 5 = 2 → f < reg s.eng 0x3810 1 →
        exec .swapDecisionPoint s = .next { s with eng := { s.eng with now := now } }) ∧
      (reg s.eng 0x3810 5 = 1 → reg s.eng 0x3810 1 ≤ f → reg s.eng 0x3810 1 ≠ 0 → s.eng.deck.late = false →
        ∃ t, exec .swapDecisionPoint s = .next t ∧ reg t.eng 0x3818 2 = (reg s.eng 0x3818 2 + 1) % 2 ^ 64 ∧
          sameEntries [(0x3818, 2)] s.eng t.eng ∧
          t = { s with eng := { s.eng with now := now, regs := t.eng.regs } }) ∧
      (∀ (rates : BitVec 48) errs, ∃ t, exec (.frameBegin ⟨rates, errs⟩) s = .next t ∧ t.eng.nextFrame = f + 1 ∧
        t.eng.now = max s.eng.now (b + 8192 * f) ∧ t.eng.docks = s.eng.docks ∧ t.eng.out = s.eng.out ∧
        sameMemory s.eng t.eng ∧
        (∀ n, n < 24 → reg t.eng (agIdx n 0) 2 = if partHeld s.eng (48 + n) then reg s.eng (agIdx n 0) 2
          else rates.toNat / 2 ^ (2 * n) % 4) ∧
        (errs = [] → t.eng.raised = s.eng.raised ∧ reg t.eng 0x3818 4 = reg s.eng 0x3818 4 ∧
          reg t.eng 0x3818 5 = reg s.eng 0x3818 5) ∧
        (∀ x fatal, errs = [(x, fatal)] → (∀ n slot g, x = .card n slot g → bit (reg s.eng 0x3800 6) n.val = false) →
          t.eng.raised = s.eng.raised ++ (if fatal = true then [(82, 0)] else []) ∧
          reg t.eng 0x3818 4 = (if fatal = true then reg s.eng 0x3818 4 else (reg s.eng 0x3818 4 + 1) % 2 ^ 64) ∧
          reg t.eng 0x3818 5 = (if fatal = true then (reg s.eng 0x3818 5 + 1) % 2 ^ 64 else reg s.eng 0x3818 5)) ∧
        (∀ q, q < 48 → reg t.eng (stIdx q 0x30) 11 = if (dockOf s.eng q).hold.isSome
          then (reg s.eng (stIdx q 0x30) 11 + 1) % 2 ^ 64 else reg s.eng (stIdx q 0x30) 11) ∧
        (s.eng.deck.decided = some f → reg t.eng 0x3800 1 = 1 ∧ reg t.eng 0x3800 2 = s.eng.deck.pattern ∧
          reg t.eng 0x3800 3 = s.eng.deck.counts ∧ reg t.eng 0x3800 5 = f ∧ reg t.eng 0x3800 6 = 0 ∧
          reg t.eng 0x3810 5 = 0 ∧ reg t.eng 0x3818 1 = (reg s.eng 0x3818 1 + 1) % 2 ^ 64 ∧ t.eng.deck.decided = none) ∧
        (s.eng.deck.decided ≠ some f → reg t.eng 0x3800 2 = reg s.eng 0x3800 2 ∧
          reg t.eng 0x3810 5 = reg s.eng 0x3810 5 ∧ t.eng.deck.decided = s.eng.deck.decided)))

/-! ### Remote traffic and synchronisation (spec/13_remote_sync.md) -/

/-- MY_ENDPOINT is taken while LINK_ENABLE is 0, and LINK_ENABLE takes 1 once MY_ENDPOINT has been written; link
agents that run become enabled with it. OPEN of a closed channel with landing slots left, 2 ms after its last end,
opens it with the next epoch, counters at 0, and a GRANT on its way; without slots it is refused with 0x5041, and of
one that is not closed, or has not been closed for 2 ms, with 0x5042. CLOSE closes a channel and leaves nothing held.
A GRANT is repeated until the peer's has come. Values out of range end BAD_VALUE. -/
def Obligations.EndpointsAndChannels : Prop :=
  (∀ (p : Port) (v : Word32) (s : State), letThrough p 0x5000 1 s →
    (reg s.eng 0x5000 2 = 1 → ∃ t, exec (.myEndpointWrite p v) s = .next t ∧ onlyEntries s t ∧
      t.eng.out = .access p 0x5000 1 7 :: s.eng.out ∧ reg t.eng 0x5000 1 = reg s.eng 0x5000 1) ∧
    (reg s.eng 0x5000 2 ≠ 1 → 2 ^ 18 ≤ v.toNat → ∃ t, exec (.myEndpointWrite p v) s = .next t ∧ onlyEntries s t ∧
      t.eng.out = .access p 0x5000 1 3 :: s.eng.out ∧ reg t.eng 0x5000 1 = reg s.eng 0x5000 1) ∧
    (reg s.eng 0x5000 2 ≠ 1 → v.toNat < 2 ^ 18 → ∃ t, exec (.myEndpointWrite p v) s = .next t ∧
      reg t.eng 0x5000 1 = v.toNat ∧ sameEntries [(0x5000, 1)] s.eng t.eng ∧
      t = { s with eng := { s.eng with
        endpointSet := true, regs := t.eng.regs, out := .access p 0x5000 1 0 :: s.eng.out } })) ∧
  (∀ (p : Port) (v : Byte) (s : State), letThrough p 0x5000 2 s →
    (v.toNat = 1 → s.eng.endpointSet = false → ∃ t, exec (.linkEnableWrite p v) s = .next t ∧ onlyEntries s t ∧
      t.eng.out = .access p 0x5000 2 7 :: s.eng.out ∧ reg t.eng 0x5000 2 = reg s.eng 0x5000 2) ∧
    (1 < v.toNat → ∃ t, exec (.linkEnableWrite p v) s = .next t ∧ onlyEntries s t ∧
      t.eng.out = .access p 0x5000 2 3 :: s.eng.out ∧ reg t.eng 0x5000 2 = reg s.eng 0x5000 2) ∧
    (v.toNat = 0 ∨ (v.toNat = 1 ∧ s.eng.endpointSet = true) → ∃ t, exec (.linkEnableWrite p v) s = .next t ∧
      reg t.eng 0x5000 2 = v.toNat ∧ onlyEntries s t ∧ t.eng.out = .access p 0x5000 2 0 :: s.eng.out ∧
      (∀ l, l < 2 → reg t.eng (0x5001 + l) 1 =
        if reg s.eng (0x5001 + l) 1 = 1 ∨ reg s.eng (0x5001 + l) 1 = 2 then 1 + v.toNat else reg s.eng (0x5001 + l) 1) ∧
      sameEntries [(0x5000, 2), (0x5001, 1), (0x5002, 1)] s.eng t.eng)) ∧
  (∀ (p : Port) (l : Fin 2) (c : Fin 4096) (s : State), letThrough p (0x5004 + l.val) 2 s →
    let f (e : Eng) := chField e l.val c.val
    let slots := bits (reg s.eng (0x5001 + l.val) 5) (16 * f s.eng 6 2) 16
    let result (e : Eng) (z : Ending) := reg e (0x5004 + l.val) 3 = z.status.code + z.detail * 2 ^ 8 + c.val * 2 ^ 24
    (f s.eng 0 2 ≠ 0 → ∃ t, exec (.channelOpen p l c) s = .next t ∧ onlyEntries s t ∧ result t.eng ⟨.denied, 0x5042⟩ ∧
      t.eng.out = .access p (0x5004 + l.val) 2 7 :: s.eng.out) ∧
    (f s.eng 0 2 = 0 → slots < slotsHeld s.eng l.val (f s.eng 6 2) + f s.eng 72 7 →
      ∃ t, exec (.channelOpen p l c) s = .next t ∧ onlyEntries s t ∧ result t.eng ⟨.exhausted, 0x5041⟩ ∧
        t.eng.out = .access p (0x5004 + l.val) 2 7 :: s.eng.out) ∧
    (f s.eng 0 2 = 0 → slotsHeld s.eng l.val (f s.eng 6 2) + f s.eng 72 7 ≤ slots → quietEnough s.eng l.val c.val = false →
      ∃ t, exec (.channelOpen p l c) s = .next t ∧ onlyEntries s t ∧ result t.eng ⟨.denied, 0x5042⟩ ∧
        t.eng.out = .access p (0x5004 + l.val) 2 7 :: s.eng.out) ∧
    (f s.eng 0 2 = 0 → slotsHeld s.eng l.val (f s.eng 6 2) + f s.eng 72 7 ≤ slots → quietEnough s.eng l.val c.val = true →
      ∃ t chunk, exec (.channelOpen p l c) s = .next t ∧ f t.eng 0 2 = 1 ∧ f t.eng 2 4 = (f s.eng 2 4 + 1) % 16 ∧
        f t.eng 128 32 = 0 ∧ f t.eng 160 32 = 0 ∧ f t.eng 80 7 = 0 ∧ f t.eng 192 16 = 0 ∧
        f t.eng 8 18 = f s.eng 8 18 ∧ f t.eng 72 7 = f s.eng 72 7 ∧ result t.eng okDone ∧
        chanOf t.eng l.val c.val = { closedAt := (chanOf s.eng l.val c.val).closedAt, grantAt := s.eng.now } ∧
        (linkOf t.eng l.val).stream = (linkOf s.eng l.val).stream ++ [chunk] ∧ chunk.cls = f s.eng 6 2 ∧
        chunk.som = true ∧ reg t.eng (0x5010 + l.val) 1 = (reg s.eng (0x5010 + l.val) 1 + 1) % 2 ^ 64 ∧
        sameEntries [(0x5004 + l.val, 3), (0x5010 + l.val, 1)] s.eng t.eng ∧
        t.eng.out = .access p (0x5004 + l.val) 2 0 :: s.eng.out ∧ sameMemory s.eng t.eng) ∧
    (∃ t, exec (.channelClose p l c) s = .next t ∧ f t.eng 0 2 = 0 ∧ result t.eng okDone ∧ sameMemory s.eng t.eng ∧
      t.eng.out = .access p (0x5004 + l.val) 2 0 :: s.eng.out ∧ t.port = s.port ∧ t.pending = s.pending ∧
      ((linkOf s.eng l.val).waiting = [] → t.eng.now = s.eng.now) ∧ (f s.eng 0 2 ≠ 0 → (chanOf t.eng l.val c.val).held = [] ∧ (chanOf t.eng l.val c.val).closedAt = some s.eng.now))) ∧
  (∀ (l : Fin 2) (c : Fin 4096) (s : State),
    let ch := chanOf s.eng l.val c.val
    (chField s.eng l.val c.val 0 2 ≠ 1 ∨ ch.granted = true → exec (.grantRepeat l c) s = .next s) ∧
    (chField s.eng l.val c.val 0 2 = 1 → ch.granted = false →
      let now := max s.eng.now (ch.grantAt + reg s.eng (0x5001 + l.val) 3 * 8192)
      ∃ t chunk, exec (.grantRepeat l c) s = .next t ∧ chanOf t.eng l.val c.val = { ch with grantAt := now } ∧
        (linkOf t.eng l.val).stream = (linkOf s.eng l.val).stream ++ [chunk] ∧
        sameEntries [(0x5010 + l.val, 1)] s.eng t.eng ∧
        t = { s with eng := { s.eng with now := now, regs := t.eng.regs, links := t.eng.links } }))

/-- A sound GRANT of an open channel with the epoch held leaves its credits, marks the channel as granted, and is
answered where its REPLY is 0; one with another epoch also begins the numbers anew and discards what is held. A sound
RESPONSE returns its credits, covers every stored message below its ACK_SEQ, and one with a failure status fails the
message that ACK_SEQ names; the job of a covered message waits for it no longer. -/
def Obligations.GrantsAndResponses : Prop :=
  ∀ (l : Fin 2) (s : State) (m : RxMsg) (rest : List RxMsg), (linkOf s.eng l.val).arrived = m :: rest →
    arrivesSound s.eng l.val m → (linkOf s.eng l.val).waiting = [] →
    let h := m.header
    let c := bits h 16 12
    let f (e : Eng) := chField e l.val c
    let x := 0x5010 + l.val
    (bits h 0 8 = 0x10 →
      ∃ t chunks, exec (.grantArrive l) s = .next t ∧ exec (.responseArrive l) s = .next s ∧
        exec (.messageArrive l) s = .next s ∧ (linkOf t.eng l.val).arrived = rest ∧
        f t.eng 87 4 = bits h 10 4 ∧ f t.eng 80 7 = bits h 160 7 ∧ (chanOf t.eng l.val c).granted = true ∧
        (bits h 10 4 = f s.eng 87 4 → (chanOf t.eng l.val c).held = (chanOf s.eng l.val c).held ∧
          f t.eng 128 32 = f s.eng 128 32 ∧ (linkOf t.eng l.val).store = (linkOf s.eng l.val).store ∧
          (linkOf t.eng l.val).stream = (linkOf s.eng l.val).stream ++ chunks ∧
          chunks.length = (if h.testBit 15 then 0 else 1) ∧ sameEntries [(x, 1), (x, 2)] s.eng t.eng ∧
          t = { s with eng := { s.eng with regs := t.eng.regs, dom := t.eng.dom, links := t.eng.links } }) ∧
        (bits h 10 4 ≠ f s.eng 87 4 → (chanOf t.eng l.val c).held = [] ∧ f t.eng 128 32 = 0 ∧
          ∀ m ∈ (linkOf t.eng l.val).store, m.channel ≠ c) ∧
        reg t.eng x 2 = (reg s.eng x 2 + 1) % 2 ^ 64 ∧ sameMemory s.eng t.eng) ∧
    (bits h 0 8 = 0x11 →
      let ack := bits h 160 32
      let below_ (y : OutMsg) : Bool := y.channel == c && !gateMet y.seq ack
      let named (y : OutMsg) : Bool := y.channel == c && bits h 192 8 ≠ 0 && y.seq == ack
      ∃ t, exec (.responseArrive l) s = .next t ∧ exec (.grantArrive l) s = .next s ∧
        (linkOf t.eng l.val).arrived = rest ∧ f t.eng 80 7 = min (f s.eng 80 7 + bits h 200 7) 127 ∧
        (gateMet ack (chanOf s.eng l.val c).ackTaken = false →
          (linkOf t.eng l.val).store = (linkOf s.eng l.val).store ∧ t.eng.jobs = s.eng.jobs) ∧
        (gateMet ack (chanOf s.eng l.val c).ackTaken = true →
          (linkOf t.eng l.val).store = (linkOf s.eng l.val).store.filter (fun y => !below_ y && !named y) ∧
          (∀ y j z, (linkOf s.eng l.val).store = [y] → below_ y = true → y.source = .job j → jobOf s.eng j = some z →
            z.id = j → jobOf t.eng j = some { z with sends := z.sends.erase y.id, cut := z.cut || h.testBit 207 }) ∧
          (∀ y j z, (linkOf s.eng l.val).store = [y] → below_ y = false → named y = true → y.source = .job j →
            jobOf s.eng j = some z → z.id = j → z.msgFail = none →
            ∃ z', jobOf t.eng j = some z' ∧ z'.msgFail = some (y.id, ⟨statusOf (bits h 192 8), bits h 208 16⟩))) ∧
        reg t.eng x 2 = (reg s.eng x 2 + 1) % 2 ^ 64 ∧ sameMemory s.eng t.eng)

/-- Flits. Once the messages that can leave their requesters have done so, an enabled link agent with a class-0 flit
and credit sends it first, and one of classes 1 to 3, in their weighted turns, only where class 0 can send none; each
spends a credit of its class, carries 256 bytes, and goes into the next UCIe unit of its link with CRC and poison map.
With no class to send nothing more happens. A flit received returns its credit; a whole message of 32 bytes at its
start has then arrived, with the poison of its flit and of its unit. A flit of another size is no event of the port. A
credit returned adds one to its class. In reset nothing is taken. -/
def Obligations.FlitsAndCredits : Prop :=
  ∀ (l : Fin 2) (s : State),
    let e := pump l.val s.eng
    let k := linkOf e l.val
    let x := 0x5010 + l.val
    let sent (cls : Nat) (turn used : Nat) : Prop := ∃ t som pois data, exec (.flitSend l) s = .next t ∧
      t.eng.out = .unitSent l.val k.unitTx (unitCrc 8 data pois) pois data :: .flit l.val cls som pois data :: e.out ∧
      ((∀ c ∈ k.stream, c.bytes.length = 32) → data.length = 256) ∧
      flitCredits (linkOf t.eng l.val) cls = flitCredits k cls - 1 ∧
      (∀ c, c ≠ cls → flitCredits (linkOf t.eng l.val) c = flitCredits k c) ∧
      (linkOf t.eng l.val).stream = (takeChunks cls 8 k.stream).2 ∧
      (linkOf t.eng l.val).turn = turn ∧ (linkOf t.eng l.val).used = used ∧
      (linkOf t.eng l.val).unitTx = (k.unitTx + 1) % 16 ∧
      reg t.eng x 15 = (reg e x 15 + 1) % 2 ^ 64 ∧ sameEntries [(x, 15)] e t.eng ∧
      t = { s with eng := { e with regs := t.eng.regs, links := t.eng.links, out := t.eng.out } }
    (linkEnabled e l.val = true → canSend k 0 = true → sent 0 k.turn k.used) ∧
    (linkEnabled e l.val = true → canSend k 0 = false → canSend k k.turn = true →
      k.used < bits (reg e (0x5001 + l.val) 2) (8 * (k.turn - 1)) 8 → sent k.turn k.turn (k.used + 1)) ∧
    (∀ cls turn used, linkEnabled e l.val = true → canSend k 0 = false →
      nextClass e l.val k 4 k.turn k.used = some (cls, turn, used) → sent cls turn used) ∧
    (linkEnabled e l.val = false ∨ (∀ c, canSend k c = false) ∨
        (canSend k 0 = false ∧ nextClass e l.val k 4 k.turn k.used = none) →
      exec (.flitSend l) s = .next { s with eng := e }) ∧
    let k := linkOf s.eng l.val
    (∀ (cls : Fin 4) (som : Byte) (pois : BitVec 64) (data : List Byte),
      (data.length ≠ 256 → exec (.flitReceive l cls som pois data) s = .fault .outsideEnvironment) ∧
      (data.length = 256 → partUp s.eng (72 + l.val) = false → exec (.flitReceive l cls som pois data) s = .next s) ∧
      (data.length = 256 → partUp s.eng (72 + l.val) = true →
        ∃ t, exec (.flitReceive l cls som pois data) s = .next t ∧
          t.eng.out = .rxCredit l.val cls.val :: s.eng.out ∧
          (som = 0 → k.partial_.lookup cls.val = none → (linkOf t.eng l.val).arrived = k.arrived) ∧
          (som = 1 → k.partial_.lookup cls.val = none → wholeLength (data.take 32) ≤ 32 →
            (linkOf t.eng l.val).arrived =
              k.arrived ++ [⟨data.take 32, (pois.toNat ||| k.unitPois.headD 0) % 256, false⟩]) ∧
          (linkOf t.eng l.val).unitPois = k.unitPois.tail ∧
          t = { s with eng := { s.eng with links := t.eng.links, out := t.eng.out } })) ∧
    (∀ cls : Fin 4,
      (partUp s.eng (72 + l.val) = false → exec (.creditReturn l cls) s = .next s) ∧
      (partUp s.eng (72 + l.val) = true → ∃ t, exec (.creditReturn l cls) s = .next t ∧
        flitCredits (linkOf t.eng l.val) cls.val = flitCredits k cls.val + 1 ∧
        (∀ c, c ≠ cls.val → flitCredits (linkOf t.eng l.val) c = flitCredits k c) ∧
        t = { s with eng := { s.eng with links := t.eng.links } }))

/-- A message that is not intact is dropped and counted; a sound one of the peer's epoch within its channel's window
takes a landing slot. In its turn a message with data for stack memory becomes requests and counts as outstanding, and
one that runs past stack memory fails with 0x5006. A SEM_ADD in its turn, with nothing outstanding, adds its amount
and is answered. An applied write whose requests are done frees its slot, and the last one is answered. A message not
covered in time is sent again, or, after RETRY_LIMIT, breaks its channel. -/
def Obligations.MessagesApply : Prop :=
  ∀ (l : Fin 2) (c : Fin 4096) (s : State),
    let k := linkOf s.eng l.val
    let ch := chanOf s.eng l.val c.val
    let f (e : Eng) := chField e l.val c.val
    let x := 0x5010 + l.val
    (∀ m rest, k.arrived = m :: rest → bits m.header 0 8 ≠ 0x10 → bits m.header 0 8 ≠ 0x11 →
      (m.intact = false → ∃ t, exec (.messageArrive l) s = .next t ∧ (linkOf t.eng l.val).arrived = rest ∧
        reg t.eng x 2 = (reg s.eng x 2 + 1) % 2 ^ 64 ∧ reg t.eng x 5 = (reg s.eng x 5 + 1) % 2 ^ 64 ∧
        sameEntries [(x, 2), (x, 5)] s.eng t.eng ∧
        t = { s with eng := { s.eng with regs := t.eng.regs, links := t.eng.links } }) ∧
      (arrivesSound s.eng l.val m → bits m.header 16 12 = c.val → bits m.header 10 4 = f s.eng 87 4 →
        (bits m.header 128 32 + 2 ^ 32 - f s.eng 160 32) % 2 ^ 32 < f s.eng 72 7 →
        (∀ y ∈ ch.held, y.seq ≠ bits m.header 128 32) →
        ∃ t, exec (.messageArrive l) s = .next t ∧ (linkOf t.eng l.val).arrived = rest ∧
          (chanOf t.eng l.val c.val) = { ch with held := ch.held ++
            [{ id := s.eng.ids, seq := bits m.header 128 32, bytes := m.bytes, pois := m.pois }] } ∧
          sameEntries [(x, 2)] s.eng t.eng ∧
          t = { s with eng := { s.eng with ids := s.eng.ids + 1, regs := t.eng.regs, links := t.eng.links } })) ∧
    (∀ m, headMessage s.eng l.val c.val = some m → bits m.header 0 8 ≠ 6 → m.inQueue = false →
      let a := bits m.header 160 46
      let n := bits m.header 38 13
      (a + n ≤ 0x018000000000 → a < 0x018000000000 → f s.eng 49 1 = 0 → m.header.testBit 14 = false → f s.eng 192 16 < 65535 →
        ch.durable < 8 →
        ∃ t w, exec (.messageApply l c) s = .next t ∧ f t.eng 160 32 = (m.seq + 1) % 2 ^ 32 ∧
          f t.eng 192 16 = f s.eng 192 16 + 1 ∧ (chanOf t.eng l.val c.val).applied = ch.applied ++ [{ m with waits := w, index := none }] ∧
          (chanOf t.eng l.val c.val).held = ch.held.filter (fun y => y.id ≠ m.id) ∧
          t.eng.regs = s.eng.regs ∧ t.eng.out = s.eng.out ∧ sameMemory s.eng t.eng ∧ t.port = s.port ∧
          t.pending = s.pending) ∧
      (0x018000000000 < a + n →
        ∃ t, exec (.messageApply l c) s = .next t ∧ f t.eng 160 32 = (m.seq + 1) % 2 ^ 32 ∧
          (chanOf t.eng l.val c.val).held = ch.held.filter (fun y => y.id ≠ m.id) ∧
          reg t.eng x 11 = (reg s.eng x 11 + 1) % 2 ^ 64 ∧ sameEntries [(x, 1), (x, 11)] s.eng t.eng ∧
          (linkOf t.eng l.val).stream.length = k.stream.length + 1 ∧ sameMemory s.eng t.eng)) ∧
    (∀ m, ch.held = [m] → ch.applied = [] → headMessage s.eng l.val c.val = some m → bits m.header 0 8 = 6 →
      m.semHeld = false → m.copies = [] → m.failure = none → f s.eng 192 16 = 0 → ch.jobFailed = false → m.header.testBit 14 = false →
      let ctx := f s.eng 64 6
      let v := bits m.header 160 10
      let ph := physOf s.eng ctx v
      translates s.eng ctx v = true → resident s.eng ctx v = true → s.eng.sems.waiters = [] →
      ∃ t, exec (.semAddApply l c) s = .next t ∧ semVal t.eng ph = (semVal s.eng ph + bits m.header 170 16) % 2 ^ 32 ∧
        f t.eng 160 32 = (m.seq + 1) % 2 ^ 32 ∧ (chanOf t.eng l.val c.val).held = [] ∧
        (linkOf t.eng l.val).stream.length = k.stream.length + 1 ∧ sameMemory s.eng t.eng ∧ t.eng.out = s.eng.out) ∧
    (∀ m, ch.applied = [m] → m.durable = false → m.waits = [] → bits m.header 0 8 ≠ 6 → m.index = none → m.copies = [] →
      m.failure = none → m.cut = false → f s.eng 0 2 = 1 → f s.eng 192 16 = 1 →
      ∃ t, exec (.remoteWriteDurable l c) s = .next t ∧ (chanOf t.eng l.val c.val).applied = [] ∧ f t.eng 192 16 = 0 ∧
        (linkOf t.eng l.val).stream.length = k.stream.length + 1 ∧ sameEntries [(x, 1)] s.eng t.eng ∧
        sameMemory s.eng t.eng ∧ t.eng.out = s.eng.out) ∧
    (∀ m t0, k.store = [m] → m.channel = c.val → m.sentAt = some t0 → f s.eng 0 2 = 1 → k.waiting = [] →
      let now := max s.eng.now (t0 + reg s.eng (0x5001 + l.val) 3 * 8192)
      (m.sends ≤ reg s.eng (0x5001 + l.val) 4 →
        ∃ t, exec (.retransmitTimeout l c) s = .next t ∧
          (linkOf t.eng l.val).store = [{ m with sends := m.sends + 1, sentAt := none }] ∧
          k.stream <+: (linkOf t.eng l.val).stream ∧ k.stream.length < (linkOf t.eng l.val).stream.length ∧
          reg t.eng x 3 = (reg s.eng x 3 + 1) % 2 ^ 64 ∧ sameEntries [(x, 3)] s.eng t.eng ∧
          t = { s with eng := { s.eng with now := now, regs := t.eng.regs, dom := t.eng.dom, links := t.eng.links } }) ∧
      (reg s.eng (0x5001 + l.val) 4 < m.sends →
        ∃ t, exec (.retransmitTimeout l c) s = .next t ∧ f t.eng 0 2 = 2 ∧ (linkOf t.eng l.val).store = [] ∧
          t.eng.now = now ∧ sameMemory s.eng t.eng))

/-- A started queue is active and its read index is asked for: by a read of stack memory, as a free value of the
host's memory, or at once from a Pool, when it is the write index too; a finished one is not active. A message that
waits for a queue has its read index read again: a record that then fits is written, after a pad record where it must
be, and the queue's write index passes it; one that does not fit waits, counted once a frame. A copy that has waited
MCAST_STALL_LIMIT for its child's credit is cut: its job learns of it, and the child receives no further copy of its
group until the group's LAST. -/
def Obligations.QueuesAndCuts : Prop :=
  ∀ (l : Fin 2) (s : State),
    let x := 0x5006 + l.val
    (∀ (p : Port) (q : Fin 64), letThrough p x 2 s →
      (let a := queueField s.eng l.val q.val 16 8
       let started (t : State) (y : RxQueue) : Prop := exec (.queueStart p l q) s = .next t ∧
          queueActive t.eng l.val q.val = true ∧ queueOf t.eng l.val q.val = y ∧
          (∀ k, k ≠ q.val → queueOf t.eng l.val k = queueOf s.eng l.val k) ∧
          (∀ k, k < 64 → k ≠ q.val → queueActive t.eng l.val k = queueActive s.eng l.val k) ∧
          sameEntries [(x, 3)] s.eng t.eng ∧ t.eng.out = .access p x 2 0 :: s.eng.out ∧
          t = { s with eng := { s.eng with fresh := t.eng.fresh, ids := t.eng.ids, regs := t.eng.regs,
                                           agents := t.eng.agents, links := t.eng.links, out := t.eng.out } }
       ((regionOf a).1 = .stack → a % 4 = 0 → ∃ t r, started t { starting := true, reading := some r.id } ∧
          (agentOf t.eng (a / 0x1000000000)).inbox = (agentOf s.eng (a / 0x1000000000)).inbox ++ [r] ∧
          r.owner = .queue l.val q.val ∧ r.kind = .read ∧ r.lane = laneRemote ∧
          r.sects = [⟨a / 32 * 32 % 0x1000000000, []⟩]) ∧
       ((∀ c, ∀ m ∈ (chanOf s.eng l.val c).held, m.inQueue = false) →
         ((regionOf a).1 = .host → ∃ t,
           started t { write := Config.freeNat s.eng.fresh % 2 ^ 32, read := Config.freeNat s.eng.fresh % 2 ^ 32 }) ∧
         ((regionOf a).1 = .pool →
           let w := leNat ((readLocal s.eng a 4).map (·.1))
           ∃ t, started t { write := w, read := w }))) ∧
      (∃ t, exec (.queueFinish p l q) s = .next t ∧ queueActive t.eng l.val q.val = false ∧
        (∀ k, k < 64 → k ≠ q.val → queueActive t.eng l.val k = queueActive s.eng l.val k) ∧
        t.eng.out = .access p x 2 0 :: s.eng.out ∧ sameMemory s.eng t.eng ∧
        ((∀ c, ∀ m ∈ (chanOf s.eng l.val c).held, m.inQueue = false) →
          onlyEntries s t ∧ sameEntries [(x, 3)] s.eng t.eng))) ∧
    (∀ c : Fin 4096, headMessage s.eng l.val c.val = none → exec (.queueRecordWrite l c) s = .next s) ∧
    (∀ (c : Fin 4096) m, headMessage s.eng l.val c.val = some m → m.inQueue = true →
      let q := chField s.eng l.val c.val 50 6
      let y := queueOf s.eng l.val q
      let rd := queueField s.eng l.val q 16 8
      let r := leNat ((readLocal s.eng rd 4).map (·.1))
      let w := y.write
      let size := 2 ^ queueField s.eng l.val q 8 1
      let n := (recordBytes m).length
      let used := (w + 2 ^ 32 - r % 2 ^ 32) % 2 ^ 32
      let fits := w % size + n ≤ size ∧ used + n ≤ size
      let padFits := size < w % size + n ∧ used + (size - w % size) + n ≤ size
      let written (end_ : Nat) : Prop := ∃ t, exec (.queueRecordWrite l c) s = .next t ∧
        queueOf t.eng l.val q = ⟨end_ % 2 ^ 32, r, false, none, y.open_ ++ [(m.id, end_ % 2 ^ 32, false)]⟩ ∧
        chField t.eng l.val c.val 160 32 = (m.seq + 1) % 2 ^ 32 ∧ t.port = s.port ∧ t.pending = s.pending ∧
        (∀ y ∈ (chanOf t.eng l.val c.val).held, y.id ≠ m.id)
      ((regionOf rd).1 = .stack → y.reading.isSome = true → exec (.queueRecordWrite l c) s = .next s) ∧
      ((regionOf rd).1 = .stack → y.reading = none → rd % 4 = 0 →
        ∃ t z, exec (.queueRecordWrite l c) s = .next t ∧ queueOf t.eng l.val q = { y with reading := some z.id } ∧
          (agentOf t.eng (rd / 0x1000000000)).inbox = (agentOf s.eng (rd / 0x1000000000)).inbox ++ [z] ∧
          z.owner = .queue l.val q ∧ z.kind = .read ∧ z.sects = [⟨rd / 32 * 32 % 0x1000000000, []⟩] ∧
          t = { s with eng := { s.eng with ids := t.eng.ids, agents := t.eng.agents, links := t.eng.links } }) ∧
      ((regionOf rd).1 = .pool → queueActive s.eng l.val q = true → y.starting = false →
        liveChannels s.eng l.val = [c.val] → chField s.eng l.val c.val 49 1 = 1 →
        (fits → written (w + n)) ∧ (¬fits → padFits → written (w + (size - w % size) + n)) ∧
        (¬fits → ¬padFits →
          ∃ t, exec (.queueRecordWrite l c) s = .next t ∧ queueOf t.eng l.val q = ⟨w, r, false, none, y.open_⟩ ∧
            (∃ y ∈ (chanOf t.eng l.val c.val).held, y.id = m.id ∧ y.inQueue = true) ∧
            (chanOf t.eng l.val c.val).holdFrame = some (frameNo s.eng) ∧
            reg t.eng (0x5010 + l.val) 13 = (if (chanOf s.eng l.val c.val).holdFrame = some (frameNo s.eng)
              then reg s.eng (0x5010 + l.val) 13 else (reg s.eng (0x5010 + l.val) 13 + 1) % 2 ^ 64) ∧
            sameEntries [(0x5010 + l.val, 13)] s.eng t.eng ∧
            t = { s with eng := { s.eng with regs := t.eng.regs, links := t.eng.links } }))) ∧
    (∀ (c g : Nat) (b : MsgBody), g ∈ (chanOf s.eng l.val c).cutGroups →
      (linkOf (giveMessage l.val c (some g) b s.eng) l.val).waiting = (linkOf s.eng l.val).waiting) ∧
    (∀ c : Fin 4096,
      ((∀ m ∈ (linkOf s.eng l.val).waiting, m.channel = c.val → m.group = none) →
        exec (.multicastCut l c) s = .next s) ∧
      (∀ m, (linkOf s.eng l.val).waiting = [m] → m.channel = c.val → m.group.isSome = true →
        chField s.eng l.val c.val 80 7 = 0 → chField s.eng l.val c.val 0 2 = 1 →
        ∃ t, exec (.multicastCut l c) s = .next t ∧ (linkOf t.eng l.val).waiting = [] ∧
          (chanOf t.eng l.val c.val).cutGroups =
            (chanOf s.eng l.val c.val).cutGroups ++ (if m.last then [] else m.group.toList) ∧
          reg t.eng (0x5010 + l.val) 14 = (reg s.eng (0x5010 + l.val) 14 + 1) % 2 ^ 64 ∧
          t.eng.now = max s.eng.now (s.eng.spBase.getD 0 + 2 * (m.since + reg s.eng 0x5008 2)) ∧
          (∀ j z, m.source = .job j → jobOf s.eng j = some z → z.id = j →
            jobOf t.eng j = some { z with sends := z.sends.erase m.id, cut := true }) ∧ sameMemory s.eng t.eng))

/-- Semaphores. SEM_CMD adds to or subtracts from a resident semaphore modulo 2^32, joins the swap queue for one that
is not resident, waits for room where that is full, and ends BAD_VALUE for one that does not translate. A write of
SEM_VALUES releases every waiter whose condition then holds and leaves the others. A write of SEM_MAP sets its entry
without its reserved bits, applies an ADD that the swap queue held for it, and is denied where it would take away a
semaphore with waiters. A waiter whose limit passes is gone and counted. A barrier whose condition holds steps its
trigger value on and takes its actions, a post and a SEM_ADD message, or counts and raises the message that its plane
cannot take; one whose condition does not hold does nothing. -/
def Obligations.Semaphores : Prop :=
  (∀ (p : Port) (ctx : Fin 64) (v : Fin 1024) (k : Word32) (s : State) (c : Instr) (add : Bool),
    (c = .semCmdAdd p ctx v k ∧ add = true) ∨ (c = .semCmdSub p ctx v k ∧ add = false) → letThrough p 0x5102 1 s →
    let ph := physOf s.eng ctx.val v.val
    (translates s.eng ctx.val v.val = false → ∃ t, exec c s = .next t ∧ onlyEntries s t ∧
      t.eng.out = .access p 0x5102 1 3 :: s.eng.out) ∧
    (translates s.eng ctx.val v.val = true → resident s.eng ctx.val v.val = true → s.eng.sems.waiters = [] →
      ∃ t, exec c s = .next t ∧ semVal t.eng ph =
          (if add then semVal s.eng ph + k.toNat else semVal s.eng ph + 2 ^ 32 - k.toNat) % 2 ^ 32 ∧
        (∀ q, q < 4096 → q ≠ ph → semVal t.eng q = semVal s.eng q) ∧ t.eng.out = .access p 0x5102 1 0 :: s.eng.out ∧
        reg t.eng 0x5120 1 = (reg s.eng 0x5120 1 + 1) % 2 ^ 64 ∧
        t = { s with eng := { s.eng with dom := t.eng.dom, regs := t.eng.regs, out := t.eng.out } }) ∧
    (translates s.eng ctx.val v.val = true → resident s.eng ctx.val v.val = false → s.eng.sems.swap.length < 256 →
      ∃ t o, exec c s = .next t ∧ t.eng.sems = { s.eng.sems with swap := s.eng.sems.swap ++ [o] } ∧
        o.kind = (if add then .add else .sub) ∧ o.ctx = ctx.val ∧ o.v = v.val ∧ o.value = k.toNat ∧ o.source = .command ∧
        t.eng.dom = s.eng.dom ∧ sameEntries [(0x5120, 5)] s.eng t.eng ∧
        t.eng.out = .access p 0x5102 1 0 :: s.eng.out) ∧
    (translates s.eng ctx.val v.val = true → resident s.eng ctx.val v.val = false → 256 ≤ s.eng.sems.swap.length →
      ∃ t o, exec c s = .next t ∧ t.eng.sems = { s.eng.sems with queued := s.eng.sems.queued ++ [o] } ∧
        o.kind = (if add then .add else .sub) ∧ o.ctx = ctx.val ∧ o.v = v.val ∧ o.value = k.toNat ∧ o.source = .command ∧
        t = { s with eng := { s.eng with sems := t.eng.sems, out := .access p 0x5102 1 0 :: s.eng.out } })) ∧
  (∀ (p : Port) (sem : Fin 4096) (v : Word32) (s : State), letThrough p 0x5100 1 s →
    let met (w : Waiter) : Bool := w.sem == sem.val && gateMet v.toNat w.op.value
    ∃ t, exec (.semValuesWrite p sem v) s = .next t ∧
      (s.eng.sems.waiters = [] → semVal t.eng sem.val = v.toNat ∧ t.eng.out = .access p 0x5100 1 0 :: s.eng.out ∧
        ∀ q, q < 4096 → q ≠ sem.val → semVal t.eng q = semVal s.eng q) ∧
      t.eng.sems.waiters = s.eng.sems.waiters.filter (fun w => !met w) ∧
      reg t.eng 0x5120 2 = (reg s.eng 0x5120 2 + (s.eng.sems.waiters.filter met).length) % 2 ^ 64 ∧
      t.port = s.port ∧ t.pending = s.pending) ∧
  (∀ (p : Port) (ctx : Fin 64) (v : Fin 1024) (w : Word32) (s : State), letThrough p 0x5101 1 s →
    let x := w.toNat % 2 ^ 14
    (semMapDenied s.eng ctx.val v.val x = true → ∃ t, exec (.semMapWrite p ctx v w) s = .next t ∧ onlyEntries s t ∧
      t.eng.out = .access p 0x5101 1 7 :: s.eng.out) ∧
    (semMapDenied s.eng ctx.val v.val x = false → s.eng.sems.queued = [] → s.eng.sems.waiters = [] → x.testBit 12 = true →
      x.testBit 13 = true → ∀ o, s.eng.sems.swap = [o] → o.kind = .add → o.source = .command → o.ctx = ctx.val →
      o.v = v.val → ∃ t, exec (.semMapWrite p ctx v w) s = .next t ∧ t.eng.sems = { s.eng.sems with swap := [] } ∧
        semVal t.eng (x % 4096) = (semVal s.eng (x % 4096) + o.value) % 2 ^ 32 ∧ semMap t.eng ctx.val v.val = x) ∧
    (semMapDenied s.eng ctx.val v.val x = false → s.eng.sems.swap = [] → s.eng.sems.queued = [] →
      ∃ t, exec (.semMapWrite p ctx v w) s = .next t ∧ semMap t.eng ctx.val v.val = x ∧
        (∀ a b, a < 64 → b < 1024 → ¬(a = ctx.val ∧ b = v.val) → semMap t.eng a b = semMap s.eng a b) ∧
        t = { s with eng := { s.eng with dom := t.eng.dom, out := .access p 0x5101 1 0 :: s.eng.out } })) ∧
  (∀ (id : Nat) (s : State),
    ((∀ w ∈ s.eng.sems.waiters, w.id ≠ id) → exec (.waiterExpiry id) s = .next s) ∧
    (∀ w, s.eng.sems.waiters.find? (fun w => w.id == id) = some w →
      ∃ t, exec (.waiterExpiry id) s = .next t ∧ t.eng.now = max s.eng.now w.op.limit ∧
        t.eng.sems.waiters = s.eng.sems.waiters.filter (fun y => y.id ≠ id) ∧
        reg t.eng 0x5120 3 = (reg s.eng 0x5120 3 + 1) % 2 ^ 64 ∧ t.port = s.port ∧ t.pending = s.pending ∧
        (∀ j x, w.op.source = .job j → w.op.kind = .waitGe → jobOf s.eng j = some x → x.id = j →
          jobOf t.eng j = some { x with waitEnd := some ⟨.waitExpired, 0x5831⟩ }))) ∧
  (∀ (b : Fin 64) (s : State),
    let w := barrierOf s.eng b.val
    let trig := bits w 32 32
    (barrierWatch s.eng w = none → exec (.barrierFire b) s = .next s) ∧
    (∀ x, barrierWatch s.eng w = some x → gateMet x trig = false → exec (.barrierFire b) s = .next s) ∧
    (∀ x, barrierWatch s.eng w = some x → gateMet x trig = true → w.testBit 64 = false →
      ∃ t, exec (.barrierFire b) s = .next t ∧ bits (barrierOf t.eng b.val) 32 32 = (trig + bits w 116 12) % 2 ^ 32 ∧
        reg t.eng 0x5120 6 = (reg s.eng 0x5120 6 + 1) % 2 ^ 64 ∧ sameEntries [(0x5120, 6)] s.eng t.eng ∧
        (w.testBit 78 = false → t.eng.docks = s.eng.docks) ∧
        (w.testBit 78 = true → bits w 79 6 < 48 → ∃ post, (dockOf t.eng (bits w 79 6)).posts =
            (dockOf s.eng (bits w 79 6)).posts ++ [post] ∧ post.ctr = bits w 85 5 ∧ post.amount = bits w 100 16) ∧
        t = { s with eng := { s.eng with dom := t.eng.dom, regs := t.eng.regs, docks := t.eng.docks } }) ∧
    (∀ x, barrierWatch s.eng w = some x → gateMet x trig = true → w.testBit 64 = true → w.testBit 78 = false →
      let p := bits w 65 1
      let c := bits w 66 12
      let f (e : Eng) := chField e p c
      ((linkEnabled s.eng p = false ∨ f s.eng 0 2 ≠ 1) →
        ∃ t, exec (.barrierFire b) s = .next t ∧ bits (barrierOf t.eng b.val) 32 32 = (trig + bits w 116 12) % 2 ^ 32 ∧
          reg t.eng 0x5120 6 = (reg s.eng 0x5120 6 + 1) % 2 ^ 64 ∧
          reg t.eng 0x5120 7 = (reg s.eng 0x5120 7 + 1) % 2 ^ 64 ∧
          t.eng.raised = s.eng.raised ++ [(72 + p, 0x2017)] ∧
          t = { s with eng := { s.eng with dom := t.eng.dom, regs := t.eng.regs, raised := t.eng.raised } }) ∧
      (linkEnabled s.eng p = true → f s.eng 0 2 = 1 → f s.eng 38 1 = 0 → f s.eng 80 7 ≠ 0 →
        (linkOf s.eng p).waiting = [] → storeUsed s.eng p + 32 ≤ 4194304 →
        ∃ t m id, exec (.barrierFire b) s = .next t ∧
          bits (barrierOf t.eng b.val) 32 32 = (trig + bits w 116 12) % 2 ^ 32 ∧
          reg t.eng 0x5120 6 = (reg s.eng 0x5120 6 + 1) % 2 ^ 64 ∧ reg t.eng 0x5120 7 = reg s.eng 0x5120 7 ∧
          (linkOf t.eng p).store = (linkOf s.eng p).store ++ [m] ∧ m.source = .barrier p id ∧ m.channel = c ∧
          m.type = 6 ∧ m.body = bits w 90 10 + bits w 100 16 * 2 ^ 10 ∧ m.last = true ∧ m.seq = f s.eng 128 32 ∧
          (linkOf t.eng p).stream.length = (linkOf s.eng p).stream.length + 1 ∧
          f t.eng 128 32 = (f s.eng 128 32 + 1) % 2 ^ 32 ∧ f t.eng 80 7 = f s.eng 80 7 - 1)))

/-! ### Placement (spec/14_placement_resharding.md) -/

/-- A write of ALLOC_REQ: BUSY while the bank's earlier operation waits, BAD_VALUE where a field that its operation
uses is out of range, and otherwise the operation joins the queue of its bank, ALLOC_RESULT shows PENDING, and a FREE
that meets no failure makes its slot freeing at once. A write of HANDLE_QUERY sets the port's own bank, and
HANDLE_INFO then describes the live or freeing handle it names, or reads zero for another. The oldest operation of
ALLOC_REQ. An ALLOC fails with the first of 0x5812, 0x5814 and 0x5813 that holds, or makes its slot live with the
layout it asked for or was given. A FREE fails, or its slot, freeing, is released where it has no pins: its generation
advances, or after the last one it is retired. With pins the result says FREEING. HANDLE_RELEASE releases a freeing
slot without pins that no waiting FREE has made freeing, and does nothing to another. -/
def Obligations.Allocations : Prop :=
  (∀ (p : Port) (s : State),
     (∀ (c : Instr) (v : Nat), letThrough p 0x5802 1 s →
       ((∃ (pol : BitVec 2) (f : BitVec 3) (ph : BitVec 5) (n : Word32), c = .alloc p pol f ph n ∧
           v = 1 + pol.toNat * 2 ^ 2 + f.toNat * 2 ^ 4 + ph.toNat * 2 ^ 7 + n.toNat * 2 ^ 32) ∨
         (∃ h : BitVec 24, c = .free p h ∧ v = 2 + 0xFF0 + h.toNat * 2 ^ 64)) →
       let b := bankOf p
       let waits := s.eng.heap.ops.any (·.1 == b)
       let h := bits v 64 24
       let m := bits v 0 2 == 2 && (freeFails s.eng h).isNone
       (waits = true ∨ allocReqOk v = false → ∃ t, exec c s = .next t ∧ onlyEntries s t ∧
         t.eng.out = .access p 0x5802 1 (if waits = true then 4 else 3) :: s.eng.out ∧
         sameEntries [(0x1010, 1), (0x1010, 2), (0x1010, 3), (0x1010, 4), (0x1010, 5)] s.eng t.eng) ∧
       (waits = false → allocReqOk v = true →
         ∃ t, exec c s = .next t ∧ t.eng.heap.ops = s.eng.heap.ops ++ [(b, v, m)] ∧
           regB t.eng b 0x5802 1 = v ∧ regB t.eng b 0x5802 2 = 2 ^ 24 ∧
           (∀ b' i k, i < 65536 → k < 256 → ¬(b' = b ∧ i = 0x5802 ∧ (k = 1 ∨ k = 2)) →
             regB t.eng b' i k = regB s.eng b' i k) ∧
           (m = true → slotOf t.eng (h % 65536) = { slotOf s.eng (h % 65536) with state := .freeing }) ∧
           (∀ k, (m = true → k ≠ h % 65536) → slotOf t.eng k = slotOf s.eng k) ∧
           t = { s with eng := { s.eng with
             regs := t.eng.regs
             heap := { s.eng.heap with ops := t.eng.heap.ops, slots := t.eng.heap.slots }
             out := .access p 0x5802 1 0 :: s.eng.out } })) ∧
     (∀ v : Word32, letThrough p 0x5803 1 s →
       let q := v.toNat % 2 ^ 24
       let h := slotOf s.eng (q % 65536)
       ∃ t, exec (.handleQueryWrite p v) s = .next t ∧ onlyEntries s t ∧ regB t.eng (bankOf p) 0x5803 1 = q ∧
         (∀ b i k, i < 65536 → k < 256 → ¬(b = bankOf p ∧ i = 0x5803 ∧ k = 1) → regB t.eng b i k = regB s.eng b i k) ∧
         t.eng.out = .access p 0x5803 1 0 :: s.eng.out ∧
         (h.gen ≠ q / 65536 ∨ (h.state ≠ .live ∧ h.state ≠ .freeing) → readEntry p 0x5803 2 t = (.ok, 0)) ∧
         (h.gen = q / 65536 → h.state = .live ∨ h.state = .freeing →
           readEntry p 0x5803 2 t = (.ok, (if h.state = .live then 1 else 2) + h.policy * 2 ^ 2 +
           (if h.policy = 0 then h.field else 7) * 2 ^ 4 + h.phase * 2 ^ 7 + h.pins % 2 ^ 20 * 2 ^ 12 +
           h.granules * 2 ^ 32 + h.baseRow * 2 ^ 64 + h.rows * 2 ^ 96)))) ∧
  (∀ (s : State),
     let released (k : Nat) (t : State) : Prop :=
       let g := (slotOf s.eng k).gen
       slotOf t.eng k = (if g = 255 then { gen := 255, state := .retired } else { gen := g + 1 }) ∧
       t.eng.heap.freed = (if g = 255 then s.eng.heap.freed else s.eng.heap.freed ++ [k]) ∧
       reg t.eng 0x5804 2 = (reg s.eng 0x5804 2 + 1) % 2 ^ 64 ∧
       reg t.eng 0x5804 4 = (if g = 255 then (reg s.eng 0x5804 4 + 1) % 2 ^ 64 else reg s.eng 0x5804 4)
     let heapOnly (t : State) : Prop := t = { s with eng := { s.eng with regs := t.eng.regs, heap := t.eng.heap } }
     let result (b v : Nat) (t : State) : Prop := regB t.eng b 0x5802 2 = v ∧
       ∀ b', b' ≠ b → regB t.eng b' 0x5802 2 = regB s.eng b' 0x5802 2
     (s.eng.heap.ops = [] → exec .allocOperationComplete s = .next s) ∧
     (∀ b req m rest, s.eng.heap.ops = (b, req, m) :: rest → bits req 0 2 = 1 →
       let pol := bits req 2 2
       let f := if pol ≠ 0 then 7 else if bits req 4 3 = 7 then chooseField s.eng else bits req 4 3
       let ph := if bits req 7 5 = 31 then choosePhase s.eng pol f else bits req 7 5
       let n := bits req 32 32
       let rows := (n + ph + (if pol = 1 then 24 else 6) - 1) / (if pol = 1 then 24 else 6)
       let base := baseRowFor s.eng (if pol = 0 then upFrom (6 * f) 6 else below 24) rows
       let fits := reg s.eng 0x5800 1 + rows ≤ 2 ^ 24
       (∀ st d, (nextSlot s.eng = none ∧ st = Status.exhausted.code ∧ d = 0x5812) ∨
           (nextSlot s.eng ≠ none ∧ ¬fits ∧ st = Status.outOfRange.code ∧ d = 0x5814) ∨
           (nextSlot s.eng ≠ none ∧ fits ∧ base = none ∧ st = Status.exhausted.code ∧ d = 0x5813) →
         ∃ t, exec .allocOperationComplete s = .next t ∧ result b (st + d * 2 ^ 8) t ∧
           reg t.eng 0x5804 3 = (reg s.eng 0x5804 3 + 1) % 2 ^ 64 ∧ sameEntries [(0x5802, 2), (0x5804, 3)] s.eng t.eng ∧
           t.eng.heap = { s.eng.heap with ops := rest } ∧ heapOnly t) ∧
       (∀ k a, nextSlot s.eng = some k → fits → base = some a →
         let g := (slotOf s.eng k).gen
         ∃ t, exec .allocOperationComplete s = .next t ∧ t.eng.heap.ops = rest ∧
           slotOf t.eng k = ⟨g, .live, pol, f % 4, ph, n, a, rows, 0⟩ ∧
           (∀ j, j ≠ k → slotOf t.eng j = slotOf s.eng j) ∧
           result b ((k + g * 65536) * 2 ^ 32 + f * 2 ^ 56 + ph * 2 ^ 59 + a * 2 ^ 64 + rows * 2 ^ 96) t ∧
           reg t.eng 0x5804 1 = (reg s.eng 0x5804 1 + 1) % 2 ^ 64 ∧
           sameEntries [(0x5802, 2), (0x5804, 1)] s.eng t.eng ∧ heapOnly t)) ∧
     (∀ b req m rest, s.eng.heap.ops = (b, req, m) :: rest → bits req 0 2 = 2 →
       let h := bits req 64 24
       let k := h % 65536
       (m = false → ∀ st d, freeFails s.eng h = some (st, d) →
         ∃ t, exec .allocOperationComplete s = .next t ∧ result b (st.code + d * 2 ^ 8 + h * 2 ^ 32) t ∧
           reg t.eng 0x5804 3 = (reg s.eng 0x5804 3 + 1) % 2 ^ 64 ∧ sameEntries [(0x5802, 2), (0x5804, 3)] s.eng t.eng ∧
           t.eng.heap = { s.eng.heap with ops := rest } ∧ heapOnly t) ∧
       ((m = true ∧ (slotOf s.eng k).state = .freeing) ∨ (m = false ∧ freeFails s.eng h = none) →
         ∃ t, exec .allocOperationComplete s = .next t ∧ t.eng.heap.ops = rest ∧ heapOnly t ∧
           (∀ j, j ≠ k → slotOf t.eng j = slotOf s.eng j) ∧
           sameEntries [(0x5802, 2), (0x5804, 2), (0x5804, 4)] s.eng t.eng ∧
           ((slotOf s.eng k).pins = 0 → released k t ∧ result b (h * 2 ^ 32) t) ∧
           ((slotOf s.eng k).pins ≠ 0 → slotOf t.eng k = { slotOf s.eng k with state := .freeing } ∧
             result b (2 ^ 25 + h * 2 ^ 32) t))) ∧
     (∀ k : Fin 65536,
       ((slotOf s.eng k.val).state ≠ .freeing ∨ (slotOf s.eng k.val).pins ≠ 0 ∨ freeWaits s.eng k.val = true →
         exec (.handleRelease k) s = .next s) ∧
       ((slotOf s.eng k.val).state = .freeing → (slotOf s.eng k.val).pins = 0 → freeWaits s.eng k.val = false →
         ∃ t, exec (.handleRelease k) s = .next t ∧ released k.val t ∧ heapOnly t ∧
           (∀ j, j ≠ k.val → slotOf t.eng j = slotOf s.eng j) ∧ sameEntries [(0x5804, 2), (0x5804, 4)] s.eng t.eng)))

/-! ### Firmware and mailboxes (spec/15_oprun_firmware.md) -/

/-- The mailboxes' controls. POST makes an EMPTY mailbox POSTED, and is denied otherwise. ACK from H or D makes
F2H_STATE EMPTY, and is denied to another port. SEND from a core copies the oldest queued message, padded with zeros,
into F2H_MSG, makes the state FULL, and sends MBOX_VECTOR unless the block is orphaned or, by the model's choice (log
entry 127), BT_READY is low; by the model's choice (log entry 151) F2H_MSG is sent as it stands where no message is
queued, and a SEND while F2H_STATE is FULL has no effect; from another port it is denied. In recovery mode the ROM
sends a queued message without an interrupt. -/
def Obligations.MailboxControls : Prop :=
  ∀ (p : Port) (s : State),
    (letThrough p 0x6002 2 s →
      (reg s.eng 0x6002 3 = 0 → ∃ t, exec (.h2fPost p) s = .next t ∧ onlyEntries s t ∧ reg t.eng 0x6002 3 = 1 ∧
        sameEntries [(0x6002, 3)] s.eng t.eng ∧ t.eng.out = .access p 0x6002 2 0 :: s.eng.out) ∧
      (reg s.eng 0x6002 3 ≠ 0 → ∃ t, exec (.h2fPost p) s = .next t ∧ onlyEntries s t ∧
        sameEntries [(0x1010, 1), (0x1010, 2), (0x1010, 3), (0x1010, 4), (0x1010, 5)] s.eng t.eng ∧
        t.eng.out = .access p 0x6002 2 7 :: s.eng.out)) ∧
    (letThrough p 0x6003 2 s →
      (p = .h ∨ p = .d → ∃ t, exec (.f2hAck p) s = .next t ∧ onlyEntries s t ∧ reg t.eng 0x6003 3 = 0 ∧
        sameEntries [(0x6003, 3)] s.eng t.eng ∧ t.eng.out = .access p 0x6003 2 0 :: s.eng.out) ∧
      (p ≠ .h → p ≠ .d → ∃ t, exec (.f2hAck p) s = .next t ∧ onlyEntries s t ∧ t.eng.regs = s.eng.regs ∧
        t.eng.out = .access p 0x6003 2 7 :: s.eng.out) ∧
      ((∀ k, p ≠ .f k) → ∃ t, exec (.f2hSend p) s = .next t ∧ onlyEntries s t ∧
        sameEntries [(0x1010, 1), (0x1010, 2), (0x1010, 3), (0x1010, 4), (0x1010, 5)] s.eng t.eng ∧
        t.eng.out = .access p 0x6003 2 7 :: s.eng.out) ∧
      (∀ k m rest, p = .f k → reg s.eng 0x6003 3 = 0 → s.eng.fw.queue = m :: rest → m.length ≤ 256 →
        ∃ t, exec (.f2hSend p) s = .next t ∧ reg t.eng 0x6003 3 = 1 ∧
          domBytes t.eng 0x6003 1 0 256 = m ++ List.replicate (256 - m.length) 0 ∧
          sameEntries [(0x6003, 3)] s.eng t.eng ∧
          t = { s with eng := { s.eng with
            regs := t.eng.regs, dom := t.eng.dom, fw := { s.eng.fw with queue := rest }
            out := .access p 0x6003 2 0 ::
              (if s.eng.fw.suppress = true ∨ isReady s.eng = false then s.eng.out else .msi (reg s.eng 0x6003 4) :: s.eng.out) } }) ∧
      (∀ k, p = .f k → reg s.eng 0x6003 3 = 0 → s.eng.fw.queue = [] →
        ∃ t, exec (.f2hSend p) s = .next t ∧ reg t.eng 0x6003 3 = 1 ∧ sameEntries [(0x6003, 3)] s.eng t.eng ∧
          t = { s with eng := { s.eng with
            regs := t.eng.regs
            out := .access p 0x6003 2 0 ::
              (if s.eng.fw.suppress = true ∨ isReady s.eng = false then s.eng.out else .msi (reg s.eng 0x6003 4) :: s.eng.out) } }) ∧
      (∀ k, p = .f k → reg s.eng 0x6003 3 ≠ 0 →
        exec (.f2hSend p) s = .next { s with eng := { s.eng with out := .access p 0x6003 2 0 :: s.eng.out } })) ∧
    (s.eng.run = .recovery → p = .f 0 → s.eng.fw.queue = [] → exec (.f2hSend p) s = .next s) ∧
    (∀ m rest, s.eng.run = .recovery → p = .f 0 → reg s.eng 0x6003 3 = 0 → s.eng.fw.queue = m :: rest →
      m.length ≤ 256 →
      ∃ t, exec (.f2hSend p) s = .next t ∧ reg t.eng 0x6003 3 = 1 ∧
        domBytes t.eng 0x6003 1 0 256 = m ++ List.replicate (256 - m.length) 0 ∧
        t = { s with eng := { s.eng with
          regs := t.eng.regs, dom := t.eng.dom, fw := { s.eng.fw with queue := rest } } })

/-- Requests. A command whose message is not the one posted, or is not sound, changes nothing. An unsound message is
answered with BAD_ENTRY and its detail (a free value for a reserved byte, by the model's choice, log entry 143), and
counted. Without an active image every request but HELLO and BOOT is denied with 0x6013. HELLO and STATUS are answered
with their payloads. BOOT is denied in recovery mode and outside ROM_WAIT; UPDATE is denied unless the image runs;
each is else TAKEN while its image is checked. ADOPT is denied unless the block is orphaned or parked; it ends both.
CORE_RESTART is denied for core 0 and, by the model's choice (log entry 92), for a core that does not exist; it
restarts another one that runs, and its fourth restart within 1 s fails it. -/
def Obligations.Requests : Prop :=
  ∀ (s : State),
    let answers (c : Instr) (f : List (Nat × Nat)) (msg : List Byte) : Prop :=
      ∃ t, exec c s = .next t ∧ t.eng.fw.queue = s.eng.fw.queue ++ [msg] ∧ reg t.eng 0x6002 3 = 0 ∧
        t.eng.fw.taken = none ∧ sameEntries f s.eng t.eng ∧
        t = { s with eng := { s.eng with
          regs := t.eng.regs, fw := { s.eng.fw with queue := t.eng.fw.queue, taken := none } } }
    (∀ c type, (c, type) ∈ [(Instr.hello, 1), (.boot, 2), (.update, 3), (.adopt, 4), (.coreRestart, 5), (.status, 6)] →
      ((∀ m, posted s.eng = some m → requestBad s.eng m ≠ none ∨ msgField m 1 1 ≠ type) → exec c s = .next s) ∧
      (∀ m, posted s.eng = some m → requestBad s.eng m = none → msgField m 1 1 = type → s.eng.fw.active = false → 2 < type →
        answers c [(0x6002, 3)] (mboxHeader (128 + type) (msgField m 2 2) 0 Status.denied.code 0x6013))) ∧
    ((∀ m, posted s.eng = some m → requestBad s.eng m = none) → exec .mailboxBadRequest s = .next s) ∧
    (∀ m, posted s.eng = some m →
      let seq := msgField m 2 2
      let k := msgField m 16 1
      let on := requestBad s.eng m = none ∧ (s.eng.fw.active = true ∨ msgField m 1 1 < 3)
      let denied (c : Instr) (d : Nat) : Prop :=
        answers c [(0x6002, 3)] (mboxHeader (128 + msgField m 1 1) seq 0 Status.denied.code d)
      let checks (c : Instr) : Prop :=
        ∃ t, exec c s = .next t ∧ reg t.eng 0x6002 3 = 2 ∧ sameEntries [(0x6002, 3), (0x6000, 1)] s.eng t.eng ∧
          t = { s with eng := { s.eng with
            regs := t.eng.regs, fw := { s.eng.fw with taken := some m, checking := some (msgField m 1 1, seq) } } } ∧
          (c = .boot → fwState t.eng = 1) ∧ (c = .update → fwState t.eng = fwState s.eng)
      (∀ d, requestBad s.eng m = some d →
        ∃ t, exec .mailboxBadRequest s = .next t ∧ reg t.eng 0x6002 3 = 0 ∧
          reg t.eng 0x6020 7 = (reg s.eng 0x6020 7 + 1) % 2 ^ 64 ∧ sameEntries [(0x6002, 3), (0x6020, 7)] s.eng t.eng ∧
          t = { s with eng := { s.eng with
            fresh := s.eng.fresh + 1, regs := t.eng.regs
            fw := { s.eng.fw with
              taken := none
              queue := s.eng.fw.queue ++ [mboxHeader (msgField m 1 1 ||| 128) seq 0 Status.badEntry.code d] } } }) ∧
      (msgField m 0 1 ≠ 3 → requestBad s.eng m = some 0x6010) ∧
      (msgField m 0 1 = 3 → msgField m 1 1 = 0 ∨ 6 < msgField m 1 1 → requestBad s.eng m = some 0x6011) ∧
      (∀ n, msgField m 0 1 = 3 → requestLength (msgField m 1 1) = some n → msgField m 4 2 ≠ n →
        requestBad s.eng m = some 0x6012) ∧
      (on → msgField m 1 1 = 1 → answers .hello [(0x6002, 3)] (mboxHeader 0x81 seq 24 0 0 ++
        leBytes 1 (fwState s.eng) ++ leBytes 1 (reg s.eng 0x6000 3) ++ leBytes 2 0 ++ leBytes 4 (reg s.eng 0x6000 2) ++
        leBytes 4 (reg s.eng 0x6000 4) ++ leBytes 4 (reg s.eng 0x6004 2) ++ leBytes 8 (reg s.eng 0x6000 5))) ∧
      (on → msgField m 1 1 = 6 → answers .status [(0x6002, 3)] (mboxHeader 0x86 seq 16 0 0 ++
        (below 4).flatMap fun j => leBytes 1 (coreState s.eng j) ++ leBytes 1 (reg s.eng (coreIdx j) 5) ++
          leBytes 2 (storeGet (fun _ => 0) s.eng.fw.restartsBoot j))) ∧
      (on → msgField m 1 1 = 2 →
        (s.eng.run = .recovery → denied .boot 0x6014) ∧
        (s.eng.run ≠ .recovery → fwState s.eng ≠ 0 → denied .boot 0x6015) ∧
        (s.eng.run ≠ .recovery → fwState s.eng = 0 → checks .boot)) ∧
      (on → msgField m 1 1 = 3 →
        (fwState s.eng ≠ 3 → denied .update 0x6007) ∧ (fwState s.eng = 3 → checks .update)) ∧
      (on → msgField m 1 1 = 4 →
        (fwState s.eng ≠ 5 → fwState s.eng ≠ 6 → denied .adopt 0x6016) ∧
        (fwState s.eng = 5 ∨ fwState s.eng = 6 →
          ∃ t, exec .adopt s = .next t ∧ fwState t.eng = 3 ∧ reg t.eng 0x4000 1 = 1 ∧ reg t.eng 0x6002 3 = 0 ∧
            sameEntries [(0x6002, 3), (0x6000, 1), (0x4000, 1)] s.eng t.eng ∧
            t = { s with eng := { s.eng with
              regs := t.eng.regs
              fw := { s.eng.fw with
                taken := none, suppress := false, heartbeat := some s.eng.now
                queue := s.eng.fw.queue ++ [mboxHeader 0x84 seq 16 0 0 ++ leBytes 8 (reg s.eng 0x6000 5) ++
                  leBytes 4 (reg s.eng 0x6020 6) ++ leBytes 4 s.eng.fw.cancelled] } } })) ∧
      (on → msgField m 1 1 = 5 →
        (k = 0 ∨ 4 ≤ k → denied .coreRestart 0x6015) ∧
        (1 ≤ k → k < 4 → coreState s.eng k ≠ 2 → coreState s.eng k ≠ 3 →
          answers .coreRestart [(0x6002, 3)] (mboxHeader 0x85 seq 4 0 0 ++ leBytes 4 k)) ∧
        (1 ≤ k → k < 4 → coreState s.eng k = 2 ∨ coreState s.eng k = 3 →
          let own := reg s.eng (coreIdx k) 5
          let init := imageField s.eng (reg s.eng 0x6000 3) (32 + k) 1 % 16
          let recent := s.eng.fw.restarts.filter fun r => r.1 == k && decide (s.eng.now < r.2 + 1000000 * 3600)
          (3 ≤ recent.length → ∃ t, exec .coreRestart s = .next t ∧ reg t.eng (coreIdx k) 1 = 4 ∧
            t.eng.raised = s.eng.raised ++ [(74 + k, 0x6045)] ∧
            t.eng.fw.queue = s.eng.fw.queue ++ [mboxHeader 0x85 seq 4 0 0 ++ leBytes 4 k] ∧
            sameEntries [(0x6002, 3), (coreIdx k, 1)] s.eng t.eng ∧
            t = { s with eng := { s.eng with regs := t.eng.regs, raised := t.eng.raised, fw := t.eng.fw } }) ∧
          (recent.length < 3 → mayEnter s.eng init k = true →
          (∀ g ∈ s.eng.rings, ∀ x ∈ g.2.entries, x.owner ≠ own) →
          ∃ t, exec .coreRestart s = .next t ∧ reg t.eng (coreIdx k) 1 = 3 ∧ reg t.eng (coreIdx k) 5 = init ∧
            reg t.eng (coreIdx k) 4 = (reg s.eng (coreIdx k) 4 + 1) % 2 ^ 64 ∧
            reg t.eng (coreIdx k) 6 =
              3 + own * 2 ^ 2 + storeGet (fun _ => 0) s.eng.fw.pcs k % 2 ^ 32 * 2 ^ 8 ∧
            t.eng.fw.queue = s.eng.fw.queue ++ [mboxHeader 0x85 seq 4 0 0 ++ leBytes 4 k] ∧
            sameEntries [(0x6002, 3), (coreIdx k, 1), (coreIdx k, 4), (coreIdx k, 5), (coreIdx k, 6)] s.eng t.eng ∧
            t = { s with eng := { s.eng with regs := t.eng.regs, fw := t.eng.fw } }))))

/-- Images and the start. A check that fails is answered with its status and detail, and a BOOT's failure returns
FW_STATE to ROM_WAIT; an image that passes where its request no longer fits the state is denied (a BOOT by the model's
choice, log entry 91). A BOOT that passes makes region 0 active, clears the journals and compartment 0 to its default,
advances BOOT_GEN, and starts CP0 where its compartment admits it; an UPDATE that passes pauses the dispatcher. The
first READY, in time, makes FW_STATE running, the start succeed, BOOT_FAIL_COUNT zero, and the heartbeat timer run.
Without it within FW_START_LIMIT, or with a later one, the start fails with 0x1215. -/
def Obligations.ImagesAndStart : Prop :=
  ∀ (s : State),
    let region := reg s.eng 0x6000 3
    (s.eng.fw.checking = none ∨ s.eng.fw.taken = none → exec .imageCheckComplete s = .next s) ∧
    (∀ type seq m, s.eng.fw.checking = some (type, seq) → s.eng.fw.taken = some m →
      let checked := checkImage s.eng (type = 3) (msgField m 16 4) (msgField m 20 4)
      (∀ z, checked = some z → ∃ t, exec .imageCheckComplete s = .next t ∧
        fwState t.eng = (if type = 2 ∧ fwState s.eng = 1 then 0 else fwState s.eng) ∧ reg t.eng 0x6002 3 = 0 ∧
        sameEntries [(0x6002, 3), (0x6000, 1)] s.eng t.eng ∧
        t = { s with eng := { s.eng with
          regs := t.eng.regs
          fw := { s.eng.fw with
            checking := none, taken := none
            queue := s.eng.fw.queue ++ [mboxHeader (type ||| 128) seq 0 z.status.code z.detail] } } }) ∧
      (checked = none → type = 2 → fwState s.eng = 1 →
        let init := imageField s.eng 0 32 1 % 16
        ∃ t, exec .imageCheckComplete s = .next t ∧ t.eng.fw.active = true ∧ reg t.eng 0x6000 3 = 0 ∧
          reg t.eng 0x6000 4 = (reg s.eng 0x6000 4 + 1) % 2 ^ 32 ∧
          (∀ o, o < 0x3000 → domBytes t.eng 0x1203 1 o 1 = [0]) ∧
          (∀ o, o < 128 → domBytes t.eng 0x6010 1 o 1 = [compartment0 o]) ∧
          t.eng.fw.queue = s.eng.fw.queue ++ [mboxHeader 0x82 seq 0 0 0] ∧
          (init = 0 ∨ mayEnter s.eng init 0 = true → fwState t.eng = 2 ∧ coreState t.eng 0 = 2 ∧
            reg t.eng (coreIdx 0) 5 = init ∧ storeGet (fun _ => 0) t.eng.fw.pcs 0 = 0x10000000 + imageField s.eng 0 16 4 ∧
            sameEntries [(0x6000, 1), (0x6000, 3), (0x6000, 4), (0x6001, 1), (0x6002, 3), (coreIdx 0, 1),
              (coreIdx 0, 5)] s.eng t.eng ∧
            t = { s with eng := { s.eng with regs := t.eng.regs, dom := t.eng.dom, fw := t.eng.fw } })) ∧
      (checked = none → type = 3 → fwState s.eng = 3 →
        ∃ t, exec .imageCheckComplete s = .next t ∧ fwState t.eng = 4 ∧ reg t.eng 0x4000 1 = 2 ∧
          sameEntries [(0x6000, 1), (0x4000, 1)] s.eng t.eng ∧
          t = { s with eng := { s.eng with
            regs := t.eng.regs
            fw := { s.eng.fw with
              checking := none
              handover := some { at_ := s.eng.now, seq, oldVersion := reg s.eng 0x6000 2 } } } }) ∧
      (checked = none → ∀ d, (type = 2 ∧ fwState s.eng ≠ 1 ∧ d = 0x6015) ∨ (type = 3 ∧ fwState s.eng ≠ 3 ∧ d = 0x6007) →
        ∃ t, exec .imageCheckComplete s = .next t ∧ reg t.eng 0x6002 3 = 0 ∧ sameEntries [(0x6002, 3)] s.eng t.eng ∧
          t = { s with eng := { s.eng with
            regs := t.eng.regs
            fw := { s.eng.fw with
              checking := none, taken := none
              queue := s.eng.fw.queue ++ [mboxHeader (type ||| 128) seq 0 Status.denied.code d] } } })) ∧
    let late := ∃ t0, s.eng.fw.waitAt = some t0 ∧ t0 + reg s.eng 0x6004 4 * 3600 < s.eng.now
    let lateIn := ∃ h, s.eng.fw.handover = some h ∧ h.at_ + 300 * 3600 < s.eng.now
    (s.eng.fw.active = false → (fwState s.eng = 2 → ¬late) → ¬lateIn → exec .ready s = .next s) ∧
    (fwState s.eng ≠ 2 → fwState s.eng ≠ 4 → ¬lateIn → exec .ready s = .next s) ∧
    (fwState s.eng = 2 → late → s.eng.fw.started = false → s.eng.run ≠ .recovery → s.eng.fw.handover = none →
      exec .ready s = exec .fwStartLimitExpiry s) ∧
    (s.eng.fw.active = true → fwState s.eng = 2 → ¬late → ¬lateIn → s.eng.fw.queue.length < 16 →
      let v := imageField s.eng region 8 4
      ∃ t, exec .ready s = .next t ∧ fwState t.eng = 3 ∧ reg t.eng 0x6000 2 = v ∧ reg t.eng 0x1200 2 = 1 ∧
        bits (reg t.eng 0x1202 1) 0 8 = 0 ∧ reg t.eng 0x1202 1 / 256 = reg s.eng 0x1202 1 / 256 ∧
        sameEntries [(0x6000, 1), (0x6000, 2), (0x1200, 2), (0x1202, 1)] s.eng t.eng ∧
        t = { s with eng := { s.eng with
          regs := t.eng.regs
          fw := { s.eng.fw with
            heartbeat := some s.eng.now, started := true, notices := s.eng.fw.notices + 1
            queue := s.eng.fw.queue ++ [mboxHeader 0x40 (s.eng.fw.notices % 65536) 12 0 0 ++ (leBytes 4 v ++
              leBytes 4 (reg s.eng 0x6000 4) ++ leBytes 1 0 ++ leBytes 3 0)] } } }) ∧
    (∀ h, s.eng.fw.active = true → fwState s.eng = 4 → s.eng.fw.handover = some h → h.switched = true →
      h.rolled = false → h.ready = false → s.eng.now ≤ h.at_ + 300 * 3600 →
      ∃ t, exec .ready s = .next t ∧ fwState t.eng = 3 ∧ reg t.eng 0x6000 2 = imageField s.eng region 8 4 ∧
        reg t.eng 0x6020 2 = (reg s.eng 0x6020 2 + 1) % 2 ^ 64 ∧
        t.eng.fw.handover = some { h with ready := true } ∧
        sameEntries [(0x6000, 1), (0x6000, 2), (0x6020, 2), (0x6020, 8)] s.eng t.eng ∧
        t = { s with eng := { s.eng with regs := t.eng.regs, fw := t.eng.fw } }) ∧
    (s.eng.fw.waitAt = none ∨ s.eng.fw.started = true ∨ fwState s.eng = 8 ∨ s.eng.run = .recovery →
      exec .fwStartLimitExpiry s = .next s) ∧
    (∀ t0, s.eng.fw.waitAt = some t0 → s.eng.fw.started = false → fwState s.eng ≠ 8 → s.eng.run ≠ .recovery →
      let b := reg s.eng 0x1202 1
      ∃ t, exec .fwStartLimitExpiry s = .next t ∧ fwState t.eng = 8 ∧ reg t.eng 0x1200 2 = 2 ∧
        reg t.eng 0x1200 3 = 0x1215 ∧ bits (reg t.eng 0x1202 1) 0 8 = min 255 (bits b 0 8 + 1) ∧
        reg t.eng 0x1205 3 = (reg s.eng 0x1205 3 + 1) % 2 ^ 64 ∧
        sameEntries [(0x6000, 1), (0x1200, 2), (0x1200, 3), (0x1202, 1), (0x1205, 3)] s.eng t.eng ∧
        t = { s with eng := { s.eng with
          regs := t.eng.regs, raised := s.eng.raised ++ [(84, 0x1215)]
          now := max s.eng.now (t0 + reg s.eng 0x6004 4 * 3600) } })

/-- Cores. CORE_RUN releases the cores 1 to 3 whose bits are set and that are in reset into the active image, where
their compartments admit them, with the entry cause of a start. A kick in time restarts the watchdog of a running
core; a late one finds it expired. The expiry raises source 87 and restarts the core; it fails instead after three
restarts within a second, and in a handover the handover is rolled back, once. A restarting core that runs again is
reported, with the reply that CP0 owed and its journal's loss; for another core the write is denied. -/
def Obligations.CoresRunAndRestart : Prop :=
  ∀ (p : Port) (s : State),
    let region := reg s.eng 0x6000 3
    let init (j : Nat) := imageField s.eng region (32 + j) 1 % 16
    (∀ v : Word32, letThrough p 0x6000 6 s →
      (∀ j, 1 ≤ j → j ≤ 3 → mayEnter s.eng (init j) j = true) →
      let leaves (j : Nat) := v.toNat.testBit j = true ∧ coreState s.eng j = 0 ∧ s.eng.fw.active = true
      ∃ t, exec (.coreRunWrite p v) s = .next t ∧ reg t.eng 0x6000 6 = v.toNat &&& 0xE ∧
        (∀ j, 1 ≤ j → j ≤ 3 → leaves j → coreState t.eng j = 2 ∧ reg t.eng (coreIdx j) 5 = init j ∧
          storeGet (fun _ => 0) t.eng.fw.kicks j = s.eng.now ∧ storeGet (fun _ => 0) t.eng.fw.causes j = 0 ∧
          storeGet (fun _ => 0) t.eng.fw.pcs j =
            0x10000000 + region * 983040 + imageField s.eng region (16 + 4 * j) 4) ∧
        (∀ j, ¬(1 ≤ j ∧ j ≤ 3 ∧ leaves j) → j < 4 → coreState t.eng j = coreState s.eng j ∧
          reg t.eng (coreIdx j) 5 = reg s.eng (coreIdx j) 5) ∧
        sameEntries [(0x6000, 6), (coreIdx 1, 1), (coreIdx 1, 5), (coreIdx 2, 1), (coreIdx 2, 5), (coreIdx 3, 1),
          (coreIdx 3, 5)] s.eng t.eng ∧
        t = { s with eng := { s.eng with
          regs := t.eng.regs, fw := t.eng.fw, out := .access p 0x6000 6 0 :: s.eng.out } }) ∧
    (∀ k : Fin 4,
      let own := reg s.eng (coreIdx k.val) 5
      let state := coreState s.eng k.val
      let unowned := ∀ g ∈ s.eng.rings, ∀ x ∈ g.2.entries, x.owner ≠ own
      (letThrough p (coreIdx k.val) 3 s →
        let late := ∃ t0, s.eng.fw.kicks.lookup k.val = some t0 ∧ t0 + reg s.eng (coreIdx k.val) 2 * 3600 < s.eng.now
        (state = 2 → late → ∃ t u pc, exec (.wdogKick p k) s = .next t ∧ exec (.coreWatchdogExpiry k pc) s = .next u ∧
          pc.toNat = storeGet (fun _ => 0) s.eng.fw.pcs k.val % 2 ^ 32 ∧
          t = { u with eng := { u.eng with out := .access p (coreIdx k.val) 3 0 :: u.eng.out } }) ∧
        (state = 2 → ¬late → ∃ t, exec (.wdogKick p k) s = .next t ∧
          storeGet (fun _ => 0) t.eng.fw.kicks k.val = s.eng.now ∧
          (∀ j, j ≠ k.val → storeGet (fun _ => 0) t.eng.fw.kicks j = storeGet (fun _ => 0) s.eng.fw.kicks j) ∧
          t = { s with eng := { s.eng with
            fw := { s.eng.fw with kicks := t.eng.fw.kicks }, out := .access p (coreIdx k.val) 3 0 :: s.eng.out } }) ∧
        (state ≠ 2 → exec (.wdogKick p k) s =
          .next { s with eng := { s.eng with out := .access p (coreIdx k.val) 3 0 :: s.eng.out } })) ∧
      (∀ pc : Word32,
        (s.eng.fw.kicks.lookup k.val = none ∨ state ≠ 2 → exec (.coreWatchdogExpiry k pc) s = .next s) ∧
        (∀ t0, s.eng.fw.kicks.lookup k.val = some t0 → state = 2 →
          let now := max s.eng.now (t0 + reg s.eng (coreIdx k.val) 2 * 3600)
          let recent := (s.eng.fw.restarts.filter fun r => r.1 == k.val && now < r.2 + 1000000 * 3600).length
          (s.eng.fw.handover = none → recent < 3 → mayEnter s.eng (init k.val) k.val = true → unowned →
            ∃ t, exec (.coreWatchdogExpiry k pc) s = .next t ∧ coreState t.eng k.val = 3 ∧
              reg t.eng (coreIdx k.val) 4 = (reg s.eng (coreIdx k.val) 4 + 1) % 2 ^ 64 ∧
              reg t.eng (coreIdx k.val) 5 = init k.val ∧
              reg t.eng (coreIdx k.val) 6 = 1 + own * 2 ^ 2 + pc.toNat * 2 ^ 8 ∧
              sameEntries [(coreIdx k.val, 1), (coreIdx k.val, 4), (coreIdx k.val, 5), (coreIdx k.val, 6)] s.eng t.eng ∧
              t = { s with eng := { s.eng with
                now := now, regs := t.eng.regs, fw := t.eng.fw, raised := s.eng.raised ++ [(87, 0)] } }) ∧
          (s.eng.fw.handover = none → 3 ≤ recent →
            ∃ t, exec (.coreWatchdogExpiry k pc) s = .next t ∧ coreState t.eng k.val = 4 ∧
              (k.val = 1 → t.eng.fw.ringHeld = true) ∧ sameEntries [(coreIdx k.val, 1)] s.eng t.eng ∧
              t = { s with eng := { s.eng with
                now := now, regs := t.eng.regs, fw := t.eng.fw
                raised := s.eng.raised ++ [(87, 0), (74 + k.val, 0x6045)] } }) ∧
          (∀ h, s.eng.fw.handover = some h → h.rolled = false →
            ∃ t, exec (.coreWatchdogExpiry k pc) s = .next t ∧
              reg t.eng 0x6020 3 = (reg s.eng 0x6020 3 + 1) % 2 ^ 64 ∧
              reg t.eng (coreIdx k.val) 4 = reg s.eng (coreIdx k.val) 4 ∧
              t.eng.fw.handover = some { h with rolled := true, ready := false } ∧
              t.eng.raised = s.eng.raised ++ [(87, 0)] ∧ t.eng.now = now ∧ sameMemory s.eng t.eng) ∧
          (∀ h, s.eng.fw.handover = some h → h.rolled = true → exec (.coreWatchdogExpiry k pc) s =
            .next { s with eng := { s.eng with now := now, raised := s.eng.raised ++ [(87, 0)] } }))) ∧
      (letThrough p (coreIdx k.val) 1 s →
        (state ≠ 3 → ∃ t, exec (.coreStateRunning p k) s = .next t ∧ onlyEntries s t ∧
          t.eng.out = .access p (coreIdx k.val) 1 7 :: s.eng.out) ∧
        (state = 3 → k.val ≠ 0 ∨ s.eng.fw.taken = none → s.eng.fw.queue.length ≤ 14 →
          let last := reg s.eng (coreIdx k.val) 6
          let n := s.eng.fw.notices
          ∃ t, exec (.coreStateRunning p k) s = .next t ∧ coreState t.eng k.val = 2 ∧
            storeGet (fun _ => 0) t.eng.fw.kicks k.val = s.eng.now ∧
            t.eng.fw.queue = s.eng.fw.queue ++ (mboxHeader 0x41 (n % 65536) 8 0 0 ++ (leBytes 1 k.val ++
              leBytes 1 (bits last 0 2) ++ leBytes 1 (bits last 2 4) ++ leBytes 1 0 ++
              leBytes 4 (storeGet (fun _ => 0) s.eng.fw.ended k.val))) ::
              (if journalOk s.eng k.val = true then [] else
                [mboxHeader 0x42 ((n + 1) % 65536) 4 0 0 ++ leBytes 4 k.val]) ∧
            (k.val = 1 → t.eng.fw.ringHeld = false) ∧
            (k.val ≠ 1 → sameEntries [(coreIdx k.val, 1)] s.eng t.eng ∧
              t = { s with eng := { s.eng with
                regs := t.eng.regs, fw := t.eng.fw, out := .access p (coreIdx k.val) 1 0 :: s.eng.out } })) ∧
        (state = 3 → ∀ m, k.val = 0 → s.eng.fw.taken = some m →
          ∃ t more, exec (.coreStateRunning p k) s = .next t ∧ coreState t.eng 0 = 2 ∧ reg t.eng 0x6002 3 = 0 ∧
            t.eng.fw.taken = none ∧ t.eng.fw.queue = s.eng.fw.queue ++
              mboxHeader (msgField m 1 1 ||| 128) (msgField m 2 2) 0 Status.aborted.code 0x6043 :: more)))

/-- Compartments. A write of a record from a core without PRIV is denied; one past the record is out of its DOMAIN;
one that breaks R359, or takes from the core its own window, is not taken; another is stored without its reserved
bits. A core's store within a granted window of the firmware RAM writes its bytes there and nothing else, and a load
there changes nothing. An access outside its windows, outside every listed range, or at a gate that does not admit the
core is not performed, is counted and recorded, and restarts a core that runs its image. A fetch at the gate of
another compartment that admits the core enters that compartment. -/
def Obligations.CompartmentsGuard : Prop :=
  ∀ (k : Fin 4) (s : State),
    let own := reg s.eng (coreIdx k.val) 5
    let state := coreState s.eng k.val
    let up := controlUp s.eng = true ∧ (state = 1 ∨ state = 2 ∨ state = 3)
    (∀ (c : Fin 16) (off : BitVec 7) (data : List Byte), letThrough (.f k) (0x6010 + c.val) 1 s →
      let o := off.toNat
      let old := compRecord s.eng c.val
      let new := cleanRecord (old.take o ++ data ++ old.drop (o + data.length))
      let pc := storeGet (fun _ => 0) s.eng.fw.pcs k.val
      let priv := (compField s.eng own 0 1).testBit 1
      let sound := recordOk new = true ∧ ¬(c.val = own ∧ windowGrants new 2 pc 4 = false)
      let ends (st : Nat) : Prop := exec (.compartmentWrite (.f k) c off data) s =
        .next { s with eng := { s.eng with out := .access (.f k) (0x6010 + c.val) 1 st :: s.eng.out } }
      (128 < o + data.length → ends 6) ∧
      (o + data.length ≤ 128 → priv = false → ends 7) ∧
      (o + data.length ≤ 128 → priv = true → ¬sound → ends 3) ∧
      (o + data.length ≤ 128 → priv = true → sound →
        ∃ t, exec (.compartmentWrite (.f k) c off data) s = .next t ∧ compRecord t.eng c.val = new ∧
          (∀ d, d < 16 → d ≠ c.val → compRecord t.eng d = compRecord s.eng d) ∧
          t = { s with eng := { s.eng with
            dom := t.eng.dom, out := .access (.f k) (0x6010 + c.val) 1 0 :: s.eng.out } })) ∧
    (∀ (kind : AccessKind) (a : Word32) (n : Nat) (data : List Byte),
      let stored := kind = .store → data.length = n
      let lo := a.toNat - 0x10000000
      let right := match kind with | .load => 0 | .store => 1 | .fetch => 2
      let gates := if kind = .fetch ∧ (corePlace a.toNat n).isSome = true then gateAt s.eng own a.toNat else []
      let code := if gates = [] then (match kind with | .fetch => 0 | .load => 1 | .store => 2) else 3
      (0 < n → up → kind = .load → 0x10000000 ≤ a.toNat → a.toNat + n ≤ 0x10200000 →
        windowGrants (compRecord s.eng own) 0 a.toNat n = true → exec (.coreAccess k kind a n data) s = .next s) ∧
      (n = 0 ∨ ¬stored → exec (.coreAccess k kind a n data) s = .fault .outsideEnvironment) ∧
      (0 < n → stored → ¬up → exec (.coreAccess k kind a n data) s = .next s) ∧
      (0 < n → stored → up → kind = .store → 0x10000000 ≤ a.toNat → a.toNat + n ≤ 0x10200000 →
        windowGrants (compRecord s.eng own) 1 a.toNat n = true →
        ∃ t, exec (.coreAccess k kind a n data) s = .next t ∧ fwBytes t.eng lo n = data ∧
          (∀ o, o < lo ∨ lo + n ≤ o → fwByte t.eng o = fwByte s.eng o) ∧
          t = { s with eng := { s.eng with fwRam := t.eng.fwRam } }) ∧
      (0 < n → stored → up → a.toNat < 0x40000000 → (∀ c ∈ gates, mayEnter s.eng c k.val = false) →
        windowGrants (compRecord s.eng own) right a.toNat n = false ∨ corePlace a.toNat n = none →
        s.eng.fw.handover = none →
        let fault (t : State) : Prop := reg t.eng 0x6020 1 = (reg s.eng 0x6020 1 + 1) % 2 ^ 64 ∧
          reg t.eng 0x6021 1 = k.val + own * 2 ^ 2 + code * 2 ^ 6 + a.toNat * 2 ^ 32
        (state = 1 → ∃ t, exec (.coreAccess k kind a n data) s = .next t ∧ fault t ∧
          sameEntries [(0x6020, 1), (0x6021, 1)] s.eng t.eng ∧
          t = { s with eng := { s.eng with regs := t.eng.regs } }) ∧
        (state = 2 ∨ state = 3 →
          (s.eng.fw.restarts.filter fun r => r.1 == k.val && decide (s.eng.now < r.2 + 1000000 * 3600)).length < 3 →
          let init := imageField s.eng (reg s.eng 0x6000 3) (32 + k.val) 1 % 16
          mayEnter s.eng init k.val = true → (∀ g ∈ s.eng.rings, ∀ x ∈ g.2.entries, x.owner ≠ own) →
          ∃ t, exec (.coreAccess k kind a n data) s = .next t ∧ fault t ∧ coreState t.eng k.val = 3 ∧
            reg t.eng (coreIdx k.val) 4 = (reg s.eng (coreIdx k.val) 4 + 1) % 2 ^ 64 ∧
            reg t.eng (coreIdx k.val) 5 = init ∧
            sameEntries [(0x6020, 1), (0x6021, 1), (coreIdx k.val, 1), (coreIdx k.val, 4), (coreIdx k.val, 5),
              (coreIdx k.val, 6)] s.eng t.eng ∧
            t = { s with eng := { s.eng with regs := t.eng.regs, fw := t.eng.fw } })) ∧
      (0 < n → up → kind = .fetch → a.toNat < 0x40000000 → (corePlace a.toNat n).isSome = true →
        ∀ c, c < 16 → c ≠ own → a.toNat ≠ 0 → (∃ j, j < 4 ∧ compField s.eng c (112 + 4 * j) 4 = a.toNat) →
        mayEnter s.eng c k.val = true → (∀ d, d < c → d ∉ gateAt s.eng own a.toNat) →
        ∃ t, exec (.coreAccess k kind a n data) s = .next t ∧ reg t.eng (coreIdx k.val) 5 = c ∧
          storeGet (fun _ => 0) t.eng.fw.pcs k.val = a.toNat ∧ sameEntries [(coreIdx k.val, 5)] s.eng t.eng ∧
          t = { s with eng := { s.eng with regs := t.eng.regs, fw := { s.eng.fw with pcs := t.eng.fw.pcs } } }))

/-- A handover in its pause. At its safe point the parked cores start the image of the other region, now active; cores
that have not parked, that the new image's compartments do not admit, or a READY that has not come in time, roll it
back: the region that was active is active, the cores start again, and HANDOVER_ROLLBACKS counts it. An old image that
is not ready by 480 µs has CP0 restarted. The end resumes the dispatcher and the heartbeat timer, which goes on where
it was held, and answers the UPDATE, with ABORTED after a rollback; an expiry meanwhile takes effect then. Each does
nothing where the handover does not stand there. -/
def Obligations.HandoverSteps : Prop :=
  ∀ (s : State),
    let fw := s.eng.fw
    let cores (t : State) (failed : Nat → Bool) : Prop :=
      (∀ k, k < 4 → coreState t.eng k = if failed k = true then 4 else 2) ∧
      sameEntries [(0x6000, 3), (0x6001, 1), (0x6020, 1), (0x6020, 3), (0x6021, 1), (coreIdx 0, 1), (coreIdx 0, 5),
        (coreIdx 1, 1), (coreIdx 1, 5), (coreIdx 2, 1), (coreIdx 2, 5), (coreIdx 3, 1), (coreIdx 3, 5)] s.eng t.eng ∧
      t = { s with eng := { s.eng with now := t.eng.now, regs := t.eng.regs, fw := t.eng.fw } }
    let failed (k : Nat) : Bool := coreState s.eng k == 4
    (fw.handover = none → ∀ parked, exec (.handoverSafePointDeadline parked) s = .next s ∧
      exec .handoverReadyDeadline s = .next s ∧ exec .handoverOldReadyDeadline s = .next s ∧
      exec .handoverEnd s = .next s) ∧
    (∀ h, fw.handover = some h →
      (∀ parked, h.switched = true ∨ h.rolled = true → exec (.handoverSafePointDeadline parked) s = .next s) ∧
      (h.switched = false → h.rolled = false →
        let other := 1 - reg s.eng 0x6000 3
        let admitted := ∀ k, k < 4 → coreState s.eng k ≠ 4 →
          mayEnter s.eng (imageField s.eng other (32 + k) 1 % 16) k = true
        (¬admitted → ∃ t, exec (.handoverSafePointDeadline true) s = .next t ∧
          t.eng.fw.handover = some { h with switched := true, rolled := true, ready := false } ∧
          t.eng.now = max s.eng.now (h.at_ + 100 * 3600) ∧ reg t.eng 0x6000 3 = 1 - other ∧
          reg t.eng 0x6020 3 = (reg s.eng 0x6020 3 + 1) % 2 ^ 64 ∧ cores t failed) ∧
        (admitted → ∃ t, exec (.handoverSafePointDeadline true) s = .next t ∧
          t.eng.fw.handover = some { h with switched := true } ∧ t.eng.now = max s.eng.now (h.at_ + 100 * 3600) ∧
          reg t.eng 0x6000 3 = 1 - reg s.eng 0x6000 3 ∧ reg t.eng 0x6020 3 = reg s.eng 0x6020 3 ∧ cores t failed) ∧
        (∃ t, exec (.handoverSafePointDeadline false) s = .next t ∧
          t.eng.fw.handover = some { h with rolled := true, ready := false } ∧
          t.eng.now = max s.eng.now (h.at_ + 100 * 3600) ∧ reg t.eng 0x6000 3 = reg s.eng 0x6000 3 ∧
          reg t.eng 0x6020 3 = (reg s.eng 0x6020 3 + 1) % 2 ^ 64 ∧ cores t failed)) ∧
      (h.switched = false ∨ h.rolled = true ∨ h.ready = true → exec .handoverReadyDeadline s = .next s) ∧
      (h.switched = true → h.rolled = false → h.ready = false →
        ∃ t, exec .handoverReadyDeadline s = .next t ∧
          t.eng.fw.handover = some { h with rolled := true, ready := false } ∧
          t.eng.now = max s.eng.now (h.at_ + 300 * 3600) ∧ reg t.eng 0x6000 3 = 1 - reg s.eng 0x6000 3 ∧
          reg t.eng 0x6020 3 = (reg s.eng 0x6020 3 + 1) % 2 ^ 64 ∧ cores t failed) ∧
      (h.rolled = false ∨ h.ready = true → exec .handoverOldReadyDeadline s = .next s) ∧
      (h.rolled = true → h.ready = false → coreState s.eng 0 = 2 ∨ coreState s.eng 0 = 3 →
        let now := max s.eng.now (h.at_ + 480 * 3600)
        (fw.restarts.filter fun r => r.1 == 0 && decide (now < r.2 + 1000000 * 3600)).length < 3 →
        let init := imageField s.eng (reg s.eng 0x6000 3) 32 1 % 16
        mayEnter s.eng init 0 = true → (∀ g ∈ s.eng.rings, ∀ x ∈ g.2.entries, x.owner ≠ reg s.eng (coreIdx 0) 5) →
        ∃ t, exec .handoverOldReadyDeadline s = .next t ∧ coreState t.eng 0 = 3 ∧
          reg t.eng (coreIdx 0) 4 = (reg s.eng (coreIdx 0) 4 + 1) % 2 ^ 64 ∧ reg t.eng (coreIdx 0) 5 = init ∧
          t.eng.now = now ∧
          sameEntries [(coreIdx 0, 1), (coreIdx 0, 4), (coreIdx 0, 5), (coreIdx 0, 6)] s.eng t.eng ∧
          sameMemory s.eng t.eng) ∧
      (h.ready = false → h.rolled = false → exec .handoverEnd s = .next s) ∧
      (h.ready = true ∨ h.rolled = true → h.expired = false →
        let now := if h.ready = true then s.eng.now else max s.eng.now (h.at_ + 500 * 3600)
        ∃ t, exec .handoverEnd s = .next t ∧ reg t.eng 0x4000 1 = 1 ∧ reg t.eng 0x6002 3 = 0 ∧
          sameEntries [(0x4000, 1), (0x6002, 3)] s.eng t.eng ∧
          t = { s with eng := { s.eng with
            now := now, regs := t.eng.regs, ids := t.eng.ids, agents := t.eng.agents, rings := t.eng.rings
            hostReads := t.eng.hostReads, out := t.eng.out
            fw := { fw with
              handover := none, taken := none
              heartbeat := fw.heartbeat.map fun t => if t ≤ h.at_ then t + (now - h.at_) else now
              queue := fw.queue ++ [if h.rolled = true then mboxHeader 0x83 h.seq 0 Status.aborted.code 0x6044
                else mboxHeader 0x83 h.seq 8 0 0 ++ (leBytes 4 h.oldVersion ++ leBytes 4 (reg s.eng 0x6000 2))] } } }) ∧
      (h.ready = true ∨ h.rolled = true → h.expired = true →
        ∃ t, exec .handoverEnd s = .next t ∧ fwState t.eng = 5 ∧ t.eng.fw.handover = none ∧ t.eng.fw.suppress = true))

/-- Orphan mode. A write of HOST_HEARTBEAT from H restarts the timer where it runs; a late one finds it expired. Its
expiry makes FW_STATE and DISPATCH_STATE orphaned, counts, notes the frame, suppresses writes into the host window,
withdraws a swap not decided, and queues ORPHANED; in a handover it waits for its end. The block parks after 16 quiet
frames or at the limit: FW_STATE reads parked, and SLEEP is applied to both unit groups of every station. -/
def Obligations.OrphanMode : Prop :=
  ∀ (s : State),
    let fw := s.eng.fw
    (∀ p, letThrough p 0x6004 1 s →
      let late := ∃ t0, fw.heartbeat = some t0 ∧ t0 + reg s.eng 0x6004 2 * 3600 < s.eng.now
      (late → fw.handover = none → ∃ t u, exec (.hostHeartbeat p) s = .next t ∧ exec .heartbeatExpiry s = .next u ∧
        t = { u with eng := { u.eng with out := .access p 0x6004 1 0 :: u.eng.out } }) ∧
      (¬late ∨ fw.handover ≠ none → exec (.hostHeartbeat p) s = .next { s with eng := { s.eng with
        fw := { fw with heartbeat := fw.heartbeat.map fun _ => s.eng.now }
        out := .access p 0x6004 1 0 :: s.eng.out } })) ∧
    (fw.heartbeat = none → exec .heartbeatExpiry s = .next s) ∧
    (∀ t0 h, fw.heartbeat = some t0 → fw.handover = some h → exec .heartbeatExpiry s = .next { s with
      eng := { s.eng with fw := { fw with handover := some { h with expired := true } } } }) ∧
    (∀ t0, fw.heartbeat = some t0 → fw.handover = none →
      let now := max s.eng.now (t0 + reg s.eng 0x6004 2 * 3600)
      let f := frameNo { s.eng with now := now }
      ∃ t, exec .heartbeatExpiry s = .next t ∧ t.eng.now = now ∧ fwState t.eng = 5 ∧ reg t.eng 0x4000 1 = 3 ∧
        reg t.eng 0x6000 5 = f ∧ reg t.eng 0x6020 4 = (reg s.eng 0x6020 4 + 1) % 2 ^ 64 ∧ t.eng.fw.suppress = true ∧
        t.eng.fw.heartbeat = none ∧ t.port = s.port ∧ t.pending = s.pending ∧
        reg t.eng 0x3810 5 = (if reg s.eng 0x3810 5 = 4 then 4 else 0) ∧
        (∀ r, r < 64 → reg s.eng (ringIdx r) 8 = 1 ∨ reg s.eng (ringIdx r) 8 = 3 → reg t.eng (ringIdx r) 8 = 0) ∧
        (fw.queue.length < 16 → t.eng.fw.queue = fw.queue ++ [mboxHeader 0x43 (fw.notices % 65536) 8 0 0 ++
          leBytes 8 f])) ∧
    (fwState s.eng ≠ 5 → exec .orphanPark s = .next s) ∧
    (fwState s.eng = 5 →
      let f := frameNo s.eng
      let late := reg s.eng 0x6000 5 + reg s.eng 0x6004 3 ≤ f
      (fw.quiet < 16 → ¬late → exec .orphanPark s = .next s) ∧
      (fw.quiet < 16 → late → ∃ t, exec .orphanPark s = .next t ∧ fwState t.eng = 6) ∧
      (16 ≤ fw.quiet → ∃ t, exec .orphanPark s = .next t ∧ fwState t.eng = 6 ∧
        (∀ q, q < 48 → dockOf t.eng q = { dockOf s.eng q with
          operandGate := sleepGate (dockOf s.eng q).operandGate
          resultGate := sleepGate (dockOf s.eng q).resultGate }) ∧
        t.eng.fw.cancelled = 0 ∧
        (fw.queue.length < 16 → t.eng.fw.queue = fw.queue ++ [mboxHeader 0x44 (fw.notices % 65536) 12 0 0 ++
          (leBytes 8 f ++ leBytes 4 0)]) ∧
        sameEntries [(0x6000, 1), (0x6020, 8)] s.eng t.eng ∧
        t = { s with eng := { s.eng with regs := t.eng.regs, docks := t.eng.docks, fw := t.eng.fw } }))

/-! ### Faults (spec/17_faults_limits.md) -/

/-- The collector takes an event at severity 0 or 1: its status bit is set and it is counted; with no record open it
opens one, written whole at HISTORY_NEXT, and otherwise it is merged into the open record; one that notifies makes
ERR_OUT_N fall from a settled high, forms a FAULT frame, and interrupts where that is enabled. An event that nothing
in the block raised, of a Pool or of the retained store, comes with its word: by the model's choice (log entries 12
and 144) a free one. At severity 2 a station is contained, a stack agent's source freezes it, and a source of the
block freezes all, but for agents held in reset; at severity 3 a source of the block starts a BLOCK reset. Unpowered,
nothing is taken. -/
def Obligations.EventsAreCollected : Prop :=
  ∀ (src : Fin 88) (detail : BitVec 16) (s : State),
    let d := detail.toNat
    let sev := severityOf s.eng src.val d
    let k := reg s.eng 0x1302 2
    let open_ := reg s.eng 0x1302 3
    let byte (e : Eng) (o n : Nat) := domNat e 0x1302 1 o n
    let lists := [(0x1300, 1), (0x1302, 2), (0x1302, 3), (0x1305, 1), (0x1305, 2), (0x1305, 3)]
    (s.eng.run = .unpowered → exec (.faultEvent src detail) s = .next s) ∧
    let unseen (b : Bool) : Prop := (src.val, d) ∉ s.eng.raised ∧ d = 0 ∧ (if b = true then src.val < 48 else src.val = 83)
    (s.eng.run ≠ .unpowered → sev < 2 → unseen true →
      let a := 0x200000000000 + src.val * 0x400000 + Config.freeNat s.eng.fresh % 0x100000 * 4
      ∃ t, exec (.faultEvent src detail) s = .next t ∧ poolPoisoned t.eng a = true ∧
        (∀ b, b / 4 ≠ a / 4 → poolPoisoned t.eng b = poolPoisoned s.eng b) ∧ (∀ b, memByte t.eng b = memByte s.eng b) ∧
        reg t.eng (0x1320 + src.val) 2 = (reg s.eng (0x1320 + src.val) 2 + 1) % 2 ^ 64 ∧
        reg t.eng 0x1305 1 = (reg s.eng 0x1305 1 + 1) % 2 ^ 64 ∧ sameEntries ((0x1320 + src.val, 2) :: lists) s.eng t.eng) ∧
    (s.eng.run ≠ .unpowered → sev < 2 → unseen false →
      let f := Config.freeNat s.eng.fresh % 0x1008
      let w := Config.freeNat (s.eng.fresh + 1)
      let store (e : Eng) (sub o n : Nat) := domBytes e 0x1203 sub o n
      ∃ t, exec (.faultEvent src detail) s = .next t ∧ reg t.eng 0x1305 1 = (reg s.eng 0x1305 1 + 1) % 2 ^ 64 ∧
        (∀ sub base, (sub = 1 ∧ base = 0 ∧ f < 0xC00) ∨ (sub = 2 ∧ base = 0x3000 ∧ 0xC00 ≤ f ∧ f < 0xC20) ∨
            (sub = 3 ∧ base = 0x3080 ∧ 0xC20 ≤ f ∧ f < 0x1000) →
          store t.eng sub (4 * f - base) 4 = leBytes 4 w ∧ sameEntries lists s.eng t.eng ∧
          (∀ j, j < 0x3000 → ¬(4 * f - base ≤ j ∧ j < 4 * f - base + 4) → store t.eng sub j 1 = store s.eng sub j 1) ∧
          (∀ other j n, other < 256 → j + n ≤ 0x4000 → other ≠ sub → store t.eng other j n = store s.eng other j n)) ∧
        (0x1000 ≤ f → (∀ sub j n, sub < 256 → j + n ≤ 0x4000 → store t.eng sub j n = store s.eng sub j n) ∧
          reg t.eng 0x1202 (f - 0xFFF) =
            w % 2 ^ 32 &&& (if f = 0x1000 then 0xFFFF else if f = 0x1001 then 7 else 2 ^ 32 - 1) ∧
          sameEntries ((0x1202, f - 0xFFF) :: lists) s.eng t.eng)) ∧
    (s.eng.run ≠ .unpowered → sev < 2 → ¬unseen true → ¬unseen false →
      ∃ t, exec (.faultEvent src detail) s = .next t ∧
        reg t.eng 0x1300 1 = reg s.eng 0x1300 1 ||| 2 ^ src.val ∧
        reg t.eng 0x1305 1 = (reg s.eng 0x1305 1 + 1) % 2 ^ 64 ∧ t.eng.raised = s.eng.raised.erase (src.val, d) ∧
        (open_ = 0xFF → k ≠ 0xFF → reg t.eng 0x1302 3 = k ∧ reg t.eng 0x1302 2 = (k + 1) % 16 ∧
          domBytes t.eng 0x1302 1 (48 * k) 48 = leBytes 8 (frameField s.eng) ++ leBytes 8 (aonTime s.eng) ++
            leBytes 1 src.val ++ leBytes 1 (sev + 4 * sev) ++ leBytes 2 d ++ leBytes 2 0 ++ leBytes 1 1 ++ leBytes 25 0 ∧
          (∀ j, j < 768 → ¬(48 * k ≤ j ∧ j < 48 * k + 48) → byte t.eng j 1 = byte s.eng j 1)) ∧
        (open_ ≠ 0xFF → reg t.eng 0x1302 3 = open_ ∧ reg t.eng 0x1302 2 = k ∧
          reg t.eng 0x1305 2 = (reg s.eng 0x1305 2 + 1) % 2 ^ 64 ∧
          byte t.eng (48 * open_ + 20) 2 = min 65535 (byte s.eng (48 * open_ + 20) 2 + 1) ∧
          byte t.eng (48 * open_ + 24) 16 = byte s.eng (48 * open_ + 24) 16 ||| 2 ^ src.val ∧
          bits (byte t.eng (48 * open_ + 17) 1) 2 2 = max sev (bits (byte s.eng (48 * open_ + 17) 1) 2 2)) ∧
        (notifies s.eng sev = false →
          t = { s with eng := { s.eng with raised := t.eng.raised, regs := t.eng.regs, dom := t.eng.dom } }) ∧
        (s.eng.run ≠ .ready → t.eng.out = s.eng.out) ∧ (notifies s.eng sev = true → s.eng.run = .ready →
          (s.eng.errOut.kept = false → s.eng.errOut.low = false → s.eng.errOut.roseAt = none →
            t.eng.errOut.low = true ∧ t.eng.errOut.fellAt = s.eng.now) ∧
          (reg s.eng 0x1304 3 = 1 → t.port.nseq = (s.port.nseq + 1) % 256 ∧
            (s.port.faultFrames.length < 4 → t.port.faultFrames.length = s.port.faultFrames.length + 1)) ∧
          t.eng.out = (if reg s.eng 0x1304 2 = 1 ∧ s.eng.fw.suppress = false then
            .msi (reg s.eng 0x1304 1) :: s.eng.out else s.eng.out)) ∧
        sameEntries lists s.eng t.eng ∧ t.pending = s.pending ∧ sameMemory s.eng t.eng) ∧
    (s.eng.run ≠ .unpowered → sev = 2 →
      (∀ n, n < 24 → partHeld s.eng (48 + n) = false → src.val = 48 + n ∨ (78 ≤ src.val ∧ src.val ≤ 83) ∨ src.val = 85 ∨ src.val = 87 →
        ∃ t, exec (.faultEvent src detail) s = .next t ∧ reg t.eng (agIdx n 0) 3 = 1) ∧
      (src.val < 48 → ∃ t, exec (.faultEvent src detail) s = .next t ∧ (dockOf t.eng src.val).contained = true)) ∧
    (s.eng.run ≠ .unpowered → sev = 3 → 78 ≤ src.val → src.val ≠ 84 → src.val ≠ 86 →
      ∃ t cold scope, exec (.faultEvent src detail) s = .next t ∧ t.eng.run = .hold s.eng.now cold scope)

/-- FAULT_CLEAR clears the written bits of FAULT_STATUS and ends the containment of their stations. FAULT_ACK sets
ACKED in the open record and opens none; without one it does nothing. ERR_OUT_N. In hold mode a write of
ERR_OUT_RELEASE ends a low that has lasted 2 AONCLK, and a shorter one at the end of those 2 AONCLK; in pulse mode it
has no effect, and the low ends 2 AONCLK after the fall or the last notifying event. A fall that was due comes 2
AONCLK after the rise. ERR_OUT_MODE takes 0 and 1. -/
def Obligations.FaultsClearAndErrOut : Prop :=
  (∀ (p : Port) (s : State),
     (∀ mask : Cell128, letThrough p 0x1300 2 s →
       ∃ t, exec (.faultClear p mask) s = .next t ∧
         (∀ i, i < 128 → (reg t.eng 0x1300 1).testBit i =
           ((reg s.eng 0x1300 1).testBit i && !(mask.toNat.testBit i && i < 88))) ∧
         (∀ q, dockOf t.eng q = { dockOf s.eng q with
           contained := (dockOf s.eng q).contained && !(q < 48 && mask.toNat.testBit q) }) ∧
         sameEntries [(0x1300, 1)] s.eng t.eng ∧
         t = { s with eng := { s.eng with
           regs := t.eng.regs, docks := t.eng.docks, out := .access p 0x1300 2 0 :: s.eng.out } }) ∧
     (letThrough p 0x1302 4 s →
       let k := reg s.eng 0x1302 3
       (k = 0xFF → exec (.faultAck p) s =
         .next { s with eng := { s.eng with out := .access p 0x1302 4 0 :: s.eng.out } }) ∧
       (k ≠ 0xFF → ∃ t, exec (.faultAck p) s = .next t ∧ reg t.eng 0x1302 3 = 0xFF ∧
         domNat t.eng 0x1302 1 (48 * k + 22) 1 = domNat s.eng 0x1302 1 (48 * k + 22) 1 ||| 2 ∧
         (∀ j, j < 768 → j ≠ 48 * k + 22 → domNat t.eng 0x1302 1 j 1 = domNat s.eng 0x1302 1 j 1) ∧
         sameEntries [(0x1302, 3)] s.eng t.eng ∧
         t = { s with eng := { s.eng with
           regs := t.eng.regs, dom := t.eng.dom, out := .access p 0x1302 4 0 :: s.eng.out } }))) ∧
  (∀ (p : Port) (s : State),
     let o := s.eng.errOut
     let raised (t : Nat) : Eng :=
       { s.eng with now := t, errOut := { o with low := false, roseAt := some t, released := false } }
     let on := s.eng.run = .ready ∧ o.kept = false
     (letThrough p 0x1303 2 s →
       let ends (e : Eng) : Prop :=
         exec (.errOutRelease p) s = .next { s with eng := { e with out := .access p 0x1303 2 0 :: s.eng.out } }
       (¬on ∨ reg s.eng 0x1303 1 ≠ 1 ∨ o.low = false → ends s.eng) ∧
       (on → reg s.eng 0x1303 1 = 1 → o.low = true → o.fellAt + 7200 ≤ s.eng.now → ends (raised s.eng.now)) ∧
       (on → reg s.eng 0x1303 1 = 1 → o.low = true → s.eng.now < o.fellAt + 7200 →
         ends { s.eng with errOut := { o with released := true } })) ∧
     (∀ v : Word32, letThrough p 0x1303 1 s →
       (v.toNat ≤ 1 → ∃ t, exec (.errOutModeWrite p v) s = .next t ∧ onlyEntries s t ∧ reg t.eng 0x1303 1 = v.toNat ∧
         sameEntries [(0x1303, 1)] s.eng t.eng ∧ t.eng.out = .access p 0x1303 1 0 :: s.eng.out) ∧
       (1 < v.toNat → ∃ t, exec (.errOutModeWrite p v) s = .next t ∧ onlyEntries s t ∧
         sameEntries [(0x1010, 1), (0x1010, 2), (0x1010, 3), (0x1010, 4), (0x1010, 5)] s.eng t.eng ∧
         t.eng.out = .access p 0x1303 1 3 :: s.eng.out)) ∧
     (¬on ∨ (o.fallDue = none ∧ (o.low = false ∨ (reg s.eng 0x1303 1 ≠ 0 ∧ o.released = false))) →
       exec .errOutTimerExpiry s = .next s) ∧
     (on → ∀ t0, o.fallDue = some t0 →
       let now := max s.eng.now t0
       exec .errOutTimerExpiry s = .next { s with eng := { s.eng with
         now := now
         errOut := { o with low := true, fellAt := now, last := now, fallDue := none, released := false } } }) ∧
     (on → o.fallDue = none → o.low = true → reg s.eng 0x1303 1 = 0 →
       exec .errOutTimerExpiry s = .next { s with eng := raised (max s.eng.now (max o.fellAt o.last + 7200)) }) ∧
     (on → o.fallDue = none → o.low = true → reg s.eng 0x1303 1 ≠ 0 → o.released = true →
       exec .errOutTimerExpiry s = .next { s with eng := raised (max s.eng.now (o.fellAt + 7200)) }))
end

