-- ==== Sys2Proof/Laws/State.lean ====
section
/-! SUPPORT. What each update of the state leaves alone: one law for each field, true by definition, so that no proof
unfolds a record update; and the values that such an update does not reach. -/

namespace Sys2Proof.Machine

/-! ### The state -/

@[simp] theorem onEng_eng (f : Eng → Eng) (s : State) : (onEng f s).eng = f s.eng := rfl
@[simp] theorem onEng_port (f : Eng → Eng) (s : State) : (onEng f s).port = s.port := rfl
@[simp] theorem onEng_pending (f : Eng → Eng) (s : State) : (onEng f s).pending = s.pending := rfl

/-! ### `advanceTo` changes `now` alone -/

@[simp] theorem advanceTo_run (t : Nat) (e : Eng) : (advanceTo t e).run = e.run := rfl
@[simp] theorem advanceTo_parts (t : Nat) (e : Eng) : (advanceTo t e).parts = e.parts := rfl
@[simp] theorem advanceTo_powerOnAt (t : Nat) (e : Eng) : (advanceTo t e).powerOnAt = e.powerOnAt := rfl
@[simp] theorem advanceTo_spBase (t : Nat) (e : Eng) : (advanceTo t e).spBase = e.spBase := rfl
@[simp] theorem advanceTo_nextFrame (t : Nat) (e : Eng) : (advanceTo t e).nextFrame = e.nextFrame := rfl
@[simp] theorem advanceTo_regs (t : Nat) (e : Eng) : (advanceTo t e).regs = e.regs := rfl
@[simp] theorem advanceTo_dom (t : Nat) (e : Eng) : (advanceTo t e).dom = e.dom := rfl
@[simp] theorem advanceTo_mem (t : Nat) (e : Eng) : (advanceTo t e).mem = e.mem := rfl
@[simp] theorem advanceTo_genBase (t : Nat) (e : Eng) : (advanceTo t e).genBase = e.genBase := rfl
@[simp] theorem advanceTo_gens (t : Nat) (e : Eng) : (advanceTo t e).gens = e.gens := rfl
@[simp] theorem advanceTo_poolPois (t : Nat) (e : Eng) : (advanceTo t e).poolPois = e.poolPois := rfl
@[simp] theorem advanceTo_fwRam (t : Nat) (e : Eng) : (advanceTo t e).fwRam = e.fwRam := rfl
@[simp] theorem advanceTo_docks (t : Nat) (e : Eng) : (advanceTo t e).docks = e.docks := rfl
@[simp] theorem advanceTo_agents (t : Nat) (e : Eng) : (advanceTo t e).agents = e.agents := rfl
@[simp] theorem advanceTo_heap (t : Nat) (e : Eng) : (advanceTo t e).heap = e.heap := rfl
@[simp] theorem advanceTo_spine (t : Nat) (e : Eng) : (advanceTo t e).spine = e.spine := rfl
@[simp] theorem advanceTo_deck (t : Nat) (e : Eng) : (advanceTo t e).deck = e.deck := rfl
@[simp] theorem advanceTo_rings (t : Nat) (e : Eng) : (advanceTo t e).rings = e.rings := rfl
@[simp] theorem advanceTo_jobs (t : Nat) (e : Eng) : (advanceTo t e).jobs = e.jobs := rfl
@[simp] theorem advanceTo_ids (t : Nat) (e : Eng) : (advanceTo t e).ids = e.ids := rfl
@[simp] theorem advanceTo_hostReads (t : Nat) (e : Eng) : (advanceTo t e).hostReads = e.hostReads := rfl
@[simp] theorem advanceTo_links (t : Nat) (e : Eng) : (advanceTo t e).links = e.links := rfl
@[simp] theorem advanceTo_endpointSet (t : Nat) (e : Eng) : (advanceTo t e).endpointSet = e.endpointSet := rfl
@[simp] theorem advanceTo_sems (t : Nat) (e : Eng) : (advanceTo t e).sems = e.sems := rfl
@[simp] theorem advanceTo_fw (t : Nat) (e : Eng) : (advanceTo t e).fw = e.fw := rfl
@[simp] theorem advanceTo_power (t : Nat) (e : Eng) : (advanceTo t e).power = e.power := rfl
@[simp] theorem advanceTo_crossings (t : Nat) (e : Eng) : (advanceTo t e).crossings = e.crossings := rfl
@[simp] theorem advanceTo_modules (t : Nat) (e : Eng) : (advanceTo t e).modules = e.modules := rfl
@[simp] theorem advanceTo_trainAt (t : Nat) (e : Eng) : (advanceTo t e).trainAt = e.trainAt := rfl
@[simp] theorem advanceTo_errOut (t : Nat) (e : Eng) : (advanceTo t e).errOut = e.errOut := rfl
@[simp] theorem advanceTo_clkReqAt (t : Nat) (e : Eng) : (advanceTo t e).clkReqAt = e.clkReqAt := rfl
@[simp] theorem advanceTo_wdog (t : Nat) (e : Eng) : (advanceTo t e).wdog = e.wdog := rfl
@[simp] theorem advanceTo_raised (t : Nat) (e : Eng) : (advanceTo t e).raised = e.raised := rfl
@[simp] theorem advanceTo_fresh (t : Nat) (e : Eng) : (advanceTo t e).fresh = e.fresh := rfl
@[simp] theorem advanceTo_stale (t : Nat) (e : Eng) : (advanceTo t e).stale = e.stale := rfl
@[simp] theorem advanceTo_hostPois (t : Nat) (e : Eng) : (advanceTo t e).hostPois = e.hostPois := rfl
@[simp] theorem advanceTo_out (t : Nat) (e : Eng) : (advanceTo t e).out = e.out := rfl
@[simp] theorem reg_advanceTo (t : Nat) (e : Eng) (u v_ : Nat) : reg (advanceTo t e) u v_ = reg e u v_ := rfl
@[simp] theorem regB_advanceTo (t : Nat) (e : Eng) (z u v_ : Nat) : regB (advanceTo t e) z u v_ = regB e z u v_ := rfl
@[simp] theorem domBytes_advanceTo (t : Nat) (e : Eng) (u v_ z n_ : Nat) :
    domBytes (advanceTo t e) u v_ z n_ = domBytes e u v_ z n_ := rfl
@[simp] theorem memByte_advanceTo (t : Nat) (e : Eng) (u : Nat) : memByte (advanceTo t e) u = memByte e u := rfl

/-! ### `emit` changes `out` alone -/

@[simp] theorem emit_now (o : PortOut) (e : Eng) : (emit o e).now = e.now := rfl
@[simp] theorem emit_run (o : PortOut) (e : Eng) : (emit o e).run = e.run := rfl
@[simp] theorem emit_parts (o : PortOut) (e : Eng) : (emit o e).parts = e.parts := rfl
@[simp] theorem emit_powerOnAt (o : PortOut) (e : Eng) : (emit o e).powerOnAt = e.powerOnAt := rfl
@[simp] theorem emit_spBase (o : PortOut) (e : Eng) : (emit o e).spBase = e.spBase := rfl
@[simp] theorem emit_nextFrame (o : PortOut) (e : Eng) : (emit o e).nextFrame = e.nextFrame := rfl
@[simp] theorem emit_regs (o : PortOut) (e : Eng) : (emit o e).regs = e.regs := rfl
@[simp] theorem emit_dom (o : PortOut) (e : Eng) : (emit o e).dom = e.dom := rfl
@[simp] theorem emit_mem (o : PortOut) (e : Eng) : (emit o e).mem = e.mem := rfl
@[simp] theorem emit_genBase (o : PortOut) (e : Eng) : (emit o e).genBase = e.genBase := rfl
@[simp] theorem emit_gens (o : PortOut) (e : Eng) : (emit o e).gens = e.gens := rfl
@[simp] theorem emit_poolPois (o : PortOut) (e : Eng) : (emit o e).poolPois = e.poolPois := rfl
@[simp] theorem emit_fwRam (o : PortOut) (e : Eng) : (emit o e).fwRam = e.fwRam := rfl
@[simp] theorem emit_docks (o : PortOut) (e : Eng) : (emit o e).docks = e.docks := rfl
@[simp] theorem emit_agents (o : PortOut) (e : Eng) : (emit o e).agents = e.agents := rfl
@[simp] theorem emit_heap (o : PortOut) (e : Eng) : (emit o e).heap = e.heap := rfl
@[simp] theorem emit_spine (o : PortOut) (e : Eng) : (emit o e).spine = e.spine := rfl
@[simp] theorem emit_deck (o : PortOut) (e : Eng) : (emit o e).deck = e.deck := rfl
@[simp] theorem emit_rings (o : PortOut) (e : Eng) : (emit o e).rings = e.rings := rfl
@[simp] theorem emit_jobs (o : PortOut) (e : Eng) : (emit o e).jobs = e.jobs := rfl
@[simp] theorem emit_ids (o : PortOut) (e : Eng) : (emit o e).ids = e.ids := rfl
@[simp] theorem emit_hostReads (o : PortOut) (e : Eng) : (emit o e).hostReads = e.hostReads := rfl
@[simp] theorem emit_links (o : PortOut) (e : Eng) : (emit o e).links = e.links := rfl
@[simp] theorem emit_endpointSet (o : PortOut) (e : Eng) : (emit o e).endpointSet = e.endpointSet := rfl
@[simp] theorem emit_sems (o : PortOut) (e : Eng) : (emit o e).sems = e.sems := rfl
@[simp] theorem emit_fw (o : PortOut) (e : Eng) : (emit o e).fw = e.fw := rfl
@[simp] theorem emit_power (o : PortOut) (e : Eng) : (emit o e).power = e.power := rfl
@[simp] theorem emit_crossings (o : PortOut) (e : Eng) : (emit o e).crossings = e.crossings := rfl
@[simp] theorem emit_modules (o : PortOut) (e : Eng) : (emit o e).modules = e.modules := rfl
@[simp] theorem emit_trainAt (o : PortOut) (e : Eng) : (emit o e).trainAt = e.trainAt := rfl
@[simp] theorem emit_errOut (o : PortOut) (e : Eng) : (emit o e).errOut = e.errOut := rfl
@[simp] theorem emit_clkReqAt (o : PortOut) (e : Eng) : (emit o e).clkReqAt = e.clkReqAt := rfl
@[simp] theorem emit_wdog (o : PortOut) (e : Eng) : (emit o e).wdog = e.wdog := rfl
@[simp] theorem emit_raised (o : PortOut) (e : Eng) : (emit o e).raised = e.raised := rfl
@[simp] theorem emit_fresh (o : PortOut) (e : Eng) : (emit o e).fresh = e.fresh := rfl
@[simp] theorem emit_stale (o : PortOut) (e : Eng) : (emit o e).stale = e.stale := rfl
@[simp] theorem emit_hostPois (o : PortOut) (e : Eng) : (emit o e).hostPois = e.hostPois := rfl
@[simp] theorem reg_emit (o : PortOut) (e : Eng) (u v_ : Nat) : reg (emit o e) u v_ = reg e u v_ := rfl
@[simp] theorem regB_emit (o : PortOut) (e : Eng) (z u v_ : Nat) : regB (emit o e) z u v_ = regB e z u v_ := rfl
@[simp] theorem domBytes_emit (o : PortOut) (e : Eng) (u v_ z n_ : Nat) :
    domBytes (emit o e) u v_ z n_ = domBytes e u v_ z n_ := rfl
@[simp] theorem memByte_emit (o : PortOut) (e : Eng) (u : Nat) : memByte (emit o e) u = memByte e u := rfl

/-! ### `raise` changes `raised` alone -/

@[simp] theorem raise_now (src d : Nat) (e : Eng) : (raise src d e).now = e.now := rfl
@[simp] theorem raise_run (src d : Nat) (e : Eng) : (raise src d e).run = e.run := rfl
@[simp] theorem raise_parts (src d : Nat) (e : Eng) : (raise src d e).parts = e.parts := rfl
@[simp] theorem raise_powerOnAt (src d : Nat) (e : Eng) : (raise src d e).powerOnAt = e.powerOnAt := rfl
@[simp] theorem raise_spBase (src d : Nat) (e : Eng) : (raise src d e).spBase = e.spBase := rfl
@[simp] theorem raise_nextFrame (src d : Nat) (e : Eng) : (raise src d e).nextFrame = e.nextFrame := rfl
@[simp] theorem raise_regs (src d : Nat) (e : Eng) : (raise src d e).regs = e.regs := rfl
@[simp] theorem raise_dom (src d : Nat) (e : Eng) : (raise src d e).dom = e.dom := rfl
@[simp] theorem raise_mem (src d : Nat) (e : Eng) : (raise src d e).mem = e.mem := rfl
@[simp] theorem raise_genBase (src d : Nat) (e : Eng) : (raise src d e).genBase = e.genBase := rfl
@[simp] theorem raise_gens (src d : Nat) (e : Eng) : (raise src d e).gens = e.gens := rfl
@[simp] theorem raise_poolPois (src d : Nat) (e : Eng) : (raise src d e).poolPois = e.poolPois := rfl
@[simp] theorem raise_fwRam (src d : Nat) (e : Eng) : (raise src d e).fwRam = e.fwRam := rfl
@[simp] theorem raise_docks (src d : Nat) (e : Eng) : (raise src d e).docks = e.docks := rfl
@[simp] theorem raise_agents (src d : Nat) (e : Eng) : (raise src d e).agents = e.agents := rfl
@[simp] theorem raise_heap (src d : Nat) (e : Eng) : (raise src d e).heap = e.heap := rfl
@[simp] theorem raise_spine (src d : Nat) (e : Eng) : (raise src d e).spine = e.spine := rfl
@[simp] theorem raise_deck (src d : Nat) (e : Eng) : (raise src d e).deck = e.deck := rfl
@[simp] theorem raise_rings (src d : Nat) (e : Eng) : (raise src d e).rings = e.rings := rfl
@[simp] theorem raise_jobs (src d : Nat) (e : Eng) : (raise src d e).jobs = e.jobs := rfl
@[simp] theorem raise_ids (src d : Nat) (e : Eng) : (raise src d e).ids = e.ids := rfl
@[simp] theorem raise_hostReads (src d : Nat) (e : Eng) : (raise src d e).hostReads = e.hostReads := rfl
@[simp] theorem raise_links (src d : Nat) (e : Eng) : (raise src d e).links = e.links := rfl
@[simp] theorem raise_endpointSet (src d : Nat) (e : Eng) : (raise src d e).endpointSet = e.endpointSet := rfl
@[simp] theorem raise_sems (src d : Nat) (e : Eng) : (raise src d e).sems = e.sems := rfl
@[simp] theorem raise_fw (src d : Nat) (e : Eng) : (raise src d e).fw = e.fw := rfl
@[simp] theorem raise_power (src d : Nat) (e : Eng) : (raise src d e).power = e.power := rfl
@[simp] theorem raise_crossings (src d : Nat) (e : Eng) : (raise src d e).crossings = e.crossings := rfl
@[simp] theorem raise_modules (src d : Nat) (e : Eng) : (raise src d e).modules = e.modules := rfl
@[simp] theorem raise_trainAt (src d : Nat) (e : Eng) : (raise src d e).trainAt = e.trainAt := rfl
@[simp] theorem raise_errOut (src d : Nat) (e : Eng) : (raise src d e).errOut = e.errOut := rfl
@[simp] theorem raise_clkReqAt (src d : Nat) (e : Eng) : (raise src d e).clkReqAt = e.clkReqAt := rfl
@[simp] theorem raise_wdog (src d : Nat) (e : Eng) : (raise src d e).wdog = e.wdog := rfl
@[simp] theorem raise_fresh (src d : Nat) (e : Eng) : (raise src d e).fresh = e.fresh := rfl
@[simp] theorem raise_stale (src d : Nat) (e : Eng) : (raise src d e).stale = e.stale := rfl
@[simp] theorem raise_hostPois (src d : Nat) (e : Eng) : (raise src d e).hostPois = e.hostPois := rfl
@[simp] theorem raise_out (src d : Nat) (e : Eng) : (raise src d e).out = e.out := rfl
@[simp] theorem reg_raise (src d : Nat) (e : Eng) (u v_ : Nat) : reg (raise src d e) u v_ = reg e u v_ := rfl
@[simp] theorem regB_raise (src d : Nat) (e : Eng) (z u v_ : Nat) : regB (raise src d e) z u v_ = regB e z u v_ := rfl
@[simp] theorem domBytes_raise (src d : Nat) (e : Eng) (u v_ z n_ : Nat) :
    domBytes (raise src d e) u v_ z n_ = domBytes e u v_ z n_ := rfl
@[simp] theorem memByte_raise (src d : Nat) (e : Eng) (u : Nat) : memByte (raise src d e) u = memByte e u := rfl

/-! ### `setReg` changes `regs` alone -/

@[simp] theorem setReg_now (i k v : Nat) (e : Eng) : (setReg i k v e).now = e.now := rfl
@[simp] theorem setReg_run (i k v : Nat) (e : Eng) : (setReg i k v e).run = e.run := rfl
@[simp] theorem setReg_parts (i k v : Nat) (e : Eng) : (setReg i k v e).parts = e.parts := rfl
@[simp] theorem setReg_powerOnAt (i k v : Nat) (e : Eng) : (setReg i k v e).powerOnAt = e.powerOnAt := rfl
@[simp] theorem setReg_spBase (i k v : Nat) (e : Eng) : (setReg i k v e).spBase = e.spBase := rfl
@[simp] theorem setReg_nextFrame (i k v : Nat) (e : Eng) : (setReg i k v e).nextFrame = e.nextFrame := rfl
@[simp] theorem setReg_dom (i k v : Nat) (e : Eng) : (setReg i k v e).dom = e.dom := rfl
@[simp] theorem setReg_mem (i k v : Nat) (e : Eng) : (setReg i k v e).mem = e.mem := rfl
@[simp] theorem setReg_genBase (i k v : Nat) (e : Eng) : (setReg i k v e).genBase = e.genBase := rfl
@[simp] theorem setReg_gens (i k v : Nat) (e : Eng) : (setReg i k v e).gens = e.gens := rfl
@[simp] theorem setReg_poolPois (i k v : Nat) (e : Eng) : (setReg i k v e).poolPois = e.poolPois := rfl
@[simp] theorem setReg_fwRam (i k v : Nat) (e : Eng) : (setReg i k v e).fwRam = e.fwRam := rfl
@[simp] theorem setReg_docks (i k v : Nat) (e : Eng) : (setReg i k v e).docks = e.docks := rfl
@[simp] theorem setReg_agents (i k v : Nat) (e : Eng) : (setReg i k v e).agents = e.agents := rfl
@[simp] theorem setReg_heap (i k v : Nat) (e : Eng) : (setReg i k v e).heap = e.heap := rfl
@[simp] theorem setReg_spine (i k v : Nat) (e : Eng) : (setReg i k v e).spine = e.spine := rfl
@[simp] theorem setReg_deck (i k v : Nat) (e : Eng) : (setReg i k v e).deck = e.deck := rfl
@[simp] theorem setReg_rings (i k v : Nat) (e : Eng) : (setReg i k v e).rings = e.rings := rfl
@[simp] theorem setReg_jobs (i k v : Nat) (e : Eng) : (setReg i k v e).jobs = e.jobs := rfl
@[simp] theorem setReg_ids (i k v : Nat) (e : Eng) : (setReg i k v e).ids = e.ids := rfl
@[simp] theorem setReg_hostReads (i k v : Nat) (e : Eng) : (setReg i k v e).hostReads = e.hostReads := rfl
@[simp] theorem setReg_links (i k v : Nat) (e : Eng) : (setReg i k v e).links = e.links := rfl
@[simp] theorem setReg_endpointSet (i k v : Nat) (e : Eng) : (setReg i k v e).endpointSet = e.endpointSet := rfl
@[simp] theorem setReg_sems (i k v : Nat) (e : Eng) : (setReg i k v e).sems = e.sems := rfl
@[simp] theorem setReg_fw (i k v : Nat) (e : Eng) : (setReg i k v e).fw = e.fw := rfl
@[simp] theorem setReg_power (i k v : Nat) (e : Eng) : (setReg i k v e).power = e.power := rfl
@[simp] theorem setReg_crossings (i k v : Nat) (e : Eng) : (setReg i k v e).crossings = e.crossings := rfl
@[simp] theorem setReg_modules (i k v : Nat) (e : Eng) : (setReg i k v e).modules = e.modules := rfl
@[simp] theorem setReg_trainAt (i k v : Nat) (e : Eng) : (setReg i k v e).trainAt = e.trainAt := rfl
@[simp] theorem setReg_errOut (i k v : Nat) (e : Eng) : (setReg i k v e).errOut = e.errOut := rfl
@[simp] theorem setReg_clkReqAt (i k v : Nat) (e : Eng) : (setReg i k v e).clkReqAt = e.clkReqAt := rfl
@[simp] theorem setReg_wdog (i k v : Nat) (e : Eng) : (setReg i k v e).wdog = e.wdog := rfl
@[simp] theorem setReg_raised (i k v : Nat) (e : Eng) : (setReg i k v e).raised = e.raised := rfl
@[simp] theorem setReg_fresh (i k v : Nat) (e : Eng) : (setReg i k v e).fresh = e.fresh := rfl
@[simp] theorem setReg_stale (i k v : Nat) (e : Eng) : (setReg i k v e).stale = e.stale := rfl
@[simp] theorem setReg_hostPois (i k v : Nat) (e : Eng) : (setReg i k v e).hostPois = e.hostPois := rfl
@[simp] theorem setReg_out (i k v : Nat) (e : Eng) : (setReg i k v e).out = e.out := rfl
@[simp] theorem domBytes_setReg (i k v : Nat) (e : Eng) (u v_ z n_ : Nat) :
    domBytes (setReg i k v e) u v_ z n_ = domBytes e u v_ z n_ := rfl
@[simp] theorem memByte_setReg (i k v : Nat) (e : Eng) (u : Nat) : memByte (setReg i k v e) u = memByte e u := rfl

/-! ### `setRegB` changes `regs` alone -/

@[simp] theorem setRegB_now (b i k v : Nat) (e : Eng) : (setRegB b i k v e).now = e.now := rfl
@[simp] theorem setRegB_run (b i k v : Nat) (e : Eng) : (setRegB b i k v e).run = e.run := rfl
@[simp] theorem setRegB_parts (b i k v : Nat) (e : Eng) : (setRegB b i k v e).parts = e.parts := rfl
@[simp] theorem setRegB_powerOnAt (b i k v : Nat) (e : Eng) : (setRegB b i k v e).powerOnAt = e.powerOnAt := rfl
@[simp] theorem setRegB_spBase (b i k v : Nat) (e : Eng) : (setRegB b i k v e).spBase = e.spBase := rfl
@[simp] theorem setRegB_nextFrame (b i k v : Nat) (e : Eng) : (setRegB b i k v e).nextFrame = e.nextFrame := rfl
@[simp] theorem setRegB_dom (b i k v : Nat) (e : Eng) : (setRegB b i k v e).dom = e.dom := rfl
@[simp] theorem setRegB_mem (b i k v : Nat) (e : Eng) : (setRegB b i k v e).mem = e.mem := rfl
@[simp] theorem setRegB_genBase (b i k v : Nat) (e : Eng) : (setRegB b i k v e).genBase = e.genBase := rfl
@[simp] theorem setRegB_gens (b i k v : Nat) (e : Eng) : (setRegB b i k v e).gens = e.gens := rfl
@[simp] theorem setRegB_poolPois (b i k v : Nat) (e : Eng) : (setRegB b i k v e).poolPois = e.poolPois := rfl
@[simp] theorem setRegB_fwRam (b i k v : Nat) (e : Eng) : (setRegB b i k v e).fwRam = e.fwRam := rfl
@[simp] theorem setRegB_docks (b i k v : Nat) (e : Eng) : (setRegB b i k v e).docks = e.docks := rfl
@[simp] theorem setRegB_agents (b i k v : Nat) (e : Eng) : (setRegB b i k v e).agents = e.agents := rfl
@[simp] theorem setRegB_heap (b i k v : Nat) (e : Eng) : (setRegB b i k v e).heap = e.heap := rfl
@[simp] theorem setRegB_spine (b i k v : Nat) (e : Eng) : (setRegB b i k v e).spine = e.spine := rfl
@[simp] theorem setRegB_deck (b i k v : Nat) (e : Eng) : (setRegB b i k v e).deck = e.deck := rfl
@[simp] theorem setRegB_rings (b i k v : Nat) (e : Eng) : (setRegB b i k v e).rings = e.rings := rfl
@[simp] theorem setRegB_jobs (b i k v : Nat) (e : Eng) : (setRegB b i k v e).jobs = e.jobs := rfl
@[simp] theorem setRegB_ids (b i k v : Nat) (e : Eng) : (setRegB b i k v e).ids = e.ids := rfl
@[simp] theorem setRegB_hostReads (b i k v : Nat) (e : Eng) : (setRegB b i k v e).hostReads = e.hostReads := rfl
@[simp] theorem setRegB_links (b i k v : Nat) (e : Eng) : (setRegB b i k v e).links = e.links := rfl
@[simp] theorem setRegB_endpointSet (b i k v : Nat) (e : Eng) : (setRegB b i k v e).endpointSet = e.endpointSet := rfl
@[simp] theorem setRegB_sems (b i k v : Nat) (e : Eng) : (setRegB b i k v e).sems = e.sems := rfl
@[simp] theorem setRegB_fw (b i k v : Nat) (e : Eng) : (setRegB b i k v e).fw = e.fw := rfl
@[simp] theorem setRegB_power (b i k v : Nat) (e : Eng) : (setRegB b i k v e).power = e.power := rfl
@[simp] theorem setRegB_crossings (b i k v : Nat) (e : Eng) : (setRegB b i k v e).crossings = e.crossings := rfl
@[simp] theorem setRegB_modules (b i k v : Nat) (e : Eng) : (setRegB b i k v e).modules = e.modules := rfl
@[simp] theorem setRegB_trainAt (b i k v : Nat) (e : Eng) : (setRegB b i k v e).trainAt = e.trainAt := rfl
@[simp] theorem setRegB_errOut (b i k v : Nat) (e : Eng) : (setRegB b i k v e).errOut = e.errOut := rfl
@[simp] theorem setRegB_clkReqAt (b i k v : Nat) (e : Eng) : (setRegB b i k v e).clkReqAt = e.clkReqAt := rfl
@[simp] theorem setRegB_wdog (b i k v : Nat) (e : Eng) : (setRegB b i k v e).wdog = e.wdog := rfl
@[simp] theorem setRegB_raised (b i k v : Nat) (e : Eng) : (setRegB b i k v e).raised = e.raised := rfl
@[simp] theorem setRegB_fresh (b i k v : Nat) (e : Eng) : (setRegB b i k v e).fresh = e.fresh := rfl
@[simp] theorem setRegB_stale (b i k v : Nat) (e : Eng) : (setRegB b i k v e).stale = e.stale := rfl
@[simp] theorem setRegB_hostPois (b i k v : Nat) (e : Eng) : (setRegB b i k v e).hostPois = e.hostPois := rfl
@[simp] theorem setRegB_out (b i k v : Nat) (e : Eng) : (setRegB b i k v e).out = e.out := rfl
@[simp] theorem domBytes_setRegB (b i k v : Nat) (e : Eng) (u v_ z n_ : Nat) :
    domBytes (setRegB b i k v e) u v_ z n_ = domBytes e u v_ z n_ := rfl
@[simp] theorem memByte_setRegB (b i k v : Nat) (e : Eng) (u : Nat) : memByte (setRegB b i k v e) u = memByte e u := rfl

/-! ### `bumpBy` changes `regs` alone -/

@[simp] theorem bumpBy_now (n i k : Nat) (e : Eng) : (bumpBy n i k e).now = e.now := rfl
@[simp] theorem bumpBy_run (n i k : Nat) (e : Eng) : (bumpBy n i k e).run = e.run := rfl
@[simp] theorem bumpBy_parts (n i k : Nat) (e : Eng) : (bumpBy n i k e).parts = e.parts := rfl
@[simp] theorem bumpBy_powerOnAt (n i k : Nat) (e : Eng) : (bumpBy n i k e).powerOnAt = e.powerOnAt := rfl
@[simp] theorem bumpBy_spBase (n i k : Nat) (e : Eng) : (bumpBy n i k e).spBase = e.spBase := rfl
@[simp] theorem bumpBy_nextFrame (n i k : Nat) (e : Eng) : (bumpBy n i k e).nextFrame = e.nextFrame := rfl
@[simp] theorem bumpBy_dom (n i k : Nat) (e : Eng) : (bumpBy n i k e).dom = e.dom := rfl
@[simp] theorem bumpBy_mem (n i k : Nat) (e : Eng) : (bumpBy n i k e).mem = e.mem := rfl
@[simp] theorem bumpBy_genBase (n i k : Nat) (e : Eng) : (bumpBy n i k e).genBase = e.genBase := rfl
@[simp] theorem bumpBy_gens (n i k : Nat) (e : Eng) : (bumpBy n i k e).gens = e.gens := rfl
@[simp] theorem bumpBy_poolPois (n i k : Nat) (e : Eng) : (bumpBy n i k e).poolPois = e.poolPois := rfl
@[simp] theorem bumpBy_fwRam (n i k : Nat) (e : Eng) : (bumpBy n i k e).fwRam = e.fwRam := rfl
@[simp] theorem bumpBy_docks (n i k : Nat) (e : Eng) : (bumpBy n i k e).docks = e.docks := rfl
@[simp] theorem bumpBy_agents (n i k : Nat) (e : Eng) : (bumpBy n i k e).agents = e.agents := rfl
@[simp] theorem bumpBy_heap (n i k : Nat) (e : Eng) : (bumpBy n i k e).heap = e.heap := rfl
@[simp] theorem bumpBy_spine (n i k : Nat) (e : Eng) : (bumpBy n i k e).spine = e.spine := rfl
@[simp] theorem bumpBy_deck (n i k : Nat) (e : Eng) : (bumpBy n i k e).deck = e.deck := rfl
@[simp] theorem bumpBy_rings (n i k : Nat) (e : Eng) : (bumpBy n i k e).rings = e.rings := rfl
@[simp] theorem bumpBy_jobs (n i k : Nat) (e : Eng) : (bumpBy n i k e).jobs = e.jobs := rfl
@[simp] theorem bumpBy_ids (n i k : Nat) (e : Eng) : (bumpBy n i k e).ids = e.ids := rfl
@[simp] theorem bumpBy_hostReads (n i k : Nat) (e : Eng) : (bumpBy n i k e).hostReads = e.hostReads := rfl
@[simp] theorem bumpBy_links (n i k : Nat) (e : Eng) : (bumpBy n i k e).links = e.links := rfl
@[simp] theorem bumpBy_endpointSet (n i k : Nat) (e : Eng) : (bumpBy n i k e).endpointSet = e.endpointSet := rfl
@[simp] theorem bumpBy_sems (n i k : Nat) (e : Eng) : (bumpBy n i k e).sems = e.sems := rfl
@[simp] theorem bumpBy_fw (n i k : Nat) (e : Eng) : (bumpBy n i k e).fw = e.fw := rfl
@[simp] theorem bumpBy_power (n i k : Nat) (e : Eng) : (bumpBy n i k e).power = e.power := rfl
@[simp] theorem bumpBy_crossings (n i k : Nat) (e : Eng) : (bumpBy n i k e).crossings = e.crossings := rfl
@[simp] theorem bumpBy_modules (n i k : Nat) (e : Eng) : (bumpBy n i k e).modules = e.modules := rfl
@[simp] theorem bumpBy_trainAt (n i k : Nat) (e : Eng) : (bumpBy n i k e).trainAt = e.trainAt := rfl
@[simp] theorem bumpBy_errOut (n i k : Nat) (e : Eng) : (bumpBy n i k e).errOut = e.errOut := rfl
@[simp] theorem bumpBy_clkReqAt (n i k : Nat) (e : Eng) : (bumpBy n i k e).clkReqAt = e.clkReqAt := rfl
@[simp] theorem bumpBy_wdog (n i k : Nat) (e : Eng) : (bumpBy n i k e).wdog = e.wdog := rfl
@[simp] theorem bumpBy_raised (n i k : Nat) (e : Eng) : (bumpBy n i k e).raised = e.raised := rfl
@[simp] theorem bumpBy_fresh (n i k : Nat) (e : Eng) : (bumpBy n i k e).fresh = e.fresh := rfl
@[simp] theorem bumpBy_stale (n i k : Nat) (e : Eng) : (bumpBy n i k e).stale = e.stale := rfl
@[simp] theorem bumpBy_hostPois (n i k : Nat) (e : Eng) : (bumpBy n i k e).hostPois = e.hostPois := rfl
@[simp] theorem bumpBy_out (n i k : Nat) (e : Eng) : (bumpBy n i k e).out = e.out := rfl
@[simp] theorem domBytes_bumpBy (n i k : Nat) (e : Eng) (u v_ z n_ : Nat) :
    domBytes (bumpBy n i k e) u v_ z n_ = domBytes e u v_ z n_ := rfl
@[simp] theorem memByte_bumpBy (n i k : Nat) (e : Eng) (u : Nat) : memByte (bumpBy n i k e) u = memByte e u := rfl

/-! ### `bump` changes `regs` alone -/

@[simp] theorem bump_now (i k : Nat) (e : Eng) : (bump i k e).now = e.now := rfl
@[simp] theorem bump_run (i k : Nat) (e : Eng) : (bump i k e).run = e.run := rfl
@[simp] theorem bump_parts (i k : Nat) (e : Eng) : (bump i k e).parts = e.parts := rfl
@[simp] theorem bump_powerOnAt (i k : Nat) (e : Eng) : (bump i k e).powerOnAt = e.powerOnAt := rfl
@[simp] theorem bump_spBase (i k : Nat) (e : Eng) : (bump i k e).spBase = e.spBase := rfl
@[simp] theorem bump_nextFrame (i k : Nat) (e : Eng) : (bump i k e).nextFrame = e.nextFrame := rfl
@[simp] theorem bump_dom (i k : Nat) (e : Eng) : (bump i k e).dom = e.dom := rfl
@[simp] theorem bump_mem (i k : Nat) (e : Eng) : (bump i k e).mem = e.mem := rfl
@[simp] theorem bump_genBase (i k : Nat) (e : Eng) : (bump i k e).genBase = e.genBase := rfl
@[simp] theorem bump_gens (i k : Nat) (e : Eng) : (bump i k e).gens = e.gens := rfl
@[simp] theorem bump_poolPois (i k : Nat) (e : Eng) : (bump i k e).poolPois = e.poolPois := rfl
@[simp] theorem bump_fwRam (i k : Nat) (e : Eng) : (bump i k e).fwRam = e.fwRam := rfl
@[simp] theorem bump_docks (i k : Nat) (e : Eng) : (bump i k e).docks = e.docks := rfl
@[simp] theorem bump_agents (i k : Nat) (e : Eng) : (bump i k e).agents = e.agents := rfl
@[simp] theorem bump_heap (i k : Nat) (e : Eng) : (bump i k e).heap = e.heap := rfl
@[simp] theorem bump_spine (i k : Nat) (e : Eng) : (bump i k e).spine = e.spine := rfl
@[simp] theorem bump_deck (i k : Nat) (e : Eng) : (bump i k e).deck = e.deck := rfl
@[simp] theorem bump_rings (i k : Nat) (e : Eng) : (bump i k e).rings = e.rings := rfl
@[simp] theorem bump_jobs (i k : Nat) (e : Eng) : (bump i k e).jobs = e.jobs := rfl
@[simp] theorem bump_ids (i k : Nat) (e : Eng) : (bump i k e).ids = e.ids := rfl
@[simp] theorem bump_hostReads (i k : Nat) (e : Eng) : (bump i k e).hostReads = e.hostReads := rfl
@[simp] theorem bump_links (i k : Nat) (e : Eng) : (bump i k e).links = e.links := rfl
@[simp] theorem bump_endpointSet (i k : Nat) (e : Eng) : (bump i k e).endpointSet = e.endpointSet := rfl
@[simp] theorem bump_sems (i k : Nat) (e : Eng) : (bump i k e).sems = e.sems := rfl
@[simp] theorem bump_fw (i k : Nat) (e : Eng) : (bump i k e).fw = e.fw := rfl
@[simp] theorem bump_power (i k : Nat) (e : Eng) : (bump i k e).power = e.power := rfl
@[simp] theorem bump_crossings (i k : Nat) (e : Eng) : (bump i k e).crossings = e.crossings := rfl
@[simp] theorem bump_modules (i k : Nat) (e : Eng) : (bump i k e).modules = e.modules := rfl
@[simp] theorem bump_trainAt (i k : Nat) (e : Eng) : (bump i k e).trainAt = e.trainAt := rfl
@[simp] theorem bump_errOut (i k : Nat) (e : Eng) : (bump i k e).errOut = e.errOut := rfl
@[simp] theorem bump_clkReqAt (i k : Nat) (e : Eng) : (bump i k e).clkReqAt = e.clkReqAt := rfl
@[simp] theorem bump_wdog (i k : Nat) (e : Eng) : (bump i k e).wdog = e.wdog := rfl
@[simp] theorem bump_raised (i k : Nat) (e : Eng) : (bump i k e).raised = e.raised := rfl
@[simp] theorem bump_fresh (i k : Nat) (e : Eng) : (bump i k e).fresh = e.fresh := rfl
@[simp] theorem bump_stale (i k : Nat) (e : Eng) : (bump i k e).stale = e.stale := rfl
@[simp] theorem bump_hostPois (i k : Nat) (e : Eng) : (bump i k e).hostPois = e.hostPois := rfl
@[simp] theorem bump_out (i k : Nat) (e : Eng) : (bump i k e).out = e.out := rfl
@[simp] theorem domBytes_bump (i k : Nat) (e : Eng) (u v_ z n_ : Nat) :
    domBytes (bump i k e) u v_ z n_ = domBytes e u v_ z n_ := rfl
@[simp] theorem memByte_bump (i k : Nat) (e : Eng) (u : Nat) : memByte (bump i k e) u = memByte e u := rfl

/-! ### `setDomBytes` changes `dom` alone -/

@[simp] theorem setDomBytes_now (i k o : Nat) (bs : List Byte) (e : Eng) : (setDomBytes i k o bs e).now = e.now := rfl
@[simp] theorem setDomBytes_run (i k o : Nat) (bs : List Byte) (e : Eng) : (setDomBytes i k o bs e).run = e.run := rfl
@[simp] theorem setDomBytes_parts (i k o : Nat) (bs : List Byte) (e : Eng) : (setDomBytes i k o bs e).parts = e.parts := rfl
@[simp] theorem setDomBytes_powerOnAt (i k o : Nat) (bs : List Byte) (e : Eng) : (setDomBytes i k o bs e).powerOnAt = e.powerOnAt := rfl
@[simp] theorem setDomBytes_spBase (i k o : Nat) (bs : List Byte) (e : Eng) : (setDomBytes i k o bs e).spBase = e.spBase := rfl
@[simp] theorem setDomBytes_nextFrame (i k o : Nat) (bs : List Byte) (e : Eng) : (setDomBytes i k o bs e).nextFrame = e.nextFrame := rfl
@[simp] theorem setDomBytes_regs (i k o : Nat) (bs : List Byte) (e : Eng) : (setDomBytes i k o bs e).regs = e.regs := rfl
@[simp] theorem setDomBytes_mem (i k o : Nat) (bs : List Byte) (e : Eng) : (setDomBytes i k o bs e).mem = e.mem := rfl
@[simp] theorem setDomBytes_genBase (i k o : Nat) (bs : List Byte) (e : Eng) : (setDomBytes i k o bs e).genBase = e.genBase := rfl
@[simp] theorem setDomBytes_gens (i k o : Nat) (bs : List Byte) (e : Eng) : (setDomBytes i k o bs e).gens = e.gens := rfl
@[simp] theorem setDomBytes_poolPois (i k o : Nat) (bs : List Byte) (e : Eng) : (setDomBytes i k o bs e).poolPois = e.poolPois := rfl
@[simp] theorem setDomBytes_fwRam (i k o : Nat) (bs : List Byte) (e : Eng) : (setDomBytes i k o bs e).fwRam = e.fwRam := rfl
@[simp] theorem setDomBytes_docks (i k o : Nat) (bs : List Byte) (e : Eng) : (setDomBytes i k o bs e).docks = e.docks := rfl
@[simp] theorem setDomBytes_agents (i k o : Nat) (bs : List Byte) (e : Eng) : (setDomBytes i k o bs e).agents = e.agents := rfl
@[simp] theorem setDomBytes_heap (i k o : Nat) (bs : List Byte) (e : Eng) : (setDomBytes i k o bs e).heap = e.heap := rfl
@[simp] theorem setDomBytes_spine (i k o : Nat) (bs : List Byte) (e : Eng) : (setDomBytes i k o bs e).spine = e.spine := rfl
@[simp] theorem setDomBytes_deck (i k o : Nat) (bs : List Byte) (e : Eng) : (setDomBytes i k o bs e).deck = e.deck := rfl
@[simp] theorem setDomBytes_rings (i k o : Nat) (bs : List Byte) (e : Eng) : (setDomBytes i k o bs e).rings = e.rings := rfl
@[simp] theorem setDomBytes_jobs (i k o : Nat) (bs : List Byte) (e : Eng) : (setDomBytes i k o bs e).jobs = e.jobs := rfl
@[simp] theorem setDomBytes_ids (i k o : Nat) (bs : List Byte) (e : Eng) : (setDomBytes i k o bs e).ids = e.ids := rfl
@[simp] theorem setDomBytes_hostReads (i k o : Nat) (bs : List Byte) (e : Eng) : (setDomBytes i k o bs e).hostReads = e.hostReads := rfl
@[simp] theorem setDomBytes_links (i k o : Nat) (bs : List Byte) (e : Eng) : (setDomBytes i k o bs e).links = e.links := rfl
@[simp] theorem setDomBytes_endpointSet (i k o : Nat) (bs : List Byte) (e : Eng) : (setDomBytes i k o bs e).endpointSet = e.endpointSet := rfl
@[simp] theorem setDomBytes_sems (i k o : Nat) (bs : List Byte) (e : Eng) : (setDomBytes i k o bs e).sems = e.sems := rfl
@[simp] theorem setDomBytes_fw (i k o : Nat) (bs : List Byte) (e : Eng) : (setDomBytes i k o bs e).fw = e.fw := rfl
@[simp] theorem setDomBytes_power (i k o : Nat) (bs : List Byte) (e : Eng) : (setDomBytes i k o bs e).power = e.power := rfl
@[simp] theorem setDomBytes_crossings (i k o : Nat) (bs : List Byte) (e : Eng) : (setDomBytes i k o bs e).crossings = e.crossings := rfl
@[simp] theorem setDomBytes_modules (i k o : Nat) (bs : List Byte) (e : Eng) : (setDomBytes i k o bs e).modules = e.modules := rfl
@[simp] theorem setDomBytes_trainAt (i k o : Nat) (bs : List Byte) (e : Eng) : (setDomBytes i k o bs e).trainAt = e.trainAt := rfl
@[simp] theorem setDomBytes_errOut (i k o : Nat) (bs : List Byte) (e : Eng) : (setDomBytes i k o bs e).errOut = e.errOut := rfl
@[simp] theorem setDomBytes_clkReqAt (i k o : Nat) (bs : List Byte) (e : Eng) : (setDomBytes i k o bs e).clkReqAt = e.clkReqAt := rfl
@[simp] theorem setDomBytes_wdog (i k o : Nat) (bs : List Byte) (e : Eng) : (setDomBytes i k o bs e).wdog = e.wdog := rfl
@[simp] theorem setDomBytes_raised (i k o : Nat) (bs : List Byte) (e : Eng) : (setDomBytes i k o bs e).raised = e.raised := rfl
@[simp] theorem setDomBytes_fresh (i k o : Nat) (bs : List Byte) (e : Eng) : (setDomBytes i k o bs e).fresh = e.fresh := rfl
@[simp] theorem setDomBytes_stale (i k o : Nat) (bs : List Byte) (e : Eng) : (setDomBytes i k o bs e).stale = e.stale := rfl
@[simp] theorem setDomBytes_hostPois (i k o : Nat) (bs : List Byte) (e : Eng) : (setDomBytes i k o bs e).hostPois = e.hostPois := rfl
@[simp] theorem setDomBytes_out (i k o : Nat) (bs : List Byte) (e : Eng) : (setDomBytes i k o bs e).out = e.out := rfl
@[simp] theorem reg_setDomBytes (i k o : Nat) (bs : List Byte) (e : Eng) (u v_ : Nat) : reg (setDomBytes i k o bs e) u v_ = reg e u v_ := rfl
@[simp] theorem regB_setDomBytes (i k o : Nat) (bs : List Byte) (e : Eng) (z u v_ : Nat) : regB (setDomBytes i k o bs e) z u v_ = regB e z u v_ := rfl
@[simp] theorem memByte_setDomBytes (i k o : Nat) (bs : List Byte) (e : Eng) (u : Nat) : memByte (setDomBytes i k o bs e) u = memByte e u := rfl

/-! ### `setDomNat` changes `dom` alone -/

@[simp] theorem setDomNat_now (i k o n v : Nat) (e : Eng) : (setDomNat i k o n v e).now = e.now := rfl
@[simp] theorem setDomNat_run (i k o n v : Nat) (e : Eng) : (setDomNat i k o n v e).run = e.run := rfl
@[simp] theorem setDomNat_parts (i k o n v : Nat) (e : Eng) : (setDomNat i k o n v e).parts = e.parts := rfl
@[simp] theorem setDomNat_powerOnAt (i k o n v : Nat) (e : Eng) : (setDomNat i k o n v e).powerOnAt = e.powerOnAt := rfl
@[simp] theorem setDomNat_spBase (i k o n v : Nat) (e : Eng) : (setDomNat i k o n v e).spBase = e.spBase := rfl
@[simp] theorem setDomNat_nextFrame (i k o n v : Nat) (e : Eng) : (setDomNat i k o n v e).nextFrame = e.nextFrame := rfl
@[simp] theorem setDomNat_regs (i k o n v : Nat) (e : Eng) : (setDomNat i k o n v e).regs = e.regs := rfl
@[simp] theorem setDomNat_mem (i k o n v : Nat) (e : Eng) : (setDomNat i k o n v e).mem = e.mem := rfl
@[simp] theorem setDomNat_genBase (i k o n v : Nat) (e : Eng) : (setDomNat i k o n v e).genBase = e.genBase := rfl
@[simp] theorem setDomNat_gens (i k o n v : Nat) (e : Eng) : (setDomNat i k o n v e).gens = e.gens := rfl
@[simp] theorem setDomNat_poolPois (i k o n v : Nat) (e : Eng) : (setDomNat i k o n v e).poolPois = e.poolPois := rfl
@[simp] theorem setDomNat_fwRam (i k o n v : Nat) (e : Eng) : (setDomNat i k o n v e).fwRam = e.fwRam := rfl
@[simp] theorem setDomNat_docks (i k o n v : Nat) (e : Eng) : (setDomNat i k o n v e).docks = e.docks := rfl
@[simp] theorem setDomNat_agents (i k o n v : Nat) (e : Eng) : (setDomNat i k o n v e).agents = e.agents := rfl
@[simp] theorem setDomNat_heap (i k o n v : Nat) (e : Eng) : (setDomNat i k o n v e).heap = e.heap := rfl
@[simp] theorem setDomNat_spine (i k o n v : Nat) (e : Eng) : (setDomNat i k o n v e).spine = e.spine := rfl
@[simp] theorem setDomNat_deck (i k o n v : Nat) (e : Eng) : (setDomNat i k o n v e).deck = e.deck := rfl
@[simp] theorem setDomNat_rings (i k o n v : Nat) (e : Eng) : (setDomNat i k o n v e).rings = e.rings := rfl
@[simp] theorem setDomNat_jobs (i k o n v : Nat) (e : Eng) : (setDomNat i k o n v e).jobs = e.jobs := rfl
@[simp] theorem setDomNat_ids (i k o n v : Nat) (e : Eng) : (setDomNat i k o n v e).ids = e.ids := rfl
@[simp] theorem setDomNat_hostReads (i k o n v : Nat) (e : Eng) : (setDomNat i k o n v e).hostReads = e.hostReads := rfl
@[simp] theorem setDomNat_links (i k o n v : Nat) (e : Eng) : (setDomNat i k o n v e).links = e.links := rfl
@[simp] theorem setDomNat_endpointSet (i k o n v : Nat) (e : Eng) : (setDomNat i k o n v e).endpointSet = e.endpointSet := rfl
@[simp] theorem setDomNat_sems (i k o n v : Nat) (e : Eng) : (setDomNat i k o n v e).sems = e.sems := rfl
@[simp] theorem setDomNat_fw (i k o n v : Nat) (e : Eng) : (setDomNat i k o n v e).fw = e.fw := rfl
@[simp] theorem setDomNat_power (i k o n v : Nat) (e : Eng) : (setDomNat i k o n v e).power = e.power := rfl
@[simp] theorem setDomNat_crossings (i k o n v : Nat) (e : Eng) : (setDomNat i k o n v e).crossings = e.crossings := rfl
@[simp] theorem setDomNat_modules (i k o n v : Nat) (e : Eng) : (setDomNat i k o n v e).modules = e.modules := rfl
@[simp] theorem setDomNat_trainAt (i k o n v : Nat) (e : Eng) : (setDomNat i k o n v e).trainAt = e.trainAt := rfl
@[simp] theorem setDomNat_errOut (i k o n v : Nat) (e : Eng) : (setDomNat i k o n v e).errOut = e.errOut := rfl
@[simp] theorem setDomNat_clkReqAt (i k o n v : Nat) (e : Eng) : (setDomNat i k o n v e).clkReqAt = e.clkReqAt := rfl
@[simp] theorem setDomNat_wdog (i k o n v : Nat) (e : Eng) : (setDomNat i k o n v e).wdog = e.wdog := rfl
@[simp] theorem setDomNat_raised (i k o n v : Nat) (e : Eng) : (setDomNat i k o n v e).raised = e.raised := rfl
@[simp] theorem setDomNat_fresh (i k o n v : Nat) (e : Eng) : (setDomNat i k o n v e).fresh = e.fresh := rfl
@[simp] theorem setDomNat_stale (i k o n v : Nat) (e : Eng) : (setDomNat i k o n v e).stale = e.stale := rfl
@[simp] theorem setDomNat_hostPois (i k o n v : Nat) (e : Eng) : (setDomNat i k o n v e).hostPois = e.hostPois := rfl
@[simp] theorem setDomNat_out (i k o n v : Nat) (e : Eng) : (setDomNat i k o n v e).out = e.out := rfl
@[simp] theorem reg_setDomNat (i k o n v : Nat) (e : Eng) (u v_ : Nat) : reg (setDomNat i k o n v e) u v_ = reg e u v_ := rfl
@[simp] theorem regB_setDomNat (i k o n v : Nat) (e : Eng) (z u v_ : Nat) : regB (setDomNat i k o n v e) z u v_ = regB e z u v_ := rfl
@[simp] theorem memByte_setDomNat (i k o n v : Nat) (e : Eng) (u : Nat) : memByte (setDomNat i k o n v e) u = memByte e u := rfl

/-! ### `clearDom` changes `dom` alone -/

@[simp] theorem clearDom_now (i k : Nat) (e : Eng) : (clearDom i k e).now = e.now := rfl
@[simp] theorem clearDom_run (i k : Nat) (e : Eng) : (clearDom i k e).run = e.run := rfl
@[simp] theorem clearDom_parts (i k : Nat) (e : Eng) : (clearDom i k e).parts = e.parts := rfl
@[simp] theorem clearDom_powerOnAt (i k : Nat) (e : Eng) : (clearDom i k e).powerOnAt = e.powerOnAt := rfl
@[simp] theorem clearDom_spBase (i k : Nat) (e : Eng) : (clearDom i k e).spBase = e.spBase := rfl
@[simp] theorem clearDom_nextFrame (i k : Nat) (e : Eng) : (clearDom i k e).nextFrame = e.nextFrame := rfl
@[simp] theorem clearDom_regs (i k : Nat) (e : Eng) : (clearDom i k e).regs = e.regs := rfl
@[simp] theorem clearDom_mem (i k : Nat) (e : Eng) : (clearDom i k e).mem = e.mem := rfl
@[simp] theorem clearDom_genBase (i k : Nat) (e : Eng) : (clearDom i k e).genBase = e.genBase := rfl
@[simp] theorem clearDom_gens (i k : Nat) (e : Eng) : (clearDom i k e).gens = e.gens := rfl
@[simp] theorem clearDom_poolPois (i k : Nat) (e : Eng) : (clearDom i k e).poolPois = e.poolPois := rfl
@[simp] theorem clearDom_fwRam (i k : Nat) (e : Eng) : (clearDom i k e).fwRam = e.fwRam := rfl
@[simp] theorem clearDom_docks (i k : Nat) (e : Eng) : (clearDom i k e).docks = e.docks := rfl
@[simp] theorem clearDom_agents (i k : Nat) (e : Eng) : (clearDom i k e).agents = e.agents := rfl
@[simp] theorem clearDom_heap (i k : Nat) (e : Eng) : (clearDom i k e).heap = e.heap := rfl
@[simp] theorem clearDom_spine (i k : Nat) (e : Eng) : (clearDom i k e).spine = e.spine := rfl
@[simp] theorem clearDom_deck (i k : Nat) (e : Eng) : (clearDom i k e).deck = e.deck := rfl
@[simp] theorem clearDom_rings (i k : Nat) (e : Eng) : (clearDom i k e).rings = e.rings := rfl
@[simp] theorem clearDom_jobs (i k : Nat) (e : Eng) : (clearDom i k e).jobs = e.jobs := rfl
@[simp] theorem clearDom_ids (i k : Nat) (e : Eng) : (clearDom i k e).ids = e.ids := rfl
@[simp] theorem clearDom_hostReads (i k : Nat) (e : Eng) : (clearDom i k e).hostReads = e.hostReads := rfl
@[simp] theorem clearDom_links (i k : Nat) (e : Eng) : (clearDom i k e).links = e.links := rfl
@[simp] theorem clearDom_endpointSet (i k : Nat) (e : Eng) : (clearDom i k e).endpointSet = e.endpointSet := rfl
@[simp] theorem clearDom_sems (i k : Nat) (e : Eng) : (clearDom i k e).sems = e.sems := rfl
@[simp] theorem clearDom_fw (i k : Nat) (e : Eng) : (clearDom i k e).fw = e.fw := rfl
@[simp] theorem clearDom_power (i k : Nat) (e : Eng) : (clearDom i k e).power = e.power := rfl
@[simp] theorem clearDom_crossings (i k : Nat) (e : Eng) : (clearDom i k e).crossings = e.crossings := rfl
@[simp] theorem clearDom_modules (i k : Nat) (e : Eng) : (clearDom i k e).modules = e.modules := rfl
@[simp] theorem clearDom_trainAt (i k : Nat) (e : Eng) : (clearDom i k e).trainAt = e.trainAt := rfl
@[simp] theorem clearDom_errOut (i k : Nat) (e : Eng) : (clearDom i k e).errOut = e.errOut := rfl
@[simp] theorem clearDom_clkReqAt (i k : Nat) (e : Eng) : (clearDom i k e).clkReqAt = e.clkReqAt := rfl
@[simp] theorem clearDom_wdog (i k : Nat) (e : Eng) : (clearDom i k e).wdog = e.wdog := rfl
@[simp] theorem clearDom_raised (i k : Nat) (e : Eng) : (clearDom i k e).raised = e.raised := rfl
@[simp] theorem clearDom_fresh (i k : Nat) (e : Eng) : (clearDom i k e).fresh = e.fresh := rfl
@[simp] theorem clearDom_stale (i k : Nat) (e : Eng) : (clearDom i k e).stale = e.stale := rfl
@[simp] theorem clearDom_hostPois (i k : Nat) (e : Eng) : (clearDom i k e).hostPois = e.hostPois := rfl
@[simp] theorem clearDom_out (i k : Nat) (e : Eng) : (clearDom i k e).out = e.out := rfl
@[simp] theorem reg_clearDom (i k : Nat) (e : Eng) (u v_ : Nat) : reg (clearDom i k e) u v_ = reg e u v_ := rfl
@[simp] theorem regB_clearDom (i k : Nat) (e : Eng) (z u v_ : Nat) : regB (clearDom i k e) z u v_ = regB e z u v_ := rfl
@[simp] theorem memByte_clearDom (i k : Nat) (e : Eng) (u : Nat) : memByte (clearDom i k e) u = memByte e u := rfl

/-! ### `setMemByte` changes `mem` alone -/

@[simp] theorem setMemByte_now (a : Nat) (b : Byte) (e : Eng) : (setMemByte a b e).now = e.now := rfl
@[simp] theorem setMemByte_run (a : Nat) (b : Byte) (e : Eng) : (setMemByte a b e).run = e.run := rfl
@[simp] theorem setMemByte_parts (a : Nat) (b : Byte) (e : Eng) : (setMemByte a b e).parts = e.parts := rfl
@[simp] theorem setMemByte_powerOnAt (a : Nat) (b : Byte) (e : Eng) : (setMemByte a b e).powerOnAt = e.powerOnAt := rfl
@[simp] theorem setMemByte_spBase (a : Nat) (b : Byte) (e : Eng) : (setMemByte a b e).spBase = e.spBase := rfl
@[simp] theorem setMemByte_nextFrame (a : Nat) (b : Byte) (e : Eng) : (setMemByte a b e).nextFrame = e.nextFrame := rfl
@[simp] theorem setMemByte_regs (a : Nat) (b : Byte) (e : Eng) : (setMemByte a b e).regs = e.regs := rfl
@[simp] theorem setMemByte_dom (a : Nat) (b : Byte) (e : Eng) : (setMemByte a b e).dom = e.dom := rfl
@[simp] theorem setMemByte_genBase (a : Nat) (b : Byte) (e : Eng) : (setMemByte a b e).genBase = e.genBase := rfl
@[simp] theorem setMemByte_gens (a : Nat) (b : Byte) (e : Eng) : (setMemByte a b e).gens = e.gens := rfl
@[simp] theorem setMemByte_poolPois (a : Nat) (b : Byte) (e : Eng) : (setMemByte a b e).poolPois = e.poolPois := rfl
@[simp] theorem setMemByte_fwRam (a : Nat) (b : Byte) (e : Eng) : (setMemByte a b e).fwRam = e.fwRam := rfl
@[simp] theorem setMemByte_docks (a : Nat) (b : Byte) (e : Eng) : (setMemByte a b e).docks = e.docks := rfl
@[simp] theorem setMemByte_agents (a : Nat) (b : Byte) (e : Eng) : (setMemByte a b e).agents = e.agents := rfl
@[simp] theorem setMemByte_heap (a : Nat) (b : Byte) (e : Eng) : (setMemByte a b e).heap = e.heap := rfl
@[simp] theorem setMemByte_spine (a : Nat) (b : Byte) (e : Eng) : (setMemByte a b e).spine = e.spine := rfl
@[simp] theorem setMemByte_deck (a : Nat) (b : Byte) (e : Eng) : (setMemByte a b e).deck = e.deck := rfl
@[simp] theorem setMemByte_rings (a : Nat) (b : Byte) (e : Eng) : (setMemByte a b e).rings = e.rings := rfl
@[simp] theorem setMemByte_jobs (a : Nat) (b : Byte) (e : Eng) : (setMemByte a b e).jobs = e.jobs := rfl
@[simp] theorem setMemByte_ids (a : Nat) (b : Byte) (e : Eng) : (setMemByte a b e).ids = e.ids := rfl
@[simp] theorem setMemByte_hostReads (a : Nat) (b : Byte) (e : Eng) : (setMemByte a b e).hostReads = e.hostReads := rfl
@[simp] theorem setMemByte_links (a : Nat) (b : Byte) (e : Eng) : (setMemByte a b e).links = e.links := rfl
@[simp] theorem setMemByte_endpointSet (a : Nat) (b : Byte) (e : Eng) : (setMemByte a b e).endpointSet = e.endpointSet := rfl
@[simp] theorem setMemByte_sems (a : Nat) (b : Byte) (e : Eng) : (setMemByte a b e).sems = e.sems := rfl
@[simp] theorem setMemByte_fw (a : Nat) (b : Byte) (e : Eng) : (setMemByte a b e).fw = e.fw := rfl
@[simp] theorem setMemByte_power (a : Nat) (b : Byte) (e : Eng) : (setMemByte a b e).power = e.power := rfl
@[simp] theorem setMemByte_crossings (a : Nat) (b : Byte) (e : Eng) : (setMemByte a b e).crossings = e.crossings := rfl
@[simp] theorem setMemByte_modules (a : Nat) (b : Byte) (e : Eng) : (setMemByte a b e).modules = e.modules := rfl
@[simp] theorem setMemByte_trainAt (a : Nat) (b : Byte) (e : Eng) : (setMemByte a b e).trainAt = e.trainAt := rfl
@[simp] theorem setMemByte_errOut (a : Nat) (b : Byte) (e : Eng) : (setMemByte a b e).errOut = e.errOut := rfl
@[simp] theorem setMemByte_clkReqAt (a : Nat) (b : Byte) (e : Eng) : (setMemByte a b e).clkReqAt = e.clkReqAt := rfl
@[simp] theorem setMemByte_wdog (a : Nat) (b : Byte) (e : Eng) : (setMemByte a b e).wdog = e.wdog := rfl
@[simp] theorem setMemByte_raised (a : Nat) (b : Byte) (e : Eng) : (setMemByte a b e).raised = e.raised := rfl
@[simp] theorem setMemByte_fresh (a : Nat) (b : Byte) (e : Eng) : (setMemByte a b e).fresh = e.fresh := rfl
@[simp] theorem setMemByte_stale (a : Nat) (b : Byte) (e : Eng) : (setMemByte a b e).stale = e.stale := rfl
@[simp] theorem setMemByte_hostPois (a : Nat) (b : Byte) (e : Eng) : (setMemByte a b e).hostPois = e.hostPois := rfl
@[simp] theorem setMemByte_out (a : Nat) (b : Byte) (e : Eng) : (setMemByte a b e).out = e.out := rfl
@[simp] theorem reg_setMemByte (a : Nat) (b : Byte) (e : Eng) (u v_ : Nat) : reg (setMemByte a b e) u v_ = reg e u v_ := rfl
@[simp] theorem regB_setMemByte (a : Nat) (b : Byte) (e : Eng) (z u v_ : Nat) : regB (setMemByte a b e) z u v_ = regB e z u v_ := rfl
@[simp] theorem domBytes_setMemByte (a : Nat) (b : Byte) (e : Eng) (u v_ z n_ : Nat) :
    domBytes (setMemByte a b e) u v_ z n_ = domBytes e u v_ z n_ := rfl

/-! ### `setMemBytes` changes `mem` alone -/

@[simp] theorem setMemBytes_now (a : Nat) (bs : List Byte) (e : Eng) : (setMemBytes a bs e).now = e.now := rfl
@[simp] theorem setMemBytes_run (a : Nat) (bs : List Byte) (e : Eng) : (setMemBytes a bs e).run = e.run := rfl
@[simp] theorem setMemBytes_parts (a : Nat) (bs : List Byte) (e : Eng) : (setMemBytes a bs e).parts = e.parts := rfl
@[simp] theorem setMemBytes_powerOnAt (a : Nat) (bs : List Byte) (e : Eng) : (setMemBytes a bs e).powerOnAt = e.powerOnAt := rfl
@[simp] theorem setMemBytes_spBase (a : Nat) (bs : List Byte) (e : Eng) : (setMemBytes a bs e).spBase = e.spBase := rfl
@[simp] theorem setMemBytes_nextFrame (a : Nat) (bs : List Byte) (e : Eng) : (setMemBytes a bs e).nextFrame = e.nextFrame := rfl
@[simp] theorem setMemBytes_regs (a : Nat) (bs : List Byte) (e : Eng) : (setMemBytes a bs e).regs = e.regs := rfl
@[simp] theorem setMemBytes_dom (a : Nat) (bs : List Byte) (e : Eng) : (setMemBytes a bs e).dom = e.dom := rfl
@[simp] theorem setMemBytes_genBase (a : Nat) (bs : List Byte) (e : Eng) : (setMemBytes a bs e).genBase = e.genBase := rfl
@[simp] theorem setMemBytes_gens (a : Nat) (bs : List Byte) (e : Eng) : (setMemBytes a bs e).gens = e.gens := rfl
@[simp] theorem setMemBytes_poolPois (a : Nat) (bs : List Byte) (e : Eng) : (setMemBytes a bs e).poolPois = e.poolPois := rfl
@[simp] theorem setMemBytes_fwRam (a : Nat) (bs : List Byte) (e : Eng) : (setMemBytes a bs e).fwRam = e.fwRam := rfl
@[simp] theorem setMemBytes_docks (a : Nat) (bs : List Byte) (e : Eng) : (setMemBytes a bs e).docks = e.docks := rfl
@[simp] theorem setMemBytes_agents (a : Nat) (bs : List Byte) (e : Eng) : (setMemBytes a bs e).agents = e.agents := rfl
@[simp] theorem setMemBytes_heap (a : Nat) (bs : List Byte) (e : Eng) : (setMemBytes a bs e).heap = e.heap := rfl
@[simp] theorem setMemBytes_spine (a : Nat) (bs : List Byte) (e : Eng) : (setMemBytes a bs e).spine = e.spine := rfl
@[simp] theorem setMemBytes_deck (a : Nat) (bs : List Byte) (e : Eng) : (setMemBytes a bs e).deck = e.deck := rfl
@[simp] theorem setMemBytes_rings (a : Nat) (bs : List Byte) (e : Eng) : (setMemBytes a bs e).rings = e.rings := rfl
@[simp] theorem setMemBytes_jobs (a : Nat) (bs : List Byte) (e : Eng) : (setMemBytes a bs e).jobs = e.jobs := rfl
@[simp] theorem setMemBytes_ids (a : Nat) (bs : List Byte) (e : Eng) : (setMemBytes a bs e).ids = e.ids := rfl
@[simp] theorem setMemBytes_hostReads (a : Nat) (bs : List Byte) (e : Eng) : (setMemBytes a bs e).hostReads = e.hostReads := rfl
@[simp] theorem setMemBytes_links (a : Nat) (bs : List Byte) (e : Eng) : (setMemBytes a bs e).links = e.links := rfl
@[simp] theorem setMemBytes_endpointSet (a : Nat) (bs : List Byte) (e : Eng) : (setMemBytes a bs e).endpointSet = e.endpointSet := rfl
@[simp] theorem setMemBytes_sems (a : Nat) (bs : List Byte) (e : Eng) : (setMemBytes a bs e).sems = e.sems := rfl
@[simp] theorem setMemBytes_fw (a : Nat) (bs : List Byte) (e : Eng) : (setMemBytes a bs e).fw = e.fw := rfl
@[simp] theorem setMemBytes_power (a : Nat) (bs : List Byte) (e : Eng) : (setMemBytes a bs e).power = e.power := rfl
@[simp] theorem setMemBytes_crossings (a : Nat) (bs : List Byte) (e : Eng) : (setMemBytes a bs e).crossings = e.crossings := rfl
@[simp] theorem setMemBytes_modules (a : Nat) (bs : List Byte) (e : Eng) : (setMemBytes a bs e).modules = e.modules := rfl
@[simp] theorem setMemBytes_trainAt (a : Nat) (bs : List Byte) (e : Eng) : (setMemBytes a bs e).trainAt = e.trainAt := rfl
@[simp] theorem setMemBytes_errOut (a : Nat) (bs : List Byte) (e : Eng) : (setMemBytes a bs e).errOut = e.errOut := rfl
@[simp] theorem setMemBytes_clkReqAt (a : Nat) (bs : List Byte) (e : Eng) : (setMemBytes a bs e).clkReqAt = e.clkReqAt := rfl
@[simp] theorem setMemBytes_wdog (a : Nat) (bs : List Byte) (e : Eng) : (setMemBytes a bs e).wdog = e.wdog := rfl
@[simp] theorem setMemBytes_raised (a : Nat) (bs : List Byte) (e : Eng) : (setMemBytes a bs e).raised = e.raised := rfl
@[simp] theorem setMemBytes_fresh (a : Nat) (bs : List Byte) (e : Eng) : (setMemBytes a bs e).fresh = e.fresh := rfl
@[simp] theorem setMemBytes_stale (a : Nat) (bs : List Byte) (e : Eng) : (setMemBytes a bs e).stale = e.stale := rfl
@[simp] theorem setMemBytes_hostPois (a : Nat) (bs : List Byte) (e : Eng) : (setMemBytes a bs e).hostPois = e.hostPois := rfl
@[simp] theorem setMemBytes_out (a : Nat) (bs : List Byte) (e : Eng) : (setMemBytes a bs e).out = e.out := rfl
@[simp] theorem reg_setMemBytes (a : Nat) (bs : List Byte) (e : Eng) (u v_ : Nat) : reg (setMemBytes a bs e) u v_ = reg e u v_ := rfl
@[simp] theorem regB_setMemBytes (a : Nat) (bs : List Byte) (e : Eng) (z u v_ : Nat) : regB (setMemBytes a bs e) z u v_ = regB e z u v_ := rfl
@[simp] theorem domBytes_setMemBytes (a : Nat) (bs : List Byte) (e : Eng) (u v_ z n_ : Nat) :
    domBytes (setMemBytes a bs e) u v_ z n_ = domBytes e u v_ z n_ := rfl

/-! ### `setPoolPois` changes `poolPois` alone -/

@[simp] theorem setPoolPois_now (a : Nat) (b : Bool) (e : Eng) : (setPoolPois a b e).now = e.now := rfl
@[simp] theorem setPoolPois_run (a : Nat) (b : Bool) (e : Eng) : (setPoolPois a b e).run = e.run := rfl
@[simp] theorem setPoolPois_parts (a : Nat) (b : Bool) (e : Eng) : (setPoolPois a b e).parts = e.parts := rfl
@[simp] theorem setPoolPois_powerOnAt (a : Nat) (b : Bool) (e : Eng) : (setPoolPois a b e).powerOnAt = e.powerOnAt := rfl
@[simp] theorem setPoolPois_spBase (a : Nat) (b : Bool) (e : Eng) : (setPoolPois a b e).spBase = e.spBase := rfl
@[simp] theorem setPoolPois_nextFrame (a : Nat) (b : Bool) (e : Eng) : (setPoolPois a b e).nextFrame = e.nextFrame := rfl
@[simp] theorem setPoolPois_regs (a : Nat) (b : Bool) (e : Eng) : (setPoolPois a b e).regs = e.regs := rfl
@[simp] theorem setPoolPois_dom (a : Nat) (b : Bool) (e : Eng) : (setPoolPois a b e).dom = e.dom := rfl
@[simp] theorem setPoolPois_mem (a : Nat) (b : Bool) (e : Eng) : (setPoolPois a b e).mem = e.mem := rfl
@[simp] theorem setPoolPois_genBase (a : Nat) (b : Bool) (e : Eng) : (setPoolPois a b e).genBase = e.genBase := rfl
@[simp] theorem setPoolPois_gens (a : Nat) (b : Bool) (e : Eng) : (setPoolPois a b e).gens = e.gens := rfl
@[simp] theorem setPoolPois_fwRam (a : Nat) (b : Bool) (e : Eng) : (setPoolPois a b e).fwRam = e.fwRam := rfl
@[simp] theorem setPoolPois_docks (a : Nat) (b : Bool) (e : Eng) : (setPoolPois a b e).docks = e.docks := rfl
@[simp] theorem setPoolPois_agents (a : Nat) (b : Bool) (e : Eng) : (setPoolPois a b e).agents = e.agents := rfl
@[simp] theorem setPoolPois_heap (a : Nat) (b : Bool) (e : Eng) : (setPoolPois a b e).heap = e.heap := rfl
@[simp] theorem setPoolPois_spine (a : Nat) (b : Bool) (e : Eng) : (setPoolPois a b e).spine = e.spine := rfl
@[simp] theorem setPoolPois_deck (a : Nat) (b : Bool) (e : Eng) : (setPoolPois a b e).deck = e.deck := rfl
@[simp] theorem setPoolPois_rings (a : Nat) (b : Bool) (e : Eng) : (setPoolPois a b e).rings = e.rings := rfl
@[simp] theorem setPoolPois_jobs (a : Nat) (b : Bool) (e : Eng) : (setPoolPois a b e).jobs = e.jobs := rfl
@[simp] theorem setPoolPois_ids (a : Nat) (b : Bool) (e : Eng) : (setPoolPois a b e).ids = e.ids := rfl
@[simp] theorem setPoolPois_hostReads (a : Nat) (b : Bool) (e : Eng) : (setPoolPois a b e).hostReads = e.hostReads := rfl
@[simp] theorem setPoolPois_links (a : Nat) (b : Bool) (e : Eng) : (setPoolPois a b e).links = e.links := rfl
@[simp] theorem setPoolPois_endpointSet (a : Nat) (b : Bool) (e : Eng) : (setPoolPois a b e).endpointSet = e.endpointSet := rfl
@[simp] theorem setPoolPois_sems (a : Nat) (b : Bool) (e : Eng) : (setPoolPois a b e).sems = e.sems := rfl
@[simp] theorem setPoolPois_fw (a : Nat) (b : Bool) (e : Eng) : (setPoolPois a b e).fw = e.fw := rfl
@[simp] theorem setPoolPois_power (a : Nat) (b : Bool) (e : Eng) : (setPoolPois a b e).power = e.power := rfl
@[simp] theorem setPoolPois_crossings (a : Nat) (b : Bool) (e : Eng) : (setPoolPois a b e).crossings = e.crossings := rfl
@[simp] theorem setPoolPois_modules (a : Nat) (b : Bool) (e : Eng) : (setPoolPois a b e).modules = e.modules := rfl
@[simp] theorem setPoolPois_trainAt (a : Nat) (b : Bool) (e : Eng) : (setPoolPois a b e).trainAt = e.trainAt := rfl
@[simp] theorem setPoolPois_errOut (a : Nat) (b : Bool) (e : Eng) : (setPoolPois a b e).errOut = e.errOut := rfl
@[simp] theorem setPoolPois_clkReqAt (a : Nat) (b : Bool) (e : Eng) : (setPoolPois a b e).clkReqAt = e.clkReqAt := rfl
@[simp] theorem setPoolPois_wdog (a : Nat) (b : Bool) (e : Eng) : (setPoolPois a b e).wdog = e.wdog := rfl
@[simp] theorem setPoolPois_raised (a : Nat) (b : Bool) (e : Eng) : (setPoolPois a b e).raised = e.raised := rfl
@[simp] theorem setPoolPois_fresh (a : Nat) (b : Bool) (e : Eng) : (setPoolPois a b e).fresh = e.fresh := rfl
@[simp] theorem setPoolPois_stale (a : Nat) (b : Bool) (e : Eng) : (setPoolPois a b e).stale = e.stale := rfl
@[simp] theorem setPoolPois_hostPois (a : Nat) (b : Bool) (e : Eng) : (setPoolPois a b e).hostPois = e.hostPois := rfl
@[simp] theorem setPoolPois_out (a : Nat) (b : Bool) (e : Eng) : (setPoolPois a b e).out = e.out := rfl
@[simp] theorem reg_setPoolPois (a : Nat) (b : Bool) (e : Eng) (u v_ : Nat) : reg (setPoolPois a b e) u v_ = reg e u v_ := rfl
@[simp] theorem regB_setPoolPois (a : Nat) (b : Bool) (e : Eng) (z u v_ : Nat) : regB (setPoolPois a b e) z u v_ = regB e z u v_ := rfl
@[simp] theorem domBytes_setPoolPois (a : Nat) (b : Bool) (e : Eng) (u v_ z n_ : Nat) :
    domBytes (setPoolPois a b e) u v_ z n_ = domBytes e u v_ z n_ := rfl
@[simp] theorem memByte_setPoolPois (a : Nat) (b : Bool) (e : Eng) (u : Nat) : memByte (setPoolPois a b e) u = memByte e u := rfl

/-! ### `setPhase` changes `parts` alone -/

@[simp] theorem setPhase_now (n : Nat) (x : Phase) (e : Eng) : (setPhase n x e).now = e.now := rfl
@[simp] theorem setPhase_run (n : Nat) (x : Phase) (e : Eng) : (setPhase n x e).run = e.run := rfl
@[simp] theorem setPhase_powerOnAt (n : Nat) (x : Phase) (e : Eng) : (setPhase n x e).powerOnAt = e.powerOnAt := rfl
@[simp] theorem setPhase_spBase (n : Nat) (x : Phase) (e : Eng) : (setPhase n x e).spBase = e.spBase := rfl
@[simp] theorem setPhase_nextFrame (n : Nat) (x : Phase) (e : Eng) : (setPhase n x e).nextFrame = e.nextFrame := rfl
@[simp] theorem setPhase_regs (n : Nat) (x : Phase) (e : Eng) : (setPhase n x e).regs = e.regs := rfl
@[simp] theorem setPhase_dom (n : Nat) (x : Phase) (e : Eng) : (setPhase n x e).dom = e.dom := rfl
@[simp] theorem setPhase_mem (n : Nat) (x : Phase) (e : Eng) : (setPhase n x e).mem = e.mem := rfl
@[simp] theorem setPhase_genBase (n : Nat) (x : Phase) (e : Eng) : (setPhase n x e).genBase = e.genBase := rfl
@[simp] theorem setPhase_gens (n : Nat) (x : Phase) (e : Eng) : (setPhase n x e).gens = e.gens := rfl
@[simp] theorem setPhase_poolPois (n : Nat) (x : Phase) (e : Eng) : (setPhase n x e).poolPois = e.poolPois := rfl
@[simp] theorem setPhase_fwRam (n : Nat) (x : Phase) (e : Eng) : (setPhase n x e).fwRam = e.fwRam := rfl
@[simp] theorem setPhase_docks (n : Nat) (x : Phase) (e : Eng) : (setPhase n x e).docks = e.docks := rfl
@[simp] theorem setPhase_agents (n : Nat) (x : Phase) (e : Eng) : (setPhase n x e).agents = e.agents := rfl
@[simp] theorem setPhase_heap (n : Nat) (x : Phase) (e : Eng) : (setPhase n x e).heap = e.heap := rfl
@[simp] theorem setPhase_spine (n : Nat) (x : Phase) (e : Eng) : (setPhase n x e).spine = e.spine := rfl
@[simp] theorem setPhase_deck (n : Nat) (x : Phase) (e : Eng) : (setPhase n x e).deck = e.deck := rfl
@[simp] theorem setPhase_rings (n : Nat) (x : Phase) (e : Eng) : (setPhase n x e).rings = e.rings := rfl
@[simp] theorem setPhase_jobs (n : Nat) (x : Phase) (e : Eng) : (setPhase n x e).jobs = e.jobs := rfl
@[simp] theorem setPhase_ids (n : Nat) (x : Phase) (e : Eng) : (setPhase n x e).ids = e.ids := rfl
@[simp] theorem setPhase_hostReads (n : Nat) (x : Phase) (e : Eng) : (setPhase n x e).hostReads = e.hostReads := rfl
@[simp] theorem setPhase_links (n : Nat) (x : Phase) (e : Eng) : (setPhase n x e).links = e.links := rfl
@[simp] theorem setPhase_endpointSet (n : Nat) (x : Phase) (e : Eng) : (setPhase n x e).endpointSet = e.endpointSet := rfl
@[simp] theorem setPhase_sems (n : Nat) (x : Phase) (e : Eng) : (setPhase n x e).sems = e.sems := rfl
@[simp] theorem setPhase_fw (n : Nat) (x : Phase) (e : Eng) : (setPhase n x e).fw = e.fw := rfl
@[simp] theorem setPhase_power (n : Nat) (x : Phase) (e : Eng) : (setPhase n x e).power = e.power := rfl
@[simp] theorem setPhase_crossings (n : Nat) (x : Phase) (e : Eng) : (setPhase n x e).crossings = e.crossings := rfl
@[simp] theorem setPhase_modules (n : Nat) (x : Phase) (e : Eng) : (setPhase n x e).modules = e.modules := rfl
@[simp] theorem setPhase_trainAt (n : Nat) (x : Phase) (e : Eng) : (setPhase n x e).trainAt = e.trainAt := rfl
@[simp] theorem setPhase_errOut (n : Nat) (x : Phase) (e : Eng) : (setPhase n x e).errOut = e.errOut := rfl
@[simp] theorem setPhase_clkReqAt (n : Nat) (x : Phase) (e : Eng) : (setPhase n x e).clkReqAt = e.clkReqAt := rfl
@[simp] theorem setPhase_wdog (n : Nat) (x : Phase) (e : Eng) : (setPhase n x e).wdog = e.wdog := rfl
@[simp] theorem setPhase_raised (n : Nat) (x : Phase) (e : Eng) : (setPhase n x e).raised = e.raised := rfl
@[simp] theorem setPhase_fresh (n : Nat) (x : Phase) (e : Eng) : (setPhase n x e).fresh = e.fresh := rfl
@[simp] theorem setPhase_stale (n : Nat) (x : Phase) (e : Eng) : (setPhase n x e).stale = e.stale := rfl
@[simp] theorem setPhase_hostPois (n : Nat) (x : Phase) (e : Eng) : (setPhase n x e).hostPois = e.hostPois := rfl
@[simp] theorem setPhase_out (n : Nat) (x : Phase) (e : Eng) : (setPhase n x e).out = e.out := rfl
@[simp] theorem reg_setPhase (n : Nat) (x : Phase) (e : Eng) (u v_ : Nat) : reg (setPhase n x e) u v_ = reg e u v_ := rfl
@[simp] theorem regB_setPhase (n : Nat) (x : Phase) (e : Eng) (z u v_ : Nat) : regB (setPhase n x e) z u v_ = regB e z u v_ := rfl
@[simp] theorem domBytes_setPhase (n : Nat) (x : Phase) (e : Eng) (u v_ z n_ : Nat) :
    domBytes (setPhase n x e) u v_ z n_ = domBytes e u v_ z n_ := rfl
@[simp] theorem memByte_setPhase (n : Nat) (x : Phase) (e : Eng) (u : Nat) : memByte (setPhase n x e) u = memByte e u := rfl

/-! ### `setSlot` changes `heap` alone -/

@[simp] theorem setSlot_now (k : Nat) (h : HandleSlot) (e : Eng) : (setSlot k h e).now = e.now := rfl
@[simp] theorem setSlot_run (k : Nat) (h : HandleSlot) (e : Eng) : (setSlot k h e).run = e.run := rfl
@[simp] theorem setSlot_parts (k : Nat) (h : HandleSlot) (e : Eng) : (setSlot k h e).parts = e.parts := rfl
@[simp] theorem setSlot_powerOnAt (k : Nat) (h : HandleSlot) (e : Eng) : (setSlot k h e).powerOnAt = e.powerOnAt := rfl
@[simp] theorem setSlot_spBase (k : Nat) (h : HandleSlot) (e : Eng) : (setSlot k h e).spBase = e.spBase := rfl
@[simp] theorem setSlot_nextFrame (k : Nat) (h : HandleSlot) (e : Eng) : (setSlot k h e).nextFrame = e.nextFrame := rfl
@[simp] theorem setSlot_regs (k : Nat) (h : HandleSlot) (e : Eng) : (setSlot k h e).regs = e.regs := rfl
@[simp] theorem setSlot_dom (k : Nat) (h : HandleSlot) (e : Eng) : (setSlot k h e).dom = e.dom := rfl
@[simp] theorem setSlot_mem (k : Nat) (h : HandleSlot) (e : Eng) : (setSlot k h e).mem = e.mem := rfl
@[simp] theorem setSlot_genBase (k : Nat) (h : HandleSlot) (e : Eng) : (setSlot k h e).genBase = e.genBase := rfl
@[simp] theorem setSlot_gens (k : Nat) (h : HandleSlot) (e : Eng) : (setSlot k h e).gens = e.gens := rfl
@[simp] theorem setSlot_poolPois (k : Nat) (h : HandleSlot) (e : Eng) : (setSlot k h e).poolPois = e.poolPois := rfl
@[simp] theorem setSlot_fwRam (k : Nat) (h : HandleSlot) (e : Eng) : (setSlot k h e).fwRam = e.fwRam := rfl
@[simp] theorem setSlot_docks (k : Nat) (h : HandleSlot) (e : Eng) : (setSlot k h e).docks = e.docks := rfl
@[simp] theorem setSlot_agents (k : Nat) (h : HandleSlot) (e : Eng) : (setSlot k h e).agents = e.agents := rfl
@[simp] theorem setSlot_spine (k : Nat) (h : HandleSlot) (e : Eng) : (setSlot k h e).spine = e.spine := rfl
@[simp] theorem setSlot_deck (k : Nat) (h : HandleSlot) (e : Eng) : (setSlot k h e).deck = e.deck := rfl
@[simp] theorem setSlot_rings (k : Nat) (h : HandleSlot) (e : Eng) : (setSlot k h e).rings = e.rings := rfl
@[simp] theorem setSlot_jobs (k : Nat) (h : HandleSlot) (e : Eng) : (setSlot k h e).jobs = e.jobs := rfl
@[simp] theorem setSlot_ids (k : Nat) (h : HandleSlot) (e : Eng) : (setSlot k h e).ids = e.ids := rfl
@[simp] theorem setSlot_hostReads (k : Nat) (h : HandleSlot) (e : Eng) : (setSlot k h e).hostReads = e.hostReads := rfl
@[simp] theorem setSlot_links (k : Nat) (h : HandleSlot) (e : Eng) : (setSlot k h e).links = e.links := rfl
@[simp] theorem setSlot_endpointSet (k : Nat) (h : HandleSlot) (e : Eng) : (setSlot k h e).endpointSet = e.endpointSet := rfl
@[simp] theorem setSlot_sems (k : Nat) (h : HandleSlot) (e : Eng) : (setSlot k h e).sems = e.sems := rfl
@[simp] theorem setSlot_fw (k : Nat) (h : HandleSlot) (e : Eng) : (setSlot k h e).fw = e.fw := rfl
@[simp] theorem setSlot_power (k : Nat) (h : HandleSlot) (e : Eng) : (setSlot k h e).power = e.power := rfl
@[simp] theorem setSlot_crossings (k : Nat) (h : HandleSlot) (e : Eng) : (setSlot k h e).crossings = e.crossings := rfl
@[simp] theorem setSlot_modules (k : Nat) (h : HandleSlot) (e : Eng) : (setSlot k h e).modules = e.modules := rfl
@[simp] theorem setSlot_trainAt (k : Nat) (h : HandleSlot) (e : Eng) : (setSlot k h e).trainAt = e.trainAt := rfl
@[simp] theorem setSlot_errOut (k : Nat) (h : HandleSlot) (e : Eng) : (setSlot k h e).errOut = e.errOut := rfl
@[simp] theorem setSlot_clkReqAt (k : Nat) (h : HandleSlot) (e : Eng) : (setSlot k h e).clkReqAt = e.clkReqAt := rfl
@[simp] theorem setSlot_wdog (k : Nat) (h : HandleSlot) (e : Eng) : (setSlot k h e).wdog = e.wdog := rfl
@[simp] theorem setSlot_raised (k : Nat) (h : HandleSlot) (e : Eng) : (setSlot k h e).raised = e.raised := rfl
@[simp] theorem setSlot_fresh (k : Nat) (h : HandleSlot) (e : Eng) : (setSlot k h e).fresh = e.fresh := rfl
@[simp] theorem setSlot_stale (k : Nat) (h : HandleSlot) (e : Eng) : (setSlot k h e).stale = e.stale := rfl
@[simp] theorem setSlot_hostPois (k : Nat) (h : HandleSlot) (e : Eng) : (setSlot k h e).hostPois = e.hostPois := rfl
@[simp] theorem setSlot_out (k : Nat) (h : HandleSlot) (e : Eng) : (setSlot k h e).out = e.out := rfl
@[simp] theorem reg_setSlot (k : Nat) (h : HandleSlot) (e : Eng) (u v_ : Nat) : reg (setSlot k h e) u v_ = reg e u v_ := rfl
@[simp] theorem regB_setSlot (k : Nat) (h : HandleSlot) (e : Eng) (z u v_ : Nat) : regB (setSlot k h e) z u v_ = regB e z u v_ := rfl
@[simp] theorem domBytes_setSlot (k : Nat) (h : HandleSlot) (e : Eng) (u v_ z n_ : Nat) :
    domBytes (setSlot k h e) u v_ z n_ = domBytes e u v_ z n_ := rfl
@[simp] theorem memByte_setSlot (k : Nat) (h : HandleSlot) (e : Eng) (u : Nat) : memByte (setSlot k h e) u = memByte e u := rfl

/-! ### `onDock` changes `docks` alone -/

@[simp] theorem onDock_now (n : Nat) (f : Dock → Dock) (e : Eng) : (onDock n f e).now = e.now := rfl
@[simp] theorem onDock_run (n : Nat) (f : Dock → Dock) (e : Eng) : (onDock n f e).run = e.run := rfl
@[simp] theorem onDock_parts (n : Nat) (f : Dock → Dock) (e : Eng) : (onDock n f e).parts = e.parts := rfl
@[simp] theorem onDock_powerOnAt (n : Nat) (f : Dock → Dock) (e : Eng) : (onDock n f e).powerOnAt = e.powerOnAt := rfl
@[simp] theorem onDock_spBase (n : Nat) (f : Dock → Dock) (e : Eng) : (onDock n f e).spBase = e.spBase := rfl
@[simp] theorem onDock_nextFrame (n : Nat) (f : Dock → Dock) (e : Eng) : (onDock n f e).nextFrame = e.nextFrame := rfl
@[simp] theorem onDock_regs (n : Nat) (f : Dock → Dock) (e : Eng) : (onDock n f e).regs = e.regs := rfl
@[simp] theorem onDock_dom (n : Nat) (f : Dock → Dock) (e : Eng) : (onDock n f e).dom = e.dom := rfl
@[simp] theorem onDock_mem (n : Nat) (f : Dock → Dock) (e : Eng) : (onDock n f e).mem = e.mem := rfl
@[simp] theorem onDock_genBase (n : Nat) (f : Dock → Dock) (e : Eng) : (onDock n f e).genBase = e.genBase := rfl
@[simp] theorem onDock_gens (n : Nat) (f : Dock → Dock) (e : Eng) : (onDock n f e).gens = e.gens := rfl
@[simp] theorem onDock_poolPois (n : Nat) (f : Dock → Dock) (e : Eng) : (onDock n f e).poolPois = e.poolPois := rfl
@[simp] theorem onDock_fwRam (n : Nat) (f : Dock → Dock) (e : Eng) : (onDock n f e).fwRam = e.fwRam := rfl
@[simp] theorem onDock_agents (n : Nat) (f : Dock → Dock) (e : Eng) : (onDock n f e).agents = e.agents := rfl
@[simp] theorem onDock_heap (n : Nat) (f : Dock → Dock) (e : Eng) : (onDock n f e).heap = e.heap := rfl
@[simp] theorem onDock_spine (n : Nat) (f : Dock → Dock) (e : Eng) : (onDock n f e).spine = e.spine := rfl
@[simp] theorem onDock_deck (n : Nat) (f : Dock → Dock) (e : Eng) : (onDock n f e).deck = e.deck := rfl
@[simp] theorem onDock_rings (n : Nat) (f : Dock → Dock) (e : Eng) : (onDock n f e).rings = e.rings := rfl
@[simp] theorem onDock_jobs (n : Nat) (f : Dock → Dock) (e : Eng) : (onDock n f e).jobs = e.jobs := rfl
@[simp] theorem onDock_ids (n : Nat) (f : Dock → Dock) (e : Eng) : (onDock n f e).ids = e.ids := rfl
@[simp] theorem onDock_hostReads (n : Nat) (f : Dock → Dock) (e : Eng) : (onDock n f e).hostReads = e.hostReads := rfl
@[simp] theorem onDock_links (n : Nat) (f : Dock → Dock) (e : Eng) : (onDock n f e).links = e.links := rfl
@[simp] theorem onDock_endpointSet (n : Nat) (f : Dock → Dock) (e : Eng) : (onDock n f e).endpointSet = e.endpointSet := rfl
@[simp] theorem onDock_sems (n : Nat) (f : Dock → Dock) (e : Eng) : (onDock n f e).sems = e.sems := rfl
@[simp] theorem onDock_fw (n : Nat) (f : Dock → Dock) (e : Eng) : (onDock n f e).fw = e.fw := rfl
@[simp] theorem onDock_power (n : Nat) (f : Dock → Dock) (e : Eng) : (onDock n f e).power = e.power := rfl
@[simp] theorem onDock_crossings (n : Nat) (f : Dock → Dock) (e : Eng) : (onDock n f e).crossings = e.crossings := rfl
@[simp] theorem onDock_modules (n : Nat) (f : Dock → Dock) (e : Eng) : (onDock n f e).modules = e.modules := rfl
@[simp] theorem onDock_trainAt (n : Nat) (f : Dock → Dock) (e : Eng) : (onDock n f e).trainAt = e.trainAt := rfl
@[simp] theorem onDock_errOut (n : Nat) (f : Dock → Dock) (e : Eng) : (onDock n f e).errOut = e.errOut := rfl
@[simp] theorem onDock_clkReqAt (n : Nat) (f : Dock → Dock) (e : Eng) : (onDock n f e).clkReqAt = e.clkReqAt := rfl
@[simp] theorem onDock_wdog (n : Nat) (f : Dock → Dock) (e : Eng) : (onDock n f e).wdog = e.wdog := rfl
@[simp] theorem onDock_raised (n : Nat) (f : Dock → Dock) (e : Eng) : (onDock n f e).raised = e.raised := rfl
@[simp] theorem onDock_fresh (n : Nat) (f : Dock → Dock) (e : Eng) : (onDock n f e).fresh = e.fresh := rfl
@[simp] theorem onDock_stale (n : Nat) (f : Dock → Dock) (e : Eng) : (onDock n f e).stale = e.stale := rfl
@[simp] theorem onDock_hostPois (n : Nat) (f : Dock → Dock) (e : Eng) : (onDock n f e).hostPois = e.hostPois := rfl
@[simp] theorem onDock_out (n : Nat) (f : Dock → Dock) (e : Eng) : (onDock n f e).out = e.out := rfl
@[simp] theorem reg_onDock (n : Nat) (f : Dock → Dock) (e : Eng) (u v_ : Nat) : reg (onDock n f e) u v_ = reg e u v_ := rfl
@[simp] theorem regB_onDock (n : Nat) (f : Dock → Dock) (e : Eng) (z u v_ : Nat) : regB (onDock n f e) z u v_ = regB e z u v_ := rfl
@[simp] theorem domBytes_onDock (n : Nat) (f : Dock → Dock) (e : Eng) (u v_ z n_ : Nat) :
    domBytes (onDock n f e) u v_ z n_ = domBytes e u v_ z n_ := rfl
@[simp] theorem memByte_onDock (n : Nat) (f : Dock → Dock) (e : Eng) (u : Nat) : memByte (onDock n f e) u = memByte e u := rfl

/-! ### `onAgent` changes `agents` alone -/

@[simp] theorem onAgent_now (n : Nat) (f : Agent → Agent) (e : Eng) : (onAgent n f e).now = e.now := rfl
@[simp] theorem onAgent_run (n : Nat) (f : Agent → Agent) (e : Eng) : (onAgent n f e).run = e.run := rfl
@[simp] theorem onAgent_parts (n : Nat) (f : Agent → Agent) (e : Eng) : (onAgent n f e).parts = e.parts := rfl
@[simp] theorem onAgent_powerOnAt (n : Nat) (f : Agent → Agent) (e : Eng) : (onAgent n f e).powerOnAt = e.powerOnAt := rfl
@[simp] theorem onAgent_spBase (n : Nat) (f : Agent → Agent) (e : Eng) : (onAgent n f e).spBase = e.spBase := rfl
@[simp] theorem onAgent_nextFrame (n : Nat) (f : Agent → Agent) (e : Eng) : (onAgent n f e).nextFrame = e.nextFrame := rfl
@[simp] theorem onAgent_regs (n : Nat) (f : Agent → Agent) (e : Eng) : (onAgent n f e).regs = e.regs := rfl
@[simp] theorem onAgent_dom (n : Nat) (f : Agent → Agent) (e : Eng) : (onAgent n f e).dom = e.dom := rfl
@[simp] theorem onAgent_mem (n : Nat) (f : Agent → Agent) (e : Eng) : (onAgent n f e).mem = e.mem := rfl
@[simp] theorem onAgent_genBase (n : Nat) (f : Agent → Agent) (e : Eng) : (onAgent n f e).genBase = e.genBase := rfl
@[simp] theorem onAgent_gens (n : Nat) (f : Agent → Agent) (e : Eng) : (onAgent n f e).gens = e.gens := rfl
@[simp] theorem onAgent_poolPois (n : Nat) (f : Agent → Agent) (e : Eng) : (onAgent n f e).poolPois = e.poolPois := rfl
@[simp] theorem onAgent_fwRam (n : Nat) (f : Agent → Agent) (e : Eng) : (onAgent n f e).fwRam = e.fwRam := rfl
@[simp] theorem onAgent_docks (n : Nat) (f : Agent → Agent) (e : Eng) : (onAgent n f e).docks = e.docks := rfl
@[simp] theorem onAgent_heap (n : Nat) (f : Agent → Agent) (e : Eng) : (onAgent n f e).heap = e.heap := rfl
@[simp] theorem onAgent_spine (n : Nat) (f : Agent → Agent) (e : Eng) : (onAgent n f e).spine = e.spine := rfl
@[simp] theorem onAgent_deck (n : Nat) (f : Agent → Agent) (e : Eng) : (onAgent n f e).deck = e.deck := rfl
@[simp] theorem onAgent_rings (n : Nat) (f : Agent → Agent) (e : Eng) : (onAgent n f e).rings = e.rings := rfl
@[simp] theorem onAgent_jobs (n : Nat) (f : Agent → Agent) (e : Eng) : (onAgent n f e).jobs = e.jobs := rfl
@[simp] theorem onAgent_ids (n : Nat) (f : Agent → Agent) (e : Eng) : (onAgent n f e).ids = e.ids := rfl
@[simp] theorem onAgent_hostReads (n : Nat) (f : Agent → Agent) (e : Eng) : (onAgent n f e).hostReads = e.hostReads := rfl
@[simp] theorem onAgent_links (n : Nat) (f : Agent → Agent) (e : Eng) : (onAgent n f e).links = e.links := rfl
@[simp] theorem onAgent_endpointSet (n : Nat) (f : Agent → Agent) (e : Eng) : (onAgent n f e).endpointSet = e.endpointSet := rfl
@[simp] theorem onAgent_sems (n : Nat) (f : Agent → Agent) (e : Eng) : (onAgent n f e).sems = e.sems := rfl
@[simp] theorem onAgent_fw (n : Nat) (f : Agent → Agent) (e : Eng) : (onAgent n f e).fw = e.fw := rfl
@[simp] theorem onAgent_power (n : Nat) (f : Agent → Agent) (e : Eng) : (onAgent n f e).power = e.power := rfl
@[simp] theorem onAgent_crossings (n : Nat) (f : Agent → Agent) (e : Eng) : (onAgent n f e).crossings = e.crossings := rfl
@[simp] theorem onAgent_modules (n : Nat) (f : Agent → Agent) (e : Eng) : (onAgent n f e).modules = e.modules := rfl
@[simp] theorem onAgent_trainAt (n : Nat) (f : Agent → Agent) (e : Eng) : (onAgent n f e).trainAt = e.trainAt := rfl
@[simp] theorem onAgent_errOut (n : Nat) (f : Agent → Agent) (e : Eng) : (onAgent n f e).errOut = e.errOut := rfl
@[simp] theorem onAgent_clkReqAt (n : Nat) (f : Agent → Agent) (e : Eng) : (onAgent n f e).clkReqAt = e.clkReqAt := rfl
@[simp] theorem onAgent_wdog (n : Nat) (f : Agent → Agent) (e : Eng) : (onAgent n f e).wdog = e.wdog := rfl
@[simp] theorem onAgent_raised (n : Nat) (f : Agent → Agent) (e : Eng) : (onAgent n f e).raised = e.raised := rfl
@[simp] theorem onAgent_fresh (n : Nat) (f : Agent → Agent) (e : Eng) : (onAgent n f e).fresh = e.fresh := rfl
@[simp] theorem onAgent_stale (n : Nat) (f : Agent → Agent) (e : Eng) : (onAgent n f e).stale = e.stale := rfl
@[simp] theorem onAgent_hostPois (n : Nat) (f : Agent → Agent) (e : Eng) : (onAgent n f e).hostPois = e.hostPois := rfl
@[simp] theorem onAgent_out (n : Nat) (f : Agent → Agent) (e : Eng) : (onAgent n f e).out = e.out := rfl
@[simp] theorem reg_onAgent (n : Nat) (f : Agent → Agent) (e : Eng) (u v_ : Nat) : reg (onAgent n f e) u v_ = reg e u v_ := rfl
@[simp] theorem regB_onAgent (n : Nat) (f : Agent → Agent) (e : Eng) (z u v_ : Nat) : regB (onAgent n f e) z u v_ = regB e z u v_ := rfl
@[simp] theorem domBytes_onAgent (n : Nat) (f : Agent → Agent) (e : Eng) (u v_ z n_ : Nat) :
    domBytes (onAgent n f e) u v_ z n_ = domBytes e u v_ z n_ := rfl
@[simp] theorem memByte_onAgent (n : Nat) (f : Agent → Agent) (e : Eng) (u : Nat) : memByte (onAgent n f e) u = memByte e u := rfl

/-! ### `onRing` changes `rings` alone -/

@[simp] theorem onRing_now (n : Nat) (f : Ring → Ring) (e : Eng) : (onRing n f e).now = e.now := rfl
@[simp] theorem onRing_run (n : Nat) (f : Ring → Ring) (e : Eng) : (onRing n f e).run = e.run := rfl
@[simp] theorem onRing_parts (n : Nat) (f : Ring → Ring) (e : Eng) : (onRing n f e).parts = e.parts := rfl
@[simp] theorem onRing_powerOnAt (n : Nat) (f : Ring → Ring) (e : Eng) : (onRing n f e).powerOnAt = e.powerOnAt := rfl
@[simp] theorem onRing_spBase (n : Nat) (f : Ring → Ring) (e : Eng) : (onRing n f e).spBase = e.spBase := rfl
@[simp] theorem onRing_nextFrame (n : Nat) (f : Ring → Ring) (e : Eng) : (onRing n f e).nextFrame = e.nextFrame := rfl
@[simp] theorem onRing_regs (n : Nat) (f : Ring → Ring) (e : Eng) : (onRing n f e).regs = e.regs := rfl
@[simp] theorem onRing_dom (n : Nat) (f : Ring → Ring) (e : Eng) : (onRing n f e).dom = e.dom := rfl
@[simp] theorem onRing_mem (n : Nat) (f : Ring → Ring) (e : Eng) : (onRing n f e).mem = e.mem := rfl
@[simp] theorem onRing_genBase (n : Nat) (f : Ring → Ring) (e : Eng) : (onRing n f e).genBase = e.genBase := rfl
@[simp] theorem onRing_gens (n : Nat) (f : Ring → Ring) (e : Eng) : (onRing n f e).gens = e.gens := rfl
@[simp] theorem onRing_poolPois (n : Nat) (f : Ring → Ring) (e : Eng) : (onRing n f e).poolPois = e.poolPois := rfl
@[simp] theorem onRing_fwRam (n : Nat) (f : Ring → Ring) (e : Eng) : (onRing n f e).fwRam = e.fwRam := rfl
@[simp] theorem onRing_docks (n : Nat) (f : Ring → Ring) (e : Eng) : (onRing n f e).docks = e.docks := rfl
@[simp] theorem onRing_agents (n : Nat) (f : Ring → Ring) (e : Eng) : (onRing n f e).agents = e.agents := rfl
@[simp] theorem onRing_heap (n : Nat) (f : Ring → Ring) (e : Eng) : (onRing n f e).heap = e.heap := rfl
@[simp] theorem onRing_spine (n : Nat) (f : Ring → Ring) (e : Eng) : (onRing n f e).spine = e.spine := rfl
@[simp] theorem onRing_deck (n : Nat) (f : Ring → Ring) (e : Eng) : (onRing n f e).deck = e.deck := rfl
@[simp] theorem onRing_jobs (n : Nat) (f : Ring → Ring) (e : Eng) : (onRing n f e).jobs = e.jobs := rfl
@[simp] theorem onRing_ids (n : Nat) (f : Ring → Ring) (e : Eng) : (onRing n f e).ids = e.ids := rfl
@[simp] theorem onRing_hostReads (n : Nat) (f : Ring → Ring) (e : Eng) : (onRing n f e).hostReads = e.hostReads := rfl
@[simp] theorem onRing_links (n : Nat) (f : Ring → Ring) (e : Eng) : (onRing n f e).links = e.links := rfl
@[simp] theorem onRing_endpointSet (n : Nat) (f : Ring → Ring) (e : Eng) : (onRing n f e).endpointSet = e.endpointSet := rfl
@[simp] theorem onRing_sems (n : Nat) (f : Ring → Ring) (e : Eng) : (onRing n f e).sems = e.sems := rfl
@[simp] theorem onRing_fw (n : Nat) (f : Ring → Ring) (e : Eng) : (onRing n f e).fw = e.fw := rfl
@[simp] theorem onRing_power (n : Nat) (f : Ring → Ring) (e : Eng) : (onRing n f e).power = e.power := rfl
@[simp] theorem onRing_crossings (n : Nat) (f : Ring → Ring) (e : Eng) : (onRing n f e).crossings = e.crossings := rfl
@[simp] theorem onRing_modules (n : Nat) (f : Ring → Ring) (e : Eng) : (onRing n f e).modules = e.modules := rfl
@[simp] theorem onRing_trainAt (n : Nat) (f : Ring → Ring) (e : Eng) : (onRing n f e).trainAt = e.trainAt := rfl
@[simp] theorem onRing_errOut (n : Nat) (f : Ring → Ring) (e : Eng) : (onRing n f e).errOut = e.errOut := rfl
@[simp] theorem onRing_clkReqAt (n : Nat) (f : Ring → Ring) (e : Eng) : (onRing n f e).clkReqAt = e.clkReqAt := rfl
@[simp] theorem onRing_wdog (n : Nat) (f : Ring → Ring) (e : Eng) : (onRing n f e).wdog = e.wdog := rfl
@[simp] theorem onRing_raised (n : Nat) (f : Ring → Ring) (e : Eng) : (onRing n f e).raised = e.raised := rfl
@[simp] theorem onRing_fresh (n : Nat) (f : Ring → Ring) (e : Eng) : (onRing n f e).fresh = e.fresh := rfl
@[simp] theorem onRing_stale (n : Nat) (f : Ring → Ring) (e : Eng) : (onRing n f e).stale = e.stale := rfl
@[simp] theorem onRing_hostPois (n : Nat) (f : Ring → Ring) (e : Eng) : (onRing n f e).hostPois = e.hostPois := rfl
@[simp] theorem onRing_out (n : Nat) (f : Ring → Ring) (e : Eng) : (onRing n f e).out = e.out := rfl
@[simp] theorem reg_onRing (n : Nat) (f : Ring → Ring) (e : Eng) (u v_ : Nat) : reg (onRing n f e) u v_ = reg e u v_ := rfl
@[simp] theorem regB_onRing (n : Nat) (f : Ring → Ring) (e : Eng) (z u v_ : Nat) : regB (onRing n f e) z u v_ = regB e z u v_ := rfl
@[simp] theorem domBytes_onRing (n : Nat) (f : Ring → Ring) (e : Eng) (u v_ z n_ : Nat) :
    domBytes (onRing n f e) u v_ z n_ = domBytes e u v_ z n_ := rfl
@[simp] theorem memByte_onRing (n : Nat) (f : Ring → Ring) (e : Eng) (u : Nat) : memByte (onRing n f e) u = memByte e u := rfl

/-! ### `setJob` changes `jobs` alone -/

@[simp] theorem setJob_now (x : Job) (e : Eng) : (setJob x e).now = e.now := rfl
@[simp] theorem setJob_run (x : Job) (e : Eng) : (setJob x e).run = e.run := rfl
@[simp] theorem setJob_parts (x : Job) (e : Eng) : (setJob x e).parts = e.parts := rfl
@[simp] theorem setJob_powerOnAt (x : Job) (e : Eng) : (setJob x e).powerOnAt = e.powerOnAt := rfl
@[simp] theorem setJob_spBase (x : Job) (e : Eng) : (setJob x e).spBase = e.spBase := rfl
@[simp] theorem setJob_nextFrame (x : Job) (e : Eng) : (setJob x e).nextFrame = e.nextFrame := rfl
@[simp] theorem setJob_regs (x : Job) (e : Eng) : (setJob x e).regs = e.regs := rfl
@[simp] theorem setJob_dom (x : Job) (e : Eng) : (setJob x e).dom = e.dom := rfl
@[simp] theorem setJob_mem (x : Job) (e : Eng) : (setJob x e).mem = e.mem := rfl
@[simp] theorem setJob_genBase (x : Job) (e : Eng) : (setJob x e).genBase = e.genBase := rfl
@[simp] theorem setJob_gens (x : Job) (e : Eng) : (setJob x e).gens = e.gens := rfl
@[simp] theorem setJob_poolPois (x : Job) (e : Eng) : (setJob x e).poolPois = e.poolPois := rfl
@[simp] theorem setJob_fwRam (x : Job) (e : Eng) : (setJob x e).fwRam = e.fwRam := rfl
@[simp] theorem setJob_docks (x : Job) (e : Eng) : (setJob x e).docks = e.docks := rfl
@[simp] theorem setJob_agents (x : Job) (e : Eng) : (setJob x e).agents = e.agents := rfl
@[simp] theorem setJob_heap (x : Job) (e : Eng) : (setJob x e).heap = e.heap := rfl
@[simp] theorem setJob_spine (x : Job) (e : Eng) : (setJob x e).spine = e.spine := rfl
@[simp] theorem setJob_deck (x : Job) (e : Eng) : (setJob x e).deck = e.deck := rfl
@[simp] theorem setJob_rings (x : Job) (e : Eng) : (setJob x e).rings = e.rings := rfl
@[simp] theorem setJob_ids (x : Job) (e : Eng) : (setJob x e).ids = e.ids := rfl
@[simp] theorem setJob_hostReads (x : Job) (e : Eng) : (setJob x e).hostReads = e.hostReads := rfl
@[simp] theorem setJob_links (x : Job) (e : Eng) : (setJob x e).links = e.links := rfl
@[simp] theorem setJob_endpointSet (x : Job) (e : Eng) : (setJob x e).endpointSet = e.endpointSet := rfl
@[simp] theorem setJob_sems (x : Job) (e : Eng) : (setJob x e).sems = e.sems := rfl
@[simp] theorem setJob_fw (x : Job) (e : Eng) : (setJob x e).fw = e.fw := rfl
@[simp] theorem setJob_power (x : Job) (e : Eng) : (setJob x e).power = e.power := rfl
@[simp] theorem setJob_crossings (x : Job) (e : Eng) : (setJob x e).crossings = e.crossings := rfl
@[simp] theorem setJob_modules (x : Job) (e : Eng) : (setJob x e).modules = e.modules := rfl
@[simp] theorem setJob_trainAt (x : Job) (e : Eng) : (setJob x e).trainAt = e.trainAt := rfl
@[simp] theorem setJob_errOut (x : Job) (e : Eng) : (setJob x e).errOut = e.errOut := rfl
@[simp] theorem setJob_clkReqAt (x : Job) (e : Eng) : (setJob x e).clkReqAt = e.clkReqAt := rfl
@[simp] theorem setJob_wdog (x : Job) (e : Eng) : (setJob x e).wdog = e.wdog := rfl
@[simp] theorem setJob_raised (x : Job) (e : Eng) : (setJob x e).raised = e.raised := rfl
@[simp] theorem setJob_fresh (x : Job) (e : Eng) : (setJob x e).fresh = e.fresh := rfl
@[simp] theorem setJob_stale (x : Job) (e : Eng) : (setJob x e).stale = e.stale := rfl
@[simp] theorem setJob_hostPois (x : Job) (e : Eng) : (setJob x e).hostPois = e.hostPois := rfl
@[simp] theorem setJob_out (x : Job) (e : Eng) : (setJob x e).out = e.out := rfl
@[simp] theorem reg_setJob (x : Job) (e : Eng) (u v_ : Nat) : reg (setJob x e) u v_ = reg e u v_ := rfl
@[simp] theorem regB_setJob (x : Job) (e : Eng) (z u v_ : Nat) : regB (setJob x e) z u v_ = regB e z u v_ := rfl
@[simp] theorem domBytes_setJob (x : Job) (e : Eng) (u v_ z n_ : Nat) :
    domBytes (setJob x e) u v_ z n_ = domBytes e u v_ z n_ := rfl
@[simp] theorem memByte_setJob (x : Job) (e : Eng) (u : Nat) : memByte (setJob x e) u = memByte e u := rfl

/-! ### `addJob` changes `jobs` alone -/

@[simp] theorem addJob_now (x : Job) (e : Eng) : (addJob x e).now = e.now := rfl
@[simp] theorem addJob_run (x : Job) (e : Eng) : (addJob x e).run = e.run := rfl
@[simp] theorem addJob_parts (x : Job) (e : Eng) : (addJob x e).parts = e.parts := rfl
@[simp] theorem addJob_powerOnAt (x : Job) (e : Eng) : (addJob x e).powerOnAt = e.powerOnAt := rfl
@[simp] theorem addJob_spBase (x : Job) (e : Eng) : (addJob x e).spBase = e.spBase := rfl
@[simp] theorem addJob_nextFrame (x : Job) (e : Eng) : (addJob x e).nextFrame = e.nextFrame := rfl
@[simp] theorem addJob_regs (x : Job) (e : Eng) : (addJob x e).regs = e.regs := rfl
@[simp] theorem addJob_dom (x : Job) (e : Eng) : (addJob x e).dom = e.dom := rfl
@[simp] theorem addJob_mem (x : Job) (e : Eng) : (addJob x e).mem = e.mem := rfl
@[simp] theorem addJob_genBase (x : Job) (e : Eng) : (addJob x e).genBase = e.genBase := rfl
@[simp] theorem addJob_gens (x : Job) (e : Eng) : (addJob x e).gens = e.gens := rfl
@[simp] theorem addJob_poolPois (x : Job) (e : Eng) : (addJob x e).poolPois = e.poolPois := rfl
@[simp] theorem addJob_fwRam (x : Job) (e : Eng) : (addJob x e).fwRam = e.fwRam := rfl
@[simp] theorem addJob_docks (x : Job) (e : Eng) : (addJob x e).docks = e.docks := rfl
@[simp] theorem addJob_agents (x : Job) (e : Eng) : (addJob x e).agents = e.agents := rfl
@[simp] theorem addJob_heap (x : Job) (e : Eng) : (addJob x e).heap = e.heap := rfl
@[simp] theorem addJob_spine (x : Job) (e : Eng) : (addJob x e).spine = e.spine := rfl
@[simp] theorem addJob_deck (x : Job) (e : Eng) : (addJob x e).deck = e.deck := rfl
@[simp] theorem addJob_rings (x : Job) (e : Eng) : (addJob x e).rings = e.rings := rfl
@[simp] theorem addJob_ids (x : Job) (e : Eng) : (addJob x e).ids = e.ids := rfl
@[simp] theorem addJob_hostReads (x : Job) (e : Eng) : (addJob x e).hostReads = e.hostReads := rfl
@[simp] theorem addJob_links (x : Job) (e : Eng) : (addJob x e).links = e.links := rfl
@[simp] theorem addJob_endpointSet (x : Job) (e : Eng) : (addJob x e).endpointSet = e.endpointSet := rfl
@[simp] theorem addJob_sems (x : Job) (e : Eng) : (addJob x e).sems = e.sems := rfl
@[simp] theorem addJob_fw (x : Job) (e : Eng) : (addJob x e).fw = e.fw := rfl
@[simp] theorem addJob_power (x : Job) (e : Eng) : (addJob x e).power = e.power := rfl
@[simp] theorem addJob_crossings (x : Job) (e : Eng) : (addJob x e).crossings = e.crossings := rfl
@[simp] theorem addJob_modules (x : Job) (e : Eng) : (addJob x e).modules = e.modules := rfl
@[simp] theorem addJob_trainAt (x : Job) (e : Eng) : (addJob x e).trainAt = e.trainAt := rfl
@[simp] theorem addJob_errOut (x : Job) (e : Eng) : (addJob x e).errOut = e.errOut := rfl
@[simp] theorem addJob_clkReqAt (x : Job) (e : Eng) : (addJob x e).clkReqAt = e.clkReqAt := rfl
@[simp] theorem addJob_wdog (x : Job) (e : Eng) : (addJob x e).wdog = e.wdog := rfl
@[simp] theorem addJob_raised (x : Job) (e : Eng) : (addJob x e).raised = e.raised := rfl
@[simp] theorem addJob_fresh (x : Job) (e : Eng) : (addJob x e).fresh = e.fresh := rfl
@[simp] theorem addJob_stale (x : Job) (e : Eng) : (addJob x e).stale = e.stale := rfl
@[simp] theorem addJob_hostPois (x : Job) (e : Eng) : (addJob x e).hostPois = e.hostPois := rfl
@[simp] theorem addJob_out (x : Job) (e : Eng) : (addJob x e).out = e.out := rfl
@[simp] theorem reg_addJob (x : Job) (e : Eng) (u v_ : Nat) : reg (addJob x e) u v_ = reg e u v_ := rfl
@[simp] theorem regB_addJob (x : Job) (e : Eng) (z u v_ : Nat) : regB (addJob x e) z u v_ = regB e z u v_ := rfl
@[simp] theorem domBytes_addJob (x : Job) (e : Eng) (u v_ z n_ : Nat) :
    domBytes (addJob x e) u v_ z n_ = domBytes e u v_ z n_ := rfl
@[simp] theorem memByte_addJob (x : Job) (e : Eng) (u : Nat) : memByte (addJob x e) u = memByte e u := rfl

/-! ### `removeJob` changes `jobs` alone -/

@[simp] theorem removeJob_now (j : Nat) (e : Eng) : (removeJob j e).now = e.now := rfl
@[simp] theorem removeJob_run (j : Nat) (e : Eng) : (removeJob j e).run = e.run := rfl
@[simp] theorem removeJob_parts (j : Nat) (e : Eng) : (removeJob j e).parts = e.parts := rfl
@[simp] theorem removeJob_powerOnAt (j : Nat) (e : Eng) : (removeJob j e).powerOnAt = e.powerOnAt := rfl
@[simp] theorem removeJob_spBase (j : Nat) (e : Eng) : (removeJob j e).spBase = e.spBase := rfl
@[simp] theorem removeJob_nextFrame (j : Nat) (e : Eng) : (removeJob j e).nextFrame = e.nextFrame := rfl
@[simp] theorem removeJob_regs (j : Nat) (e : Eng) : (removeJob j e).regs = e.regs := rfl
@[simp] theorem removeJob_dom (j : Nat) (e : Eng) : (removeJob j e).dom = e.dom := rfl
@[simp] theorem removeJob_mem (j : Nat) (e : Eng) : (removeJob j e).mem = e.mem := rfl
@[simp] theorem removeJob_genBase (j : Nat) (e : Eng) : (removeJob j e).genBase = e.genBase := rfl
@[simp] theorem removeJob_gens (j : Nat) (e : Eng) : (removeJob j e).gens = e.gens := rfl
@[simp] theorem removeJob_poolPois (j : Nat) (e : Eng) : (removeJob j e).poolPois = e.poolPois := rfl
@[simp] theorem removeJob_fwRam (j : Nat) (e : Eng) : (removeJob j e).fwRam = e.fwRam := rfl
@[simp] theorem removeJob_docks (j : Nat) (e : Eng) : (removeJob j e).docks = e.docks := rfl
@[simp] theorem removeJob_agents (j : Nat) (e : Eng) : (removeJob j e).agents = e.agents := rfl
@[simp] theorem removeJob_heap (j : Nat) (e : Eng) : (removeJob j e).heap = e.heap := rfl
@[simp] theorem removeJob_spine (j : Nat) (e : Eng) : (removeJob j e).spine = e.spine := rfl
@[simp] theorem removeJob_deck (j : Nat) (e : Eng) : (removeJob j e).deck = e.deck := rfl
@[simp] theorem removeJob_rings (j : Nat) (e : Eng) : (removeJob j e).rings = e.rings := rfl
@[simp] theorem removeJob_ids (j : Nat) (e : Eng) : (removeJob j e).ids = e.ids := rfl
@[simp] theorem removeJob_hostReads (j : Nat) (e : Eng) : (removeJob j e).hostReads = e.hostReads := rfl
@[simp] theorem removeJob_links (j : Nat) (e : Eng) : (removeJob j e).links = e.links := rfl
@[simp] theorem removeJob_endpointSet (j : Nat) (e : Eng) : (removeJob j e).endpointSet = e.endpointSet := rfl
@[simp] theorem removeJob_sems (j : Nat) (e : Eng) : (removeJob j e).sems = e.sems := rfl
@[simp] theorem removeJob_fw (j : Nat) (e : Eng) : (removeJob j e).fw = e.fw := rfl
@[simp] theorem removeJob_power (j : Nat) (e : Eng) : (removeJob j e).power = e.power := rfl
@[simp] theorem removeJob_crossings (j : Nat) (e : Eng) : (removeJob j e).crossings = e.crossings := rfl
@[simp] theorem removeJob_modules (j : Nat) (e : Eng) : (removeJob j e).modules = e.modules := rfl
@[simp] theorem removeJob_trainAt (j : Nat) (e : Eng) : (removeJob j e).trainAt = e.trainAt := rfl
@[simp] theorem removeJob_errOut (j : Nat) (e : Eng) : (removeJob j e).errOut = e.errOut := rfl
@[simp] theorem removeJob_clkReqAt (j : Nat) (e : Eng) : (removeJob j e).clkReqAt = e.clkReqAt := rfl
@[simp] theorem removeJob_wdog (j : Nat) (e : Eng) : (removeJob j e).wdog = e.wdog := rfl
@[simp] theorem removeJob_raised (j : Nat) (e : Eng) : (removeJob j e).raised = e.raised := rfl
@[simp] theorem removeJob_fresh (j : Nat) (e : Eng) : (removeJob j e).fresh = e.fresh := rfl
@[simp] theorem removeJob_stale (j : Nat) (e : Eng) : (removeJob j e).stale = e.stale := rfl
@[simp] theorem removeJob_hostPois (j : Nat) (e : Eng) : (removeJob j e).hostPois = e.hostPois := rfl
@[simp] theorem removeJob_out (j : Nat) (e : Eng) : (removeJob j e).out = e.out := rfl
@[simp] theorem reg_removeJob (j : Nat) (e : Eng) (u v_ : Nat) : reg (removeJob j e) u v_ = reg e u v_ := rfl
@[simp] theorem regB_removeJob (j : Nat) (e : Eng) (z u v_ : Nat) : regB (removeJob j e) z u v_ = regB e z u v_ := rfl
@[simp] theorem domBytes_removeJob (j : Nat) (e : Eng) (u v_ z n_ : Nat) :
    domBytes (removeJob j e) u v_ z n_ = domBytes e u v_ z n_ := rfl
@[simp] theorem memByte_removeJob (j : Nat) (e : Eng) (u : Nat) : memByte (removeJob j e) u = memByte e u := rfl

/-! ### `onLink` changes `links` alone -/

@[simp] theorem onLink_now (n : Nat) (f : Link → Link) (e : Eng) : (onLink n f e).now = e.now := rfl
@[simp] theorem onLink_run (n : Nat) (f : Link → Link) (e : Eng) : (onLink n f e).run = e.run := rfl
@[simp] theorem onLink_parts (n : Nat) (f : Link → Link) (e : Eng) : (onLink n f e).parts = e.parts := rfl
@[simp] theorem onLink_powerOnAt (n : Nat) (f : Link → Link) (e : Eng) : (onLink n f e).powerOnAt = e.powerOnAt := rfl
@[simp] theorem onLink_spBase (n : Nat) (f : Link → Link) (e : Eng) : (onLink n f e).spBase = e.spBase := rfl
@[simp] theorem onLink_nextFrame (n : Nat) (f : Link → Link) (e : Eng) : (onLink n f e).nextFrame = e.nextFrame := rfl
@[simp] theorem onLink_regs (n : Nat) (f : Link → Link) (e : Eng) : (onLink n f e).regs = e.regs := rfl
@[simp] theorem onLink_dom (n : Nat) (f : Link → Link) (e : Eng) : (onLink n f e).dom = e.dom := rfl
@[simp] theorem onLink_mem (n : Nat) (f : Link → Link) (e : Eng) : (onLink n f e).mem = e.mem := rfl
@[simp] theorem onLink_genBase (n : Nat) (f : Link → Link) (e : Eng) : (onLink n f e).genBase = e.genBase := rfl
@[simp] theorem onLink_gens (n : Nat) (f : Link → Link) (e : Eng) : (onLink n f e).gens = e.gens := rfl
@[simp] theorem onLink_poolPois (n : Nat) (f : Link → Link) (e : Eng) : (onLink n f e).poolPois = e.poolPois := rfl
@[simp] theorem onLink_fwRam (n : Nat) (f : Link → Link) (e : Eng) : (onLink n f e).fwRam = e.fwRam := rfl
@[simp] theorem onLink_docks (n : Nat) (f : Link → Link) (e : Eng) : (onLink n f e).docks = e.docks := rfl
@[simp] theorem onLink_agents (n : Nat) (f : Link → Link) (e : Eng) : (onLink n f e).agents = e.agents := rfl
@[simp] theorem onLink_heap (n : Nat) (f : Link → Link) (e : Eng) : (onLink n f e).heap = e.heap := rfl
@[simp] theorem onLink_spine (n : Nat) (f : Link → Link) (e : Eng) : (onLink n f e).spine = e.spine := rfl
@[simp] theorem onLink_deck (n : Nat) (f : Link → Link) (e : Eng) : (onLink n f e).deck = e.deck := rfl
@[simp] theorem onLink_rings (n : Nat) (f : Link → Link) (e : Eng) : (onLink n f e).rings = e.rings := rfl
@[simp] theorem onLink_jobs (n : Nat) (f : Link → Link) (e : Eng) : (onLink n f e).jobs = e.jobs := rfl
@[simp] theorem onLink_ids (n : Nat) (f : Link → Link) (e : Eng) : (onLink n f e).ids = e.ids := rfl
@[simp] theorem onLink_hostReads (n : Nat) (f : Link → Link) (e : Eng) : (onLink n f e).hostReads = e.hostReads := rfl
@[simp] theorem onLink_endpointSet (n : Nat) (f : Link → Link) (e : Eng) : (onLink n f e).endpointSet = e.endpointSet := rfl
@[simp] theorem onLink_sems (n : Nat) (f : Link → Link) (e : Eng) : (onLink n f e).sems = e.sems := rfl
@[simp] theorem onLink_fw (n : Nat) (f : Link → Link) (e : Eng) : (onLink n f e).fw = e.fw := rfl
@[simp] theorem onLink_power (n : Nat) (f : Link → Link) (e : Eng) : (onLink n f e).power = e.power := rfl
@[simp] theorem onLink_crossings (n : Nat) (f : Link → Link) (e : Eng) : (onLink n f e).crossings = e.crossings := rfl
@[simp] theorem onLink_modules (n : Nat) (f : Link → Link) (e : Eng) : (onLink n f e).modules = e.modules := rfl
@[simp] theorem onLink_trainAt (n : Nat) (f : Link → Link) (e : Eng) : (onLink n f e).trainAt = e.trainAt := rfl
@[simp] theorem onLink_errOut (n : Nat) (f : Link → Link) (e : Eng) : (onLink n f e).errOut = e.errOut := rfl
@[simp] theorem onLink_clkReqAt (n : Nat) (f : Link → Link) (e : Eng) : (onLink n f e).clkReqAt = e.clkReqAt := rfl
@[simp] theorem onLink_wdog (n : Nat) (f : Link → Link) (e : Eng) : (onLink n f e).wdog = e.wdog := rfl
@[simp] theorem onLink_raised (n : Nat) (f : Link → Link) (e : Eng) : (onLink n f e).raised = e.raised := rfl
@[simp] theorem onLink_fresh (n : Nat) (f : Link → Link) (e : Eng) : (onLink n f e).fresh = e.fresh := rfl
@[simp] theorem onLink_stale (n : Nat) (f : Link → Link) (e : Eng) : (onLink n f e).stale = e.stale := rfl
@[simp] theorem onLink_hostPois (n : Nat) (f : Link → Link) (e : Eng) : (onLink n f e).hostPois = e.hostPois := rfl
@[simp] theorem onLink_out (n : Nat) (f : Link → Link) (e : Eng) : (onLink n f e).out = e.out := rfl
@[simp] theorem reg_onLink (n : Nat) (f : Link → Link) (e : Eng) (u v_ : Nat) : reg (onLink n f e) u v_ = reg e u v_ := rfl
@[simp] theorem regB_onLink (n : Nat) (f : Link → Link) (e : Eng) (z u v_ : Nat) : regB (onLink n f e) z u v_ = regB e z u v_ := rfl
@[simp] theorem domBytes_onLink (n : Nat) (f : Link → Link) (e : Eng) (u v_ z n_ : Nat) :
    domBytes (onLink n f e) u v_ z n_ = domBytes e u v_ z n_ := rfl
@[simp] theorem memByte_onLink (n : Nat) (f : Link → Link) (e : Eng) (u : Nat) : memByte (onLink n f e) u = memByte e u := rfl

/-! ### `setCrossing` changes `crossings` alone -/

@[simp] theorem setCrossing_now (n : Nat) (c : Crossing) (e : Eng) : (setCrossing n c e).now = e.now := rfl
@[simp] theorem setCrossing_run (n : Nat) (c : Crossing) (e : Eng) : (setCrossing n c e).run = e.run := rfl
@[simp] theorem setCrossing_parts (n : Nat) (c : Crossing) (e : Eng) : (setCrossing n c e).parts = e.parts := rfl
@[simp] theorem setCrossing_powerOnAt (n : Nat) (c : Crossing) (e : Eng) : (setCrossing n c e).powerOnAt = e.powerOnAt := rfl
@[simp] theorem setCrossing_spBase (n : Nat) (c : Crossing) (e : Eng) : (setCrossing n c e).spBase = e.spBase := rfl
@[simp] theorem setCrossing_nextFrame (n : Nat) (c : Crossing) (e : Eng) : (setCrossing n c e).nextFrame = e.nextFrame := rfl
@[simp] theorem setCrossing_regs (n : Nat) (c : Crossing) (e : Eng) : (setCrossing n c e).regs = e.regs := rfl
@[simp] theorem setCrossing_dom (n : Nat) (c : Crossing) (e : Eng) : (setCrossing n c e).dom = e.dom := rfl
@[simp] theorem setCrossing_mem (n : Nat) (c : Crossing) (e : Eng) : (setCrossing n c e).mem = e.mem := rfl
@[simp] theorem setCrossing_genBase (n : Nat) (c : Crossing) (e : Eng) : (setCrossing n c e).genBase = e.genBase := rfl
@[simp] theorem setCrossing_gens (n : Nat) (c : Crossing) (e : Eng) : (setCrossing n c e).gens = e.gens := rfl
@[simp] theorem setCrossing_poolPois (n : Nat) (c : Crossing) (e : Eng) : (setCrossing n c e).poolPois = e.poolPois := rfl
@[simp] theorem setCrossing_fwRam (n : Nat) (c : Crossing) (e : Eng) : (setCrossing n c e).fwRam = e.fwRam := rfl
@[simp] theorem setCrossing_docks (n : Nat) (c : Crossing) (e : Eng) : (setCrossing n c e).docks = e.docks := rfl
@[simp] theorem setCrossing_agents (n : Nat) (c : Crossing) (e : Eng) : (setCrossing n c e).agents = e.agents := rfl
@[simp] theorem setCrossing_heap (n : Nat) (c : Crossing) (e : Eng) : (setCrossing n c e).heap = e.heap := rfl
@[simp] theorem setCrossing_spine (n : Nat) (c : Crossing) (e : Eng) : (setCrossing n c e).spine = e.spine := rfl
@[simp] theorem setCrossing_deck (n : Nat) (c : Crossing) (e : Eng) : (setCrossing n c e).deck = e.deck := rfl
@[simp] theorem setCrossing_rings (n : Nat) (c : Crossing) (e : Eng) : (setCrossing n c e).rings = e.rings := rfl
@[simp] theorem setCrossing_jobs (n : Nat) (c : Crossing) (e : Eng) : (setCrossing n c e).jobs = e.jobs := rfl
@[simp] theorem setCrossing_ids (n : Nat) (c : Crossing) (e : Eng) : (setCrossing n c e).ids = e.ids := rfl
@[simp] theorem setCrossing_hostReads (n : Nat) (c : Crossing) (e : Eng) : (setCrossing n c e).hostReads = e.hostReads := rfl
@[simp] theorem setCrossing_links (n : Nat) (c : Crossing) (e : Eng) : (setCrossing n c e).links = e.links := rfl
@[simp] theorem setCrossing_endpointSet (n : Nat) (c : Crossing) (e : Eng) : (setCrossing n c e).endpointSet = e.endpointSet := rfl
@[simp] theorem setCrossing_sems (n : Nat) (c : Crossing) (e : Eng) : (setCrossing n c e).sems = e.sems := rfl
@[simp] theorem setCrossing_fw (n : Nat) (c : Crossing) (e : Eng) : (setCrossing n c e).fw = e.fw := rfl
@[simp] theorem setCrossing_power (n : Nat) (c : Crossing) (e : Eng) : (setCrossing n c e).power = e.power := rfl
@[simp] theorem setCrossing_modules (n : Nat) (c : Crossing) (e : Eng) : (setCrossing n c e).modules = e.modules := rfl
@[simp] theorem setCrossing_trainAt (n : Nat) (c : Crossing) (e : Eng) : (setCrossing n c e).trainAt = e.trainAt := rfl
@[simp] theorem setCrossing_errOut (n : Nat) (c : Crossing) (e : Eng) : (setCrossing n c e).errOut = e.errOut := rfl
@[simp] theorem setCrossing_clkReqAt (n : Nat) (c : Crossing) (e : Eng) : (setCrossing n c e).clkReqAt = e.clkReqAt := rfl
@[simp] theorem setCrossing_wdog (n : Nat) (c : Crossing) (e : Eng) : (setCrossing n c e).wdog = e.wdog := rfl
@[simp] theorem setCrossing_raised (n : Nat) (c : Crossing) (e : Eng) : (setCrossing n c e).raised = e.raised := rfl
@[simp] theorem setCrossing_fresh (n : Nat) (c : Crossing) (e : Eng) : (setCrossing n c e).fresh = e.fresh := rfl
@[simp] theorem setCrossing_stale (n : Nat) (c : Crossing) (e : Eng) : (setCrossing n c e).stale = e.stale := rfl
@[simp] theorem setCrossing_hostPois (n : Nat) (c : Crossing) (e : Eng) : (setCrossing n c e).hostPois = e.hostPois := rfl
@[simp] theorem setCrossing_out (n : Nat) (c : Crossing) (e : Eng) : (setCrossing n c e).out = e.out := rfl
@[simp] theorem reg_setCrossing (n : Nat) (c : Crossing) (e : Eng) (u v_ : Nat) : reg (setCrossing n c e) u v_ = reg e u v_ := rfl
@[simp] theorem regB_setCrossing (n : Nat) (c : Crossing) (e : Eng) (z u v_ : Nat) : regB (setCrossing n c e) z u v_ = regB e z u v_ := rfl
@[simp] theorem domBytes_setCrossing (n : Nat) (c : Crossing) (e : Eng) (u v_ z n_ : Nat) :
    domBytes (setCrossing n c e) u v_ z n_ = domBytes e u v_ z n_ := rfl
@[simp] theorem memByte_setCrossing (n : Nat) (c : Crossing) (e : Eng) (u : Nat) : memByte (setCrossing n c e) u = memByte e u := rfl

/-! ### `onPower` changes `power` alone -/

@[simp] theorem onPower_now (f : Power → Power) (e : Eng) : (onPower f e).now = e.now := rfl
@[simp] theorem onPower_run (f : Power → Power) (e : Eng) : (onPower f e).run = e.run := rfl
@[simp] theorem onPower_parts (f : Power → Power) (e : Eng) : (onPower f e).parts = e.parts := rfl
@[simp] theorem onPower_powerOnAt (f : Power → Power) (e : Eng) : (onPower f e).powerOnAt = e.powerOnAt := rfl
@[simp] theorem onPower_spBase (f : Power → Power) (e : Eng) : (onPower f e).spBase = e.spBase := rfl
@[simp] theorem onPower_nextFrame (f : Power → Power) (e : Eng) : (onPower f e).nextFrame = e.nextFrame := rfl
@[simp] theorem onPower_regs (f : Power → Power) (e : Eng) : (onPower f e).regs = e.regs := rfl
@[simp] theorem onPower_dom (f : Power → Power) (e : Eng) : (onPower f e).dom = e.dom := rfl
@[simp] theorem onPower_mem (f : Power → Power) (e : Eng) : (onPower f e).mem = e.mem := rfl
@[simp] theorem onPower_genBase (f : Power → Power) (e : Eng) : (onPower f e).genBase = e.genBase := rfl
@[simp] theorem onPower_gens (f : Power → Power) (e : Eng) : (onPower f e).gens = e.gens := rfl
@[simp] theorem onPower_poolPois (f : Power → Power) (e : Eng) : (onPower f e).poolPois = e.poolPois := rfl
@[simp] theorem onPower_fwRam (f : Power → Power) (e : Eng) : (onPower f e).fwRam = e.fwRam := rfl
@[simp] theorem onPower_docks (f : Power → Power) (e : Eng) : (onPower f e).docks = e.docks := rfl
@[simp] theorem onPower_agents (f : Power → Power) (e : Eng) : (onPower f e).agents = e.agents := rfl
@[simp] theorem onPower_heap (f : Power → Power) (e : Eng) : (onPower f e).heap = e.heap := rfl
@[simp] theorem onPower_spine (f : Power → Power) (e : Eng) : (onPower f e).spine = e.spine := rfl
@[simp] theorem onPower_deck (f : Power → Power) (e : Eng) : (onPower f e).deck = e.deck := rfl
@[simp] theorem onPower_rings (f : Power → Power) (e : Eng) : (onPower f e).rings = e.rings := rfl
@[simp] theorem onPower_jobs (f : Power → Power) (e : Eng) : (onPower f e).jobs = e.jobs := rfl
@[simp] theorem onPower_ids (f : Power → Power) (e : Eng) : (onPower f e).ids = e.ids := rfl
@[simp] theorem onPower_hostReads (f : Power → Power) (e : Eng) : (onPower f e).hostReads = e.hostReads := rfl
@[simp] theorem onPower_links (f : Power → Power) (e : Eng) : (onPower f e).links = e.links := rfl
@[simp] theorem onPower_endpointSet (f : Power → Power) (e : Eng) : (onPower f e).endpointSet = e.endpointSet := rfl
@[simp] theorem onPower_sems (f : Power → Power) (e : Eng) : (onPower f e).sems = e.sems := rfl
@[simp] theorem onPower_fw (f : Power → Power) (e : Eng) : (onPower f e).fw = e.fw := rfl
@[simp] theorem onPower_crossings (f : Power → Power) (e : Eng) : (onPower f e).crossings = e.crossings := rfl
@[simp] theorem onPower_modules (f : Power → Power) (e : Eng) : (onPower f e).modules = e.modules := rfl
@[simp] theorem onPower_trainAt (f : Power → Power) (e : Eng) : (onPower f e).trainAt = e.trainAt := rfl
@[simp] theorem onPower_errOut (f : Power → Power) (e : Eng) : (onPower f e).errOut = e.errOut := rfl
@[simp] theorem onPower_clkReqAt (f : Power → Power) (e : Eng) : (onPower f e).clkReqAt = e.clkReqAt := rfl
@[simp] theorem onPower_wdog (f : Power → Power) (e : Eng) : (onPower f e).wdog = e.wdog := rfl
@[simp] theorem onPower_raised (f : Power → Power) (e : Eng) : (onPower f e).raised = e.raised := rfl
@[simp] theorem onPower_fresh (f : Power → Power) (e : Eng) : (onPower f e).fresh = e.fresh := rfl
@[simp] theorem onPower_stale (f : Power → Power) (e : Eng) : (onPower f e).stale = e.stale := rfl
@[simp] theorem onPower_hostPois (f : Power → Power) (e : Eng) : (onPower f e).hostPois = e.hostPois := rfl
@[simp] theorem onPower_out (f : Power → Power) (e : Eng) : (onPower f e).out = e.out := rfl
@[simp] theorem reg_onPower (f : Power → Power) (e : Eng) (u v_ : Nat) : reg (onPower f e) u v_ = reg e u v_ := rfl
@[simp] theorem regB_onPower (f : Power → Power) (e : Eng) (z u v_ : Nat) : regB (onPower f e) z u v_ = regB e z u v_ := rfl
@[simp] theorem domBytes_onPower (f : Power → Power) (e : Eng) (u v_ z n_ : Nat) :
    domBytes (onPower f e) u v_ z n_ = domBytes e u v_ z n_ := rfl
@[simp] theorem memByte_onPower (f : Power → Power) (e : Eng) (u : Nat) : memByte (onPower f e) u = memByte e u := rfl

/-! ### `onFw` changes `fw` alone -/

@[simp] theorem onFw_now (f : Fw → Fw) (e : Eng) : (onFw f e).now = e.now := rfl
@[simp] theorem onFw_run (f : Fw → Fw) (e : Eng) : (onFw f e).run = e.run := rfl
@[simp] theorem onFw_parts (f : Fw → Fw) (e : Eng) : (onFw f e).parts = e.parts := rfl
@[simp] theorem onFw_powerOnAt (f : Fw → Fw) (e : Eng) : (onFw f e).powerOnAt = e.powerOnAt := rfl
@[simp] theorem onFw_spBase (f : Fw → Fw) (e : Eng) : (onFw f e).spBase = e.spBase := rfl
@[simp] theorem onFw_nextFrame (f : Fw → Fw) (e : Eng) : (onFw f e).nextFrame = e.nextFrame := rfl
@[simp] theorem onFw_regs (f : Fw → Fw) (e : Eng) : (onFw f e).regs = e.regs := rfl
@[simp] theorem onFw_dom (f : Fw → Fw) (e : Eng) : (onFw f e).dom = e.dom := rfl
@[simp] theorem onFw_mem (f : Fw → Fw) (e : Eng) : (onFw f e).mem = e.mem := rfl
@[simp] theorem onFw_genBase (f : Fw → Fw) (e : Eng) : (onFw f e).genBase = e.genBase := rfl
@[simp] theorem onFw_gens (f : Fw → Fw) (e : Eng) : (onFw f e).gens = e.gens := rfl
@[simp] theorem onFw_poolPois (f : Fw → Fw) (e : Eng) : (onFw f e).poolPois = e.poolPois := rfl
@[simp] theorem onFw_fwRam (f : Fw → Fw) (e : Eng) : (onFw f e).fwRam = e.fwRam := rfl
@[simp] theorem onFw_docks (f : Fw → Fw) (e : Eng) : (onFw f e).docks = e.docks := rfl
@[simp] theorem onFw_agents (f : Fw → Fw) (e : Eng) : (onFw f e).agents = e.agents := rfl
@[simp] theorem onFw_heap (f : Fw → Fw) (e : Eng) : (onFw f e).heap = e.heap := rfl
@[simp] theorem onFw_spine (f : Fw → Fw) (e : Eng) : (onFw f e).spine = e.spine := rfl
@[simp] theorem onFw_deck (f : Fw → Fw) (e : Eng) : (onFw f e).deck = e.deck := rfl
@[simp] theorem onFw_rings (f : Fw → Fw) (e : Eng) : (onFw f e).rings = e.rings := rfl
@[simp] theorem onFw_jobs (f : Fw → Fw) (e : Eng) : (onFw f e).jobs = e.jobs := rfl
@[simp] theorem onFw_ids (f : Fw → Fw) (e : Eng) : (onFw f e).ids = e.ids := rfl
@[simp] theorem onFw_hostReads (f : Fw → Fw) (e : Eng) : (onFw f e).hostReads = e.hostReads := rfl
@[simp] theorem onFw_links (f : Fw → Fw) (e : Eng) : (onFw f e).links = e.links := rfl
@[simp] theorem onFw_endpointSet (f : Fw → Fw) (e : Eng) : (onFw f e).endpointSet = e.endpointSet := rfl
@[simp] theorem onFw_sems (f : Fw → Fw) (e : Eng) : (onFw f e).sems = e.sems := rfl
@[simp] theorem onFw_power (f : Fw → Fw) (e : Eng) : (onFw f e).power = e.power := rfl
@[simp] theorem onFw_crossings (f : Fw → Fw) (e : Eng) : (onFw f e).crossings = e.crossings := rfl
@[simp] theorem onFw_modules (f : Fw → Fw) (e : Eng) : (onFw f e).modules = e.modules := rfl
@[simp] theorem onFw_trainAt (f : Fw → Fw) (e : Eng) : (onFw f e).trainAt = e.trainAt := rfl
@[simp] theorem onFw_errOut (f : Fw → Fw) (e : Eng) : (onFw f e).errOut = e.errOut := rfl
@[simp] theorem onFw_clkReqAt (f : Fw → Fw) (e : Eng) : (onFw f e).clkReqAt = e.clkReqAt := rfl
@[simp] theorem onFw_wdog (f : Fw → Fw) (e : Eng) : (onFw f e).wdog = e.wdog := rfl
@[simp] theorem onFw_raised (f : Fw → Fw) (e : Eng) : (onFw f e).raised = e.raised := rfl
@[simp] theorem onFw_fresh (f : Fw → Fw) (e : Eng) : (onFw f e).fresh = e.fresh := rfl
@[simp] theorem onFw_stale (f : Fw → Fw) (e : Eng) : (onFw f e).stale = e.stale := rfl
@[simp] theorem onFw_hostPois (f : Fw → Fw) (e : Eng) : (onFw f e).hostPois = e.hostPois := rfl
@[simp] theorem onFw_out (f : Fw → Fw) (e : Eng) : (onFw f e).out = e.out := rfl
@[simp] theorem reg_onFw (f : Fw → Fw) (e : Eng) (u v_ : Nat) : reg (onFw f e) u v_ = reg e u v_ := rfl
@[simp] theorem regB_onFw (f : Fw → Fw) (e : Eng) (z u v_ : Nat) : regB (onFw f e) z u v_ = regB e z u v_ := rfl
@[simp] theorem domBytes_onFw (f : Fw → Fw) (e : Eng) (u v_ z n_ : Nat) :
    domBytes (onFw f e) u v_ z n_ = domBytes e u v_ z n_ := rfl
@[simp] theorem memByte_onFw (f : Fw → Fw) (e : Eng) (u : Nat) : memByte (onFw f e) u = memByte e u := rfl

/-! ### `setFwBytes` changes `fwRam` alone -/

@[simp] theorem setFwBytes_now (a : Nat) (bs : List Byte) (e : Eng) : (setFwBytes a bs e).now = e.now := rfl
@[simp] theorem setFwBytes_run (a : Nat) (bs : List Byte) (e : Eng) : (setFwBytes a bs e).run = e.run := rfl
@[simp] theorem setFwBytes_parts (a : Nat) (bs : List Byte) (e : Eng) : (setFwBytes a bs e).parts = e.parts := rfl
@[simp] theorem setFwBytes_powerOnAt (a : Nat) (bs : List Byte) (e : Eng) : (setFwBytes a bs e).powerOnAt = e.powerOnAt := rfl
@[simp] theorem setFwBytes_spBase (a : Nat) (bs : List Byte) (e : Eng) : (setFwBytes a bs e).spBase = e.spBase := rfl
@[simp] theorem setFwBytes_nextFrame (a : Nat) (bs : List Byte) (e : Eng) : (setFwBytes a bs e).nextFrame = e.nextFrame := rfl
@[simp] theorem setFwBytes_regs (a : Nat) (bs : List Byte) (e : Eng) : (setFwBytes a bs e).regs = e.regs := rfl
@[simp] theorem setFwBytes_dom (a : Nat) (bs : List Byte) (e : Eng) : (setFwBytes a bs e).dom = e.dom := rfl
@[simp] theorem setFwBytes_mem (a : Nat) (bs : List Byte) (e : Eng) : (setFwBytes a bs e).mem = e.mem := rfl
@[simp] theorem setFwBytes_genBase (a : Nat) (bs : List Byte) (e : Eng) : (setFwBytes a bs e).genBase = e.genBase := rfl
@[simp] theorem setFwBytes_gens (a : Nat) (bs : List Byte) (e : Eng) : (setFwBytes a bs e).gens = e.gens := rfl
@[simp] theorem setFwBytes_poolPois (a : Nat) (bs : List Byte) (e : Eng) : (setFwBytes a bs e).poolPois = e.poolPois := rfl
@[simp] theorem setFwBytes_docks (a : Nat) (bs : List Byte) (e : Eng) : (setFwBytes a bs e).docks = e.docks := rfl
@[simp] theorem setFwBytes_agents (a : Nat) (bs : List Byte) (e : Eng) : (setFwBytes a bs e).agents = e.agents := rfl
@[simp] theorem setFwBytes_heap (a : Nat) (bs : List Byte) (e : Eng) : (setFwBytes a bs e).heap = e.heap := rfl
@[simp] theorem setFwBytes_spine (a : Nat) (bs : List Byte) (e : Eng) : (setFwBytes a bs e).spine = e.spine := rfl
@[simp] theorem setFwBytes_deck (a : Nat) (bs : List Byte) (e : Eng) : (setFwBytes a bs e).deck = e.deck := rfl
@[simp] theorem setFwBytes_rings (a : Nat) (bs : List Byte) (e : Eng) : (setFwBytes a bs e).rings = e.rings := rfl
@[simp] theorem setFwBytes_jobs (a : Nat) (bs : List Byte) (e : Eng) : (setFwBytes a bs e).jobs = e.jobs := rfl
@[simp] theorem setFwBytes_ids (a : Nat) (bs : List Byte) (e : Eng) : (setFwBytes a bs e).ids = e.ids := rfl
@[simp] theorem setFwBytes_hostReads (a : Nat) (bs : List Byte) (e : Eng) : (setFwBytes a bs e).hostReads = e.hostReads := rfl
@[simp] theorem setFwBytes_links (a : Nat) (bs : List Byte) (e : Eng) : (setFwBytes a bs e).links = e.links := rfl
@[simp] theorem setFwBytes_endpointSet (a : Nat) (bs : List Byte) (e : Eng) : (setFwBytes a bs e).endpointSet = e.endpointSet := rfl
@[simp] theorem setFwBytes_sems (a : Nat) (bs : List Byte) (e : Eng) : (setFwBytes a bs e).sems = e.sems := rfl
@[simp] theorem setFwBytes_fw (a : Nat) (bs : List Byte) (e : Eng) : (setFwBytes a bs e).fw = e.fw := rfl
@[simp] theorem setFwBytes_power (a : Nat) (bs : List Byte) (e : Eng) : (setFwBytes a bs e).power = e.power := rfl
@[simp] theorem setFwBytes_crossings (a : Nat) (bs : List Byte) (e : Eng) : (setFwBytes a bs e).crossings = e.crossings := rfl
@[simp] theorem setFwBytes_modules (a : Nat) (bs : List Byte) (e : Eng) : (setFwBytes a bs e).modules = e.modules := rfl
@[simp] theorem setFwBytes_trainAt (a : Nat) (bs : List Byte) (e : Eng) : (setFwBytes a bs e).trainAt = e.trainAt := rfl
@[simp] theorem setFwBytes_errOut (a : Nat) (bs : List Byte) (e : Eng) : (setFwBytes a bs e).errOut = e.errOut := rfl
@[simp] theorem setFwBytes_clkReqAt (a : Nat) (bs : List Byte) (e : Eng) : (setFwBytes a bs e).clkReqAt = e.clkReqAt := rfl
@[simp] theorem setFwBytes_wdog (a : Nat) (bs : List Byte) (e : Eng) : (setFwBytes a bs e).wdog = e.wdog := rfl
@[simp] theorem setFwBytes_raised (a : Nat) (bs : List Byte) (e : Eng) : (setFwBytes a bs e).raised = e.raised := rfl
@[simp] theorem setFwBytes_fresh (a : Nat) (bs : List Byte) (e : Eng) : (setFwBytes a bs e).fresh = e.fresh := rfl
@[simp] theorem setFwBytes_stale (a : Nat) (bs : List Byte) (e : Eng) : (setFwBytes a bs e).stale = e.stale := rfl
@[simp] theorem setFwBytes_hostPois (a : Nat) (bs : List Byte) (e : Eng) : (setFwBytes a bs e).hostPois = e.hostPois := rfl
@[simp] theorem setFwBytes_out (a : Nat) (bs : List Byte) (e : Eng) : (setFwBytes a bs e).out = e.out := rfl
@[simp] theorem reg_setFwBytes (a : Nat) (bs : List Byte) (e : Eng) (u v_ : Nat) : reg (setFwBytes a bs e) u v_ = reg e u v_ := rfl
@[simp] theorem regB_setFwBytes (a : Nat) (bs : List Byte) (e : Eng) (z u v_ : Nat) : regB (setFwBytes a bs e) z u v_ = regB e z u v_ := rfl
@[simp] theorem domBytes_setFwBytes (a : Nat) (bs : List Byte) (e : Eng) (u v_ z n_ : Nat) :
    domBytes (setFwBytes a bs e) u v_ z n_ = domBytes e u v_ z n_ := rfl
@[simp] theorem memByte_setFwBytes (a : Nat) (bs : List Byte) (e : Eng) (u : Nat) : memByte (setFwBytes a bs e) u = memByte e u := rfl

/-! ### `sendPwr` changes `power` and `out` alone -/

@[simp] theorem sendPwr_now (w : Word32) (e : Eng) : (sendPwr w e).now = e.now := rfl
@[simp] theorem sendPwr_run (w : Word32) (e : Eng) : (sendPwr w e).run = e.run := rfl
@[simp] theorem sendPwr_parts (w : Word32) (e : Eng) : (sendPwr w e).parts = e.parts := rfl
@[simp] theorem sendPwr_powerOnAt (w : Word32) (e : Eng) : (sendPwr w e).powerOnAt = e.powerOnAt := rfl
@[simp] theorem sendPwr_spBase (w : Word32) (e : Eng) : (sendPwr w e).spBase = e.spBase := rfl
@[simp] theorem sendPwr_nextFrame (w : Word32) (e : Eng) : (sendPwr w e).nextFrame = e.nextFrame := rfl
@[simp] theorem sendPwr_regs (w : Word32) (e : Eng) : (sendPwr w e).regs = e.regs := rfl
@[simp] theorem sendPwr_dom (w : Word32) (e : Eng) : (sendPwr w e).dom = e.dom := rfl
@[simp] theorem sendPwr_mem (w : Word32) (e : Eng) : (sendPwr w e).mem = e.mem := rfl
@[simp] theorem sendPwr_genBase (w : Word32) (e : Eng) : (sendPwr w e).genBase = e.genBase := rfl
@[simp] theorem sendPwr_gens (w : Word32) (e : Eng) : (sendPwr w e).gens = e.gens := rfl
@[simp] theorem sendPwr_poolPois (w : Word32) (e : Eng) : (sendPwr w e).poolPois = e.poolPois := rfl
@[simp] theorem sendPwr_fwRam (w : Word32) (e : Eng) : (sendPwr w e).fwRam = e.fwRam := rfl
@[simp] theorem sendPwr_docks (w : Word32) (e : Eng) : (sendPwr w e).docks = e.docks := rfl
@[simp] theorem sendPwr_agents (w : Word32) (e : Eng) : (sendPwr w e).agents = e.agents := rfl
@[simp] theorem sendPwr_heap (w : Word32) (e : Eng) : (sendPwr w e).heap = e.heap := rfl
@[simp] theorem sendPwr_spine (w : Word32) (e : Eng) : (sendPwr w e).spine = e.spine := rfl
@[simp] theorem sendPwr_deck (w : Word32) (e : Eng) : (sendPwr w e).deck = e.deck := rfl
@[simp] theorem sendPwr_rings (w : Word32) (e : Eng) : (sendPwr w e).rings = e.rings := rfl
@[simp] theorem sendPwr_jobs (w : Word32) (e : Eng) : (sendPwr w e).jobs = e.jobs := rfl
@[simp] theorem sendPwr_ids (w : Word32) (e : Eng) : (sendPwr w e).ids = e.ids := rfl
@[simp] theorem sendPwr_hostReads (w : Word32) (e : Eng) : (sendPwr w e).hostReads = e.hostReads := rfl
@[simp] theorem sendPwr_links (w : Word32) (e : Eng) : (sendPwr w e).links = e.links := rfl
@[simp] theorem sendPwr_endpointSet (w : Word32) (e : Eng) : (sendPwr w e).endpointSet = e.endpointSet := rfl
@[simp] theorem sendPwr_sems (w : Word32) (e : Eng) : (sendPwr w e).sems = e.sems := rfl
@[simp] theorem sendPwr_crossings (w : Word32) (e : Eng) : (sendPwr w e).crossings = e.crossings := rfl
@[simp] theorem sendPwr_modules (w : Word32) (e : Eng) : (sendPwr w e).modules = e.modules := rfl
@[simp] theorem sendPwr_trainAt (w : Word32) (e : Eng) : (sendPwr w e).trainAt = e.trainAt := rfl
@[simp] theorem sendPwr_errOut (w : Word32) (e : Eng) : (sendPwr w e).errOut = e.errOut := rfl
@[simp] theorem sendPwr_clkReqAt (w : Word32) (e : Eng) : (sendPwr w e).clkReqAt = e.clkReqAt := rfl
@[simp] theorem sendPwr_wdog (w : Word32) (e : Eng) : (sendPwr w e).wdog = e.wdog := rfl
@[simp] theorem sendPwr_raised (w : Word32) (e : Eng) : (sendPwr w e).raised = e.raised := rfl
@[simp] theorem sendPwr_fresh (w : Word32) (e : Eng) : (sendPwr w e).fresh = e.fresh := rfl
@[simp] theorem sendPwr_stale (w : Word32) (e : Eng) : (sendPwr w e).stale = e.stale := rfl
@[simp] theorem sendPwr_hostPois (w : Word32) (e : Eng) : (sendPwr w e).hostPois = e.hostPois := rfl
@[simp] theorem sendPwr_fw (w : Word32) (e : Eng) : (sendPwr w e).fw = e.fw := rfl
@[simp] theorem reg_sendPwr (w : Word32) (e : Eng) (u v_ : Nat) :
    reg (sendPwr w e) u v_ = reg e u v_ := rfl
@[simp] theorem regB_sendPwr (w : Word32) (e : Eng) (z u v_ : Nat) :
    regB (sendPwr w e) z u v_ = regB e z u v_ := rfl
@[simp] theorem domBytes_sendPwr (w : Word32) (e : Eng) (u v_ z n_ : Nat) :
    domBytes (sendPwr w e) u v_ z n_ = domBytes e u v_ z n_ := rfl
@[simp] theorem memByte_sendPwr (w : Word32) (e : Eng) (u : Nat) :
    memByte (sendPwr w e) u = memByte e u := rfl

/-! ### `setQueue` changes `links` alone -/

@[simp] theorem setQueue_now (p q : Nat) (x : RxQueue) (e : Eng) : (setQueue p q x e).now = e.now := rfl
@[simp] theorem setQueue_run (p q : Nat) (x : RxQueue) (e : Eng) : (setQueue p q x e).run = e.run := rfl
@[simp] theorem setQueue_parts (p q : Nat) (x : RxQueue) (e : Eng) : (setQueue p q x e).parts = e.parts := rfl
@[simp] theorem setQueue_powerOnAt (p q : Nat) (x : RxQueue) (e : Eng) : (setQueue p q x e).powerOnAt = e.powerOnAt :=
    rfl
@[simp] theorem setQueue_spBase (p q : Nat) (x : RxQueue) (e : Eng) : (setQueue p q x e).spBase = e.spBase := rfl
@[simp] theorem setQueue_nextFrame (p q : Nat) (x : RxQueue) (e : Eng) : (setQueue p q x e).nextFrame = e.nextFrame :=
    rfl
@[simp] theorem setQueue_regs (p q : Nat) (x : RxQueue) (e : Eng) : (setQueue p q x e).regs = e.regs := rfl
@[simp] theorem setQueue_dom (p q : Nat) (x : RxQueue) (e : Eng) : (setQueue p q x e).dom = e.dom := rfl
@[simp] theorem setQueue_mem (p q : Nat) (x : RxQueue) (e : Eng) : (setQueue p q x e).mem = e.mem := rfl
@[simp] theorem setQueue_genBase (p q : Nat) (x : RxQueue) (e : Eng) : (setQueue p q x e).genBase = e.genBase := rfl
@[simp] theorem setQueue_gens (p q : Nat) (x : RxQueue) (e : Eng) : (setQueue p q x e).gens = e.gens := rfl
@[simp] theorem setQueue_poolPois (p q : Nat) (x : RxQueue) (e : Eng) : (setQueue p q x e).poolPois = e.poolPois := rfl
@[simp] theorem setQueue_fwRam (p q : Nat) (x : RxQueue) (e : Eng) : (setQueue p q x e).fwRam = e.fwRam := rfl
@[simp] theorem setQueue_docks (p q : Nat) (x : RxQueue) (e : Eng) : (setQueue p q x e).docks = e.docks := rfl
@[simp] theorem setQueue_agents (p q : Nat) (x : RxQueue) (e : Eng) : (setQueue p q x e).agents = e.agents := rfl
@[simp] theorem setQueue_heap (p q : Nat) (x : RxQueue) (e : Eng) : (setQueue p q x e).heap = e.heap := rfl
@[simp] theorem setQueue_spine (p q : Nat) (x : RxQueue) (e : Eng) : (setQueue p q x e).spine = e.spine := rfl
@[simp] theorem setQueue_deck (p q : Nat) (x : RxQueue) (e : Eng) : (setQueue p q x e).deck = e.deck := rfl
@[simp] theorem setQueue_rings (p q : Nat) (x : RxQueue) (e : Eng) : (setQueue p q x e).rings = e.rings := rfl
@[simp] theorem setQueue_jobs (p q : Nat) (x : RxQueue) (e : Eng) : (setQueue p q x e).jobs = e.jobs := rfl
@[simp] theorem setQueue_ids (p q : Nat) (x : RxQueue) (e : Eng) : (setQueue p q x e).ids = e.ids := rfl
@[simp] theorem setQueue_hostReads (p q : Nat) (x : RxQueue) (e : Eng) : (setQueue p q x e).hostReads = e.hostReads :=
    rfl
@[simp] theorem setQueue_endpointSet (p q : Nat) (x : RxQueue) (e : Eng) : (setQueue p q x e).endpointSet = e.endpointSet :=
    rfl
@[simp] theorem setQueue_sems (p q : Nat) (x : RxQueue) (e : Eng) : (setQueue p q x e).sems = e.sems := rfl
@[simp] theorem setQueue_power (p q : Nat) (x : RxQueue) (e : Eng) : (setQueue p q x e).power = e.power := rfl
@[simp] theorem setQueue_crossings (p q : Nat) (x : RxQueue) (e : Eng) : (setQueue p q x e).crossings = e.crossings :=
    rfl
@[simp] theorem setQueue_modules (p q : Nat) (x : RxQueue) (e : Eng) : (setQueue p q x e).modules = e.modules := rfl
@[simp] theorem setQueue_trainAt (p q : Nat) (x : RxQueue) (e : Eng) : (setQueue p q x e).trainAt = e.trainAt := rfl
@[simp] theorem setQueue_errOut (p q : Nat) (x : RxQueue) (e : Eng) : (setQueue p q x e).errOut = e.errOut := rfl
@[simp] theorem setQueue_clkReqAt (p q : Nat) (x : RxQueue) (e : Eng) : (setQueue p q x e).clkReqAt = e.clkReqAt := rfl
@[simp] theorem setQueue_wdog (p q : Nat) (x : RxQueue) (e : Eng) : (setQueue p q x e).wdog = e.wdog := rfl
@[simp] theorem setQueue_raised (p q : Nat) (x : RxQueue) (e : Eng) : (setQueue p q x e).raised = e.raised := rfl
@[simp] theorem setQueue_fresh (p q : Nat) (x : RxQueue) (e : Eng) : (setQueue p q x e).fresh = e.fresh := rfl
@[simp] theorem setQueue_stale (p q : Nat) (x : RxQueue) (e : Eng) : (setQueue p q x e).stale = e.stale := rfl
@[simp] theorem setQueue_hostPois (p q : Nat) (x : RxQueue) (e : Eng) : (setQueue p q x e).hostPois = e.hostPois := rfl
@[simp] theorem setQueue_out (p q : Nat) (x : RxQueue) (e : Eng) : (setQueue p q x e).out = e.out := rfl
@[simp] theorem setQueue_fw (p q : Nat) (x : RxQueue) (e : Eng) : (setQueue p q x e).fw = e.fw := rfl
@[simp] theorem reg_setQueue (p q : Nat) (x : RxQueue) (e : Eng) (u v_ : Nat) :
    reg (setQueue p q x e) u v_ = reg e u v_ := rfl
@[simp] theorem regB_setQueue (p q : Nat) (x : RxQueue) (e : Eng) (z u v_ : Nat) :
    regB (setQueue p q x e) z u v_ = regB e z u v_ := rfl
@[simp] theorem domBytes_setQueue (p q : Nat) (x : RxQueue) (e : Eng) (u v_ z n_ : Nat) :
    domBytes (setQueue p q x e) u v_ z n_ = domBytes e u v_ z n_ := rfl
@[simp] theorem memByte_setQueue (p q : Nat) (x : RxQueue) (e : Eng) (u : Nat) :
    memByte (setQueue p q x e) u = memByte e u := rfl

/-! ### `advanceSp` changes `now` alone -/

@[simp] theorem advanceSp_run (t : Nat) (e : Eng) : (advanceSp t e).run = e.run := rfl
@[simp] theorem advanceSp_parts (t : Nat) (e : Eng) : (advanceSp t e).parts = e.parts := rfl
@[simp] theorem advanceSp_powerOnAt (t : Nat) (e : Eng) : (advanceSp t e).powerOnAt = e.powerOnAt := rfl
@[simp] theorem advanceSp_spBase (t : Nat) (e : Eng) : (advanceSp t e).spBase = e.spBase := rfl
@[simp] theorem advanceSp_nextFrame (t : Nat) (e : Eng) : (advanceSp t e).nextFrame = e.nextFrame := rfl
@[simp] theorem advanceSp_regs (t : Nat) (e : Eng) : (advanceSp t e).regs = e.regs := rfl
@[simp] theorem advanceSp_dom (t : Nat) (e : Eng) : (advanceSp t e).dom = e.dom := rfl
@[simp] theorem advanceSp_mem (t : Nat) (e : Eng) : (advanceSp t e).mem = e.mem := rfl
@[simp] theorem advanceSp_genBase (t : Nat) (e : Eng) : (advanceSp t e).genBase = e.genBase := rfl
@[simp] theorem advanceSp_gens (t : Nat) (e : Eng) : (advanceSp t e).gens = e.gens := rfl
@[simp] theorem advanceSp_poolPois (t : Nat) (e : Eng) : (advanceSp t e).poolPois = e.poolPois := rfl
@[simp] theorem advanceSp_fwRam (t : Nat) (e : Eng) : (advanceSp t e).fwRam = e.fwRam := rfl
@[simp] theorem advanceSp_docks (t : Nat) (e : Eng) : (advanceSp t e).docks = e.docks := rfl
@[simp] theorem advanceSp_agents (t : Nat) (e : Eng) : (advanceSp t e).agents = e.agents := rfl
@[simp] theorem advanceSp_heap (t : Nat) (e : Eng) : (advanceSp t e).heap = e.heap := rfl
@[simp] theorem advanceSp_spine (t : Nat) (e : Eng) : (advanceSp t e).spine = e.spine := rfl
@[simp] theorem advanceSp_deck (t : Nat) (e : Eng) : (advanceSp t e).deck = e.deck := rfl
@[simp] theorem advanceSp_rings (t : Nat) (e : Eng) : (advanceSp t e).rings = e.rings := rfl
@[simp] theorem advanceSp_jobs (t : Nat) (e : Eng) : (advanceSp t e).jobs = e.jobs := rfl
@[simp] theorem advanceSp_ids (t : Nat) (e : Eng) : (advanceSp t e).ids = e.ids := rfl
@[simp] theorem advanceSp_hostReads (t : Nat) (e : Eng) : (advanceSp t e).hostReads = e.hostReads := rfl
@[simp] theorem advanceSp_links (t : Nat) (e : Eng) : (advanceSp t e).links = e.links := rfl
@[simp] theorem advanceSp_endpointSet (t : Nat) (e : Eng) : (advanceSp t e).endpointSet = e.endpointSet := rfl
@[simp] theorem advanceSp_sems (t : Nat) (e : Eng) : (advanceSp t e).sems = e.sems := rfl
@[simp] theorem advanceSp_power (t : Nat) (e : Eng) : (advanceSp t e).power = e.power := rfl
@[simp] theorem advanceSp_crossings (t : Nat) (e : Eng) : (advanceSp t e).crossings = e.crossings := rfl
@[simp] theorem advanceSp_modules (t : Nat) (e : Eng) : (advanceSp t e).modules = e.modules := rfl
@[simp] theorem advanceSp_trainAt (t : Nat) (e : Eng) : (advanceSp t e).trainAt = e.trainAt := rfl
@[simp] theorem advanceSp_errOut (t : Nat) (e : Eng) : (advanceSp t e).errOut = e.errOut := rfl
@[simp] theorem advanceSp_clkReqAt (t : Nat) (e : Eng) : (advanceSp t e).clkReqAt = e.clkReqAt := rfl
@[simp] theorem advanceSp_wdog (t : Nat) (e : Eng) : (advanceSp t e).wdog = e.wdog := rfl
@[simp] theorem advanceSp_raised (t : Nat) (e : Eng) : (advanceSp t e).raised = e.raised := rfl
@[simp] theorem advanceSp_fresh (t : Nat) (e : Eng) : (advanceSp t e).fresh = e.fresh := rfl
@[simp] theorem advanceSp_stale (t : Nat) (e : Eng) : (advanceSp t e).stale = e.stale := rfl
@[simp] theorem advanceSp_hostPois (t : Nat) (e : Eng) : (advanceSp t e).hostPois = e.hostPois := rfl
@[simp] theorem advanceSp_out (t : Nat) (e : Eng) : (advanceSp t e).out = e.out := rfl
@[simp] theorem advanceSp_fw (t : Nat) (e : Eng) : (advanceSp t e).fw = e.fw := rfl
@[simp] theorem reg_advanceSp (t : Nat) (e : Eng) (u v_ : Nat) :
    reg (advanceSp t e) u v_ = reg e u v_ := rfl
@[simp] theorem regB_advanceSp (t : Nat) (e : Eng) (z u v_ : Nat) :
    regB (advanceSp t e) z u v_ = regB e z u v_ := rfl
@[simp] theorem domBytes_advanceSp (t : Nat) (e : Eng) (u v_ z n_ : Nat) :
    domBytes (advanceSp t e) u v_ z n_ = domBytes e u v_ z n_ := rfl
@[simp] theorem memByte_advanceSp (t : Nat) (e : Eng) (u : Nat) :
    memByte (advanceSp t e) u = memByte e u := rfl

/-! ### `takeFree` changes `fresh` alone -/

@[simp] theorem takeFree_now (e : Eng) : (takeFree e).2.now = e.now := rfl
@[simp] theorem takeFree_run (e : Eng) : (takeFree e).2.run = e.run := rfl
@[simp] theorem takeFree_parts (e : Eng) : (takeFree e).2.parts = e.parts := rfl
@[simp] theorem takeFree_powerOnAt (e : Eng) : (takeFree e).2.powerOnAt = e.powerOnAt := rfl
@[simp] theorem takeFree_spBase (e : Eng) : (takeFree e).2.spBase = e.spBase := rfl
@[simp] theorem takeFree_nextFrame (e : Eng) : (takeFree e).2.nextFrame = e.nextFrame := rfl
@[simp] theorem takeFree_regs (e : Eng) : (takeFree e).2.regs = e.regs := rfl
@[simp] theorem takeFree_dom (e : Eng) : (takeFree e).2.dom = e.dom := rfl
@[simp] theorem takeFree_mem (e : Eng) : (takeFree e).2.mem = e.mem := rfl
@[simp] theorem takeFree_genBase (e : Eng) : (takeFree e).2.genBase = e.genBase := rfl
@[simp] theorem takeFree_gens (e : Eng) : (takeFree e).2.gens = e.gens := rfl
@[simp] theorem takeFree_poolPois (e : Eng) : (takeFree e).2.poolPois = e.poolPois := rfl
@[simp] theorem takeFree_fwRam (e : Eng) : (takeFree e).2.fwRam = e.fwRam := rfl
@[simp] theorem takeFree_docks (e : Eng) : (takeFree e).2.docks = e.docks := rfl
@[simp] theorem takeFree_agents (e : Eng) : (takeFree e).2.agents = e.agents := rfl
@[simp] theorem takeFree_heap (e : Eng) : (takeFree e).2.heap = e.heap := rfl
@[simp] theorem takeFree_spine (e : Eng) : (takeFree e).2.spine = e.spine := rfl
@[simp] theorem takeFree_deck (e : Eng) : (takeFree e).2.deck = e.deck := rfl
@[simp] theorem takeFree_rings (e : Eng) : (takeFree e).2.rings = e.rings := rfl
@[simp] theorem takeFree_jobs (e : Eng) : (takeFree e).2.jobs = e.jobs := rfl
@[simp] theorem takeFree_ids (e : Eng) : (takeFree e).2.ids = e.ids := rfl
@[simp] theorem takeFree_hostReads (e : Eng) : (takeFree e).2.hostReads = e.hostReads := rfl
@[simp] theorem takeFree_links (e : Eng) : (takeFree e).2.links = e.links := rfl
@[simp] theorem takeFree_endpointSet (e : Eng) : (takeFree e).2.endpointSet = e.endpointSet := rfl
@[simp] theorem takeFree_sems (e : Eng) : (takeFree e).2.sems = e.sems := rfl
@[simp] theorem takeFree_power (e : Eng) : (takeFree e).2.power = e.power := rfl
@[simp] theorem takeFree_crossings (e : Eng) : (takeFree e).2.crossings = e.crossings := rfl
@[simp] theorem takeFree_modules (e : Eng) : (takeFree e).2.modules = e.modules := rfl
@[simp] theorem takeFree_trainAt (e : Eng) : (takeFree e).2.trainAt = e.trainAt := rfl
@[simp] theorem takeFree_errOut (e : Eng) : (takeFree e).2.errOut = e.errOut := rfl
@[simp] theorem takeFree_clkReqAt (e : Eng) : (takeFree e).2.clkReqAt = e.clkReqAt := rfl
@[simp] theorem takeFree_wdog (e : Eng) : (takeFree e).2.wdog = e.wdog := rfl
@[simp] theorem takeFree_raised (e : Eng) : (takeFree e).2.raised = e.raised := rfl
@[simp] theorem takeFree_stale (e : Eng) : (takeFree e).2.stale = e.stale := rfl
@[simp] theorem takeFree_hostPois (e : Eng) : (takeFree e).2.hostPois = e.hostPois := rfl
@[simp] theorem takeFree_out (e : Eng) : (takeFree e).2.out = e.out := rfl
@[simp] theorem takeFree_fw (e : Eng) : (takeFree e).2.fw = e.fw := rfl
@[simp] theorem reg_takeFree (e : Eng) (u v_ : Nat) :
    reg (takeFree e).2 u v_ = reg e u v_ := rfl
@[simp] theorem regB_takeFree (e : Eng) (z u v_ : Nat) :
    regB (takeFree e).2 z u v_ = regB e z u v_ := rfl
@[simp] theorem domBytes_takeFree (e : Eng) (u v_ z n_ : Nat) :
    domBytes (takeFree e).2 u v_ z n_ = domBytes e u v_ z n_ := rfl
@[simp] theorem memByte_takeFree (e : Eng) (u : Nat) :
    memByte (takeFree e).2 u = memByte e u := rfl

/-! ### `newId` changes `ids` alone -/

@[simp] theorem newId_now (e : Eng) : (newId e).2.now = e.now := rfl
@[simp] theorem newId_run (e : Eng) : (newId e).2.run = e.run := rfl
@[simp] theorem newId_parts (e : Eng) : (newId e).2.parts = e.parts := rfl
@[simp] theorem newId_powerOnAt (e : Eng) : (newId e).2.powerOnAt = e.powerOnAt := rfl
@[simp] theorem newId_spBase (e : Eng) : (newId e).2.spBase = e.spBase := rfl
@[simp] theorem newId_nextFrame (e : Eng) : (newId e).2.nextFrame = e.nextFrame := rfl
@[simp] theorem newId_regs (e : Eng) : (newId e).2.regs = e.regs := rfl
@[simp] theorem newId_dom (e : Eng) : (newId e).2.dom = e.dom := rfl
@[simp] theorem newId_mem (e : Eng) : (newId e).2.mem = e.mem := rfl
@[simp] theorem newId_genBase (e : Eng) : (newId e).2.genBase = e.genBase := rfl
@[simp] theorem newId_gens (e : Eng) : (newId e).2.gens = e.gens := rfl
@[simp] theorem newId_poolPois (e : Eng) : (newId e).2.poolPois = e.poolPois := rfl
@[simp] theorem newId_fwRam (e : Eng) : (newId e).2.fwRam = e.fwRam := rfl
@[simp] theorem newId_docks (e : Eng) : (newId e).2.docks = e.docks := rfl
@[simp] theorem newId_agents (e : Eng) : (newId e).2.agents = e.agents := rfl
@[simp] theorem newId_heap (e : Eng) : (newId e).2.heap = e.heap := rfl
@[simp] theorem newId_spine (e : Eng) : (newId e).2.spine = e.spine := rfl
@[simp] theorem newId_deck (e : Eng) : (newId e).2.deck = e.deck := rfl
@[simp] theorem newId_rings (e : Eng) : (newId e).2.rings = e.rings := rfl
@[simp] theorem newId_jobs (e : Eng) : (newId e).2.jobs = e.jobs := rfl
@[simp] theorem newId_hostReads (e : Eng) : (newId e).2.hostReads = e.hostReads := rfl
@[simp] theorem newId_links (e : Eng) : (newId e).2.links = e.links := rfl
@[simp] theorem newId_endpointSet (e : Eng) : (newId e).2.endpointSet = e.endpointSet := rfl
@[simp] theorem newId_sems (e : Eng) : (newId e).2.sems = e.sems := rfl
@[simp] theorem newId_power (e : Eng) : (newId e).2.power = e.power := rfl
@[simp] theorem newId_crossings (e : Eng) : (newId e).2.crossings = e.crossings := rfl
@[simp] theorem newId_modules (e : Eng) : (newId e).2.modules = e.modules := rfl
@[simp] theorem newId_trainAt (e : Eng) : (newId e).2.trainAt = e.trainAt := rfl
@[simp] theorem newId_errOut (e : Eng) : (newId e).2.errOut = e.errOut := rfl
@[simp] theorem newId_clkReqAt (e : Eng) : (newId e).2.clkReqAt = e.clkReqAt := rfl
@[simp] theorem newId_wdog (e : Eng) : (newId e).2.wdog = e.wdog := rfl
@[simp] theorem newId_raised (e : Eng) : (newId e).2.raised = e.raised := rfl
@[simp] theorem newId_fresh (e : Eng) : (newId e).2.fresh = e.fresh := rfl
@[simp] theorem newId_stale (e : Eng) : (newId e).2.stale = e.stale := rfl
@[simp] theorem newId_hostPois (e : Eng) : (newId e).2.hostPois = e.hostPois := rfl
@[simp] theorem newId_out (e : Eng) : (newId e).2.out = e.out := rfl
@[simp] theorem newId_fw (e : Eng) : (newId e).2.fw = e.fw := rfl
@[simp] theorem reg_newId (e : Eng) (u v_ : Nat) :
    reg (newId e).2 u v_ = reg e u v_ := rfl
@[simp] theorem regB_newId (e : Eng) (z u v_ : Nat) :
    regB (newId e).2 z u v_ = regB e z u v_ := rfl
@[simp] theorem domBytes_newId (e : Eng) (u v_ z n_ : Nat) :
    domBytes (newId e).2 u v_ z n_ = domBytes e u v_ z n_ := rfl
@[simp] theorem memByte_newId (e : Eng) (u : Nat) :
    memByte (newId e).2 u = memByte e u := rfl

end Sys2Proof.Machine
end

