-- ==== Sys2Proof/Laws/Store.lean ====
section
/-! SUPPORT. The laws of sparse storage: a read after a write, the frame of a write, and that every operation keeps
the canonical form. -/

namespace Sys2Proof.Machine

variable {α : Type}

theorem storeGet_erase_same (d : Nat → α) (k : Nat) (m : List (Nat × α)) : storeGet d (storeErase k m) k = d k := by
  induction m with
  | nil => rfl
  | cons x t ih =>
    simp only [storeErase]
    split
    · exact ih
    · simp [storeGet, *]

theorem storeGet_erase_other (d : Nat → α) {k j : Nat} (h : j ≠ k) (m : List (Nat × α)) :
    storeGet d (storeErase k m) j = storeGet d m j := by
  induction m with
  | nil => rfl
  | cons x t ih =>
    simp only [storeErase]
    split
    · rename_i hx; subst hx; simp [storeGet, Ne.symm h, ih]
    · simp [storeGet, ih]

theorem storeGet_insert_other (d : Nat → α) {k j : Nat} (h : j ≠ k) (v : α) (m : List (Nat × α)) :
    storeGet d (storeInsert k v m) j = storeGet d m j := by
  induction m with
  | nil => simp [storeInsert, storeGet, Ne.symm h]
  | cons x t ih =>
    simp only [storeInsert]
    split
    · simp [storeGet, Ne.symm h]
    · simp [storeGet, ih]

/-- No entry of the list has key `k`. -/
def storeFree (k : Nat) (m : List (Nat × α)) : Prop := ∀ x ∈ m, x.1 ≠ k

theorem storeFree_erase (k : Nat) (m : List (Nat × α)) : storeFree k (storeErase k m) := by
  induction m with
  | nil => simp [storeFree, storeErase]
  | cons x t ih =>
    simp only [storeErase]
    split
    · exact ih
    · intro y hy
      rcases List.mem_cons.mp hy with rfl | hy
      · assumption
      · exact ih y hy

theorem storeGet_insert_same (d : Nat → α) (k : Nat) (v : α) {m : List (Nat × α)} (h : storeFree k m) :
    storeGet d (storeInsert k v m) k = v := by
  induction m with
  | nil => simp [storeInsert, storeGet]
  | cons x t ih =>
    simp only [storeInsert]
    split
    · simp [storeGet]
    · have hx : x.1 ≠ k := h x (by simp)
      simpa [storeGet, hx] using ih fun y hy => h y (by simp [hy])

variable [DecidableEq α]

/-- A read after a write of the same key gives the value written. -/
@[simp] theorem storeGet_set_same (d : Nat → α) (k : Nat) (v : α) (m : List (Nat × α)) :
    storeGet d (storeSet d k v m) k = v := by
  unfold storeSet
  split
  · rename_i h; rw [h]; exact storeGet_erase_same d k m
  · exact storeGet_insert_same d k v (storeFree_erase k m)

/-- A write leaves every other key alone. -/
theorem storeGet_set_other (d : Nat → α) {k j : Nat} (h : j ≠ k) (v : α) (m : List (Nat × α)) :
    storeGet d (storeSet d k v m) j = storeGet d m j := by
  unfold storeSet
  split
  · exact storeGet_erase_other d h m
  · rw [storeGet_insert_other d h, storeGet_erase_other d h]

/-- What a key reads as after a write. -/
theorem storeGet_set (d : Nat → α) (k j : Nat) (v : α) (m : List (Nat × α)) :
    storeGet d (storeSet d k v m) j = if j = k then v else storeGet d m j := by
  split
  · rename_i h; rw [h]; exact storeGet_set_same d k v m
  · rename_i h; exact storeGet_set_other d h v m

omit [DecidableEq α] in
/-- A cleared range reads as unlisted. -/
theorem storeGet_clear (d : Nat → α) (lo hi j : Nat) (m : List (Nat × α)) :
    storeGet d (storeClear lo hi m) j = if lo ≤ j ∧ j < hi then d j else storeGet d m j := by
  induction m with
  | nil => simp [storeClear, storeGet]
  | cons x t ih =>
    simp only [storeClear]
    split
    · rw [ih]; simp only [storeGet]; split
      · rfl
      · split
        · rename_i h1 h2 h3; rw [h3] at h1; exact absurd h1 h2
        · rfl
    · rename_i h1; simp only [storeGet]; split
      · rename_i h2; rw [if_neg (h2 ▸ h1)]
      · exact ih

/-- A run of keys set: what a key reads as. -/
theorem storeGet_setMany (d : Nat → α) (k : Nat) (vs : List α) (m : List (Nat × α)) (j : Nat) :
    storeGet d (storeSetMany d k vs m) j =
      if h : k ≤ j ∧ j - k < vs.length then vs[j - k]'h.2 else storeGet d m j := by
  induction vs generalizing k m with
  | nil => simp [storeSetMany]
  | cons v vs ih =>
    simp only [storeSetMany, ih, storeGet_set, List.length_cons]
    by_cases h1 : j = k
    · subst h1; simp
    · by_cases h2 : k + 1 ≤ j ∧ j - (k + 1) < vs.length
      · have h3 : k ≤ j ∧ j - k < vs.length + 1 := by omega
        rw [dif_pos h2, dif_pos h3]
        have h4 : j - k = (j - (k + 1)) + 1 := by omega
        simp [h4]
      · have h3 : ¬ (k ≤ j ∧ j - k < vs.length + 1) := by omega
        rw [dif_neg h2, dif_neg h3, if_neg h1]

omit [DecidableEq α] in
/-- A run of keys read. -/
theorem storeGetMany_length (d : Nat → α) (m : List (Nat × α)) (k n : Nat) : (storeGetMany d m k n).length = n := by
  induction n generalizing k with
  | zero => rfl
  | succ n ih => simp [storeGetMany, ih]

omit [DecidableEq α] in
theorem storeGetMany_get (d : Nat → α) (m : List (Nat × α)) (k n i : Nat) (h : i < n) :
    (storeGetMany d m k n)[i]'(by rw [storeGetMany_length]; exact h) = storeGet d m (k + i) := by
  induction n generalizing k i with
  | zero => omega
  | succ n ih =>
    cases i with
    | zero => simp [storeGetMany]
    | succ i =>
      simp only [storeGetMany, List.getElem_cons_succ]
      rw [ih (k + 1) i (by omega)]
      congr 1; omega

/-- A run of keys read where it was just written gives what was written. -/
theorem storeGetMany_setMany (d : Nat → α) (k : Nat) (vs : List α) (m : List (Nat × α)) :
    storeGetMany d (storeSetMany d k vs m) k vs.length = vs := by
  apply List.ext_getElem
  · rw [storeGetMany_length]
  · intro i h1 h2
    rw [storeGetMany_get _ _ _ _ _ (by rwa [storeGetMany_length] at h1), storeGet_setMany]
    rw [dif_pos (by omega)]
    congr 1; omega

/-- A run of keys that a write does not touch reads as before. -/
theorem storeGetMany_set_other (d : Nat → α) {k j n : Nat} (h : k < j ∨ j + n ≤ k) (v : α) (m : List (Nat × α)) :
    storeGetMany d (storeSet d k v m) j n = storeGetMany d m j n := by
  induction n generalizing j with
  | zero => rfl
  | succ n ih => simp only [storeGetMany]; rw [storeGet_set_other d (by omega), ih (by omega)]

/-! ### The canonical form -/

theorem storeWf_cons {d : Nat → α} {x : Nat × α} {t : List (Nat × α)} :
    storeWf d (x :: t) = true ↔ x.2 ≠ d x.1 ∧ (∀ y ∈ t, x.1 < y.1) ∧ storeWf d t = true := by
  simp [storeWf, and_assoc]

omit [DecidableEq α] in
theorem storeErase_mem {k : Nat} {m : List (Nat × α)} {x : Nat × α} (h : x ∈ storeErase k m) : x ∈ m := by
  induction m with
  | nil => simp [storeErase] at h
  | cons y t ih =>
    simp only [storeErase] at h
    split at h
    · exact List.mem_cons_of_mem _ (ih h)
    · rcases List.mem_cons.mp h with h | h
      · rw [h]; simp
      · exact List.mem_cons_of_mem _ (ih h)

theorem storeErase_wf {d : Nat → α} (k : Nat) {m : List (Nat × α)} (h : storeWf d m = true) :
    storeWf d (storeErase k m) = true := by
  induction m with
  | nil => rfl
  | cons x t ih =>
    obtain ⟨h1, h2, h3⟩ := storeWf_cons.mp h
    simp only [storeErase]
    split
    · exact ih h3
    · exact storeWf_cons.mpr ⟨h1, fun y hy => h2 y (storeErase_mem hy), ih h3⟩

omit [DecidableEq α] in
theorem storeInsert_mem {k : Nat} {v : α} {m : List (Nat × α)} {x : Nat × α} (h : x ∈ storeInsert k v m) :
    x = (k, v) ∨ x ∈ m := by
  induction m with
  | nil => simpa [storeInsert] using h
  | cons y t ih =>
    simp only [storeInsert] at h
    split at h
    · rcases List.mem_cons.mp h with h | h
      · exact .inl h
      · exact .inr h
    · rcases List.mem_cons.mp h with h | h
      · right; rw [h]; simp
      · rcases ih h with h | h
        · exact .inl h
        · exact .inr (List.mem_cons_of_mem _ h)

theorem storeInsert_wf {d : Nat → α} {k : Nat} {v : α} (hv : v ≠ d k) {m : List (Nat × α)} (hf : storeFree k m)
    (h : storeWf d m = true) : storeWf d (storeInsert k v m) = true := by
  induction m with
  | nil => simp [storeInsert, storeWf, hv]
  | cons x t ih =>
    obtain ⟨h1, h2, h3⟩ := storeWf_cons.mp h
    simp only [storeInsert]
    split
    · rename_i hk
      refine storeWf_cons.mpr ⟨hv, fun y hy => ?_, h⟩
      rcases List.mem_cons.mp hy with rfl | hy
      · exact hk
      · exact Nat.lt_trans hk (h2 y hy)
    · rename_i hk
      have hx : x.1 ≠ k := hf x (by simp)
      refine storeWf_cons.mpr ⟨h1, fun y hy => ?_, ih (fun y hy => hf y (by simp [hy])) h3⟩
      rcases storeInsert_mem hy with rfl | hy
      · exact Nat.lt_of_le_of_ne (Nat.le_of_not_lt hk) hx
      · exact h2 y hy

/-- A write keeps the canonical form. -/
theorem storeSet_wf {d : Nat → α} (k : Nat) (v : α) {m : List (Nat × α)} (h : storeWf d m = true) :
    storeWf d (storeSet d k v m) = true := by
  unfold storeSet
  split
  · exact storeErase_wf k h
  · rename_i hv; exact storeInsert_wf hv (storeFree_erase k m) (storeErase_wf k h)

theorem storeSetMany_wf {d : Nat → α} (k : Nat) (vs : List α) {m : List (Nat × α)} (h : storeWf d m = true) :
    storeWf d (storeSetMany d k vs m) = true := by
  induction vs generalizing k m with
  | nil => exact h
  | cons v vs ih => exact ih (k + 1) (storeSet_wf k v h)

omit [DecidableEq α] in
theorem storeClear_mem {lo hi : Nat} {m : List (Nat × α)} {x : Nat × α} (h : x ∈ storeClear lo hi m) : x ∈ m := by
  induction m with
  | nil => simp [storeClear] at h
  | cons y t ih =>
    simp only [storeClear] at h
    split at h
    · exact List.mem_cons_of_mem _ (ih h)
    · rcases List.mem_cons.mp h with h | h
      · rw [h]; simp
      · exact List.mem_cons_of_mem _ (ih h)

theorem storeClear_wf {d : Nat → α} (lo hi : Nat) {m : List (Nat × α)} (h : storeWf d m = true) :
    storeWf d (storeClear lo hi m) = true := by
  induction m with
  | nil => rfl
  | cons x t ih =>
    obtain ⟨h1, h2, h3⟩ := storeWf_cons.mp h
    simp only [storeClear]
    split
    · exact ih h3
    · exact storeWf_cons.mpr ⟨h1, fun y hy => h2 y (storeClear_mem hy), ih h3⟩

/-! ### Little-endian packing -/

@[simp] theorem leBytes_length (n x : Nat) : (leBytes n x).length = n := by
  induction n generalizing x with
  | zero => rfl
  | succ n ih => simp [leBytes, ih]

/-- Packing after unpacking drops what the bytes do not hold. -/
theorem leNat_leBytes (n x : Nat) : leNat (leBytes n x) = x % 2 ^ (8 * n) := by
  induction n generalizing x with
  | zero => simp [leBytes, leNat, Nat.mod_one]
  | succ n ih =>
    simp only [leBytes, leNat, ih, BitVec.toNat_ofNat]
    rw [show 8 * (n + 1) = 8 + 8 * n by omega, Nat.pow_add, Nat.mod_mul]

theorem upFrom_length (lo n : Nat) : (upFrom lo n).length = n := by
  induction n generalizing lo with
  | zero => rfl
  | succ n ih => simp [upFrom, ih]

theorem mem_upFrom {lo n x : Nat} : x ∈ upFrom lo n ↔ lo ≤ x ∧ x < lo + n := by
  induction n generalizing lo with
  | zero => simp [upFrom]
  | succ n ih => simp only [upFrom, List.mem_cons, ih]; omega

theorem mem_below {n x : Nat} : x ∈ below n ↔ x < n := by simp [below, mem_upFrom]

end Sys2Proof.Machine
end

