-- ==== Sys2Proof/Laws/Ops.lean ====
section
/-! SUPPORT. The laws of the named operations: dictionary values and DOMAIN data after a write, memory after a write
and its canonical form, and what a write of an entry through a port can do. -/

namespace Sys2Proof.Machine

/-! ### Dictionary values -/

/-- Addresses of entries are apart where their index and sub are. -/
theorem cellKey_ne {b i k b' i' k' : Nat} (h : ¬(b = b' ∧ i = i' ∧ k = k')) (hk : k < 256) (hk' : k' < 256)
    (hi : i < 65536) (hi' : i' < 65536) : cellKey b i k ≠ cellKey b' i' k' := by
  unfold cellKey; omega

@[simp] theorem reg_setReg_same (i k v : Nat) (e : Eng) : reg (setReg i k v e) i k = v := by
  simp [reg, setReg]

theorem reg_setReg_other {i k i' k' : Nat} (h : cellKey 0 i' k' ≠ cellKey 0 i k) (v : Nat) (e : Eng) :
    reg (setReg i k v e) i' k' = reg e i' k' := by
  simp [reg, setReg, storeGet_set_other _ h]

/-- A value after a write of an entry: the rewriting form, for addresses given as numbers. -/
theorem reg_setReg (i k v : Nat) (e : Eng) (i' k' : Nat) :
    reg (setReg i k v e) i' k' = if cellKey 0 i' k' = cellKey 0 i k then v else reg e i' k' := by
  simp [reg, setReg, storeGet_set]

theorem regB_setReg (i k v : Nat) (e : Eng) (b i' k' : Nat) :
    regB (setReg i k v e) b i' k' = if cellKey b i' k' = cellKey 0 i k then v else regB e b i' k' := by
  simp [regB, setReg, storeGet_set]

theorem regB_setRegB (b i k v : Nat) (e : Eng) (b' i' k' : Nat) :
    regB (setRegB b i k v e) b' i' k' = if cellKey b' i' k' = cellKey b i k then v else regB e b' i' k' := by
  simp [regB, setRegB, storeGet_set]

@[simp] theorem regB_setRegB_same (b i k v : Nat) (e : Eng) : regB (setRegB b i k v e) b i k = v := by
  simp [regB, setRegB]

theorem reg_setRegB (b i k v : Nat) (e : Eng) (i' k' : Nat) :
    reg (setRegB b i k v e) i' k' = if cellKey 0 i' k' = cellKey b i k then v else reg e i' k' := by
  simp [reg, setRegB, storeGet_set]

theorem setRegB_zero (i k v : Nat) (e : Eng) : setRegB 0 i k v e = setReg i k v e := rfl

theorem regB_zero (e : Eng) (i k : Nat) : regB e 0 i k = reg e i k := rfl

/-- The width in bits at which an entry wraps (R403). -/
def wrapWidth (i k : Nat) : Nat := 8 * ((rowOf i k).map (·.ty.width)).getD 8

theorem reg_bumpBy_same (n i k : Nat) (e : Eng) :
    reg (bumpBy n i k e) i k = (reg e i k + n) % 2 ^ wrapWidth i k := by
  simp [bumpBy, wrapWidth]

theorem reg_bumpBy_other {i k i' k' : Nat} (h : cellKey 0 i' k' ≠ cellKey 0 i k) (n : Nat) (e : Eng) :
    reg (bumpBy n i k e) i' k' = reg e i' k' := reg_setReg_other h _ _

theorem reg_bump_same (i k : Nat) (e : Eng) : reg (bump i k e) i k = (reg e i k + 1) % 2 ^ wrapWidth i k :=
  reg_bumpBy_same 1 i k e

theorem reg_bump_other {i k i' k' : Nat} (h : cellKey 0 i' k' ≠ cellKey 0 i k) (e : Eng) :
    reg (bump i k e) i' k' = reg e i' k' := reg_setReg_other h _ _

/-! ### DOMAIN data -/

theorem domBytes_length (e : Eng) (i k o n : Nat) : (domBytes e i k o n).length = n := storeGetMany_length _ _ _ _

/-- DOMAIN data read where it was just written. -/
theorem domBytes_setDomBytes_same (i k o : Nat) (bs : List Byte) (e : Eng) :
    domBytes (setDomBytes i k o bs e) i k o bs.length = bs := by
  simp only [domBytes, setDomBytes]; exact storeGetMany_setMany _ _ _ _

/-- A number of `n` bytes read where it was just written. -/
theorem domNat_setDomNat_same (i k o n v : Nat) (e : Eng) :
    domNat (setDomNat i k o n v e) i k o n = v % 2 ^ (8 * n) := by
  have h := domBytes_setDomBytes_same i k o (leBytes n v) e
  rw [leBytes_length] at h
  simp only [domNat, setDomNat, h, leNat_leBytes]

/-- One byte of DOMAIN data after a write: the written one inside the written run, else the one before. -/
theorem dom_setDomBytes (i k o : Nat) (bs : List Byte) (e : Eng) (j : Nat) :
    storeGet domDefault (setDomBytes i k o bs e).dom j =
      if h : domKey i k o ≤ j ∧ j - domKey i k o < bs.length then bs[j - domKey i k o]'h.2
      else storeGet domDefault e.dom j := by
  simp only [setDomBytes]; exact storeGet_setMany _ _ _ _ _

/-! ### Memory -/

theorem memPut_get_same (d : Nat → Byte) (a : Nat) (b : Byte) (m : List Host.Cell) :
    storeGet d (memPut a b m) a = b := storeGet_insert_same d a b (storeFree_erase a m)

theorem memPut_get_other (d : Nat → Byte) {a a' : Nat} (h : a' ≠ a) (b : Byte) (m : List Host.Cell) :
    storeGet d (memPut a b m) a' = storeGet d m a' := by
  unfold memPut; rw [storeGet_insert_other d h, storeGet_erase_other d h]

@[simp] theorem memByte_setMemByte_same (a : Nat) (b : Byte) (e : Eng) : memByte (setMemByte a b e) a = b :=
  memPut_get_same _ a b e.mem

theorem memByte_setMemByte_other {a a' : Nat} (h : a' ≠ a) (b : Byte) (e : Eng) :
    memByte (setMemByte a b e) a' = memByte e a' := memPut_get_other _ h b e.mem

theorem Memory.wf_cons {x : Host.Cell} {t : List Host.Cell} :
    Memory.wf (x :: t) = true ↔ (∀ y ∈ t, x.1 < y.1) ∧ Memory.wf t = true := by
  obtain ⟨a, b⟩ := x
  simp [Memory.wf]

theorem memErase_wf (a : Nat) {m : List Host.Cell} (h : Memory.wf m = true) : Memory.wf (storeErase a m) = true := by
  induction m with
  | nil => rfl
  | cons x t ih =>
    obtain ⟨h1, h2⟩ := Memory.wf_cons.mp h
    simp only [storeErase]
    split
    · exact ih h2
    · exact Memory.wf_cons.mpr ⟨fun y hy => h1 y (storeErase_mem hy), ih h2⟩

theorem memInsert_wf {a : Nat} {b : Byte} {m : List Host.Cell} (hf : storeFree a m) (h : Memory.wf m = true) :
    Memory.wf (storeInsert a b m) = true := by
  induction m with
  | nil => simp [storeInsert, Memory.wf]
  | cons x t ih =>
    obtain ⟨h1, h2⟩ := Memory.wf_cons.mp h
    simp only [storeInsert]
    split
    · rename_i hk
      refine Memory.wf_cons.mpr ⟨fun y hy => ?_, h⟩
      rcases List.mem_cons.mp hy with rfl | hy
      · exact hk
      · exact Nat.lt_trans hk (h1 y hy)
    · rename_i hk
      have hx : x.1 ≠ a := hf x (by simp)
      refine Memory.wf_cons.mpr ⟨fun y hy => ?_, ih (fun y hy => hf y (by simp [hy])) h2⟩
      rcases storeInsert_mem hy with rfl | hy
      · exact Nat.lt_of_le_of_ne (Nat.le_of_not_lt hk) hx
      · exact h1 y hy

/-- A write of a byte keeps memory's canonical form. -/
theorem memPut_wf (a : Nat) (b : Byte) {m : List Host.Cell} (h : Memory.wf m = true) : Memory.wf (memPut a b m) = true :=
  memInsert_wf (storeFree_erase a m) (memErase_wf a h)

/-- A cleared range keeps memory's canonical form. -/
theorem memClear_wf (lo hi : Nat) {m : List Host.Cell} (h : Memory.wf m = true) : Memory.wf (storeClear lo hi m) = true := by
  induction m with
  | nil => rfl
  | cons x t ih =>
    obtain ⟨h1, h2⟩ := Memory.wf_cons.mp h
    simp only [storeClear]
    split
    · exact ih h2
    · exact Memory.wf_cons.mpr ⟨fun y hy => h1 y (storeClear_mem hy), ih h2⟩

theorem memPutMany_wf (xs : List (Nat × Byte)) (a : Nat) {m : List Host.Cell} (h : Memory.wf m = true) :
    Memory.wf (xs.foldl (fun m x => memPut (a + x.1) x.2 m) m) = true := by
  induction xs generalizing m with
  | nil => exact h
  | cons x xs ih => exact ih (memPut_wf _ _ h)

/-- Every operation on memory keeps its canonical form. -/
theorem setMemByte_wf (a : Nat) (b : Byte) {e : Eng} (h : Memory.wf e.mem = true) :
    Memory.wf (setMemByte a b e).mem = true := memPut_wf a b h

theorem setMemBytes_wf (a : Nat) (bs : List Byte) {e : Eng} (h : Memory.wf e.mem = true) :
    Memory.wf (setMemBytes a bs e).mem = true := memPutMany_wf _ a h

theorem loseMemory_wf (part lo hi : Nat) {e : Eng} (h : Memory.wf e.mem = true) :
    Memory.wf (loseMemory part lo hi e).mem = true := memClear_wf lo hi h

theorem setFwBytes_wf (a : Nat) (bs : List Byte) {e : Eng} (h : Memory.wf e.fwRam = true) :
    Memory.wf (setFwBytes a bs e).fwRam = true := memPutMany_wf _ a h

theorem setReg_wf (i k v : Nat) {e : Eng} (h : storeWf regDefault e.regs = true) :
    storeWf regDefault (setReg i k v e).regs = true := storeSet_wf _ _ h

theorem setRegB_wf (b i k v : Nat) {e : Eng} (h : storeWf regDefault e.regs = true) :
    storeWf regDefault (setRegB b i k v e).regs = true := storeSet_wf _ _ h

theorem setDomBytes_wf (i k o : Nat) (bs : List Byte) {e : Eng} (h : storeWf domDefault e.dom = true) :
    storeWf domDefault (setDomBytes i k o bs e).dom = true := storeSetMany_wf _ _ h

/-- Bytes written from an address: what a byte of memory reads as afterwards. -/
theorem mem_putMany (d : Nat → Byte) (bs : List Byte) (a lo : Nat) (m : List Host.Cell) (j : Nat) :
    storeGet d (((upFrom lo bs.length).zip bs).foldl (fun m x => memPut (a + x.1) x.2 m) m) j =
      if h : a + lo ≤ j ∧ j - (a + lo) < bs.length then bs[j - (a + lo)]'h.2 else storeGet d m j := by
  induction bs generalizing lo m with
  | nil => simp [upFrom]
  | cons b bs ih =>
    simp only [List.length_cons, upFrom, List.zip_cons_cons, List.foldl_cons, ih]
    by_cases h1 : j = a + lo
    · subst h1; simp [memPut_get_same]
    · by_cases h2 : a + (lo + 1) ≤ j ∧ j - (a + (lo + 1)) < bs.length
      · have h3 : a + lo ≤ j ∧ j - (a + lo) < bs.length + 1 := by omega
        rw [dif_pos h2, dif_pos h3]
        have h4 : j - (a + lo) = (j - (a + (lo + 1))) + 1 := by omega
        simp [h4]
      · have h3 : ¬(a + lo ≤ j ∧ j - (a + lo) < bs.length + 1) := by omega
        rw [dif_neg h2, dif_neg h3, memPut_get_other d h1]

/-- A byte of memory after a write of bytes: the written one inside the written run, else the one before. -/
theorem memByte_setMemBytes (a : Nat) (bs : List Byte) (e : Eng) (j : Nat) :
    memByte (setMemBytes a bs e) j =
      if h : a ≤ j ∧ j - a < bs.length then bs[j - a]'h.2 else memByte e j := by
  exact mem_putMany (undefMem e) bs a 0 e.mem j

/-! ### Parts -/

@[simp] theorem dockOf_onDock_same (s : Nat) (f : Dock → Dock) (e : Eng) : dockOf (onDock s f e) s = f (dockOf e s) := by
  simp [dockOf, onDock]

theorem dockOf_onDock_other {s t : Nat} (h : t ≠ s) (f : Dock → Dock) (e : Eng) : dockOf (onDock s f e) t = dockOf e t := by
  simp [dockOf, onDock, storeGet_set_other _ h]

@[simp] theorem agentOf_onAgent_same (n : Nat) (f : Agent → Agent) (e : Eng) :
    agentOf (onAgent n f e) n = f (agentOf e n) := by
  simp [agentOf, onAgent]

theorem agentOf_onAgent_other {n m : Nat} (h : m ≠ n) (f : Agent → Agent) (e : Eng) :
    agentOf (onAgent n f e) m = agentOf e m := by
  simp [agentOf, onAgent, storeGet_set_other _ h]

@[simp] theorem ringOf_onRing_same (r : Nat) (f : Ring → Ring) (e : Eng) : ringOf (onRing r f e) r = f (ringOf e r) := by
  simp [ringOf, onRing]

theorem ringOf_onRing_other {r q : Nat} (h : q ≠ r) (f : Ring → Ring) (e : Eng) : ringOf (onRing r f e) q = ringOf e q := by
  simp [ringOf, onRing, storeGet_set_other _ h]

@[simp] theorem linkOf_onLink_same (p : Nat) (f : Link → Link) (e : Eng) : linkOf (onLink p f e) p = f (linkOf e p) := by
  simp [linkOf, onLink]

theorem linkOf_onLink_other {p q : Nat} (h : q ≠ p) (f : Link → Link) (e : Eng) : linkOf (onLink p f e) q = linkOf e q := by
  simp [linkOf, onLink, storeGet_set_other _ h]

/-! ### The power port -/

/-- With no message waiting, a message to the power chain leaves at once (R395). -/
theorem sendPwr_idle {e : Eng} (h : pwrWaiting e = []) (w : Word32) : (sendPwr w e).out = .pwr w :: e.out := by
  simp [sendPwr, h, dropPwr]

/-! ### Writes through a port -/

@[simp] theorem endAccess_ok (p : Port) (i k : Nat) (e : Eng) :
    endAccess p i k .ok e = emit (.access p i k 0) e := by
  simp only [endAccess, recordHost, if_true, ite_self]; rfl

/-- A write that reaches its entry has the entry's effect, on the value with its reserved bits dropped. -/
theorem writeEntry_reached {p : Port} {i k v : Nat} {eff : Effect} {s : State} {r : Row} (hr : rowOf i k = some r)
    (hw : (rightOf s p i r).writes = true) (hh : heldBack s.eng p i k = false) :
    writeEntry p i k v eff s = eff (maskValue r v) s := by
  simp [writeEntry, hr, hw, hh]

/-- What a write of an entry can do (R420): refused, it changes nothing; let through, it has the entry's effect. -/
theorem writeEntry_cases (p : Port) (i k v : Nat) (eff : Effect) (s : State) :
    (∃ st, st ≠ .ok ∧ writeEntry p i k v eff s = (st, s)) ∨
      ∃ r, rowOf i k = some r ∧ writeEntry p i k v eff s = eff (maskValue r v) s := by
  unfold writeEntry
  split
  · exact .inl ⟨_, by simp, rfl⟩
  · rename_i r hr
    split
    · exact .inl ⟨_, by simp, rfl⟩
    · split
      · exact .inl ⟨_, by simp, rfl⟩
      · exact .inr ⟨r, hr, rfl⟩

/-- A port's write at a moment when the port reaches the dictionary. -/
theorem portWrite_reached {p : Port} {i k v : Nat} {eff : Effect} {s : State}
    (h : reach s.eng p = .full ∨ reach s.eng p = .limited) :
    portWrite p i k v eff s =
      onEng (endAccess p i k (writeEntry p i k v eff s).1) (writeEntry p i k v eff s).2 := by
  rcases h with h | h <;> simp [portWrite, h, onEng]

/-- What a port's write can do beside its entry's effect: nothing but records and answers. -/
theorem portWrite_cases (p : Port) (i k v : Nat) (eff : Effect) (s : State) :
    (∃ f : Eng → Eng, portWrite p i k v eff s = onEng f s) ∨
      ∃ r, rowOf i k = some r ∧ portWrite p i k v eff s =
        onEng (endAccess p i k (eff (maskValue r v) s).1) (eff (maskValue r v) s).2 := by
  unfold portWrite
  split
  · exact .inl ⟨id, rfl⟩
  · exact .inl ⟨_, rfl⟩
  · exact .inl ⟨_, rfl⟩
  · rcases writeEntry_cases p i k v eff s with ⟨st, -, h⟩ | ⟨r, hr, h⟩
    · exact .inl ⟨endAccess p i k st, by rw [h]; rfl⟩
    · exact .inr ⟨r, hr, by rw [h]; rfl⟩

end Sys2Proof.Machine
end

