-- ==== Sys2Proof/Laws/Effects.lean ====
section
/-! SUPPORT. What a command does outside the engine: nothing, but for DBG_LOCK, the snapshots and the stagings, and the
few commands of the ports themselves. One law for each effect of a write, and one for each command. -/

namespace Sys2Proof.Machine

/-- The queue of commands stays, and so do the queues of the ports; DBG_LOCK is not cleared. -/
structure Mild (s t : State) : Prop where
  pending : t.pending = s.pending
  rx : t.port.mgtRx = s.port.mgtRx
  frames : t.port.faultFrames = s.port.faultFrames
  nseq : t.port.nseq = s.port.nseq
  lock : s.port.dbgLock = true → t.port.dbgLock = true

@[simp] theorem Mild.same (s : State) : Mild s s := ⟨rfl, rfl, rfl, rfl, id⟩

theorem Mild.trans {s t u : State} (h : Mild s t) (g : Mild t u) : Mild s u :=
  ⟨g.pending.trans h.pending, g.rx.trans h.rx, g.frames.trans h.frames, g.nseq.trans h.nseq, g.lock ∘ h.lock⟩

@[simp] theorem Mild.eng (s : State) (f : Eng → Eng) : Mild s (onEng f s) := ⟨rfl, rfl, rfl, rfl, id⟩

@[simp] theorem Mild.withEng (s : State) (e : Eng) : Mild s { s with eng := e } := ⟨rfl, rfl, rfl, rfl, id⟩

/-- A change of the engine alone. -/
theorem Mild.ofEng {s t : State} (hp : t.port = s.port) (hq : t.pending = s.pending) : Mild s t := by
  constructor <;> simp [hp, hq]

theorem Mild.onEng {s t : State} (h : Mild s t) (f : Eng → Eng) : Mild s (onEng f t) := h.trans (Mild.eng t f)

theorem Mild.after {s t : State} {f : Eng → Eng} (h : Mild (Machine.onEng f s) t) : Mild s t := (Mild.eng s f).trans h

theorem Mild.ite2 {s : State} {α : Type} {c : Prop} [Decidable c] {a b : α × State} (ha : Mild s a.2) (hb : Mild s b.2) :
    Mild s (if c then a else b).2 := by split <;> assumption

theorem Mild.ite {s : State} {c : Prop} [Decidable c] {a b : State} (ha : Mild s a) (hb : Mild s b) :
    Mild s (if c then a else b) := by split <;> assumption

/-- An effect is mild in every state and for every value. -/
def MildEff (eff : Effect) : Prop := ∀ v s, Mild s (eff v s).2

theorem plainCommit_mild (p : Port) (i k : Nat) : MildEff (plainCommit p i k) := by
  intro v s; unfold plainCommit; repeat' split
  all_goals simp

theorem checked_mild {i k : Nat} {f : Nat → State → State} (h : ∀ v s, Mild s (f v s)) : MildEff (checked i k f) := by
  intro v s; unfold checked; repeat' split
  all_goals simp [h]

theorem writeEntry_mild {eff : Effect} (h : MildEff eff) (p : Port) (i k v : Nat) (s : State) :
    Mild s (writeEntry p i k v eff s).2 := by
  rcases writeEntry_cases p i k v eff s with ⟨st, -, hw⟩ | ⟨r, -, hw⟩ <;> rw [hw]
  · exact Mild.same s
  · exact h _ _

theorem portWrite_mild {eff : Effect} (h : MildEff eff) (p : Port) (i k v : Nat) (s : State) :
    Mild s (portWrite p i k v eff s) := by
  rcases portWrite_cases p i k v eff s with ⟨f, hw⟩ | ⟨r, -, hw⟩ <;> rw [hw]
  · exact Mild.eng s f
  · exact (h _ _).onEng _

/-! ### One law for each effect -/

set_option linter.unusedTactic false
set_option linter.unreachableTactic false

theorem acceptBlock_mild (c d : Nat) (cold : Bool) (s : State) : Mild s (acceptBlock c d cold s) :=
  ⟨rfl, rfl, rfl, rfl, id⟩

theorem resetPart_mild (c n d : Nat) (s : State) : Mild s (resetPart c n d s) := by
  unfold resetPart; dsimp only; split
  · exact Mild.eng _ _
  · exact Mild.same s

theorem enableRing_mild (n : Nat) (s : State) : Mild s (enableRing n s).2 := by
  unfold enableRing; try dsimp only
  repeat' first
    | with_reducible exact Mild.eng _ _
    | with_reducible exact Mild.same _
    | with_reducible exact Mild.withEng _ _
    | with_reducible apply Mild.ite2
    | with_reducible apply Mild.ite
    | split

theorem effReserveCounts_mild : MildEff (effReserveCounts) := by
  intro v s; unfold effReserveCounts; try dsimp only
  repeat' first
    | with_reducible exact Mild.eng _ _
    | with_reducible exact Mild.same _
    | with_reducible exact Mild.withEng _ _
    | with_reducible apply Mild.ite2
    | with_reducible apply Mild.ite
    | split

theorem effSwapCtrl_mild : MildEff (effSwapCtrl) := by
  intro v s; unfold effSwapCtrl; try dsimp only
  repeat' first
    | with_reducible exact Mild.eng _ _
    | with_reducible exact Mild.same _
    | with_reducible exact Mild.withEng _ _
    | with_reducible apply Mild.ite2
    | with_reducible apply Mild.ite
    | split

theorem effLinkPost_mild (n : Nat) : MildEff (effLinkPost n) := by
  intro v s; unfold effLinkPost; try dsimp only
  repeat' first
    | with_reducible exact Mild.eng _ _
    | with_reducible exact Mild.same _
    | with_reducible exact Mild.withEng _ _
    | with_reducible apply Mild.ite2
    | with_reducible apply Mild.ite
    | split

theorem effQueue_mild (n : Nat) (m : Nat) : MildEff (effQueue n m) := by
  intro v s; unfold effQueue; try dsimp only
  repeat' first
    | with_reducible exact Mild.eng _ _
    | with_reducible exact Mild.same _
    | with_reducible exact Mild.withEng _ _
    | with_reducible apply Mild.ite2
    | with_reducible apply Mild.ite
    | split

theorem effStreamCommit_mild (n : Nat) : MildEff (effStreamCommit n) := by
  intro v s; unfold effStreamCommit; try dsimp only
  repeat' first
    | with_reducible exact Mild.eng _ _
    | with_reducible exact Mild.same _
    | with_reducible exact Mild.withEng _ _
    | with_reducible apply Mild.ite2
    | with_reducible apply Mild.ite
    | split

theorem effSlotCtrl_mild (n : Nat) (m : Nat) : MildEff (effSlotCtrl n m) := by
  intro v s; unfold effSlotCtrl; try dsimp only
  repeat' first
    | with_reducible exact Mild.eng _ _
    | with_reducible exact Mild.same _
    | with_reducible exact Mild.withEng _ _
    | with_reducible apply Mild.ite2
    | with_reducible apply Mild.ite
    | split

theorem effFaultClear_mild : MildEff (effFaultClear) := by
  intro v s; unfold effFaultClear; try dsimp only
  repeat' first
    | with_reducible exact Mild.eng _ _
    | with_reducible exact Mild.same _
    | with_reducible exact Mild.withEng _ _
    | with_reducible apply Mild.ite2
    | with_reducible apply Mild.ite
    | split

theorem effFaultAck_mild : MildEff (effFaultAck) := by
  intro v s; unfold effFaultAck; try dsimp only
  repeat' first
    | with_reducible exact Mild.eng _ _
    | with_reducible exact Mild.same _
    | with_reducible exact Mild.withEng _ _
    | with_reducible apply Mild.ite2
    | with_reducible apply Mild.ite
    | split

theorem effErrOutRelease_mild : MildEff (effErrOutRelease) := by
  intro v s; unfold effErrOutRelease; try dsimp only
  repeat' first
    | with_reducible exact Mild.eng _ _
    | with_reducible exact Mild.same _
    | with_reducible exact Mild.withEng _ _
    | with_reducible apply Mild.ite2
    | with_reducible apply Mild.ite
    | split

theorem effErrOutMode_mild : MildEff (effErrOutMode) := by
  intro v s; exact checked_mild (fun _ _ => Mild.eng _ _) v s

theorem effH2fCtrl_mild : MildEff (effH2fCtrl) := by
  intro v s; unfold effH2fCtrl; try dsimp only
  repeat' first
    | with_reducible exact Mild.eng _ _
    | with_reducible exact Mild.same _
    | with_reducible exact Mild.withEng _ _
    | with_reducible apply Mild.ite2
    | with_reducible apply Mild.ite
    | split

theorem effF2hCtrl_mild (p : Port) : MildEff (effF2hCtrl p) := by
  intro v s; unfold effF2hCtrl; try dsimp only
  repeat' first
    | with_reducible exact Mild.eng _ _
    | with_reducible exact Mild.same _
    | with_reducible exact Mild.withEng _ _
    | with_reducible apply Mild.ite2
    | with_reducible apply Mild.ite
    | split

theorem effCoreRun_mild : MildEff (effCoreRun) := by
  intro v s; unfold effCoreRun; try dsimp only
  repeat' first
    | with_reducible exact Mild.eng _ _
    | with_reducible exact Mild.same _
    | with_reducible exact Mild.withEng _ _
    | with_reducible apply Mild.ite2
    | with_reducible apply Mild.ite
    | split

theorem effWdogKick_mild (n : Nat) : MildEff (effWdogKick n) := by
  intro v s; unfold effWdogKick; try dsimp only
  repeat' first
    | with_reducible exact Mild.eng _ _
    | with_reducible exact Mild.same _
    | with_reducible exact Mild.withEng _ _
    | with_reducible apply Mild.ite2
    | with_reducible apply Mild.ite
    | split

theorem effCoreState_mild (n : Nat) : MildEff (effCoreState n) := by
  intro v s; unfold effCoreState; try dsimp only
  repeat' first
    | with_reducible exact Mild.eng _ _
    | with_reducible exact Mild.same _
    | with_reducible exact Mild.withEng _ _
    | with_reducible apply Mild.ite2
    | with_reducible apply Mild.ite
    | split

theorem effHeartbeat_mild : MildEff (effHeartbeat) := by
  intro v s; unfold effHeartbeat; try dsimp only
  repeat' first
    | with_reducible exact Mild.eng _ _
    | with_reducible exact Mild.same _
    | with_reducible exact Mild.withEng _ _
    | with_reducible apply Mild.ite2
    | with_reducible apply Mild.ite
    | split

theorem effAllocReq_mild (p : Port) : MildEff (effAllocReq p) := by
  intro v s; unfold effAllocReq; try dsimp only
  repeat' first
    | with_reducible exact Mild.eng _ _
    | with_reducible exact Mild.same _
    | with_reducible exact Mild.withEng _ _
    | with_reducible apply Mild.ite2
    | with_reducible apply Mild.ite
    | split

theorem effHeapStart_mild : MildEff (effHeapStart) := by
  intro v s; unfold effHeapStart; try dsimp only
  repeat' first
    | with_reducible exact Mild.eng _ _
    | with_reducible exact Mild.same _
    | with_reducible exact Mild.withEng _ _
    | with_reducible apply Mild.ite2
    | with_reducible apply Mild.ite
    | split
  exact checked_mild (fun _ _ => Mild.eng _ _) v s

theorem effLoadPlan_mild : MildEff (effLoadPlan) := by
  intro v s; unfold effLoadPlan; try dsimp only
  repeat' first
    | with_reducible exact Mild.eng _ _
    | with_reducible exact Mild.same _
    | with_reducible exact Mild.withEng _ _
    | with_reducible apply Mild.ite2
    | with_reducible apply Mild.ite
    | split

theorem effMyEndpoint_mild : MildEff (effMyEndpoint) := by
  intro v s; unfold effMyEndpoint; try dsimp only
  repeat' first
    | with_reducible exact Mild.eng _ _
    | with_reducible exact Mild.same _
    | with_reducible exact Mild.withEng _ _
    | with_reducible apply Mild.ite2
    | with_reducible apply Mild.ite
    | split
  exact checked_mild (fun _ _ => Mild.eng _ _) v s

theorem effLinkEnable_mild : MildEff (effLinkEnable) := by
  intro v s; unfold effLinkEnable; try dsimp only
  repeat' first
    | with_reducible exact Mild.eng _ _
    | with_reducible exact Mild.same _
    | with_reducible exact Mild.withEng _ _
    | with_reducible apply Mild.ite2
    | with_reducible apply Mild.ite
    | split
  exact checked_mild (fun _ _ => Mild.eng _ _) v s

theorem effChannelCtrl_mild (n : Nat) : MildEff (effChannelCtrl n) := by
  intro v s; unfold effChannelCtrl; try dsimp only
  repeat' first
    | with_reducible exact Mild.eng _ _
    | with_reducible exact Mild.same _
    | with_reducible exact Mild.withEng _ _
    | with_reducible apply Mild.ite2
    | with_reducible apply Mild.ite
    | split

theorem effQueueCtrl_mild (n : Nat) : MildEff (effQueueCtrl n) := by
  intro v s; unfold effQueueCtrl; try dsimp only
  repeat' first
    | with_reducible exact Mild.eng _ _
    | with_reducible exact Mild.same _
    | with_reducible exact Mild.withEng _ _
    | with_reducible apply Mild.ite2
    | with_reducible apply Mild.ite
    | split

theorem watchdogResets_mild (s : State) : Mild s (watchdogResets s) := by
  unfold watchdogResets; split
  · exact Mild.same s
  · dsimp only; split
    · exact Mild.same s
    · exact (acceptBlock_mild _ _ _ _).after

theorem effSysWdogKick_mild : MildEff (effSysWdogKick) := by
  intro v s; unfold effSysWdogKick; dsimp only; split
  · exact watchdogResets_mild s
  · refine Mild.ite ?_ (Mild.same s)
    exact Mild.eng s _

theorem effResetCmd_mild (p : Port) : MildEff (effResetCmd p) := by
  intro v s; unfold effResetCmd; dsimp only
  repeat' first
    | with_reducible exact Mild.eng _ _
    | with_reducible exact Mild.same _
    | with_reducible exact Mild.withEng _ _
    | with_reducible apply Mild.ite2
    | with_reducible apply Mild.ite
    | split
  · exact acceptBlock_mild _ _ _ s
  · exact (acceptBlock_mild _ _ _ _).after
  all_goals exact resetPart_mild _ _ _ s

theorem effRingConfig_mild (n : Nat) (m : Nat) (f : Nat → Bool) : MildEff (effRingConfig n m f) := by
  intro v s; unfold effRingConfig; try dsimp only
  repeat' first
    | with_reducible exact Mild.eng _ _
    | with_reducible exact Mild.same _
    | with_reducible exact Mild.withEng _ _
    | with_reducible apply Mild.ite2
    | with_reducible apply Mild.ite
    | split
  exact checked_mild (fun _ _ => Mild.eng _ _) v s

theorem effRingEntry_mild (n : Nat) (m : Nat) : MildEff (effRingEntry n m) := by
  intro v s; unfold effRingEntry; repeat' split
  all_goals exact effRingConfig_mild _ _ _ v s

theorem effRingCtrl_mild (n : Nat) : MildEff (effRingCtrl n) := by
  intro v s; unfold effRingCtrl; try dsimp only
  repeat' first
    | with_reducible exact Mild.eng _ _
    | with_reducible exact Mild.same _
    | with_reducible exact Mild.withEng _ _
    | with_reducible apply Mild.ite2
    | with_reducible apply Mild.ite
    | split
  exact enableRing_mild _ s

theorem effDoorbell_mild (n : Nat) : MildEff (effDoorbell n) := by
  intro v s; unfold effDoorbell; try dsimp only
  repeat' first
    | with_reducible exact Mild.eng _ _
    | with_reducible exact Mild.same _
    | with_reducible exact Mild.withEng _ _
    | with_reducible apply Mild.ite2
    | with_reducible apply Mild.ite
    | split

theorem effIrqMark_mild (n : Nat) : MildEff (effIrqMark n) := by
  intro v s; unfold effIrqMark; try dsimp only
  repeat' first
    | with_reducible exact Mild.eng _ _
    | with_reducible exact Mild.same _
    | with_reducible exact Mild.withEng _ _
    | with_reducible apply Mild.ite2
    | with_reducible apply Mild.ite
    | split

theorem effSemCmd_mild : MildEff (effSemCmd) := by
  intro v s; unfold effSemCmd; try dsimp only
  repeat' first
    | with_reducible exact Mild.eng _ _
    | with_reducible exact Mild.same _
    | with_reducible exact Mild.withEng _ _
    | with_reducible apply Mild.ite2
    | with_reducible apply Mild.ite
    | split

theorem effDbgLock_mild : MildEff (effDbgLock) := by
  intro v s; unfold effDbgLock; dsimp only; split
  · exact ⟨rfl, rfl, rfl, rfl, fun _ => rfl⟩
  · exact Mild.same s

theorem writeChannels_mild (n off : Nat) (bs : List Byte) (s : State) : Mild s (writeChannels n off bs s).2 := by
  unfold writeChannels; try dsimp only
  repeat' first
    | with_reducible exact Mild.eng _ _
    | with_reducible exact Mild.same _
    | with_reducible exact Mild.withEng _ _
    | with_reducible apply Mild.ite2
    | with_reducible apply Mild.ite
    | split

theorem writeQueues_mild (n off : Nat) (bs : List Byte) (s : State) : Mild s (writeQueues n off bs s).2 := by
  unfold writeQueues; try dsimp only
  repeat' first
    | with_reducible exact Mild.eng _ _
    | with_reducible exact Mild.same _
    | with_reducible exact Mild.withEng _ _
    | with_reducible apply Mild.ite2
    | with_reducible apply Mild.ite
    | split

theorem writeGroups_mild (off : Nat) (bs : List Byte) (s : State) : Mild s (writeGroups off bs s).2 := by
  unfold writeGroups; try dsimp only
  repeat' first
    | with_reducible exact Mild.eng _ _
    | with_reducible exact Mild.same _
    | with_reducible exact Mild.withEng _ _
    | with_reducible apply Mild.ite2
    | with_reducible apply Mild.ite
    | split

theorem writeBarriers_mild (off : Nat) (bs : List Byte) (s : State) : Mild s (writeBarriers off bs s).2 := by
  unfold writeBarriers; try dsimp only
  repeat' first
    | with_reducible exact Mild.eng _ _
    | with_reducible exact Mild.same _
    | with_reducible exact Mild.withEng _ _
    | with_reducible apply Mild.ite2
    | with_reducible apply Mild.ite
    | split

theorem writeSemMap_mild (off : Nat) (bs : List Byte) (s : State) : Mild s (writeSemMap off bs s).2 := by
  unfold writeSemMap; try dsimp only
  repeat' first
    | with_reducible exact Mild.eng _ _
    | with_reducible exact Mild.same _
    | with_reducible exact Mild.withEng _ _
    | with_reducible apply Mild.ite2
    | with_reducible apply Mild.ite
    | split

theorem writeSemValues_mild (off : Nat) (bs : List Byte) (s : State) : Mild s (writeSemValues off bs s).2 := by
  unfold writeSemValues; try dsimp only
  repeat' first
    | with_reducible exact Mild.eng _ _
    | with_reducible exact Mild.same _
    | with_reducible exact Mild.withEng _ _
    | with_reducible apply Mild.ite2
    | with_reducible apply Mild.ite
    | split

theorem writeCompartment_mild (p : Port) (n off : Nat) (bs : List Byte) (s : State) : Mild s (writeCompartment p n off bs s).2 := by
  unfold writeCompartment; try dsimp only
  repeat' first
    | with_reducible exact Mild.eng _ _
    | with_reducible exact Mild.same _
    | with_reducible exact Mild.withEng _ _
    | with_reducible apply Mild.ite2
    | with_reducible apply Mild.ite
    | split

theorem writeHand_mild (h i k off : Nat) (bs : List Byte) (s : State) : Mild s (writeHand h i k off bs s).2 := by
  unfold writeHand; try dsimp only
  repeat' first
    | with_reducible exact Mild.eng _ _
    | with_reducible exact Mild.same _
    | with_reducible exact Mild.withEng _ _
    | with_reducible apply Mild.ite2
    | with_reducible apply Mild.ite
    | split

theorem writeIncoming_mild (off : Nat) (bs : List Byte) (s : State) : Mild s (writeIncoming off bs s).2 := by
  unfold writeIncoming; try dsimp only
  repeat' first
    | with_reducible exact Mild.eng _ _
    | with_reducible exact Mild.same _
    | with_reducible exact Mild.withEng _ _
    | with_reducible apply Mild.ite2
    | with_reducible apply Mild.ite
    | split

theorem domainEffect_mild (p : Port) (i k off : Nat) (bs : List Byte) (s : State) :
    Mild s (domainEffect p i k off bs s).2 := by
  unfold domainEffect; try dsimp only
  repeat' first
    | with_reducible exact Mild.eng _ _
    | with_reducible exact Mild.same _
    | with_reducible apply Mild.ite2
    | exact writeHand_mild _ _ _ _ _ _
    | exact writeCompartment_mild _ _ _ _ _
    | exact (Mild.eng _ _).onEng _
    | exact writeChannels_mild _ _ _ _
    | exact writeQueues_mild _ _ _ _
    | exact writeGroups_mild _ _ _
    | exact writeSemValues_mild _ _ _
    | exact writeSemMap_mild _ _ _
    | exact writeBarriers_mild _ _ _
    | exact writeIncoming_mild _ _ _
    | split

theorem domWrite_mild (p : Port) (i k off : Nat) (bs : List Byte) (s : State) : Mild s (domWrite p i k off bs s).2 := by
  unfold domWrite; try dsimp only
  repeat' first
    | with_reducible exact Mild.same _
    | with_reducible apply Mild.ite2
    | exact domainEffect_mild _ _ _ _ _ _
    | split

theorem domCommand_mild {f : State → Access × State} (h : ∀ s, Mild s (f s).2) (p : Port) (i k off : Nat) (s : State) :
    Mild s (domCommand p i k off f s) := by
  unfold domCommand; split
  · exact Mild.same s
  · exact Mild.eng _ _
  · exact Mild.eng _ _
  · split
    · exact Mild.withEng _ _
    · dsimp only
      split
      · exact Mild.withEng _ _
      · split
        · exact Mild.withEng _ _
        · exact (h s).trans (Mild.withEng _ _)

theorem advanceCursor_mild (p : Port) (s : State) : Mild s (advanceCursor p s) := Mild.eng _ _

theorem effDomData_mild (p : Port) : MildEff (effDomData p) := by
  intro v s; unfold effDomData; dsimp only; split
  · exact (domWrite_mild _ _ _ _ _ _).trans (advanceCursor_mild _ _)
  · exact domWrite_mild _ _ _ _ _ _

theorem tested_mild (i k : Nat) (ok : Nat → Bool) (p : Port) : MildEff (tested i k ok p) := by
  intro v s; unfold tested; split
  · exact plainCommit_mild p i k v s
  · exact Mild.same s

theorem restarting_mild {eff : Effect} (h : MildEff eff) : MildEff (restarting eff) := by
  intro v s; unfold restarting; dsimp only; split
  · exact (h v s).onEng _
  · exact h v s

theorem effLandSlots_mild (p : Port) (l : Nat) : MildEff (effLandSlots p l) := by
  intro v s; unfold effLandSlots; split
  · exact Mild.same s
  · exact tested_mild _ _ _ _ v s

theorem stationEffect_mild (p : Port) (i k : Nat) : MildEff (stationEffect p i k) := by
  unfold stationEffect; dsimp only; split
  · exact effStreamCommit_mild _
  · exact effLinkPost_mild _
  · exact effQueue_mild _ _
  · split
    · exact tested_mild _ _ _ _
    · split
      · exact effSlotCtrl_mild _ _
      · exact plainCommit_mild _ _ _

theorem agentEffect_mild (p : Port) (i k : Nat) : MildEff (agentEffect p i k) := by
  intro v s; unfold agentEffect; split
  · exact tested_mild _ _ _ _ v s
  · exact tested_mild _ _ _ _ v s
  · exact plainCommit_mild _ _ _ v s

theorem ringEffect_mild (p : Port) (i k : Nat) : MildEff (ringEffect p i k) := by
  unfold ringEffect; dsimp only; split
  · exact effRingCtrl_mild _
  · exact effDoorbell_mild _
  · exact effIrqMark_mild _
  · split
    · exact effRingEntry_mild _ _
    · exact plainCommit_mild _ _ _

theorem coreEffect_mild (p : Port) (i k : Nat) : MildEff (coreEffect p i k) := by
  unfold coreEffect; split
  · exact effCoreState_mild _
  · exact effWdogKick_mild _
  · exact plainCommit_mild _ _ _

theorem fixedEffect_mild (p : Port) (i k : Nat) : MildEff (fixedEffect p i k) := by
  unfold fixedEffect; split
  all_goals first
    | exact plainCommit_mild _ _ _
    | exact tested_mild _ _ _ _
    | exact restarting_mild (plainCommit_mild _ _ _)
    | exact restarting_mild (fun v s => (plainCommit_mild _ _ _ v s).onEng _)
    | exact restarting_mild effReserveCounts_mild
    | exact effLandSlots_mild _ _
    | exact effDbgLock_mild
    | exact effLoadPlan_mild
    | exact effResetCmd_mild _
    | exact effSysWdogKick_mild
    | exact effFaultClear_mild
    | exact effFaultAck_mild
    | exact effErrOutMode_mild
    | exact effErrOutRelease_mild
    | exact effSwapCtrl_mild
    | exact effMyEndpoint_mild
    | exact effLinkEnable_mild
    | exact effChannelCtrl_mild _
    | exact effQueueCtrl_mild _
    | exact effSemCmd_mild
    | exact effHeapStart_mild
    | exact effAllocReq_mild _
    | exact effCoreRun_mild
    | exact effH2fCtrl_mild
    | exact effF2hCtrl_mild _
    | exact effHeartbeat_mild

/-- Every write of an entry is mild, whichever entry and whichever effect its chapter gives it. -/
theorem entryEffect_mild (p : Port) (i k : Nat) : MildEff (entryEffect p i k) := by
  unfold entryEffect; repeat' split
  · intro v s; exact Mild.same s
  · exact effDomData_mild _
  · exact stationEffect_mild _ _ _
  · exact agentEffect_mild _ _ _
  · exact ringEffect_mild _ _ _
  · exact coreEffect_mild _ _ _
  · exact fixedEffect_mild _ _ _
  · intro v s; exact Mild.same s

theorem writeAccess_mild (p : Port) (i k v : Nat) (s : State) : Mild s (writeAccess p i k v s).2 :=
  writeEntry_mild (entryEffect_mild p i k) p i k v s

theorem readAccess_mild (p : Port) (i k : Nat) (s : State) : Mild s (readAccess p i k s).2.2 := by
  unfold readAccess; dsimp only; repeat' split
  · exact advanceCursor_mild _ _
  · exact Mild.same s
  · exact Mild.same s

theorem setSnap_mild (k : Nat) (x : Snapshot) (s : State) : Mild s (setSnap k x s) := ⟨rfl, rfl, rfl, rfl, id⟩

theorem setStaging_mild (k : Nat) (x : Staging) (s : State) : Mild s (setStaging k x s) := ⟨rfl, rfl, rfl, rfl, id⟩

theorem readPart_mild (p : Port) (i k b n : Nat) (s : State) : Mild s (readPart p i k b n s).2.2 := by
  unfold readPart; dsimp only; repeat' split
  · exact (readAccess_mild _ _ _ _).trans (setSnap_mild _ _ _)
  all_goals first | exact readAccess_mild _ _ _ _ | exact Mild.same s

theorem writePart_mild (p : Port) (i k b n v : Nat) (s : State) : Mild s (writePart p i k b n v s).2 := by
  unfold writePart; dsimp only; repeat' split
  all_goals first
    | exact (writeAccess_mild _ _ _ _ _).trans (setStaging_mild _ _ _)
    | exact setStaging_mild _ _ _
    | exact Mild.same s

theorem onDbg_mild (f : Dbg → Dbg) (s : State) : Mild s (onDbg f s) := ⟨rfl, rfl, rfl, rfl, id⟩

end Sys2Proof.Machine
end

