-- ==== Sys2Proof/Laws/Ports.lean ====
section
/-! SUPPORT. What a write through a port does where no rule of R420 refuses it, and where one does. -/

namespace Sys2Proof.Machine

/-- A write let through has its entry's effect, on the value with its reserved bits dropped. -/
theorem writeEntry_letThrough {p : Port} {i k : Nat} {s : State} {r : Row} (h : letThrough p i k s)
    (hr : rowOf i k = some r) (v : Nat) (eff : Effect) : writeEntry p i k v eff s = eff (maskValue r v) s := by
  obtain ⟨-, h⟩ := h
  unfold refusedWrite at h
  rw [hr] at h
  simp only at h
  split at h
  · cases h
  · split at h
    · cases h
    · rename_i h1 h2
      exact writeEntry_reached hr (by simpa using h1) (by simpa using h2)

theorem portWrite_letThrough {p : Port} {i k : Nat} {s : State} {r : Row} (h : letThrough p i k s)
    (hr : rowOf i k = some r) (v : Nat) (eff : Effect) :
    portWrite p i k v eff s = onEng (endAccess p i k (eff (maskValue r v) s).1) (eff (maskValue r v) s).2 := by
  rw [portWrite_reached h.1, writeEntry_letThrough h hr]

/-- A write let through whose effect ends with OK: the effect, then the answer. -/
theorem portWrite_ok {p : Port} {i k : Nat} {s : State} {r : Row} (h : letThrough p i k s) (hr : rowOf i k = some r)
    {v : Nat} {eff : Effect} {t : State} (he : eff (maskValue r v) s = (.ok, t)) :
    portWrite p i k v eff s = onEng (emit (.access p i k 0)) t := by
  rw [portWrite_letThrough h hr, he]
  simp only [onEng, endAccess_ok]

/-- What a port's answer to a refused access changes: the records of the host's accesses, and the answer. -/
theorem endAccess_regs (p : Port) (i k : Nat) (st : Access) (e : Eng) {b i' k' : Nat} (hi : i' < 65536) (hk : k' < 256)
    (h : (i', k') ∉ [(0x1010, 1), (0x1010, 2), (0x1010, 3), (0x1010, 4), (0x1010, 5)]) :
    regB (endAccess p i k st e) b i' k' = regB e b i' k' := by
  simp only [List.mem_cons, Prod.mk.injEq, List.not_mem_nil, or_false, not_or] at h
  unfold endAccess recordHost
  rw [regB_emit]
  have hne (c : Nat) (hc : c < 256) (h : ¬(i' = 0x1010 ∧ k' = c)) : cellKey b i' k' ≠ cellKey 0 0x1010 c :=
    cellKey_ne (fun x => h ⟨x.2.1, x.2.2⟩) hk hc hi (by decide)
  split
  · split
    · rfl
    · simp only [bump, bumpBy, regB_setReg]
      rw [if_neg (hne 5 (by decide) h.2.2.2.2), if_neg (hne 4 (by decide) h.2.2.2.1), if_neg (hne 3 (by decide) h.2.2.1),
        if_neg (hne 2 (by decide) h.2.1), if_neg (hne 1 (by decide) h.1)]
  · rfl

/-- A port's answer changes nothing but dictionary values and the record of what left the ports. -/
theorem endAccess_only (p : Port) (i k : Nat) (st : Access) (e : Eng) :
    endAccess p i k st e = { e with regs := (endAccess p i k st e).regs, out := .access p i k st.code :: e.out } := by
  unfold endAccess recordHost
  split
  · split
    · rfl
    · simp only [emit, bump, bumpBy, setReg]
  · rfl

end Sys2Proof.Machine
end

