-- ==== Sys2Proof/Laws/Frames.lean ====
section
/-! SUPPORT. The laws by which frames are shown: what writes of listed entries leave alone, one update at a time. -/

namespace Sys2Proof.Machine

variable {ks : List (Nat × Nat)} {e e' : Eng}

@[simp] theorem sameEntries_refl (ks : List (Nat × Nat)) (e : Eng) : sameEntries ks e e := fun _ _ _ _ _ _ => rfl

/-- A change that leaves the dictionary's values alone. -/
theorem sameEntries.congr {u : Eng} (h : sameEntries ks e e') (hr : u.regs = e'.regs) : sameEntries ks e u := by
  intro b i k hi hk hn
  have := h b i k hi hk hn
  simpa only [regB, hr] using this

theorem sameEntries.trans {u : Eng} (h : sameEntries ks e e') (g : sameEntries ks e' u) : sameEntries ks e u :=
  fun b i k hi hk hn => (g b i k hi hk hn).trans (h b i k hi hk hn)

theorem sameEntries.mono {ks' : List (Nat × Nat)} (h : sameEntries ks e e') (hs : ks ⊆ ks') : sameEntries ks' e e' :=
  fun b i k hi hk hn => h b i k hi hk fun hm => hn (hs hm)

/-- A write of a listed entry. -/
theorem sameEntries.setRegB {b i k : Nat} (h : sameEntries ks e e') (hm : (i, k) ∈ ks) (hi : i < 65536) (hk : k < 256)
    (v : Nat) : sameEntries ks e (Machine.setRegB b i k v e') := by
  intro b' i' k' hi' hk' hn
  rw [regB_setRegB, if_neg]
  · exact h b' i' k' hi' hk' hn
  · refine cellKey_ne (fun x => hn ?_) hk' hk hi' hi
    rw [x.2.1, x.2.2]; exact hm

theorem sameEntries.setReg {i k : Nat} (h : sameEntries ks e e') (hm : (i, k) ∈ ks) (hi : i < 65536) (hk : k < 256)
    (v : Nat) : sameEntries ks e (Machine.setReg i k v e') := h.setRegB (b := 0) hm hi hk v

theorem sameEntries.bumpBy {i k : Nat} (h : sameEntries ks e e') (hm : (i, k) ∈ ks) (hi : i < 65536) (hk : k < 256)
    (n : Nat) : sameEntries ks e (Machine.bumpBy n i k e') := h.setReg hm hi hk _

theorem sameEntries.bump {i k : Nat} (h : sameEntries ks e e') (hm : (i, k) ∈ ks) (hi : i < 65536) (hk : k < 256) :
    sameEntries ks e (Machine.bump i k e') := h.setReg hm hi hk _

/-- The values of entries that are not banked. -/
theorem sameEntries.reg (h : sameEntries ks e e') {i k : Nat} (hi : i < 65536) (hk : k < 256) (hn : (i, k) ∉ ks) :
    Machine.reg e' i k = Machine.reg e i k := h 0 i k hi hk hn

@[simp] theorem sameMemory_refl (e : Eng) : sameMemory e e := ⟨fun _ => rfl, rfl, rfl⟩

/-- A change that leaves memory, its generations, the firmware RAM and the Pools' poison alone. -/
theorem sameMemory_of (h1 : e'.mem = e.mem) (h2 : e'.gens = e.gens) (h3 : e'.genBase = e.genBase)
    (h4 : e'.fwRam = e.fwRam) (h5 : e'.poolPois = e.poolPois) : sameMemory e e' := by
  refine ⟨fun a => ?_, h4, h5⟩
  have : undefMem e' = undefMem e := by funext a; simp only [undefMem, h2, h3]
  simp only [memByte, h1, this]

end Sys2Proof.Machine
end

