-- ==== Sys2Proof/Laws/Resets.lean ====
section
/-! SUPPORT. The laws of resets: what a cleared block, a cleared range of entries and the reset log hold. -/

namespace Sys2Proof.Machine

/-- A list filtered by its keys: the kept keys read as before, the others as unlisted. -/
theorem storeGet_filter {α : Type} (d : Nat → α) (p : Nat → Bool) (m : List (Nat × α)) (k : Nat) :
    storeGet d (m.filter fun x => p x.1) k = if p k = true then storeGet d m k else d k := by
  induction m with
  | nil => simp [storeGet]
  | cons x t ih =>
    by_cases hx : p x.1 = true
    · rw [List.filter_cons_of_pos (p := fun x : Nat × α => p x.1) hx]
      simp only [storeGet, ih]
      by_cases hk : x.1 = k
      · simp [hk ▸ hx]
      · simp [hk]
    · rw [List.filter_cons_of_neg (p := fun x : Nat × α => p x.1) hx, ih]
      by_cases hk : x.1 = k
      · simp [hk ▸ hx]
      · simp [storeGet, hk]

/-- The key of an entry that is not banked, taken apart. -/
theorem keptKey_cell {i k : Nat} (hi : i < 65536) (hk : k < 256) : keptKey (cellKey 0 i k) = alwaysOn i k := by
  unfold keptKey cellKey
  have h1 : (0 * 2 ^ 24 + i * 256 + k) / 256 = i := by omega
  have h2 : (0 * 2 ^ 24 + i * 256 + k) % 256 = k := by omega
  have h3 : 0 * 2 ^ 24 + i * 256 + k < 2 ^ 24 := by omega
  rw [h1, h2]; simp only [decide_eq_true h3, Bool.true_and]

/-- A cleared block: the always-on entries keep their values, every other entry reads its default. -/
theorem reg_clearBlock (e : Eng) {i k : Nat} (hi : i < 65536) (hk : k < 256) :
    reg (clearBlock e) i k = if alwaysOn i k = true then reg e i k else regDefault (cellKey 0 i k) := by
  have h := storeGet_filter regDefault keptKey e.regs (cellKey 0 i k)
  rw [keptKey_cell hi hk] at h
  exact h

/-- A bank's copy of an entry is not always-on: a cleared block reads its default. -/
theorem regB_clearBlock (e : Eng) {b i k : Nat} (hb : b ≠ 0) :
    regB (clearBlock e) b i k = regDefault (cellKey b i k) := by
  have h := storeGet_filter regDefault keptKey e.regs (cellKey b i k)
  have hn : keptKey (cellKey b i k) = false := by
    have : ¬cellKey b i k < 2 ^ 24 := by unfold cellKey; omega
    unfold keptKey; simp only [decide_eq_false this, Bool.false_and]
  rw [hn] at h
  exact h

/-- The entries of the indices from `lo` to `hi - 1` read their defaults once cleared; the others as before. -/
theorem reg_clearIndices (lo hi : Nat) (e : Eng) {i k : Nat} (hk : k < 256) :
    reg (clearIndices lo hi e) i k = if lo ≤ i ∧ i < hi then regDefault (cellKey 0 i k) else reg e i k := by
  have h := storeGet_clear regDefault (cellKey 0 lo 0) (cellKey 0 hi 0) (cellKey 0 i k) e.regs
  have hc : (cellKey 0 lo 0 ≤ cellKey 0 i k ∧ cellKey 0 i k < cellKey 0 hi 0) ↔ lo ≤ i ∧ i < hi := by
    unfold cellKey; omega
  simp only [reg, clearIndices, h, hc]

theorem reg_clearIndex (j : Nat) (e : Eng) {i k : Nat} (hk : k < 256) :
    reg (clearIndex j e) i k = if i = j then regDefault (cellKey 0 i k) else reg e i k := by
  unfold clearIndex
  rw [reg_clearIndices j (j + 1) e hk]
  have : (j ≤ i ∧ i < j + 1) ↔ i = j := by omega
  simp only [this]

/-- The entries that a reset's log record moves: RESET_LOG_NEXT and RESETS; every other value stays. -/
theorem reg_logReset_other (t c sc pt d : Nat) (e : Eng) {i k : Nat} (h1 : cellKey 0 i k ≠ cellKey 0 0x1202 2)
    (h2 : cellKey 0 i k ≠ cellKey 0 0x1205 2) : reg (logReset t c sc pt d e) i k = reg e i k := by
  unfold logReset
  simp only [reg_bump_other h2, reg_setReg_other h1, reg_setDomBytes]

/-- The entries that a reset moves as it enters the log, merged with another or not. -/
theorem reg_logAccepted_other (t c sc pt d : Nat) (e : Eng) {i k : Nat} (h1 : cellKey 0 i k ≠ cellKey 0 0x1202 2)
    (h2 : cellKey 0 i k ≠ cellKey 0 0x1205 2) : reg (logAccepted t c sc pt d e) i k = reg e i k := by
  unfold logAccepted
  split
  · exact reg_logReset_other _ _ _ _ _ e h1 h2
  · dsimp only
    split
    · exact reg_setDomBytes ..
    · split
      · rfl
      · exact reg_logReset_other _ _ _ _ _ e h1 h2

/-- A reset that meets no other in its AONCLK has a record of its own. -/
theorem logAccepted_alone {t : Nat} {e : Eng} (h : sameEdge t e = none) (c sc pt d : Nat) :
    logAccepted t c sc pt d e = logReset t c sc pt d e := by unfold logAccepted; rw [h]

/-- DOMAIN data of the always-on domain stays in a cleared block. -/
theorem domBytes_clearBlock (e : Eng) {i k : Nat} (hi : i < 65536) (hk : k < 256) (ha : alwaysOn i k = true)
    {o n : Nat} (ho : o + n ≤ 2 ^ 24) : domBytes (clearBlock e) i k o n = domBytes e i k o n := by
  have hone (j : Nat) (h1 : domKey i k 0 ≤ j) (h2 : j < domKey i k 0 + 2 ^ 24) :
      storeGet domDefault (clearBlock e).dom j = storeGet domDefault e.dom j := by
    have h := storeGet_filter domDefault (fun x => keptKey (x / 2 ^ 24)) e.dom j
    have hj : j / 2 ^ 24 = cellKey 0 i k := by unfold domKey at h1 h2; unfold cellKey; omega
    simp only [hj, keptKey_cell hi hk, ha, if_true] at h
    exact h
  have hrun (n : Nat) : ∀ k0, domKey i k 0 ≤ k0 → k0 + n ≤ domKey i k 0 + 2 ^ 24 →
      storeGetMany domDefault (clearBlock e).dom k0 n = storeGetMany domDefault e.dom k0 n := by
    induction n with
    | zero => intros; rfl
    | succ n ih =>
      intro k0 h1 h2
      simp only [storeGetMany]
      rw [hone k0 h1 (by omega), ih (k0 + 1) (by omega) (by omega)]
  exact hrun n _ (by unfold domKey; omega) (by unfold domKey; omega)

/-- What a cleared block keeps beside the always-on entries, and what it loses. -/
theorem clearBlock_rest (e : Eng) :
    (clearBlock e).now = e.now ∧ (clearBlock e).powerOnAt = e.powerOnAt ∧ (clearBlock e).raised = e.raised ∧
    (clearBlock e).out = e.out ∧ (clearBlock e).mem = [] ∧ (clearBlock e).genBase = e.fresh + 1 ∧
    (clearBlock e).gens = [] ∧ (clearBlock e).jobs = [] ∧ (clearBlock e).docks = [] ∧ (clearBlock e).agents = [] ∧
    (clearBlock e).rings = [] ∧ (clearBlock e).links = [] ∧ (clearBlock e).wdog = none ∧
    (clearBlock e).spBase = none ∧ (clearBlock e).parts = [] := by
  refine ⟨rfl, rfl, rfl, rfl, rfl, rfl, rfl, rfl, rfl, rfl, rfl, rfl, rfl, rfl, rfl⟩

end Sys2Proof.Machine
end

