-- ==== Sys2Proof/Tests/Slice0.lean ====
section
/-! SUPPORT. The model's own tests: the ill-formed commands, one state and operands that meet the hypotheses of each
statement (for a statement of several clauses, of each clause), and single steps of commands on small states. -/

set_option maxRecDepth 10000
set_option exponentiation.threshold 2048

namespace Sys2Proof.Tests

open Sys2Proof Sys2Proof.Machine

/-- The block after BT_READY, on the timeline, with every entry at its default. -/
def up : State := { State.reset with eng := { State.reset.eng with run := .ready, spBase := some 0, now := 100000 } }

/-- `up` with the engine changed. -/
def upWith (f : Eng → Eng) : State := { up with eng := f up.eng }

/-- Entries set: index, sub and value. -/
def put (l : List (Nat × Nat × Nat)) (e : Eng) : Eng := l.foldl (fun e x => setReg x.1 x.2.1 x.2.2 e) e

/-- `up` with entries set. -/
def upAt (l : List (Nat × Nat × Nat)) : State := upWith (put l)

/-- The block at a place of its start. -/
def inRun (r : Run) : State := upWith fun e => { e with run := r, now := 10 }

/-- The state that a command answers; the old one where it answers none. -/
def after (c : Instr) (s : State) : State :=
  match exec c s with
  | .next t => t
  | _ => s

/-- Whether a command completes in a state. -/
def goesOn (c : Instr) (s : State) : Bool :=
  match exec c s with
  | .next _ => true
  | _ => false

/-- Whether a command stops with the fault of an operand that is no event of its port. -/
def stops (c : Instr) (s : State) : Bool :=
  match exec c s with
  | .fault .outsideEnvironment => true
  | _ => false

/-- `n` zero bytes. -/
def zeros (n : Nat) : List Byte := List.replicate n 0

/-! ### Ill-formed commands -/

/-- A core access of no bytes, and a store whose bytes are not as many as its width, are refused by the check and stop. -/
theorem test_ill_formed_core_access :
    Instr.wellFormed (.coreAccess 0 .load 0 0 []) = false ∧ Instr.wellFormed (.coreAccess 0 .store 0 4 [1#8]) = false ∧
    stops (.coreAccess 0 .load 0 0 []) up = true ∧ stops (.coreAccess 0 .store 0 4 [1#8]) up = true := by decide

/-- The answer to an entry read holds whole entries, at least one. -/
theorem test_ill_formed_entry_reads :
    Instr.wellFormed (.entryReadComplete 3 (.data [] false)) = false ∧
    Instr.wellFormed (.entryReadComplete 3 (.data (zeros 63) false)) = false ∧
    Instr.wellFormed (.entryReadRetry 3 (.data (zeros 65) false)) = false := by decide

/-- A UCIe unit has 256 bytes, one of the HST module 128; a flit has 256 bytes. -/
theorem test_ill_formed_units :
    Instr.wellFormed (.ucieUnitReceive 0 0 0 0 (zeros 128)) = false ∧
    Instr.wellFormed (.ucieUnitReceive 4 0 0 0 (zeros 256)) = false ∧
    Instr.wellFormed (.flitReceive 0 0 0 0 (zeros 255)) = false ∧
    stops (.ucieUnitReceive 4 0 0 0 (zeros 256)) up = true ∧ stops (.flitReceive 0 0 0 0 (zeros 255)) up = true := by decide

/-! ### Witnesses: the whole machine, resets and the start -/

theorem witness_StepRunsTheFrontCommand :
    ({ up with pending := [.rstGlitch, .mgtRead] }).pending = .rstGlitch :: [.mgtRead] ∧ up.pending = [] := by decide

theorem witness_NoCommandTouchesTheQueue : ∃ t, exec .rstGlitch { up with pending := [.mgtRead] } = .next t := ⟨_, rfl⟩

/-- A host read of four bytes that waits for its answer. -/
def reading : State := upWith fun e => { e with hostReads := [{ id := 1, use := .job 0, cls := 0, data := true, addr := 0, len := 4 }] }

/-- A ring whose scan has an entry read of two entries under way. -/
def readingEntry : State := upWith fun e => onRing 3 (fun _ => { scanning := true, reading := some 9 })
  { e with hostReads := [{ id := 9, use := .ring 3, cls := 0, data := false, addr := 0, len := 128 }] }

theorem witness_WellFormedCommandsComplete :
    Instr.wellFormed (.coreAccess 0 .load 0 1 []) = true ∧ Instr.wellFormed (.flitReceive 0 0 0 0 (zeros 256)) = true ∧
    (Instr.wellFormed (.hostReadCompletion 1 (.data (zeros 4) false)) = true ∧
      ∀ h ∈ reading.eng.hostReads, h.id = 1 → (zeros 4).length = h.len) ∧
    (Instr.wellFormed (.entryReadComplete 3 (.data (zeros 128) false)) = true ∧
      (zeros 128).length ≤ 64 * readRoom readingEntry.eng 3) := by decide

/-- The ports' queues full. -/
def fullPorts : State :=
  { up with port := { up.port with mgtRx := List.replicate 16 [], faultFrames := List.replicate 4 [], nseq := 255 } }

theorem witness_PortQueuesStayBounded : fullPorts.port.bounded ∧ ∃ t, step fullPorts = .next t :=
  ⟨by unfold Ports.bounded; decide, _, rfl⟩

theorem witness_BlockResetClears :
    (powerScope up.eng = false ∧ up.eng.run ≠ .unpowered ∧ sameEdge (aonTime { up.eng with now := 100000 }) up.eng = none) ∧
    sourceRuns (upAt [(0x1100, 1, 2)]).eng = true ∧
    (letThrough .h 0x1200 1 up ∧ letThrough .m 0x1200 1 up ∧ letThrough .d 0x1200 1 up) ∧
    reg (upAt [(0x1100, 1, 2)]).eng 0x1100 1 = 2 ∧
    (let s := upWith fun e => put [(0x1201, 1, 1)] { e with wdog := some 0 };
      s.eng.wdog = some 0 ∧ reg s.eng 0x1201 1 ≠ 0 ∧ powerScope s.eng = false ∧
      sameEdge (aonTime { s.eng with now := max s.eng.now (0 + 1 * aonT) }) s.eng = none) ∧
    up.eng.run = .ready := by unfold letThrough; decide

/-- A block whose log holds a BLOCK reset accepted in the present AONCLK. -/
def justReset : State := after (.resetCmdBlock .h) up

theorem witness_ResetsMerge :
    powerScope justReset.eng = false ∧ justReset.eng.run ≠ .unpowered ∧
    sameEdge (aonTime justReset.eng) justReset.eng = some 0 ∧
    domNat justReset.eng 0x1203 2 (16 * 0 + 9) 1 = 1 ∧ domNat justReset.eng 0x1203 2 (16 * 0 + 10) 1 = 0 ∧
    domNat justReset.eng 0x1203 2 (16 * 0 + 8) 1 = 3 := by decide

theorem witness_RecoveryExit :
    letThrough .m 0x1200 1 (inRun .recovery) ∧ (inRun .recovery).eng.run = .recovery ∧ letThrough .h 0x1200 1 up ∧
    up.eng.run ≠ .recovery := by unfold letThrough; decide

/-- A part in the hold phase of a reset of its own. -/
def partIn (src : Nat) (p : Phase) : State := upWith (setPhase src p)

theorem witness_PartResetHolds :
    (letThrough .h 0x1200 1 up ∧ up.eng.run = .ready ∧ phaseOf up.eng 47 = .up ∧ phaseOf up.eng (48 + 23) = .up ∧
      phaseOf up.eng (72 + 1) = .up ∧ phaseOf (partIn 73 .stuck).eng 73 = .stuck) ∧
    (letThrough .h 0x1200 1 (partIn 47 (.hold 5)) ∧ phaseOf (partIn 47 (.hold 5)).eng 47 ≠ .up ∧
      phaseOf (partIn 47 (.hold 5)).eng 47 ≠ .stuck) := by
  unfold letThrough; decide

theorem witness_GlitchesAndKicks :
    up.eng.run ≠ .unpowered ∧
    (let s := upWith fun e => put [(0x1201, 1, 27)] { e with wdog := some 2800, parts := [(0, .up), (73, .stuck)] };
      letThrough (.f 0) 0x1201 2 s ∧ s.eng.run = .ready ∧ (∀ x ∈ s.eng.parts, x.2 = .up ∨ x.2 = .stuck) ∧
      s.eng.wdog = some 2800 ∧ s.eng.now ≤ 2800 + reg s.eng 0x1201 1 * 3600) ∧
    (reg up.eng 0x1201 1 = 0 ∧ up.eng.wdog = none) ∧
    (letThrough (.f 3) 0x1201 2 (inRun (.release 4 0 false false)) ∧
      (inRun (.release 4 0 false false)).eng.run ≠ .ready ∧ (inRun (.release 4 0 false false)).eng.wdog = none) ∧
    (letThrough (.f 3) 0x1201 2 (partIn 47 (.hold 5)) ∧ (partIn 47 (.hold 5)).eng.wdog = none ∧
      ∃ x ∈ (partIn 47 (.hold 5)).eng.parts, x.2 ≠ .up ∧ x.2 ≠ .stuck) := by unfold letThrough; decide

theorem witness_TimeoutsFailTheStart :
    reg (inRun (.release 2 0 true false)).eng 0x1100 1 ≠ 2 ∧ reg (inRun (.release 3 0 true false)).eng 0x3934 1 ≠ 2 ∧
    (∃ n, n < 24 ∧ reg (inRun (.release 5 0 true false)).eng (0x3900 + n) 1 ≠ 2) ∧
    (∃ n, n < 24 ∧ reg (inRun (.release 6 0 true false)).eng (0x3000 + 0x40 * n) 1 ≠ 2) ∧
    (let s := upWith fun e => put [(0x3917, 1, 1)] { e with run := .release 5 0 true false };
      reg s.eng (0x3900 + 23) 1 = 1) ∧
    (let s := upWith fun e => onAgent 23 (fun a => { a with initAt := some 0 })
        (put [(0x3000 + 0x40 * 23, 1, 1)] { e with run := .release 6 0 true false });
      reg s.eng (0x3000 + 0x40 * 23) 1 = 1 ∧ (agentOf s.eng 23).initAt.isSome = true) ∧
    (upWith fun e => { e with run := .release 2 0 true false, clkReqAt := some 0 }).eng.clkReqAt = some 0 := by decide

theorem witness_HoldPhaseEndsAndSteps :
    (inRun (.hold 0 true true)).eng.run = .hold 0 true true ∧
    (let s := inRun (.hold 0 true false);
      reg s.eng 0x1202 1 % 256 < reg s.eng 0x1202 1 / 256 % 256) ∧
    (let s := upWith fun e => put [(0x1202, 1, 0x303)] { e with run := .hold 0 false false };
      reg s.eng 0x1202 1 / 256 % 256 ≤ reg s.eng 0x1202 1 % 256) ∧
    reg (inRun (.release 2 0 true false)).eng 0x1100 1 ≠ 2 ∧
    reg (upWith fun e => put [(0x1100, 1, 2)] { e with run := .release 2 0 true false }).eng 0x1100 1 = 2 ∧
    reg (upWith fun e => put [(0x3934, 1, 2)] { e with run := .release 3 0 true false }).eng 0x3934 1 = 2 ∧
    (∀ n, n < 24 → reg (upWith fun e => put ((List.range 24).map fun n => (0x3900 + n, 1, 2))
      { e with run := .release 5 0 true false }).eng (0x3900 + n) 1 = 2) ∧
    (∀ n, n < 24 → reg (upWith fun e => put ((List.range 24).map fun n => (0x3000 + 0x40 * n, 1, 2))
      { e with run := .release 6 0 true false }).eng (0x3000 + 0x40 * n) 1 = 2) ∧
    (inRun (.release 1 0 true true)).eng.run = .release 1 0 true true ∧
    (inRun (.release 8 0 true false)).eng.run = .release 8 0 true false := by decide

theorem witness_ClockStableAndPartReleases :
    (let s := upWith fun e => put [(0x1100, 1, 1)] { e with run := .release 2 0 true false, clkReqAt := some 28000 };
      s.eng.run = .release 2 0 true false ∧ reg s.eng 0x1100 1 = 1 ∧ s.eng.clkReqAt = some 28000 ∧
      s.eng.now ≤ 28000 + 20 * 3600) ∧
    (reg up.eng 0x1100 1 ≠ 1 ∧ up.eng.clkReqAt = none) ∧
    (phaseOf (partIn 71 (.release 7)).eng 71 = .release 7 ∧ reg (partIn 71 (.release 7)).eng (0x3000 + 0x40 * (71 - 48)) 1 ≠ 2) ∧
    phaseOf (partIn 0 (.hold 7)).eng 0 = .hold 7 ∧
    phaseOf (partIn 47 (.release 7)).eng 47 = .release 7 := by decide

/-! ### Witnesses: the power port -/

/-- A load plan whose entry 0 is valid, at slot offset 2048 of pattern 0, with DELTA 40 and RAMP 1. -/
def plan : List Byte := leBytes 8 (1 + 2048 * 2 ^ 8 + 40 * 2 ^ 24 + 2 ^ 40) ++ zeros 248

theorem witness_BudgetsAndLoadMessages :
    (up.eng.run ≠ .unpowered ∧ 600 ≤ (600#16).toNat ∧ (4250#16).toNat ≤ 4250) ∧
    ((599#16).toNat < 600 ∧ 4250 < (4251#16).toNat ∧ (0x30000000#32).toNat / 2 ^ 28 ≠ 1 ∧
      (0x30000000#32).toNat / 2 ^ 28 ≠ 2 ∧ (0x10000257#32).toNat / 2 ^ 28 = 1 ∧ (0x10000257#32).toNat % 2 ^ 16 < 600) ∧
    (inRun .unpowered).eng.run = .unpowered ∧
    (let s := upWith fun e => { e with power := { e.power with plan := plan } };
      s.eng.run = .ready ∧ s.eng.spBase = some 0 ∧ (forecastFrame s.eng 0).isSome = true ∧ pwrWaiting s.eng = []) := by decide

theorem witness_LoadPlanChecks :
    planCheck plan = 0 ∧ (planEntry plan 0).valid = true ∧
    planCheck (leBytes 8 (2 ^ 63) ++ zeros 248) ≠ 0 ∧ (planEntry (leBytes 8 (2 ^ 63) ++ zeros 248) 0).valid = false := by decide

theorem witness_LoadPlans :
    (letThrough .h 0x1102 2 up ∧ up.eng.spBase = some 0 ∧ 0 ≤ up.eng.now ∧ planCheck (domBytes up.eng 0x1102 1 0 256) = 0) ∧
    (let s := upWith (setDomBytes 0x1102 1 0 plan);
      planCheck (domBytes s.eng 0x1102 1 0 256) = 0) ∧
    (let s := upWith (setDomBytes 0x1102 1 0 (leBytes 8 1));
      planCheck (domBytes s.eng 0x1102 1 0 256) ≠ 0) := by unfold letThrough; decide

theorem witness_WindowsAndThrottling :
    up.eng.spBase = some 0 ∧ bit (reg (upAt [(0x1104, 1, 1)]).eng 0x1104 1) 0 = true ∧
    storeGet (fun _ => 0) (upWith fun e => { e with power := { e.power with throttleSince := [(23, 6)] } }).eng.power.throttleSince 23
      = 5 + 1 ∧ bit (reg up.eng 0x1104 1) 23 = false ∧
    (let e := (upAt [(0x1101, 2, 4250)]).eng;
      (e.power.cap - reg e 0x1101 2) * 800 < 481600 + 225 * e.power.cards) ∧
    ¬((up.eng.power.cap - reg up.eng 0x1101 2) * 800 < 481600 + 225 * up.eng.power.cards) := by decide

/-! ### Witnesses: the object dictionary -/

theorem witness_RefusedWritesChangeNothing :
    (reach up.eng .h = .full ∧ rowOf 0x0FFF 1 = none) ∧
    (reach (inRun .recovery).eng .m = .limited ∧
      ∃ r, rowOf 0x1000 1 = some r ∧ (rightOf (inRun .recovery) .m 0x1000 r).writes = false) ∧
    (∃ r, rowOf 0x2001 1 = some r ∧ (rightOf (partIn 0 (.hold 7)) .h 0x2001 r).writes = true ∧
      heldBack (partIn 0 (.hold 7)).eng .h 0x2001 1 = true) := by
  exact ⟨by decide, ⟨by decide, _, rfl, by decide⟩, _, rfl, by decide⟩

theorem witness_PlainWritesCommit :
    (letThrough .h 0x1301 1 up ∧ entryEffect .h 0x1301 1 = plainCommit .h 0x1301 1 ∧
      ∃ r, rowOf 0x1301 1 = some r ∧ r.lo ≤ 5 &&& r.mask ∧ 5 &&& r.mask ≤ r.hi) ∧
    (letThrough .h 0x3003 1 up ∧ entryEffect .h 0x3003 1 = plainCommit .h 0x3003 1 ∧
      ∃ r, rowOf 0x3003 1 = some r ∧ (17 &&& r.mask < r.lo ∨ r.hi < 17 &&& r.mask)) ∧
    (letThrough .d 0x1022 1 up ∧ (0xFFFFFF#32).toNat < 2 ^ 24) := by
  unfold letThrough
  refine ⟨⟨by decide, rfl, _, rfl, by decide⟩, ⟨by decide, rfl, _, rfl, by decide⟩, by decide⟩

theorem witness_DebugLock :
    (let s : State := { up with port := { up.port with dbgLock := true }, pending := [.rstGlitch] };
      s.port.dbgLock = true ∧ s.pending.head? ≠ some .powerGoodRise ∧ s.pending.head? ≠ some .powerGoodFall) ∧
    (∃ r, rowOf 0x1003 1 = some r) ∧ (∃ r, rowOf 0x1010 1 = some r) ∧ letThrough .h 0x1020 1 up ∧
    letThrough .m 0x1020 1 up ∧ (∃ t, exec .powerGoodRise up = .next t) := by
  unfold letThrough
  exact ⟨by decide, ⟨_, rfl⟩, ⟨_, rfl⟩, by decide, by decide, _, rfl⟩

theorem witness_HostReadsAndWritesOfEntries :
    (up.eng.run = .ready ∧ (0x1000010#28).toNat % 16 = 0 ∧ readEntry .h 0x1000 1 up = (.ok, reg up.eng 0x1000 1)) ∧
    (let s := setSnap 0 ⟨some (0x1000, 1), 7⟩ up;
      (0x1000014#28).toNat % 4 = 0 ∧ (0x1000014#28).toNat % 16 ≠ 0 ∧ (readEntry .h 0x1000 1 s).1 = .ok ∧
      (snapOf s 0).cell = some (0x1000, 1) ∧ (snapOf up 0).cell ≠ some (0x1000, 1)) ∧
    (refusedWrite .h 0xFFF 1 up = some .noEntry ∧ (zeros 4).length = 4) ∧
    ((0xFFF010#28).toNat % 16 = 0 ∧ readEntry .h 0xFFF 1 up = (.noEntry, 0)) ∧
    (5 ≠ 4 ∧ 5 ≠ 8 ∧ 5 ≠ 16) ∧
    ((inRun (.release 4 0 false false)).eng.run ≠ .ready ∧ controlUp (inRun (.release 4 0 false false)).eng = true) ∧
    ((inRun (.release 3 0 false false)).eng.run ≠ .ready ∧ controlUp (inRun (.release 3 0 false false)).eng = false) ∧
    (letThrough .h 0x1301 1 up ∧ (writeAccess .h 0x1301 1 (leNat (zeros 16)) up).1 = .ok) ∧
    ((0x1301018#28).toNat % 16 = 8 ∧ (stagingOf up 0).cell = none ∧
      let t := after (.hostDictionaryWrite 0x1301018 (zeros 8)) up;
      (0x1301010#28).toNat = (0x1301018#28).toNat - 8 ∧ letThrough .h 0x1301 1 t ∧
      (writeAccess .h 0x1301 1 (leNat (zeros 8 ++ zeros 8)) t).1 = .ok) := by unfold letThrough; decide

/-- A width that HST does not allow, and an offset that is no multiple of one it does; for an absent cell, an entry
without the right, and an entry of a station in a reset of its own. -/
theorem witness_UnalignedHostAccesses :
    up.eng.run = .ready ∧ ¬((3 = 4 ∨ 3 = 8 ∨ 3 = 16) ∧ 3 ∣ (0x1000012#28).toNat) ∧
    ¬((8 = 4 ∨ 8 = 8 ∨ 8 = 16) ∧ 8 ∣ (0x1000014#28).toNat) ∧
    ¬((16 = 4 ∨ 16 = 8 ∨ 16 = 16) ∧ 16 ∣ (0x1000008#26).toNat) ∧ (zeros 16).length = 16 := by decide

@[inherit_doc witness_UnalignedHostAccesses]
theorem witness_HostAccessesCompleteNormally :
    up.eng.run = .ready ∧ 8 ∣ (0xFFF018#28).toNat ∧
    (rowOf ((0xFFF018#28).toNat / 4096) ((0xFFF018#28).toNat / 16 % 256) = none ∧ 4 ∣ (0x3810044#28).toNat) ∧
    ((rowOf 0x3810 4).map fun r => (rightOf up .h 0x3810 r).reads) = some false ∧
    ((rowOf 0x1000 1).map fun r => (rightOf up .h 0x1000 r).writes) = some false ∧
    ((rowOf 0x2010 1).map fun r => (rightOf up .h 0x2010 r).writes) = some true ∧
    ((partOf 0x2010).map fun q => partHeld (upWith fun e => { e with parts := [(0, .hold 0)] }).eng q) = some true ∧
    ((inRun (.release 4 0 false false)).eng.run ≠ .ready ∧ controlUp (inRun (.release 4 0 false false)).eng = true) ∧
    ((inRun (.release 3 0 false false)).eng.run ≠ .ready ∧ controlUp (inRun (.release 3 0 false false)).eng = false) := by
  decide

/-- Aperture 3 and the cursor of core 2 at LOAD_PLAN. -/
def bound : State := upWith fun e =>
  setRegB 6 0x1040 1 0x11102 (setRegB 6 0x1040 2 240 (put [(0x1030, 4, 0x11102)] e))

theorem witness_DomainsThroughWindows :
    (bound.eng.run = .ready ∧ reg bound.eng 0x1030 ((0x30000F0#26).toNat / 2 ^ 24 + 1) = 0x1102 + 2 ^ 16 ∧
      (0x30000F0#26).toNat % 16 = 0 ∧ (0x30000F0#26).toNat % 2 ^ 24 + (zeros 16).length ≤ 256) ∧
    ((0x3000100#26).toNat % 4 = 0 ∧ 256 < (0x3000100#26).toNat % 2 ^ 24 + (zeros 4).length) ∧
    (regB bound.eng (bankOf (.f 2)) 0x1040 1 = 0x1102 + 2 ^ 16 ∧ regB bound.eng (bankOf (.f 2)) 0x1040 2 = 240) := by decide

/-- The block with one frame received on MGT. -/
def framed (f : List Byte) : State := { up with port := { up.port with mgtRx := [f] } }

theorem witness_ManagementFrames :
    ((inRun (.failed 2)).eng.run ≠ .ready ∧ (inRun (.failed 2)).eng.run ≠ .recovery) ∧
    ((zeros 7).length < 8 ∧ 8 ≤ (zeros 8).length ∧ up.port.mgtRx.length < 16 ∧ 16 ≤ fullPorts.port.mgtRx.length) ∧
    (frameType ([1#8] ++ zeros 7) = some 1 ∧ frameEntry ([1#8] ++ zeros 7) ≠ (0x1040, 3)) ∧
    frameType ([3#8] ++ zeros 5 ++ [48#8] ++ zeros 9) = some 3 ∧ frameType ([1#8] ++ zeros 8) = none ∧
    frameType ([2#8] ++ zeros 23) = some 2 ∧ frameType ([4#8] ++ zeros 5 ++ [1#8] ++ zeros 57) = some 4 ∧
    (framed (zeros 8)).port.mgtRx = zeros 8 :: [] ∧ (framed (zeros 8)).port.mgtTx = none ∧
    ({ up with port := { up.port with mgtTx := some [1#8], faultFrames := [[2#8]] } } : State).port.faultFrames = [2#8] :: [] := by
  decide

/-- The debug port with OD_ACCESS selected and, it may be, an operation pending. -/
def debugging (op : Option DbgOp) : State :=
  { up with port := { up.port with dbg := { up.port.dbg with ir := 0x2C, pending := op } } }

theorem witness_DebugAccesses :
    (debugging none).eng.run = .ready ∧ (debugging none).port.dbg.ir = 0x2C ∧ (debugging none).port.dbg.pending = none ∧
    (debugging (some ⟨true, 0x3003, 1, 0⟩)).port.dbg.pending.isSome = true ∧
    (⟨false, 0x1040, 3, 0⟩ : DbgOp).write = false ∧
    (let s : State := { inRun (.hold 5 false false) with port := (debugging none).port };
      s.eng.run ≠ .ready ∧ s.eng.run ≠ .recovery ∧ s.eng.run ≠ .unpowered ∧ s.port.dbg.ir = 0x2C) ∧
    (writeAccess .d 0x3003 1 0 (debugging (some ⟨true, 0x3003, 1, 0⟩))).1 = .ok := by decide

/-! ### Witnesses: rings and jobs -/

/-- A ring whose base lies in the host window, in a state, with the firmware running. -/
def ringUp (r st : Nat) (g : Ring) : State := upWith fun e =>
  onRing r (fun _ => g) (put [(ringIdx r, 1, 0x300000000000), (ringIdx r, 2, 6), (ringIdx r, 6, 0x300000010000),
    (ringIdx r, 8, st), (0x4000, 1, 1)] { e with fw := { e.fw with active := true, started := true } })

theorem witness_RingControls :
    (let s := ringUp 63 0 {};
      letThrough .h 0x413F 7 s ∧ letThrough .h 0x413F 9 s ∧ letThrough .h 0x413F 13 s ∧ s.eng.fw.started = true ∧
      reg s.eng 0x413F 8 = 0 ∧ 64 * 2 ^ reg s.eng 0x413F 2 ∣ reg s.eng 0x413F 1 ∧ reg s.eng 0x413F 8 ≠ 1) ∧
    up.eng.fw.started = false ∧ reg (ringUp 63 2 {}).eng 0x413F 8 = 2 ∧
    (let s : State := { ringUp 63 0 {} with eng := put [(0x413F, 1, 0x300000000040)] (ringUp 63 0 {}).eng };
      reg s.eng 0x413F 8 = 0 ∧ ¬(64 * 2 ^ reg s.eng 0x413F 2 ∣ reg s.eng 0x413F 1)) ∧
    (let s := ringUp 63 3 {};
      letThrough .h 0x413F 7 s ∧ reg s.eng 0x413F 8 = 3 ∧ (ringOf s.eng 63).entries = [] ∧
      (ringOf s.eng 63).headDue = false) ∧
    (let s := ringUp 63 1 { scanning := true };
      reg s.eng 0x413F 8 = 1 ∧ (ringOf s.eng 63).scanning = true ∧ isReady s.eng = true ∧
      gateMet (reg s.eng 0x413F 11) 0 = true ∧ gateMet (reg s.eng 0x413F 11) 1 = false ∧ s.eng.fw.suppress = false) ∧
    (let s := ringUp 63 1 { entries := [{ index := 0, count := 1, epoch := 0, bytes := zeros 15 ++ [6] ++ zeros 48, pois := false,
                                          followPois := false }] };
      (ringOf s.eng 63).scanning = false ∧ scanHeld s.eng 63 = true) ∧
    (let s : State := { ringUp 63 1 {} with eng := onRing 0 (fun _ => { scanning := true, reading := some 9 }) (ringUp 63 1 {}).eng };
      scanHeld s.eng 63 = false ∧ (ringOf s.eng 0).reading.isSome = true) ∧
    (let s := ringUp 63 1 {};
      ringsRun s.eng = true ∧ (ringOf s.eng 63).scanning = false ∧ (ringOf s.eng 63).retry = none ∧
      scanHeld s.eng 63 = false ∧ (∀ q, q < 64 → (ringOf s.eng q).reading = none ∧ (ringOf s.eng q).scanning = false) ∧
      reg s.eng 0x413F 3 < 4 ∧
      (regionOf (reg s.eng 0x413F 1 + 64 * (reg s.eng 0x413F 10 % 2 ^ reg s.eng 0x413F 2))).1 = .host) := by
  unfold letThrough; decide

theorem witness_HeadsAndScans :
    (ringOf up.eng 0).headDue = false ∧
    (let s := ringUp 0 1 { headDue := true };
      (ringOf s.eng 0).headDue = true ∧ (ringOf s.eng 0).measure = [] ∧ reg s.eng 0x4100 15 ≠ 1 ∧ reg s.eng 0x4100 8 ≠ 2 ∧
      (regionOf (reg s.eng 0x4100 6)).1 = .host ∧ s.eng.fw.suppress = false) ∧
    (let s : State := { ringUp 0 1 { headDue := true } with eng := put [(0x4100, 15, 1)] (ringUp 0 1 { headDue := true }).eng };
      reg s.eng 0x4100 15 = 1 ∧ isReady s.eng = true ∧ gateMet (reg s.eng 0x4100 11) (reg s.eng 0x4100 13) = true) ∧
    (let s := ringUp 0 1 { scanning := true, reading := some 9 };
      (ringOf s.eng 0).reading.isSome = true ∧ (ringOf s.eng 0).scanning = true ∧ reg s.eng 0x4100 8 = 1 ∧
      ringsRun s.eng = true ∧ (regionOf (readAddr s.eng 0)).1 = .host ∧ (ringOf s.eng 0).got = [] ∧ scanHeld s.eng 0 = false ∧
      ((zeros 64).getD 14 0).toNat % 2 ≠ (if reg s.eng 0x4100 10 / 2 ^ reg s.eng 0x4100 2 % 2 = 0 then 1 else 0)) ∧
    (ringOf (ringUp 0 1 { scanning := true, retry := some 5 }).eng 0).retry = some 5 ∧
    (let s := ringUp 0 1 { paused := true };
      (ringOf s.eng 0).paused = true ∧ scanHeld s.eng 0 = false ∧ reg s.eng 0x4100 8 = 1 ∧ ringsRun s.eng = true) := by decide

/-- A ring entry with an opcode and a body. -/
def entry (op : Nat) (body : List Byte) : RingEntry :=
  { index := 0, count := 1, epoch := 0, bytes := zeros 15 ++ leBytes 1 op ++ body ++ zeros (48 - body.length), pois := false,
    followPois := false }

/-- Ring 0 enabled with one entry taken; context 0's semaphore 1 is physical semaphore 0. -/
def entered (x : RingEntry) : State :=
  let s := ringUp 0 1 { entries := [x] }
  { s with eng := setDomNat 0x5101 1 4 4 0x3000 s.eng }

/-- Whether an entry is the one of an opcode in its turn that a condition lets start. -/
def nextIs (s : State) (op : Nat) (can : Eng → RingEntry → Bool) (x : RingEntry) : Bool :=
  decide ((nextEntries s.eng 0).find? (fun y => opcodeOf y.bytes == op && can s.eng y) = some x)

theorem witness_EntriesInTurn :
    nextIs (entered (entry 0 [])) 0 (canStart 0) (entry 0 []) = true ∧
    (entry 0 []).epoch = reg (entered (entry 0 [])).eng 0x4100 12 ∧
    { entry 0 [] with epoch := 5 }.epoch ≠ reg (entered { entry 0 [] with epoch := 5 }).eng 0x4100 12 ∧
    nextIs (entered (entry 7 [])) 7 (canStart 0) (entry 7 []) = true ∧
    nextIs (entered (entry 6 [])) 6 (canFollow 0) (entry 6 []) = true ∧
    (let x := entry 5 [2, 0, 1, 0, 3];
      nextIs (entered x) 5 (fun e y => entryByte y.bytes 16 == 2 && canFollow 0 e y) x = true ∧
      leNat ((x.bytes.drop 18).take 2) = 1 ∧ resident (entered x).eng 0 1 = true ∧ translates (entered x).eng 0 1 = true ∧
      (entered x).eng.sems.waiters = []) ∧
    (let x := entry 5 [3, 0, 1, 0, 3];
      nextIs (entered x) 5 (fun e y => entryByte y.bytes 16 == 3 && canFollow 0 e y) x = true) ∧
    (let x := entry 5 [1, 0, 1, 0, 0];
      nextIs (entered x) 5 (fun e y => entryByte y.bytes 16 == 1 && canStart 0 e y) x = true ∧
      gateMet (semVal (entered x).eng 0) 0 = true) ∧
    (let x := entry 5 [1, 0, 1, 0, 1];
      nextIs (entered x) 5 (fun e y => entryByte y.bytes 16 == 1 && canStart 0 e y) x = true ∧
      gateMet (semVal (entered x).eng 0) 1 = false) := by decide

/-- A pointer into the host window. -/
def hostPtr (off : Nat) : List Byte := leBytes 8 (0x300000000000 + off)

theorem witness_EntriesReadTheirRecords :
    (∀ op ∈ [1, 3, 8, 9, 10], let x := entry op (hostPtr 64)
      nextIs (entered x) op (fun _ _ => true) x = true ∧
      leNat ((x.bytes.drop 16).take 8) % 64 = 0 ∧ 0x300000000000 ≤ leNat ((x.bytes.drop 16).take 8) ∧
      leNat ((x.bytes.drop 16).take 8) + 256 ≤ 0x400000000000) := by decide

/-- A WEEVIL entry with one copy of 8 bytes from the host window to the start of stack 0. -/
def weevilOf : RingEntry := entry 4 (leBytes 8 (1 + 7 * 8 + 0x300000000000 * 2 ^ 16) ++ zeros 8)

theorem witness_InlineAndWeevilEntries :
    nextIs (entered (entry 2 [])) 2 (fun _ _ => true) (entry 2 []) = true ∧
    (nextIs (entered weevilOf) 4 (fun e y => (checkWeevil e (leNat y.bytes)).isSome || canStart 0 e y) weevilOf = true ∧
      checkWeevil (entered weevilOf).eng (leNat weevilOf.bytes) = none ∧ (smallCmd (leNat weevilOf.bytes) 0).kind = 1 ∧
      ∀ c, c < 3 → (smallCmd (leNat weevilOf.bytes) c).kind = 1 → 0x300000000000 ≤ (smallCmd (leNat weevilOf.bytes) c).src) := by
  decide

/-- The block with one job, of the entry of ring 0. -/
def working (x : Job) : State :=
  let s := entered { entry x.op [] with stage := if x.stage = .ready then .checking else .started }
  { s with eng := { s.eng with jobs := [{ x with ring := some 0 }] } }

/-- A re-shard that sends to one position, with its peer table in the host window. -/
def reshardRec : Nat := 0x300000000000 * 2 ^ 320 + 2 ^ 128 + 2 ^ 8

theorem witness_JobsRun :
    (let x : Job := { id := 7, op := 9, ring := some 0, stage := .ready };
      let e := (working x).eng;
      jobOf e 7 = some x ∧ x.step = 0 ∧ x.waits = [] ∧ mayStart e 0 0 0 = true ∧ e.fw.ringHeld = false ∧ dispatching e = true ∧
      chooseStation e x = some 0 ∧ (regionOf (blockPlace e { x with station := some 0 } 0).header).1 = .stack) ∧
    (let x : Job := { id := 7, op := 10, ring := some 0, stage := .ready, desc := reshardRec };
      let e := (working x).eng;
      jobOf e 7 = some x ∧ planning e = true ∧ mayStart e 0 0 0 = true ∧ e.fw.ringHeld = false ∧ dispatching e = true ∧
      (parseReshard x.desc).targets ≠ [] ∧ (regionOf (parseReshard x.desc).peers).1 = .host ∧
      0 < (parseReshard x.desc).dst.positions) ∧
    (let x : Job := { id := 7, op := 4, ring := some 0, stage := .ended };
      let e := (working x).eng;
      jobOf e 7 = some x ∧ x.waits = [] ∧ x.sends = [] ∧ x.parent = none ∧ jobSignal e x = none ∧ x.epoch = reg e 0x4100 12 ∧
      (jobEnding x).status = .done ∧ ∃ y ∈ (ringOf e 0).entries, y.index = 0 ∧ y.epoch = 0 ∧ y.stage ≠ .complete) ∧
    (jobEnding { id := 7, op := 4, ring := some 0, stage := .ended, ending := some ⟨.hostError, 0x4031⟩ }).status = .hostError ∧
    (let k := (jobEnding { id := 7, op := 4, ring := some 0, stage := .ended, ending := some ⟨.badView, 0x3F14⟩ }).status;
      k ≠ .done ∧ k ≠ .hostError) ∧
    (let x : Job := { id := 7, op := 4, ring := some 0, stage := .reading, waits := [1, 2] };
      let h : HostRead := { id := 1, use := .job 7, cls := 0, data := true, addr := 0x300000000000, len := 4, issued := true };
      let e : Eng := { (working x).eng with
        hostReads := [h] };
      jobOf e 7 = some x ∧ h ∈ e.hostReads ∧ h.id ∈ x.waits ∧ x.waits.erase h.id ≠ [] ∧ (zeros 4).length = h.len ∧
      ∀ g ∈ e.hostReads, g.id = h.id → g = h) := by decide
/-! ### Witnesses: crossings, spine and UCIe modules -/

/-- Crossing 23 in training, at a step and an attempt, at the limit of its time. -/
def training (step attempt since : Nat) : State := upWith fun e =>
  put [(0x3917, 1, 1), (0x3917, 3, attempt)] { e with run := .release 5 0 false false, crossings := [(23, { step, since })] }

theorem witness_CrossingsTrain :
    reg up.eng 0x3917 1 ≠ 1 ∧
    (let s := training 4 1 92800;
      reg s.eng 0x3917 1 = 1 ∧ s.eng.now ≤ 92800 + 2 * 3600 ∧ (88#14).toNat ≤ 88 ∧
      (storeGet (fun _ => ({} : Crossing)) s.eng.crossings 23).step = 4) ∧
    (let s := training 5 2 71200;
      reg s.eng 0x3917 1 = 1 ∧ s.eng.now ≤ 71200 + 8 * 3600 ∧
      (storeGet (fun _ => ({} : Crossing)) s.eng.crossings 23).step = 5) ∧
    (let s := training 4 1 92800;
      ¬(s.eng.now ≤ 92800 + 2 * 3600 ∧ (89#14).toNat ≤ 88) ∧ reg s.eng 0x3917 3 = 1) ∧
    (let s := training 1 2 0;
      reg s.eng 0x3917 1 = 1 ∧ ¬(s.eng.now ≤ 0 + 10 * 3600) ∧ reg s.eng 0x3917 3 ≠ 1 ∧
      s.eng.run = .release 5 0 false false) := by decide

theorem pickColumns_mem (n : Nat) : ∀ (pool : List Nat) (x : Nat), x ∈ pickColumns n pool → x = 0 ∨ x ∈ pool := by
  induction n with
  | zero => simp [pickColumns]
  | succ n ih =>
    intro pool x hx
    simp only [pickColumns, List.mem_cons] at hx
    rcases hx with rfl | hx
    · rcases lt_or_ge (Config.secdedPick n % pool.length) pool.length with h | h
      · exact .inr (by rw [List.getD_eq_getElem _ _ h]; exact List.getElem_mem h)
      · exact .inl (List.getD_eq_default _ _ h)
    · exact (ih _ _ hx).imp_right List.mem_of_mem_eraseIdx

theorem judgeWord_double : judgeWord (0#32, 3#7) = .uncorrectable := by
  have h : dataColumns.contains 3 = false := by
    simp only [List.contains_eq_mem, decide_eq_false_iff_not]
    intro hm
    rcases pickColumns_mem _ _ _ hm with h | h
    · exact absurd h (by decide)
    · exact absurd (List.mem_filter.1 h).2 (by decide)
  have e : checkBits (0#32).toNat ^^^ (3#7).toNat = 3 := by decide
  simp only [judgeWord, e, h]
  decide

theorem witness_CrossingsDeliver :
    ((false = false) ∧ ∃ n : Fin 24, (Boundary.crossing 3) = .crossing n) ∧
    ¬((true = false) ∧ ∃ n : Fin 24, (Boundary.crossing 3) = .crossing n) ∧
    judgeWord (0#32, 3#7) = .uncorrectable ∧
    (([(0#32, BitVec.ofNat 7 (checkBits 0))].map judgeWord).count .uncorrectable = 0 ∧
      ([(0#32, BitVec.ofNat 7 (checkBits 0))].map judgeWord).count .poisoned = 0) ∧
    (let l : CardList := ⟨5, 0, false, [⟨0, 0, 0, 0, 0, 0, 0, false, none⟩]⟩;
      let s := upWith (onAgent 23 fun a => { a with lists := [l] });
      nextListSlot (agentOf s.eng 23) = some 5 ∧ (agentOf s.eng 23).lists.filter (·.abs == 5) = [l] ∧
      droppedIn (loseRuns (fun r => decide (3 * 0 < r ∧ r ≤ 3 * 0 + 3)) [l] 0) - droppedIn [l] = 1 ∧
      droppedIn (loseRuns (fun r => decide (3 * 7 < r ∧ r ≤ 3 * 7 + 3)) [l] 0) - droppedIn [l] = 0) ∧
    (let s := upWith (onDock 47 fun d => { d with arriving := [⟨23, 0, 0, 40, ⟨0, 0, 0, 0, 0, 0⟩⟩] });
      (beatTarget s.eng (.crossing 23) false 0).isSome = true) ∧
    (reg up.eng 0x3903 1 ≠ 2 ∧ reg (upAt [(0x3903, 1, 2)]).eng 0x3903 1 = 2 ∧ up.eng.spBase.isSome = true ∧
      (storeGet (fun _ => ({} : Crossing)) up.eng.crossings 3).marks < 1 ∧ some 4095 ≠ some (4096 * 1)) := by
  refine ⟨⟨rfl, 3, rfl⟩, fun h => by simp at h, judgeWord_double, by decide⟩

/-- The spine arbiter with one path eighth held over stitch line 2. -/
def holding (slot : Nat) : State := upWith fun e => { e with spine := { e.spine with held := [(0, slot, [2])] } }

theorem witness_SpineAllocates :
    (inRun .recovery).eng.spBase = some 0 ∧ State.reset.eng.spBase = none ∧
    (let now := max (holding 0).eng.now (0 + 16 * (6400 - 128));
      (holding 0).eng.spine.held = [(0, 0, [2])] ∧ 2 < 3 ∧ 0 < (now - 0) / 16 ∧
      ∀ h ∈ (holding 6272).eng.spine.held, (now - 0) / 16 ≤ h.2.1) := by decide

theorem crc_of_zeros : crc32 (zeros 128 ++ leBytes 4 0) = 3314124062 := by decide +kernel

theorem witness_UcieUnitsAndModules :
    reg up.eng 0x3934 1 ≠ 2 ∧ reg up.eng 0x3930 1 ≠ 1 ∧
    (let s := upAt [(0x3934, 1, 2)];
      reg s.eng 0x3934 1 = 2) ∧
    ((3314124062#32).toNat = crc32 (zeros 128 ++ leBytes 4 0) ∧ (0#32).toNat ≠ crc32 (zeros 128 ++ leBytes 4 0)) ∧
    (let s := upAt [(0x3933, 1, 2)];
      reg s.eng 0x3933 1 = 2 ∧ (0#4).toNat = (linkOf s.eng 1).unitSeq ∧ (zeros 256).length = 256) ∧
    (let s := upAt [(0x3932, 1, 2), (0x3933, 1, 1)];
      reg s.eng 0x3933 1 = 1 ∧ reg s.eng (0x3930 + 2 * 1 + (1 - 3 % 2)) 1 = 2 ∧ reg s.eng 0x5002 1 = 0) ∧
    (let s := upWith fun e => put [(0x3934, 1, 1)] { e with run := .release 3 0 true false };
      reg s.eng 0x3934 1 = 1 ∧ s.eng.run = .release 3 0 true false ∧
      s.eng.now ≤ storeGet (fun _ => 0) s.eng.modules 4 + 1000 * 3600 ∧
      storeGet (fun _ => 0) s.eng.modules 4 + 1000 * 3600 < 3600001) := by
  exact ⟨by decide, by decide, by decide, ⟨crc_of_zeros.symm, by rw [crc_of_zeros]; decide⟩, by decide⟩

/-! ### Witnesses: docks and weight compression -/

/-- A station's dock set. -/
def dockUp (s : Nat) (d : Dock) : State := upWith (onDock s fun _ => d)

theorem takes {e : Eng} {s c : Nat}
    (h : (isReady e && partUp e s && decide ((dockOf e s).hold = none) && !(dockOf e s).contained &&
      (dockOf e s).lastCmd.all fun t => t + 7 < c) = true) : dockTakes e s c := by
  simp only [Bool.and_eq_true, Option.all_eq_true, decide_eq_true_eq, Bool.not_eq_true'] at h
  exact ⟨h.1.1.1.1, h.1.1.1.2, h.1.1.2, h.1.2, fun t ht => h.2 t ht⟩

theorem witness_DockCommandsInReset : isReady (inRun .recovery).eng = false := by decide

theorem witness_DockCommandsTaken :
    ¬(isReady (inRun .recovery).eng = true ∧ partUp (inRun .recovery).eng 47 = true) ∧
    (let s := dockUp 47 { contained := true };
      (isReady s.eng = true ∧ partUp s.eng 47 = true) ∧ (dockOf s.eng 47).contained = true) ∧
    ((dockOf (dockUp 47 { lastCmd := some 10 }).eng 47).lastCmd = some 10 ∧ 17 ≤ 10 + 7) ∧
    dockTakes (dockUp 47 { lastCmd := some 10 }).eng 47 18 ∧ cmdWellFormed (dockWord 8 0) = false ∧
    cmdWellFormed (dockWord 0 1) = false ∧ dockWord 0 0 = 0 := by
  exact ⟨by decide, by decide, by decide, takes (by decide), by decide⟩

/-- The bits [127:4] of a dock command for a slot and a stream number. -/
def cmdBits (slot id align count : Nat) : BitVec 124 :=
  BitVec.ofNat 124 (slot * 2 ^ 4 + id * 2 ^ 12 + align * 2 ^ 24 + count * 2 ^ 60)

/-- A stream record of one dimension of FP32 elements at the start of stack 0, FP32 on its port. -/
def record (id kind flags ext : Nat) : Nat :=
  id + kind * 2 ^ 16 + flags * 2 ^ 24 + 2 ^ 32 + (1 + 2 ^ 6 + 7 * 2 ^ 31 + ext * 2 ^ 128 + 2 ^ 320) * 2 ^ 64

/-- Station 47 with a record in slot 0, its queue of two pages, and entries set. -/
def slotted (rec : Nat) (l : List (Nat × Nat × Nat)) (d : Dock) : State :=
  upWith fun e => onDock 47 (fun _ => { d with committed := [(0, rec)] }) (put ((stIdx 47 2, 1, 2 * 2 ^ 16) :: l) e)

/-- A record gated by counter 31. -/
def gated : Nat := record 5 1 0 256 + 31 * 2 ^ 56 + 2 ^ 61

/-- A hold on counter 31, its condition first met and its release set as given. -/
def holdAt (first met : Option Nat) : Hold := ⟨0, 31, 1, 4, 10, first, met⟩

theorem witness_StreamsArmAndHold :
    (let x := dockWord 1 (cmdBits 0 5 0 0);
      cmdWellFormed x = true ∧ reg (slotted 0 [(0x6000, 1, 6)] {}).eng 0x6000 1 = 6) ∧
    (let x := dockWord 1 (cmdBits 0 5 4 0);
      let s := slotted (record 5 1 0 256) [] {};
      dockTakes s.eng 47 100 ∧ cmdWellFormed x = true ∧ reg s.eng 0x6000 1 ≠ 6 ∧ namesRecord (dockOf s.eng 47) x = true ∧
      streamOf (dockOf s.eng 47) 0 = none ∧ queueFree s.eng 47 0 (recOf (dockOf s.eng 47) 0) = true ∧
      (recOf (dockOf s.eng 47) 0).gateEn = false) ∧
    (let x := dockWord 1 (cmdBits 0 5 0 1);
      let s := slotted gated [] { holdLens := [(31, 2 ^ 40)] };
      dockTakes s.eng 47 100 ∧ cmdWellFormed x = true ∧ namesRecord (dockOf s.eng 47) x = true ∧
      queueFree s.eng 47 0 (recOf (dockOf s.eng 47) 0) = true ∧ (recOf (dockOf s.eng 47) 0).gateEn = true ∧
      gateMet (reg s.eng (stIdx 47 3) 32) (x / 2 ^ 64 % 2 ^ 32) = false ∧
      reg s.eng 0x5103 1 < storeGet (fun _ => 0) (dockOf s.eng 47).holdLens 31) ∧
    (storeGet (fun _ => 0) (dockOf (slotted gated [] {}).eng 47).holdLens 31 ≤ reg (slotted gated [] {}).eng 0x5103 1 ∧
      gateMet (reg (slotted gated [(stIdx 47 3, 32, 1)] {}).eng (stIdx 47 3) 32) 1 = true) ∧
    (let s := slotted gated [(stIdx 47 4, 2, 2)] { hold := some (holdAt (some 16394) none) };
      (dockOf s.eng 47).hold = some (holdAt (some 16394) none) ∧ (dockOf s.eng 47).lent = false ∧
      16394 ≤ 10 + 8192 * reg s.eng (stIdx 47 4) 2 ∧ 10 + 8192 * reg s.eng (stIdx 47 4) 2 < 16395) ∧
    (dockOf (slotted gated [] { lent := true, hold := some (holdAt none none) }).eng 47).hold = some (holdAt none none) ∧
    (holdAt none none).first = none ∧
    (dockOf (slotted gated [] { hold := some (holdAt (some 20) (some 20)) }).eng 47).hold = some (holdAt (some 20) (some 20)) := by
  exact ⟨by decide, ⟨takes (by decide), by decide⟩, ⟨takes (by decide), by decide⟩, by decide⟩

/-- Whether the formats and the unit group of slot 0 serve a stream. -/
def serves (s : State) (kind : Nat) : Bool × Bool :=
  let d := dockOf s.eng 47
  let t := streamTmd (recOf d 0) 0
  (streamRules t.ops t.src t.dst, (if kind = 1 then d.operandGate else d.resultGate).isOpen)

theorem witness_StreamsStartAndCancel :
    (let x := dockWord 2 (cmdBits 0 5 0 0);
      let s := slotted (record 5 1 0 256) [] { streams := [(0, { armedAt := 0 })], operandGate := .opened };
      dockTakes s.eng 47 0 ∧ cmdWellFormed x = true ∧ namesRecord (dockOf s.eng 47) x = true ∧
      streamOf (dockOf s.eng 47) 0 = some { armedAt := 0 } ∧ (recOf (dockOf s.eng 47) 0).kind = 1 ∧
      deliversAfter (dockOf s.eng 47) 0 24 = false ∧ serves s 1 = (true, true)) ∧
    (let x := dockWord 4 (cmdBits 0 5 0 0);
      let s := slotted (record 5 2 0 256) [] { streams := [(0, { armedAt := 0 })] };
      dockTakes s.eng 47 0 ∧ cmdWellFormed x = true ∧ namesRecord (dockOf s.eng 47) x = true ∧
      (recOf (dockOf s.eng 47) 0).kind = 2 ∧ resultOpen (dockOf s.eng 47) 0 = false ∧ serves s 2 = (true, false)) ∧
    (serves (slotted (record 5 1 0 256 + 2 ^ 32) [] {}) 1).1 = false ∧
    streamOf (dockOf (slotted (record 5 1 0 256) [] {}).eng 47) 0 = none ∧
    (let d := dockOf (slotted (record 5 2 0 256) [] { streams := [(0, { armedAt := 0 }), (3, { armedAt := 0, started := some 1 })] }).eng 47;
      (recOf d 0).kind = 2 ∧ streamOf d 0 = some { armedAt := 0 } ∧
      resultOpen { d with committed := (3, record 6 2 0 256) :: d.committed } 0 = true) ∧
    (let x := dockWord 3 (cmdBits 0 5 0 0);
      let s := slotted (record 5 1 0 256) [] { streams := [(0, { armedAt := 0 })] };
      dockTakes s.eng 47 0 ∧ cmdWellFormed x = true ∧ namesRecord (dockOf s.eng 47) x = true ∧
      streamOf (dockOf s.eng 47) (cmdSlot x) = some { armedAt := 0 }) ∧
    (let y : Stream := { armedAt := 0, cancelAt := some 7 };
      streamOf (dockOf (slotted 0 [] { streams := [(127, y)] }).eng 47) 127 = some y ∧ y.cancelAt = some 7) := by
  exact ⟨⟨takes (by decide), by decide⟩, ⟨takes (by decide), by decide⟩, by decide, by decide, by decide,
    ⟨takes (by decide), by decide⟩, by decide⟩

theorem witness_PostsAndUnitGroups :
    (dockTakes up.eng 47 0 ∧ cmdWellFormed (dockWord 5 (BitVec.ofNat 124 ((31 * 2 ^ 38 + 7 * 2 ^ 64) / 16))) = true) ∧
    letThrough .h (stIdx 47 4) 1 up ∧
    (let p : Post := ⟨31, 2, 20⟩;
      let d := dockOf (dockUp 47 { posts := [p, ⟨31, 3, 20⟩, ⟨30, 1, 5⟩] }).eng 47;
      p ∈ d.posts ∧ p.ctr = 31 ∧ (∀ q ∈ d.posts, q.ctr = 31 → p.due ≤ q.due) ∧ ∀ q ∈ d.posts, q.ctr ≠ 29) ∧
    cmdWellFormed (dockWord 6 (BitVec.ofNat 124 (2 ^ 42 + 2 ^ 43))) = true ∧
    cmdWellFormed (dockWord 7 (BitVec.ofNat 124 (2 ^ 43))) = true ∧
    (∃ f : Gate → Gate, f .closed = .opening (0 + 180) ∧ f .closing = .opened ∧ f .opened = .opened ∧
      ∀ a, f (.opening a) = .opening a) ∧
    (20000 < ((List.replicate 6 ((99999, 4000) : Nat × Int)).foldl (fun (a : Int) (g : Nat × Int) => a + g.2) 0).natAbs ∧
      up.eng.power.ramps = []) ∧
    (∃ f : Gate → Gate, f .opened = .closing ∧ f .closed = .closed ∧ f .closing = .closing ∧ ∀ a, f (.opening a) = .closed) ∧
    (dockOf (dockUp 47 { operandGate := .opening 9 }).eng 47).operandGate = .opening 9 ∧
    (let d := dockOf (slotted (record 5 1 0 256) []
        { operandGate := .closing, resultGate := .closing, streams := [(0, { armedAt := 0, started := some 1 })] }).eng 47;
      d.operandGate = .closing ∧ groupInUse d false = true ∧ d.resultGate = .closing ∧ groupInUse d true = false) := by
  refine ⟨⟨takes (by decide), by decide⟩, by unfold letThrough; decide, by decide, by decide, by decide,
    ⟨fun g => match g with | .closed => .opening 180 | .closing => .opened | g => g, rfl, rfl, rfl, fun _ => rfl⟩, by decide,
    ⟨fun g => match g with | .opened => .closing | .opening _ => .closed | g => g, rfl, rfl, rfl, fun _ => rfl⟩, by decide,
    by decide⟩

theorem witness_StreamsMove :
    ¬(isReady (partIn 47 (.hold 5)).eng = true ∧ partUp (partIn 47 (.hold 5)).eng 47 = true) ∧
    (isReady up.eng = true ∧ partUp up.eng 47 = true ∧ openResult (dockOf up.eng 47) 100 = none) ∧
    (let x : Stream := { armedAt := 0, started := some 92 };
      let s := slotted (record 5 2 0 256) [] { streams := [(0, x)] };
      openResult (dockOf s.eng 47) 100 = some (0, x) ∧ streamOf (dockOf s.eng 47) 0 = some x ∧
      x.beat + 1 < resultBeats (recOf (dockOf s.eng 47) 0)) ∧
    (let x : Stream := { armedAt := 0, started := some 92, beat := 1 };
      let s := slotted (record 5 1 0 256) [] { streams := [(0, x)] };
      let r := recOf (dockOf s.eng 47) 0;
      streamOf (dockOf s.eng 47) 0 = some x ∧ r.kind = 1 ∧ x.beat < r.beats ∧ x.beat + 1 = r.beats ∧ r.decode = false ∧
      r.pass = false) ∧
    (let x : Stream := { armedAt := 0, started := some 92, beat := 1, poisoned := true };
      let s := slotted (record 5 2 0 256) [] { streams := [(0, x)] };
      openResult (dockOf s.eng 47) 100 = some (0, x) ∧ streamOf (dockOf s.eng 47) 0 = some x ∧ x.poisoned = true ∧
      ({ x with beat := resultBeats (recOf (dockOf s.eng 47) 0) - 1 }).beat + 1 = resultBeats (recOf (dockOf s.eng 47) 0)) ∧
    (let b : TallySum := ⟨1, false, false⟩;
      let y : TallyTile := ⟨0, 30, [b, b]⟩;
      (dockOf (dockUp 47 { tally := [y] }).eng 47).tally = y :: [] ∧ y.sums = b :: [b] ∧ ([b] : List TallySum).drop 1 = [] ∧
      ([b, b] : List TallySum).drop 1 ≠ []) ∧
    (let x : Stream := { armedAt := 0, started := some 92 };
      let s := slotted (record 5 1 1 1024) [] { streams := [(0, x)] };
      let r := recOf (dockOf s.eng 47) 0;
      r.decode = true ∧ r.kind = 1 ∧ x.nextBlock < r.view.blocks ∧ x.cancelAt = none ∧ x.poisoned = false) ∧
    (dockOf up.eng 47).arriving = [] ∧
    (let f : InFlight := ⟨0, 0, 0, 40, ⟨0, 0, 0, 0, 0, 0⟩⟩;
      let s := slotted (record 5 1 0 256) [] { streams := [(0, { armedAt := 0 })], arriving := [f] };
      firstArriving (dockOf s.eng 47).arriving = some (f, []) ∧ streamOf (dockOf s.eng 47) 0 = some { armedAt := 0 } ∧
      partUp s.eng 47 = true ∧ (recOf (dockOf s.eng 47) 0).kind ≠ 3 ∧ f.sector.part ≠ 2 ∧
      ({ armedAt := 0, cancelAt := some 7 } : Stream).cancelAt ≠ none ∧
      queueFull s.eng 47 (recOf (dockOf s.eng 47) 0) { armedAt := 0 } = false ∧
      queueFull s.eng 47 (recOf (dockOf s.eng 47) 0) { armedAt := 0, landed := [f.sector], landCount := 256 } = true) := by
  decide

/-- A Huffman table of 16 symbols of 4 bits each, with a tag. -/
def tableOf (tag : Nat) : Nat := tag * 2 ^ 8 + 0x4444444444444444 * 2 ^ 128

theorem witness_RecordsAndTableSlots :
    (let s := upWith (setDomNat (stIdx 47 1) 1 (128 * 127) 128 (record 5 1 0 256));
      let r := parseStream (domNat s.eng (stIdx 47 1) 1 (128 * 127) 128);
      letThrough .h (stIdx 47 1) 2 s ∧ streamOf (dockOf s.eng 47) 127 = none ∧
      firstDetail (recordChecks s.eng 47 127 r r.kind) = none) ∧
    firstDetail (recordChecks up.eng 47 0 (parseStream 0) 0) = some 0x3F11 ∧
    (streamOf (dockOf (dockUp 47 { streams := [(127, { armedAt := 0 })] }).eng 47) 127).isSome = true ∧
    (let s := upWith (setDomNat (stIdx 47 0x27) 1 0 144 (tableOf 31));
      letThrough .h (stIdx 47 0x27) 3 s ∧ reg s.eng (stIdx 47 0x27) 2 = 0 ∧ tableLoadOk s.eng 47 7 = true) ∧
    tableLoadOk (upWith (setDomNat (stIdx 47 0x27) 1 0 144 (2 ^ 128 - 1))).eng 47 7 = false ∧
    (let s := upAt [(stIdx 47 0x27, 2, 1), (stIdx 47 0x27, 6, 1)];
      letThrough .h (stIdx 47 0x27) 3 s ∧ reg s.eng (stIdx 47 0x27) 2 = 1 ∧ reg s.eng (stIdx 47 0x27) 6 ≠ 0 ∧
      reg (upAt [(stIdx 47 0x27, 2, 1)]).eng (stIdx 47 0x27) 6 = 0) ∧
    (let s := slotted (record 5 1 1 1024) [] { decodeWaits := [3], streams := [(0, { armedAt := 0, started := some 92 })] };
      (dockOf s.eng 47).decodeWaits = 3 :: [] ∧ staticDue s.eng 47 108 = true ∧ staticDue s.eng 47 0 = false ∧
      (dockOf s.eng 47).admits = [] ∧ jobOf s.eng 3 = none ∧ (dockOf s.eng 47).waitWindow = none) ∧
    (dockOf (dockUp 47 { decodeWaits := [3], admits := [9], waitWindow := some 2 }).eng 47).waitWindow = some (16 / 8) ∧
    (let x : Job := { id := 3, op := 9, station := some 47, refs := [(0, .stored)] };
      let s := upWith fun e => { onDock 47 (fun _ => { decodeWaits := [3] }) e with jobs := [x] };
      jobOf s.eng 3 = some x ∧ staticDue s.eng 47 0 = false) ∧
    (dockOf up.eng 47).decodeWaits = [] := by unfold letThrough; decide

/-! ### Witnesses: cards and the Deck -/

/-- Agent 23 initialised and changed, with entries set. -/
def agentUp (l : List (Nat × Nat × Nat)) (f : Agent → Agent) : State :=
  upWith fun e => onAgent 23 (fun a => f { a with initDone := true }) (put l e)

/-- A card's list of one sector, for station 0. -/
def listOf (wr : Bool) : CardList := ⟨6401, 0, wr, [⟨0, 0, 0, 0, 64, 0, 0, false, some []⟩]⟩

theorem witness_StaticCards :
    State.reset.eng.spBase = none ∧
    ((agentOf (agentUp [] fun a => { a with lists := [listOf false] }).eng 23).lists.any fun l => l.abs == 6401) = true ∧
    (up.eng.spBase = some 0 ∧ ((agentOf up.eng 23).lists.any fun l => l.abs == 6401) = false) ∧
    (let s := agentUp [] fun a => { a with lists := [listOf false] };
      ((agentOf s.eng 23).lists.find? fun l => l.abs == 6401 && l.group == 0) = some (listOf false) ∧
      partUp s.eng (48 + 23) = true) ∧
    partUp (partIn (48 + 23) (.hold 5)).eng (48 + 23) = false ∧
    (let l := listOf false;
      (ruleList up.eng 23 6401 0 [] l.sectors []).2 = [] ∧
      (ruleList up.eng 23 6401 0 [] [⟨0, 0, 0, 0, 0, 0, 0, false, none⟩, ⟨0, 0, 0, 0, 2 ^ 12, 1, 0, false, none⟩] []).2 ≠ []) ∧
    (let s := agentUp [(0x3800, 6, 0)] fun a => { a with kept := [listOf true] };
      let moved := moving (readHandEntry 23 6401 0 .clean s.eng) 23 6401 0 (listOf true);
      (moved.filter fun x => x.drawn.isSome && stillWrites s.eng 6401 x) = moved ∧ moved = (listOf true).sectors ∧
      moved.filter (fun y => y.off / 32 == 64 / 32) = moved ∧ blankAt s.eng 23 (6401 / 512) = false) ∧
    (∀ wr ∈ [false, true],
      ((agentOf (agentUp [] fun a => { a with kept := [listOf wr] }).eng 23).kept.find? fun l =>
        l.abs == 6401 && l.group == 0 && l.write == wr) = some (listOf wr)) := by decide

/-- A read request for the first sector of a stack. -/
def readReq : Req := { id := 1, owner := .job 0, kind := .read, lane := 0, cls := 0, lst := 2 ^ 40, group := 0, sects := [⟨0, []⟩] }

/-- A burst that leaves to station 0. -/
def burstOf : Burst :=
  { owner := none, req := 0, lane := 5, hand := 60248, station := some (0, 0, ⟨0, 0, 0, 0, 0, 0⟩), off := 64, readAt := 60000 }

/-- Agent 23 with every tag taken. -/
def tagless : State := agentUp [] fun a => { a with pending := (below 4096).map fun t => { readReq with tag := t } }

theorem tagless_has_none : freeTag (agentOf tagless.eng 23) = none := by
  have h : (agentOf tagless.eng 23).pending = (below 4096).map fun t => { readReq with tag := t } := rfl
  simp only [freeTag, tagged, List.find?_eq_none, List.all_eq_true, List.mem_append, h]
  intro t ht hall
  have := hall { readReq with tag := t } (.inl (List.mem_map.2 ⟨t, ht, rfl⟩))
  simp at this

theorem witness_DynamicCards :
    (let s := agentUp [] fun a => { a with inbox := [readReq] };
      leastReq Req.downBefore ((agentOf s.eng 23).inbox.filter fun x =>
        (canArrive s.eng 23 x).isSome && stagingRoom (agentOf s.eng 23) x) = some readReq ∧
      readReq.spine = none ∧ partUp s.eng (48 + 23) = true ∧ freeTag (agentOf s.eng 23) = some 0 ∧
      downFree s.eng 23 = true) ∧
    (let s := agentUp [(agIdx 23 1, 3, 0)] fun a => { a with pending := [readReq], allowance := 1 };
      let a := agentOf s.eng 23;
      kindAt s.eng 23 6401 0 = .dynamic ∧ a.initDone = true ∧ (a.grants.any fun x => x.abs == 6401 && x.group == 0) = false ∧
      a.pending = [readReq] ∧ a.catchups = [] ∧
      fitOn (advanceCycle (2 * (8 * 6401 - 32)) s.eng) 23 6401 0 [] readReq = readReq.sects ∧
      readReq.sects ≠ [] ∧ readReq.lane < 3 ∧ readReq.cls < 2 ∧ readReq.spine = none ∧
      reg s.eng (agIdx 23 0) 3 = 0 ∧ reg s.eng (agIdx 23 1) 3 = 0 ∧ a.windowCards < a.allowance) ∧
    (let s := agentUp [] id;
      kindAt s.eng 23 6401 0 = .dynamic ∧ (agentOf s.eng 23).pending = [] ∧ (agentOf s.eng 23).catchups = []) ∧
    (∀ x ∈ [({ abs := 6401, group := 0, parts := [readReq] } : Grant), { abs := 6401, group := 0, parts := [], refresh := some 15 },
        { abs := 6401, group := 0, parts := [readReq], refresh := some 15, trump := true },
        { abs := 6401, group := 0, parts := [{ readReq with kind := .repair, owner := .repair, sects := [⟨0, [.bits 0 255 1 false]⟩] }] }],
      let s := agentUp [] fun a => { a with grants := [x] };
      ((agentOf s.eng 23).grants.find? fun x => x.abs == 6401 && x.group == 0) = some x ∧ (agentOf s.eng 23).grants = [x]) ∧
    (let s := agentUp [] fun a => { a with bursts := [burstOf] };
      firstBurst (agentOf s.eng 23).bursts = some burstOf ∧ burstOf.station = some (0, 0, ⟨0, 0, 0, 0, 0, 0⟩) ∧ burstOf.captured = none ∧ burstOf.lostRoute = false) := by decide

theorem witness_RefreshAndService :
    refreshBank up.eng 23 6401 0 = none ∧
    (let s := agentUp [] fun a => { a with owed := [(8, -7)] };
      refreshBank s.eng 23 6400 0 = some 8 ∧ (agentOf s.eng 23).initDone = true ∧ owedOf s.eng 23 0 8 ≠ -8 ∧
      owedOf s.eng 23 0 8 - 1 < reg s.eng (agIdx 23 2) 1) ∧
    (let s := agentUp [] fun a => { a with owed := [(8, 2), (63, 7)] };
      (reg s.eng (agIdx 23 2) 1 : Int) ≤ owedOf s.eng 23 0 8 - 1 ∧ lastChance s.eng 23 ⟨0, 8, 6400⟩ ≠ none ∧
      owedOf s.eng 23 3 15 = 7) ∧
    (agentOf up.eng 23).initDone = false ∧
    (letThrough .h (agIdx 23 0) 3 up ∧ (1#8).toNat ≤ 1 ∧ 1 < (2#8).toNat) ∧
    (let s := agentUp [(agIdx 23 3, 2, 2 ^ 24 - 2)] id;
      (agentOf s.eng 23).initDone = true ∧ (agentOf s.eng 23).scrubFrame ≠ frameNo s.eng ∧ 0 < reg s.eng (agIdx 23 3) 1 ∧
      reg s.eng (agIdx 23 3) 2 + 1 < 2 ^ 24 ∧ reg up.eng (agIdx 23 3) 1 ≤ 1) ∧
    reg (agentUp [(agIdx 23 3, 2, 2 ^ 24 - 1)] id).eng (agIdx 23 3) 2 + 1 = 2 ^ 24 ∧
    (let s := agentUp [] fun a => { a with scrubFrame := frameNo up.eng, scrubbed := 255 };
      reg s.eng (agIdx 23 3) 1 ≤ (agentOf s.eng 23).scrubbed ∧ (agentOf s.eng 23).scrubFrame = frameNo s.eng) ∧
    reg up.eng (agIdx 23 0) 1 ≠ 1 ∧
    (let s := agentUp [(agIdx 23 0, 1, 1)] fun a => { a with initAt := some 0 };
      reg s.eng (agIdx 23 0) 1 = 1 ∧ (agentOf s.eng 23).initAt = some 0 ∧ s.eng.run = .ready ∧
      s.eng.now ≤ 0 + 50000 * 3600 ∧ 0 + 50000 * 3600 < 180000001) ∧
    (agentOf up.eng 23).initAt = none ∧ (inRun (.release 6 0 true false)).eng.run = .release 6 0 true false := by unfold letThrough; decide

theorem witness_SwapsAndFrames :
    (letThrough .h 0x3810 4 (upAt [(0x3810, 5, 4)]) ∧ reg (upAt [(0x3810, 5, 4)]).eng 0x3810 5 = 4) ∧
    (letThrough .h 0x3810 4 up ∧ reg up.eng 0x3810 5 ≠ 4 ∧ reg up.eng 0x3810 5 ≠ 1) ∧
    (let s := upWith fun e => setDomNat 0x3880 1 0 16 (15 * 2 ^ 28) (put [(0x3810, 5, 1)] e);
      reg s.eng 0x3810 5 = 1 ∧ (loadChecks s.eng).isSome = true) ∧
    (let s := upWith fun e => put [(0x3810, 5, 2), (0x3810, 1, 13)] { e with nextFrame := 13 };
      s.eng.spBase = some 0 ∧ reg s.eng 0x3810 5 = 2 ∧ reg s.eng 0x3810 1 ≤ s.eng.nextFrame) ∧
    (let s := upWith fun e => put [(0x3810, 5, 2), (0x3810, 1, 14)] { e with nextFrame := 13 };
      s.eng.nextFrame < reg s.eng 0x3810 1) ∧
    (let s := upWith fun e => put [(0x3810, 5, 1), (0x3810, 1, 13)] { e with nextFrame := 13 };
      reg s.eng 0x3810 1 ≤ s.eng.nextFrame ∧ reg s.eng 0x3810 1 ≠ 0 ∧ s.eng.deck.late = false) ∧
    (let s := upWith fun e => { e with nextFrame := 13, deck := { e.deck with decided := some 13 } };
      s.eng.deck.decided = some s.eng.nextFrame) ∧ up.eng.deck.decided ≠ some up.eng.nextFrame ∧
    partHeld (partIn (48 + 23) (.hold 5)).eng (48 + 23) = true ∧ partHeld up.eng (48 + 23) = false ∧
    bit (reg (upAt [(0x3800, 6, 0)]).eng 0x3800 6) 23 = false := by
  unfold letThrough; decide

/-! ### Witnesses: remote traffic and synchronisation -/

/-- Link agent 1 enabled, its channel 4095 with an entry of CHANNEL_TABLE, and its hidden state. -/
def linked (entry : Nat) (k : Link) : State := upWith fun e =>
  setDomNat 0x5005 1 (32 * 4095) 32 entry (onLink 1 (fun _ => k) (put [(0x5002, 1, 2), (0x5000, 2, 1)] e))

/-- The entry of an open channel with 64 landing slots. -/
def openEntry : Nat := 1 + 64 * 2 ^ 72

/-- A link whose channel 4095 is as given. -/
def chanAs (c : Chan) : Link := { chans := [(4095, c)] }

theorem witness_EndpointsAndChannels :
    (letThrough .h 0x5000 1 (upAt [(0x5000, 2, 1)]) ∧ reg (upAt [(0x5000, 2, 1)]).eng 0x5000 2 = 1) ∧
    (letThrough .h 0x5000 1 up ∧ reg up.eng 0x5000 2 ≠ 1 ∧ (0x3FFFF#32).toNat < 2 ^ 18 ∧ 2 ^ 18 ≤ (0x40000#32).toNat) ∧
    (letThrough .h 0x5000 2 up ∧ (1#8).toNat = 1 ∧ up.eng.endpointSet = false ∧ 1 < (2#8).toNat ∧ (0#8).toNat = 0) ∧
    (let s := upWith fun e => { e with endpointSet := true };
      letThrough .h 0x5000 2 s ∧ s.eng.endpointSet = true) ∧
    (letThrough .h 0x5005 2 (linked openEntry {}) ∧ chField (linked openEntry {}).eng 1 4095 0 2 ≠ 0) ∧
    (let s := upWith fun e => setDomNat 0x5005 1 (32 * 4095) 32 (64 * 2 ^ 72) (put [(0x5002, 5, 63)] { e with now := 2 ^ 40 });
      letThrough .h 0x5005 2 s ∧ chField s.eng 1 4095 0 2 = 0 ∧
      bits (reg s.eng 0x5002 5) (16 * chField s.eng 1 4095 6 2) 16 <
        slotsHeld s.eng 1 (chField s.eng 1 4095 6 2) + chField s.eng 1 4095 72 7) ∧
    (let s := upWith fun e => setDomNat 0x5005 1 (32 * 4095) 32 (64 * 2 ^ 72) (put [(0x5002, 5, 64)] { e with now := 2 ^ 40 });
      letThrough .h 0x5005 2 s ∧ chField s.eng 1 4095 0 2 = 0 ∧
      slotsHeld s.eng 1 (chField s.eng 1 4095 6 2) + chField s.eng 1 4095 72 7 ≤
        bits (reg s.eng 0x5002 5) (16 * chField s.eng 1 4095 6 2) 16 ∧ quietEnough s.eng 1 4095 = true ∧
      quietEnough { s.eng with now := 0 } 1 4095 = false) ∧
    chField up.eng 1 4095 0 2 ≠ 1 ∧
    (chField (linked openEntry {}).eng 1 4095 0 2 = 1 ∧ (chanOf (linked openEntry {}).eng 1 4095).granted = false) := by
  unfold letThrough; decide +kernel

/-- A whole message on channel 4095: TYPE, header fields above bit 28, payload. -/
def msg (type rest : Nat) (payload : List Byte) : RxMsg := ⟨msgBytes (type + 4095 * 2 ^ 16 + rest * 2 ^ 28) payload, 0, false⟩

/-- A message in the replay store, for job 7. -/
def stored : OutMsg :=
  { id := 3, source := .job 7, channel := 4095, cls := 0, type := 1, body := 0, last := true, group := none, payload := [], pois := 0,
    since := 0, sends := 1, sentAt := some 0 }

theorem witness_GrantsAndResponses :
    (let m := msg 0x10 (64 * 2 ^ 132) [];
      let s := linked openEntry { arrived := [m] };
      (linkOf s.eng 1).arrived = m :: [] ∧ arrivesSound s.eng 1 m ∧ (linkOf s.eng 1).waiting = [] ∧ bits m.header 0 8 = 0x10 ∧
      bits m.header 10 4 = chField s.eng 1 (bits m.header 16 12) 87 4) ∧
    (let m := msg (0x10 + 2 ^ 10) (1 * 2 ^ 132) [];
      let s := linked openEntry { arrived := [m] };
      arrivesSound s.eng 1 m ∧ bits m.header 10 4 ≠ chField s.eng 1 (bits m.header 16 12) 87 4) ∧
    (let m := msg 0x11 (2 ^ (160 - 28)) [];
      let s := linked openEntry { arrived := [m], store := [stored] };
      arrivesSound s.eng 1 m ∧ bits m.header 0 8 = 0x11 ∧
      gateMet (bits m.header 160 32) (chanOf s.eng 1 4095).ackTaken = true ∧
      (stored.channel == 4095 && !gateMet stored.seq (bits m.header 160 32)) = true) ∧
    (let m := msg 0x11 (5 * 2 ^ (192 - 28)) [];
      let s := linked openEntry { arrived := [m], store := [stored] };
      arrivesSound s.eng 1 m ∧ (stored.channel == 4095 && !gateMet stored.seq (bits m.header 160 32)) = false ∧
      (stored.channel == 4095 && bits m.header 192 8 ≠ 0 && stored.seq == bits m.header 160 32) = true) ∧
    (let m := msg 0x11 0 [];
      let s := linked openEntry (let k := chanAs { ackTaken := 1 }; { k with arrived := [m] });
      arrivesSound s.eng 1 m ∧ gateMet (bits m.header 160 32) (chanOf s.eng 1 4095).ackTaken = false) := by
  unfold arrivesSound; decide +kernel

/-- One chunk of a class on its way out. -/
def chunkOf (cls : Nat) : Chunk := { cls, som := true, pois := 0, bytes := zeros 32 }

theorem witness_FlitsAndCredits :
    (let s := linked 0 { stream := [chunkOf 0], credits := [(0, 1)] };
      linkEnabled s.eng 1 = true ∧ canSend (linkOf s.eng 1) 0 = true) ∧
    (let s := linked 0 { stream := [chunkOf 3], credits := [(3, 1)], turn := 3 };
      linkEnabled s.eng 1 = true ∧ canSend (linkOf s.eng 1) 0 = false ∧ canSend (linkOf s.eng 1) 3 = true ∧
      (linkOf s.eng 1).used < bits (reg s.eng 0x5002 2) 16 8) ∧
    (let s := linked 0 { stream := [chunkOf 3], credits := [(3, 1)], turn := 1 };
      linkEnabled (pump 1 s.eng) 1 = true ∧ canSend (linkOf (pump 1 s.eng) 1) 0 = false ∧
      nextClass (pump 1 s.eng) 1 (linkOf (pump 1 s.eng) 1) 4 1 0 = some (3, 3, 1)) ∧
    (let s := linked 0 {};
      canSend (linkOf (pump 1 s.eng) 1) 0 = false ∧ nextClass (pump 1 s.eng) 1 (linkOf (pump 1 s.eng) 1) 4 1 0 = none) ∧
    (∀ c ∈ ({ stream := [chunkOf 0] } : Link).stream, c.bytes.length = 32) ∧
    linkEnabled up.eng 1 = false ∧ (∀ c, canSend (linkOf (linked 0 {}).eng 1) c = false) ∧
    (zeros 255).length ≠ 256 ∧ (zeros 256).length = 256 ∧ partUp (partIn 73 (.hold 5)).eng 73 = false ∧
    (partUp up.eng 73 = true ∧ (linkOf up.eng 1).partial_.lookup 3 = none ∧ wholeLength ((zeros 256).take 32) ≤ 32) := by
  exact ⟨by decide, by decide, by decide, by decide, by decide, by decide, fun _ => rfl, by decide⟩

/-- A message held at its receiver. -/
def heldMsg (type rest : Nat) (payload : List Byte) : InMsg := { id := 9, seq := 0, bytes := (msg type rest payload).bytes, pois := 0 }

theorem witness_MessagesApply :
    (let m : RxMsg := { msg 1 0 [] with short := true };
      (linkOf (linked openEntry { arrived := [m] }).eng 1).arrived = m :: [] ∧ bits m.header 0 8 ≠ 0x10 ∧
      bits m.header 0 8 ≠ 0x11 ∧ m.intact = false) ∧
    (let m := msg 1 (4 * 2 ^ 10 + 63 * 2 ^ 100) (zeros 4);
      let s := linked openEntry { arrived := [m] };
      arrivesSound s.eng 1 m ∧ bits m.header 16 12 = 4095 ∧ bits m.header 10 4 = chField s.eng 1 4095 87 4 ∧
      (bits m.header 128 32 + 2 ^ 32 - chField s.eng 1 4095 160 32) % 2 ^ 32 < chField s.eng 1 4095 72 7 ∧
      ∀ y ∈ (chanOf s.eng 1 4095).held, y.seq ≠ bits m.header 128 32) ∧
    (let m := heldMsg 1 (4 * 2 ^ 10 + 0x017FFFFFFFFC * 2 ^ 132) (zeros 4);
      let s := linked (openEntry + 65534 * 2 ^ 192) (chanAs { held := [m], durable := 7 });
      headMessage s.eng 1 4095 = some m ∧ bits m.header 0 8 = 1 ∧ m.inQueue = false ∧
      bits m.header 160 46 + bits m.header 38 13 ≤ 0x018000000000 ∧ 0 < bits m.header 38 13 ∧
      chField s.eng 1 4095 49 1 = 0 ∧ m.header.testBit 14 = false ∧ chField s.eng 1 4095 192 16 < 65535 ∧
      (chanOf s.eng 1 4095).durable < 8) ∧
    (let m := heldMsg 1 (4 * 2 ^ 10 + 0x017FFFFFFFFD * 2 ^ 132) (zeros 4);
      let s := linked openEntry (chanAs { held := [m] });
      headMessage s.eng 1 4095 = some m ∧ 0x018000000000 < bits m.header 160 46 + bits m.header 38 13) ∧
    (let m := heldMsg 6 (1 * 2 ^ 132 + 7 * 2 ^ 142) [];
      let s := linked openEntry (chanAs { held := [m] });
      let s : State := { s with eng := setDomNat 0x5101 1 4 4 0x3000 s.eng };
      (chanOf s.eng 1 4095).held = [m] ∧ headMessage s.eng 1 4095 = some m ∧ bits m.header 0 8 = 6 ∧
      chField s.eng 1 4095 192 16 = 0 ∧ m.header.testBit 14 = false ∧
      translates s.eng (chField s.eng 1 4095 64 6) (bits m.header 160 10) = true ∧
      resident s.eng (chField s.eng 1 4095 64 6) (bits m.header 160 10) = true ∧ s.eng.sems.waiters = []) ∧
    (let m := heldMsg 1 (4 * 2 ^ 10) (zeros 4);
      let s := linked (openEntry + 2 ^ 192) (chanAs { applied := [m] });
      (chanOf s.eng 1 4095).applied = [m] ∧ m.durable = false ∧ m.waits = [] ∧ bits m.header 0 8 ≠ 6 ∧
      chField s.eng 1 4095 0 2 = 1 ∧ chField s.eng 1 4095 192 16 = 1) ∧
    (∀ n ∈ [1, 300], let m := { stored with sends := n };
      let s := linked openEntry { store := [m] };
      (linkOf s.eng 1).store = [m] ∧ m.channel = 4095 ∧ m.sentAt = some 0 ∧ chField s.eng 1 4095 0 2 = 1 ∧
      (linkOf s.eng 1).waiting = []) ∧
    (1 ≤ reg up.eng 0x5002 4 ∧ reg up.eng 0x5002 4 < 300) := by unfold arrivesSound; decide +kernel

/-- Queue 63 of link 1, of a log size and with its read index at an address, in which zeros stand, active, with channel
4095 given to it. -/
def queued (log a : Nat) (m : InMsg) (w : Nat) : State :=
  let s := linked (openEntry + 2 ^ 49 + 63 * 2 ^ 50) (let k := chanAs { held := [m] }; { k with queues := [(63, { write := w })] })
  let e := setMemBytes a (zeros 4) (setDomNat 0x5007 1 (32 * 63 + 16) 8 a (setDomNat 0x5007 1 (32 * 63 + 8) 1 log s.eng))
  { s with eng := put [(0x5007, 3, 2 ^ 63)] e }

theorem witness_QueuesAndCuts :
    (letThrough .h 0x5007 2 up ∧ queueField up.eng 1 63 16 8 % 4 = 0 ∧ (regionOf (queueField up.eng 1 63 16 8)).1 = .stack) ∧
    (∀ a ∈ [0x200000000000, 0x300000000000], let s := upWith (setDomNat 0x5007 1 (32 * 63 + 16) 8 a);
      queueField s.eng 1 63 16 8 = a ∧ ∀ c, ∀ m ∈ (chanOf s.eng 1 c).held, m.inQueue = false) ∧
    ((regionOf 0x200000000000).1 = .pool ∧ (regionOf 0x300000000000).1 = .host) ∧
    headMessage up.eng 1 4095 = none ∧
    (let m := { heldMsg 1 (4 * 2 ^ 10) (zeros 4) with inQueue := true };
      let s := queued 12 0 m 4032;
      headMessage s.eng 1 4095 = some m ∧ m.inQueue = true ∧ chField s.eng 1 4095 50 6 = 63 ∧
      queueField s.eng 1 63 16 8 = 0 ∧ (queueOf s.eng 1 63).reading = none ∧
      ({ queueOf s.eng 1 63 with reading := some 1 } : RxQueue).reading.isSome = true) ∧
    (let m := { heldMsg 1 (4 * 2 ^ 10) (zeros 4) with inQueue := true };
      let s := queued 12 0x200000000000 m 4032;
      headMessage s.eng 1 4095 = some m ∧ queueField s.eng 1 63 16 8 = 0x200000000000 ∧
      queueActive s.eng 1 63 = true ∧ (queueOf s.eng 1 63).starting = false ∧ liveChannels s.eng 1 = [4095] ∧
      chField s.eng 1 4095 49 1 = 1 ∧ leNat ((readLocal s.eng 0x200000000000 4).map (·.1)) = 0 ∧
      (queueOf s.eng 1 63).write = 4032 ∧ queueField s.eng 1 63 8 1 = 12 ∧ (recordBytes m).length = 64) ∧
    ((4032 % 2 ^ 12 + 64 ≤ 2 ^ 12 ∧ (4032 + 2 ^ 32 - 0) % 2 ^ 32 + 64 ≤ 2 ^ 12) ∧
      (2 ^ 12 < 4064 % 2 ^ 12 + 64 ∧ (4064 + 2 ^ 32 - 4000) % 2 ^ 32 + (2 ^ 12 - 4064 % 2 ^ 12) + 64 ≤ 2 ^ 12) ∧
      ¬(4064 % 2 ^ 12 + 64 ≤ 2 ^ 12 ∧ (4064 + 2 ^ 32 - 0) % 2 ^ 32 + 64 ≤ 2 ^ 12) ∧
      ¬(2 ^ 12 < 4064 % 2 ^ 12 + 64 ∧ (4064 + 2 ^ 32 - 0) % 2 ^ 32 + (2 ^ 12 - 4064 % 2 ^ 12) + 64 ≤ 2 ^ 12)) ∧
    5 ∈ (chanOf (linked openEntry (chanAs { cutGroups := [5] })).eng 1 4095).cutGroups ∧
    (∀ m ∈ (linkOf up.eng 1).waiting, m.channel = 4095 → m.group = none) ∧
    (let m := { stored with group := some 0 };
      let s := linked openEntry { waiting := [m] };
      (linkOf s.eng 1).waiting = [m] ∧ m.group.isSome = true ∧ chField s.eng 1 4095 80 7 = 0 ∧
      chField s.eng 1 4095 0 2 = 1) := by
  refine ⟨by unfold letThrough; decide, fun a ha => ?_, by decide, by decide, by decide +kernel⟩
  simp only [List.mem_cons, List.not_mem_nil, or_false] at ha
  rcases ha with rfl | rfl <;> exact ⟨by decide +kernel, fun c m hm => by cases hm⟩

/-- SEM_MAP's last entry set, and waiters. -/
def mapped (w : Nat) (ws : List Waiter) : State := upWith fun e =>
  setDomNat 0x5101 1 (4096 * 63 + 4 * 1023) 4 w { e with sems := { e.sems with waiters := ws } }

/-- A job's waiter for physical semaphore 4095. -/
def waiterOf : Waiter := ⟨4, 4095, { kind := .waitGe, ctx := 63, v := 1023, value := 5, source := .job 7, limit := 200000 }⟩

/-- Barrier 63 with a record. -/
def barriered (w : Nat) : State := upWith (setDomNat 0x5110 1 (16 * 63) 16 w)

/-- An ADD that waits in the swap queue. -/
def addOf : SemOp := { id := 5, kind := .add, ctx := 63, v := 1023, value := 2, source := .command, limit := 0 }

/-- `mapped` with the swap queue holding the one ADD; and holding it 256 times. -/
def swapped : State := { mapped 0x1FFF [] with eng := { (mapped 0x1FFF []).eng with sems := { swap := [addOf] } } }

@[inherit_doc swapped]
def fullSwap : State :=
  { mapped 0x1FFF [] with eng := { (mapped 0x1FFF []).eng with sems := { swap := List.replicate 256 addOf } } }

theorem witness_Semaphores :
    (letThrough .h 0x5102 1 up ∧ translates up.eng 63 1023 = false) ∧
    (let s := mapped 0x3FFF [];
      letThrough .h 0x5102 1 s ∧ translates s.eng 63 1023 = true ∧ resident s.eng 63 1023 = true ∧ s.eng.sems.waiters = []) ∧
    (let s := mapped 0x1FFF [];
      letThrough .h 0x5102 1 s ∧ translates s.eng 63 1023 = true ∧ resident s.eng 63 1023 = false ∧
      s.eng.sems.swap.length < 256) ∧
    (let s := fullSwap;
      translates s.eng 63 1023 = true ∧ resident s.eng 63 1023 = false ∧ 256 ≤ s.eng.sems.swap.length) ∧
    (let s := swapped;
      semMapDenied s.eng 63 1023 0x3FFF = false ∧ s.eng.sems.queued = [] ∧ s.eng.sems.waiters = [] ∧
      s.eng.sems.swap = [addOf] ∧ addOf.kind = .add ∧ addOf.source = .command) ∧
    letThrough (.f 0) 0x5100 1 up ∧
    (letThrough (.f 0) 0x5101 1 (mapped 0x3FFF [waiterOf]) ∧ semMapDenied (mapped 0x3FFF [waiterOf]).eng 63 1023 0x1FFF = true) ∧
    (letThrough (.f 0) 0x5101 1 up ∧ semMapDenied up.eng 63 1023 0x3FFF = false ∧ up.eng.sems.swap = []) ∧
    (∀ w ∈ (mapped 0 [waiterOf]).eng.sems.waiters, w.id ≠ 5) ∧ (∀ o ∈ up.eng.sems.swap, o.id ≠ 5 ∨ o.kind ≠ .waitGe) ∧
    (mapped 0 [waiterOf]).eng.sems.waiters.find? (fun w => w.id == 4) = some waiterOf ∧
    barrierWatch up.eng (barrierOf up.eng 63) = none ∧
    (let s := barriered (1 + 2 ^ 32);
      (barrierWatch s.eng (barrierOf s.eng 63)).any (fun x => !gateMet x 1) = true) ∧
    (let s := barriered (1 + 2 ^ 78 + 47 * 2 ^ 79);
      (barrierWatch s.eng (barrierOf s.eng 63)).any (fun x => gateMet x 0) = true ∧ (barrierOf s.eng 63).testBit 64 = false ∧
      (barrierOf s.eng 63).testBit 78 = true ∧ bits (barrierOf s.eng 63) 79 6 < 48) ∧
    (let s := barriered (1 + 2 ^ 64 + 2 ^ 65 + 4095 * 2 ^ 66);
      (barrierWatch s.eng (barrierOf s.eng 63)).any (fun x => gateMet x 0) = true ∧ (barrierOf s.eng 63).testBit 64 = true ∧
      (barrierOf s.eng 63).testBit 78 = false ∧ bits (barrierOf s.eng 63) 65 1 = 1 ∧ bits (barrierOf s.eng 63) 66 12 = 4095 ∧
      linkEnabled s.eng 1 = false) ∧
    (let s := linked (openEntry + 5 * 2 ^ 80) {};
      linkEnabled s.eng 1 = true ∧ chField s.eng 1 4095 0 2 = 1 ∧ chField s.eng 1 4095 38 1 = 0 ∧
      chField s.eng 1 4095 80 7 ≠ 0 ∧ (linkOf s.eng 1).waiting = [] ∧ storeUsed s.eng 1 + 32 ≤ 4194304) := by
  unfold letThrough; decide +kernel

/-! ### Witnesses: placement -/

/-- A handle table with one slot in use. -/
def slotUp (k : Nat) (h : HandleSlot) (ops : List (Nat × Nat × Bool)) : State := upWith fun e =>
  { e with heap := { e.heap with slots := [(k, h)], ops } }

/-- An ALLOC request of six granules in field 3, phase 5. -/
def allocReq : Nat := 1 + 3 * 2 ^ 4 + 5 * 2 ^ 7 + 6 * 2 ^ 32

theorem witness_AllocationRequestsAndOperations :
    (letThrough .h 0x5802 1 up ∧ (up.eng.heap.ops.any (·.1 == 1)) = false ∧ allocReqOk allocReq = true ∧
      allocReqOk (1 + 3 * 2 ^ 2) = false) ∧
    (let s := slotUp 65535 { gen := 255, state := .live } [(1, allocReq, false)];
      letThrough .h 0x5802 1 s ∧ (s.eng.heap.ops.any (·.1 == 1)) = true) ∧
    (let s := slotUp 65535 { gen := 255, state := .live } [];
      letThrough (.f 3) 0x5803 1 s ∧ (slotOf s.eng 65535).gen = 0xFFFFFF / 65536 ∧ (slotOf s.eng 65535).state = .live ∧
      freeFails s.eng 0xFFFFFF = none ∧ (slotOf s.eng 0).state = .free ∧ (freeFails s.eng 0).isSome = true ∧
      allocReqOk (2 + 0xFF0 + 0xFFFFFF * 2 ^ 64) = true ∧
      (bits (2 + 0xFF0 + 0xFFFFFF * 2 ^ 64) 0 2 == 2 && (freeFails s.eng 0xFFFFFF).isNone) = true ∧
      (bits allocReq 0 2 == 2 && (freeFails s.eng 0xFFFFFF).isNone) = false) ∧
    up.eng.heap.ops = [] ∧ bits allocReq 0 2 = 1 ∧
    nextSlot (upWith fun e => { e with heap := { e.heap with fresh := 65536 } }).eng = none ∧
    (nextSlot up.eng ≠ none ∧ ¬(reg (upAt [(0x5800, 1, 2 ^ 24 - 1)]).eng 0x5800 1 + 2 ≤ 2 ^ 24)) ∧
    (let s := upAt [(0x5800, 1, 2 ^ 24 - 1)];
      reg s.eng 0x5800 1 + 1 ≤ 2 ^ 24 ∧ baseRowFor s.eng (upFrom 0 6) 1 = none) ∧
    (reg up.eng 0x5800 1 + 2 ≤ 2 ^ 24 ∧ baseRowFor up.eng (upFrom 18 6) 2 = some 0) ∧
    (let req := 2 + 0xFFFFFF * 2 ^ 64;
      bits req 0 2 = 2 ∧ bits req 64 24 = 0xFFFFFF ∧ (freeFails up.eng 0xFFFFFF).isSome = true ∧
      (slotOf (slotUp 65535 { gen := 255, state := .freeing, pins := 1 } [(1, req, true)]).eng 65535).state = .freeing ∧
      (slotOf (slotUp 65535 { gen := 255, state := .freeing } [(1, req, true)]).eng 65535).pins = 0) ∧
    (let s := slotUp 65535 { gen := 7, state := .freeing } [];
      (slotOf s.eng 65535).state = .freeing ∧ (slotOf s.eng 65535).pins = 0 ∧ freeWaits s.eng 65535 = false) := by
  unfold letThrough; decide

/-! ### Witnesses: firmware and mailboxes -/

theorem witness_MailboxControls :
    (letThrough .h 0x6002 2 up ∧ reg up.eng 0x6002 3 = 0 ∧ reg (upAt [(0x6002, 3, 2)]).eng 0x6002 3 ≠ 0) ∧
    (letThrough .h 0x6003 2 up ∧ letThrough .d 0x6003 2 up ∧ letThrough (.f 0) 0x6003 2 up ∧ up.eng.fw.queue = []) ∧
    (let s := upWith fun e => { e with fw := { e.fw with queue := [zeros 256] } };
      letThrough (.f 0) 0x6003 2 s ∧ reg s.eng 0x6003 3 = 0 ∧ s.eng.fw.queue = zeros 256 :: [] ∧ (zeros 256).length ≤ 256) ∧
    (let s := upWith fun e => { e with run := .recovery, fw := { e.fw with queue := [zeros 256] } };
      s.eng.run = .recovery ∧ reg s.eng 0x6003 3 = 0 ∧ s.eng.fw.queue = zeros 256 :: []) := by unfold letThrough; decide

/-- A firmware image of 64 bytes, header only (R353), with compartments 0 for the cores. -/
def imageHead : List Byte :=
  leBytes 4 0x4E52504F ++ [1, 1, 3, 0] ++ zeros 4 ++ leBytes 4 64 ++ zeros 28 ++ leBytes 4 0x30000 ++ zeros 12

/-- Its CRC. -/
def imageSum : Nat := crc32 (imageHead ++ zeros 4)

/-- The image in both regions, and a place of the firmware. -/
def withImage (l : List (Nat × Nat × Nat)) (f : Fw → Fw) : State := upWith fun e =>
  let im := imageHead ++ leBytes 4 imageSum
  put l (setFwBytes regionSize im (setFwBytes 0 im { e with fw := f e.fw }))

/-- A request posted in the mailbox, with CP0 running. -/
def mail (type : Nat) (payload : List Byte) (l : List (Nat × Nat × Nat)) (f : Fw → Fw) : State :=
  let s := withImage ((0x6002, 3, 1) :: (coreIdx 0, 1, 2) :: l) f
  { s with eng := setDomBytes 0x6002 1 0 (mboxHeader type 7 payload.length 0 0 ++ payload) s.eng }

/-- Whether the posted message is sound and of a type. -/
def posts (s : State) (type : Nat) : Bool := (posted s.eng).any fun m => requestBad s.eng m == none && msgField m 1 1 == type

/-- The image is active. -/
def active (f : Fw) : Fw := { f with active := true }

theorem witness_Requests :
    posted up.eng = none ∧
    (posts (mail 6 [] [] id) 6 = true ∧ (mail 6 [] [] id).eng.fw.active = false ∧ posts (mail 1 (zeros 8) [] id) 1 = true) ∧
    ((posted (mail 9 [] [] id).eng).any fun m => requestBad (mail 9 [] [] id).eng m == some 0x6011 && msgField m 0 1 == 3) = true ∧
    ((posted (mail 6 [0] [] id).eng).any fun m => requestLength (msgField m 1 1) == some 0 && msgField m 4 2 != 0) = true ∧
    ((posted (mail 0 [] [] id).eng).any fun m => msgField m 1 1 == 0) = true ∧ msgField (zeros 16) 0 1 ≠ 3 ∧
    (posts (mail 2 (zeros 8) [(0x6000, 1, 0)] active) 2 = true ∧ fwState (mail 2 (zeros 8) [(0x6000, 1, 0)] active).eng = 0) ∧
    (posts (mail 3 (zeros 8) [(0x6000, 1, 3)] active) 3 = true ∧ fwState (mail 3 (zeros 8) [(0x6000, 1, 3)] active).eng = 3) ∧
    (posts (mail 4 (zeros 8) [(0x6000, 1, 6)] active) 4 = true ∧ fwState (mail 4 (zeros 8) [(0x6000, 1, 6)] active).eng = 6) ∧
    (let s := mail 5 [3, 0, 0, 0] [(coreIdx 3, 1, 2)] active;
      posts s 5 = true ∧ coreState s.eng 3 = 2 ∧ (s.eng.fw.restarts.filter (·.1 == 3)).length < 3 ∧
      mayEnter s.eng (imageField s.eng (reg s.eng 0x6000 3) (32 + 3) 1 % 16) 3 = true ∧ s.eng.rings = []) ∧
    (let s := mail 5 [3, 0, 0, 0] [(coreIdx 3, 1, 2)] fun f => { active f with restarts := List.replicate 3 (3, 0) };
      posts s 5 = true ∧ coreState s.eng 3 = 2 ∧
      3 ≤ (s.eng.fw.restarts.filter fun r => r.1 == 3 && decide (s.eng.now < r.2 + 1000000 * 3600)).length) ∧
    (posts (mail 5 [3, 0, 0, 0] [] active) 5 = true ∧ coreState (mail 5 [3, 0, 0, 0] [] active).eng 3 = 0) ∧
    (posts (mail 5 [4, 0, 0, 0] [] active) 5 = true) ∧
    (let s := mail 2 (zeros 8) [] active;
      posts { s with eng := { s.eng with run := .recovery } } 2 = true) := by decide +kernel

/-- A request taken whose image is being checked, with its LENGTH. -/
def checking (type len : Nat) (f : Fw) : Fw :=
  { f with checking := some (type, 7), taken := some (mboxHeader type 7 8 0 0 ++ leBytes 4 len ++ leBytes 4 imageSum) }

/-- A handover in its pause. -/
def handing (h : Handover) (f : Fw) : Fw := { active f with handover := some h }

theorem witness_ImagesAndStart :
    up.eng.fw.checking = none ∧
    (let s := withImage [(0x6000, 1, 1)] (checking 2 0);
      s.eng.fw.checking = some (2, 7) ∧ (checkImage s.eng false 0 imageSum).isSome = true) ∧
    (let s := withImage [(0x6000, 1, 1)] (checking 2 64);
      s.eng.fw.checking = some (2, 7) ∧ checkImage s.eng false 64 imageSum = none ∧ fwState s.eng = 1 ∧
      imageField s.eng 0 32 1 % 16 = 0) ∧
    (let s := withImage [(0x6000, 1, 3)] fun f => checking 3 64 (active f);
      s.eng.fw.checking = some (3, 7) ∧ checkImage s.eng true 64 imageSum = none ∧ fwState s.eng = 3) ∧
    (∀ type ∈ [2, 3], let s := withImage [] fun f => checking type 64 (active f);
      s.eng.fw.checking = some (type, 7) ∧ checkImage s.eng (type = 3) 64 imageSum = none ∧ fwState s.eng ≠ 1 ∧
      fwState s.eng ≠ 3) ∧
    (fwState up.eng ≠ 2 ∧ fwState up.eng ≠ 4 ∧ up.eng.fw.active = false ∧ up.eng.fw.handover = none ∧
      up.eng.fw.waitAt = none) ∧
    (let s := upWith fun e => put [(0x6000, 1, 2), (0x6004, 4, 1)] { e with fw := { e.fw with waitAt := some 0 } };
      fwState s.eng = 2 ∧ s.eng.fw.waitAt = some 0 ∧ 0 + reg s.eng 0x6004 4 * 3600 < s.eng.now ∧ s.eng.fw.started = false ∧
      s.eng.run ≠ .recovery ∧ s.eng.fw.handover = none) ∧
    (let s := withImage [(0x6000, 1, 2)] fun f => { active f with queue := List.replicate 15 [] };
      s.eng.fw.active = true ∧ fwState s.eng = 2 ∧ s.eng.fw.queue.length < 16) ∧
    (let h : Handover := { at_ := 0, seq := 7, oldVersion := 0, switched := true };
      let s := withImage [(0x6000, 1, 4)] (handing h);
      s.eng.fw.active = true ∧ fwState s.eng = 4 ∧ s.eng.fw.handover = some h ∧ h.rolled = false ∧ h.ready = false ∧
      s.eng.now ≤ h.at_ + 300 * 3600) ∧
    (let s := upWith fun e => { e with fw := { e.fw with waitAt := some 0 } };
      s.eng.fw.waitAt = some 0 ∧ s.eng.fw.started = false ∧ fwState s.eng ≠ 8 ∧ s.eng.run ≠ .recovery) ∧
    up.eng.fw.waitAt = none := by decide +kernel

theorem witness_CoresRunAndRestart :
    (let s := withImage [] active;
      letThrough (.f 0) 0x6000 6 s ∧ (0xFFFFFFFF#32).toNat.testBit 3 = true ∧ coreState s.eng 3 = 0 ∧ s.eng.fw.active = true ∧
      ∀ j, 1 ≤ j → j ≤ 3 → mayEnter s.eng (imageField s.eng (reg s.eng 0x6000 3) (32 + j) 1 % 16) j = true) ∧
    (let s := withImage [(coreIdx 3, 1, 2)] fun f => { active f with kicks := [(3, 90000)] };
      letThrough (.f 3) (coreIdx 3) 3 s ∧ coreState s.eng 3 = 2 ∧ s.eng.fw.kicks.lookup 3 = some 90000 ∧
      s.eng.now ≤ 90000 + reg s.eng (coreIdx 3) 2 * 3600 ∧
      s.eng.fw.handover = none ∧ (s.eng.fw.restarts.filter fun r => r.1 == 3).length < 3 ∧
      mayEnter s.eng (imageField s.eng (reg s.eng 0x6000 3) (32 + 3) 1 % 16) 3 = true ∧ s.eng.rings = []) ∧
    (let s := withImage [(coreIdx 3, 1, 2), (coreIdx 3, 2, 1)] fun f => { active f with kicks := [(3, 90000)] };
      coreState s.eng 3 = 2 ∧ s.eng.fw.kicks.lookup 3 = some 90000 ∧ 90000 + reg s.eng (coreIdx 3) 2 * 3600 < s.eng.now) ∧
    (let h : Handover := { at_ := 0, seq := 7, oldVersion := 0, rolled := true };
      (withImage [(coreIdx 3, 1, 2)] (handing h)).eng.fw.handover = some h ∧ h.rolled = true) ∧
    coreState (withImage [(coreIdx 1, 1, 3)] active).eng 1 = 3 ∧
    (coreState up.eng 3 ≠ 2 ∧ coreState up.eng 3 ≠ 3 ∧ letThrough (.f 3) (coreIdx 3) 3 up ∧ letThrough (.f 3) (coreIdx 3) 1 up) ∧
    (let s := withImage [(coreIdx 3, 1, 2)] fun f =>
        { active f with kicks := [(3, 90000)], restarts := List.replicate 3 (3, 2 ^ 40) };
      let now := max s.eng.now (90000 + reg s.eng (coreIdx 3) 2 * 3600);
      3 ≤ (s.eng.fw.restarts.filter fun r => r.1 == 3 && now < r.2 + 1000000 * 3600).length ∧ s.eng.fw.handover = none) ∧
    (let h : Handover := { at_ := 0, seq := 7, oldVersion := 0 };
      let s := withImage [(coreIdx 3, 1, 2)] fun f => { handing h f with kicks := [(3, 90000)] };
      s.eng.fw.handover = some h ∧ h.rolled = false ∧ s.eng.fw.kicks.lookup 3 = some 90000 ∧ coreState s.eng 3 = 2) ∧
    (let s := withImage [(coreIdx 3, 1, 3)] fun f => { active f with queue := List.replicate 14 [] };
      letThrough (.f 3) (coreIdx 3) 1 s ∧ coreState s.eng 3 = 3 ∧ s.eng.fw.queue.length ≤ 14) ∧
    (let s := withImage [(coreIdx 0, 1, 3)] fun f => { active f with taken := some (zeros 256) };
      letThrough (.f 0) (coreIdx 0) 1 s ∧ coreState s.eng 0 = 3 ∧ s.eng.fw.taken = some (zeros 256)) := by
  unfold letThrough; decide +kernel

/-- Core 3 runs in a compartment. -/
def core3 (own : Nat) (l : List (Nat × Nat × Nat)) : State := withImage ((coreIdx 3, 1, 2) :: (coreIdx 3, 5, own) :: l) active

theorem witness_CompartmentsGuard :
    (let s := core3 0 [];
      letThrough (.f 3) 0x601F 1 s ∧ 128 < 1 + (zeros 128).length ∧ 0 + (zeros 128).length ≤ 128 ∧
      (compField s.eng 0 0 1).testBit 1 = true ∧ recordOk (cleanRecord (zeros 128)) = true ∧ 15 ≠ 0 ∧
      ¬(recordOk (cleanRecord (zeros 16 ++ [1] ++ zeros 111)) = true)) ∧
    (letThrough (.f 3) 0x601F 1 (core3 1 []) ∧ (compField (core3 1 []).eng 1 0 1).testBit 1 = false) ∧
    (let s := core3 0 [];
      controlUp s.eng = true ∧ coreState s.eng 3 = 2 ∧ 0x10000000 ≤ (0x101FFFFC#32).toNat ∧ (0x101FFFFC#32).toNat + 4 ≤ 0x10200000 ∧
      windowGrants (compRecord s.eng 0) 1 (0x101FFFFC#32).toNat 4 = true ∧
      windowGrants (compRecord s.eng 0) 0 (0x101FFFFC#32).toNat 4 = true ∧ (corePlace 0x30000000 4 = none) ∧
      windowGrants (compRecord s.eng 0) 1 (0x101FFFFD#32).toNat 4 = false ∧ s.eng.fw.handover = none ∧
      (s.eng.fw.restarts.filter (·.1 == 3)).length < 3 ∧
      mayEnter s.eng (imageField s.eng (reg s.eng 0x6000 3) (32 + 3) 1 % 16) 3 = true ∧ s.eng.rings = []) ∧
    (coreState (core3 0 [(coreIdx 3, 1, 1)]).eng 3 = 1 ∧ coreState up.eng 3 = 0) ∧
    (let s := core3 0 [];
      let s : State := { s with eng := setDomBytes 0x601F 1 0 ([1, 15] ++ zeros 110 ++ leBytes 4 0x100) s.eng };
      compField s.eng 15 112 4 = 0x100 ∧ mayEnter s.eng 15 3 = true ∧ (∀ d, d < 15 → d ∉ gateAt s.eng 0 0x100) ∧
      (corePlace 0x100 4).isSome = true ∧ gateAt up.eng 0 0x100 = []) ∧
    (let s := core3 0 [];
      let s : State := { s with eng := setDomBytes 0x601F 1 0 ([1, 7] ++ zeros 110 ++ leBytes 4 0x100) s.eng };
      gateAt s.eng 0 0x100 = [15] ∧ mayEnter s.eng 15 3 = false) := by unfold letThrough; decide +kernel

theorem witness_HandoverSteps :
    up.eng.fw.handover = none ∧
    (let h : Handover := { at_ := 0, seq := 7, oldVersion := 0 };
      let s := withImage [] (handing h);
      s.eng.fw.handover = some h ∧ h.switched = false ∧ h.rolled = false ∧ h.ready = false ∧
      ∀ k, k < 4 → mayEnter s.eng (imageField s.eng (1 - reg s.eng 0x6000 3) (32 + k) 1 % 16) k = true) ∧
    (let s := withImage [] (handing { at_ := 0, seq := 7, oldVersion := 0 });
      let s : State := { s with eng := setFwBytes (regionSize + 32) [5] s.eng };
      coreState s.eng 0 ≠ 4 ∧ mayEnter s.eng (imageField s.eng (1 - reg s.eng 0x6000 3) (32 + 0) 1 % 16) 0 = false) ∧
    (let h : Handover := { at_ := 0, seq := 7, oldVersion := 0, switched := true };
      (withImage [] (handing h)).eng.fw.handover = some h ∧ h.switched = true ∧ h.rolled = false ∧ h.ready = false) ∧
    (let h : Handover := { at_ := 0, seq := 7, oldVersion := 0, rolled := true };
      let s := withImage [(coreIdx 0, 1, 2)] (handing h);
      s.eng.fw.handover = some h ∧ h.rolled = true ∧ h.ready = false ∧ h.expired = false ∧ coreState s.eng 0 = 2 ∧
      (s.eng.fw.restarts.filter (·.1 == 0)).length < 3 ∧
      mayEnter s.eng (imageField s.eng (reg s.eng 0x6000 3) 32 1 % 16) 0 = true ∧ s.eng.rings = []) ∧
    (let h : Handover := { at_ := 0, seq := 7, oldVersion := 0, switched := true, ready := true, expired := true };
      (withImage [] (handing h)).eng.fw.handover = some h ∧ h.ready = true ∧ h.expired = true) := by decide +kernel

theorem witness_OrphanMode :
    letThrough .h 0x6004 1 up ∧ up.eng.fw.heartbeat = none ∧
    (let h : Handover := { at_ := 0, seq := 7, oldVersion := 0 };
      let s := upWith fun e => { e with fw := { handing h e.fw with heartbeat := some 5 } };
      s.eng.fw.heartbeat = some 5 ∧ s.eng.fw.handover = some h) ∧
    (let s := upWith fun e => put [(0x6000, 1, 3)] { e with fw := { active e.fw with heartbeat := some 5 } };
      s.eng.fw.heartbeat = some 5 ∧ s.eng.fw.handover = none ∧ fwState s.eng = 3) ∧
    (let s := upWith fun e => put [(0x6000, 1, 3), (0x6004, 2, 1)] { e with fw := { active e.fw with heartbeat := some 5 } };
      s.eng.fw.heartbeat = some 5 ∧ 5 + reg s.eng 0x6004 2 * 3600 < s.eng.now ∧ s.eng.fw.handover = none) ∧
    fwState up.eng ≠ 5 ∧
    (let s := upAt [(0x6000, 1, 5), (0x6000, 5, 12), (0x6004, 3, 1)];
      fwState s.eng = 5 ∧ s.eng.fw.quiet < 16 ∧ ¬(reg s.eng 0x6000 5 + reg s.eng 0x6004 3 ≤ frameNo s.eng)) ∧
    (let s := upAt [(0x6000, 1, 5), (0x6000, 5, 11), (0x6004, 3, 1)];
      s.eng.fw.quiet < 16 ∧ reg s.eng 0x6000 5 + reg s.eng 0x6004 3 ≤ frameNo s.eng) ∧
    (let s := upWith fun e => put [(0x6000, 1, 5)] { e with fw := { e.fw with quiet := 16 } };
      fwState s.eng = 5 ∧ 16 ≤ s.eng.fw.quiet) := by unfold letThrough; decide

/-! ### Witnesses: faults -/

theorem witness_EventsAreCollected :
    (inRun .unpowered).eng.run = .unpowered ∧
    (up.eng.run ≠ .unpowered ∧ severityOf up.eng 47 0 < 2 ∧ reg up.eng 0x1302 3 = 0xFF ∧ reg up.eng 0x1302 2 ≠ 0xFF ∧
      notifies up.eng 1 = true ∧ up.eng.errOut.kept = false ∧ up.eng.errOut.low = false ∧ up.eng.errOut.roseAt = none ∧
      reg up.eng 0x1304 3 = 1 ∧ up.port.faultFrames.length < 4 ∧ (47, 0) ∉ up.eng.raised ∧ (83, 0) ∉ up.eng.raised ∧
      severityOf up.eng 83 0 < 2 ∧ severityOf up.eng 48 0 < 2) ∧
    (partHeld up.eng (48 + 0) = false ∧ partHeld (partIn 48 (.hold 5)).eng (48 + 0) = true) ∧
    (reg (upAt [(0x1302, 3, 15)]).eng 0x1302 3 ≠ 0xFF ∧ notifies up.eng 0 = false) ∧
    (let s := upAt [(0x1301, 1, 2 * 2 ^ 94 + 2 * 2 ^ 96 + 2 * 2 ^ 126), (0x1301, 2, 2 * 2 ^ 28)];
      severityOf s.eng 47 0 = 2 ∧ severityOf s.eng 48 0 = 2 ∧ severityOf s.eng 78 0 = 2) ∧
    (let s := upAt [(0x1301, 2, 3 * 2 ^ 28 + 3 * 2 ^ 46)];
      severityOf s.eng 78 0 = 3 ∧ severityOf s.eng 87 0 = 3) := by decide

theorem witness_FaultsClearAndErrOut :
    letThrough .h 0x1300 2 up ∧ (letThrough .h 0x1302 4 up ∧ reg up.eng 0x1302 3 = 0xFF) ∧
    (letThrough .h 0x1302 4 (upAt [(0x1302, 3, 15)]) ∧ reg (upAt [(0x1302, 3, 15)]).eng 0x1302 3 ≠ 0xFF) ∧
    (letThrough .h 0x1303 2 up ∧ up.eng.errOut.low = false ∧ letThrough .h 0x1303 1 up ∧ (1#32).toNat ≤ 1 ∧ 1 < (2#32).toNat) ∧
    (∀ t ∈ [92800, 92801],
      let s := upWith fun e => put [(0x1303, 1, 1)] { e with errOut := { e.errOut with low := true, fellAt := t } }
      letThrough .h 0x1303 2 s ∧ s.eng.run = .ready ∧ s.eng.errOut.kept = false ∧ reg s.eng 0x1303 1 = 1 ∧
      s.eng.errOut.low = true ∧ s.eng.errOut.fellAt = t) ∧
    (92800 + 7200 ≤ up.eng.now ∧ up.eng.now < 92801 + 7200) ∧
    (let s := upWith fun e => { e with errOut := { e.errOut with fallDue := some 5 } };
      s.eng.run = .ready ∧ s.eng.errOut.fallDue = some 5) ∧
    (let s := upWith fun e => put [(0x1303, 1, 0)] { e with errOut := { e.errOut with low := true } };
      s.eng.errOut.fallDue = none ∧ s.eng.errOut.low = true ∧ reg s.eng 0x1303 1 = 0) ∧
    (let s := upWith fun e => put [(0x1303, 1, 1)] { e with errOut := { e.errOut with low := true, released := true } };
      s.eng.errOut.fallDue = none ∧ reg s.eng 0x1303 1 ≠ 0 ∧ s.eng.errOut.released = true) := by unfold letThrough; decide

/-! ### The built-in configuration passes the load checks -/

/-- The block with its checks running on the pattern of Hand 0 alone, all at the built-in layout. -/
def builtIn : State := upAt [(0x3810, 5, 1)]

theorem kind_cases (s g : Nat) : builtInKind s g = 0 ∨ builtInKind s g = 3 ∨ builtInKind s g = 4 ∨ builtInKind s g = 5 := by
  unfold builtInKind
  split
  · simp
  · split
    · simp
    · split <;> simp

theorem hand_default {n h off : Nat} (hn : n < 24) (hh : h < 4) (ho : off < 2 ^ 24) :
    domDefault (domKey (0x3880 + n) (h + 1) off) = builtInHand off := by
  have h1 : domKey (0x3880 + n) (h + 1) off / 2 ^ 32 = 0x3880 + n := by unfold domKey; omega
  have h2 : domKey (0x3880 + n) (h + 1) off % 2 ^ 24 = off := by unfold domKey; omega
  simp only [domDefault, h1, h2]
  rw [if_pos (by omega)]

theorem hand_builtIn {n i : Nat} (hn : n < 24) (hi : i < 2048) :
    handEntry builtIn.eng n 0 i = builtInKind (i / 4) (i % 4) * 2 ^ 28 := by
  have hd : ∀ k, k < 16 → domDefault (domKey (0x3880 + n) 1 (16 * i) + k) =
      if k = 3 then BitVec.ofNat 8 (16 * builtInKind (i / 4) (i % 4)) else 0 := by
    intro k hk
    have : domKey (0x3880 + n) 1 (16 * i) + k = domKey (0x3880 + n) (0 + 1) (16 * i + k) := by unfold domKey; omega
    rw [this, hand_default hn (by omega) (by omega)]
    unfold builtInHand
    have h1 : (16 * i + k) % 16 = k := by omega
    have h2 : (16 * i + k) / 64 = i / 4 := by omega
    have h3 : (16 * i + k) / 16 = i := by omega
    rw [h1, h2, h3]
  have hk : builtInKind (i / 4) (i % 4) ≤ 5 := by rcases kind_cases (i / 4) (i % 4) with h | h | h | h <;> omega
  have hdom : builtIn.eng.dom = [] := rfl
  simp only [handEntry, domNat, domBytes, hdom, storeGetMany, storeGet, Nat.add_assoc, Nat.reduceAdd]
  have h0 := hd 0 (by omega)
  simp only [Nat.add_zero] at h0
  rw [h0, hd 1 (by omega), hd 2 (by omega), hd 3 (by omega), hd 4 (by omega), hd 5 (by omega), hd 6 (by omega), hd 7 (by omega),
    hd 8 (by omega), hd 9 (by omega), hd 10 (by omega), hd 11 (by omega), hd 12 (by omega), hd 13 (by omega), hd 14 (by omega),
    hd 15 (by omega)]
  simp only [leNat]
  simp
  omega

theorem kind_entry (s g : Nat) : entryKind (builtInKind s g * 2 ^ 28) = builtInKind s g := by
  rcases kind_cases s g with h | h | h | h <;> rw [h] <;> decide

theorem not_static (s g : Nat) : isStatic (builtInKind s g * 2 ^ 28) = false := by
  rcases kind_cases s g with h | h | h | h <;> rw [h] <;> decide

theorem no_shares (s g : Nat) : sharesOf (builtInKind s g * 2 ^ 28) = [] := by
  unfold sharesOf
  rw [not_static]
  rfl

theorem pending_entry (j : Nat) : pendingEntry builtIn.eng j = (0, 0, false) := by
  have : reg builtIn.eng 0x3810 2 = 0 := by decide
  simp [pendingEntry, patternEntry, this, bits, bit]

theorem pending_card {n i : Nat} (j : Nat) (hn : n < 24) (hi : i < 2048) :
    pendingCard builtIn.eng n j i = builtInKind (i / 4) (i % 4) * 2 ^ 28 := by
  simp [pendingCard, pending_entry, mergedEntry, hand_builtIn hn hi]

theorem current_card {n i : Nat} (j : Nat) (hn : n < 24) :
    currentCard builtIn.eng j n i = builtInKind (i / 4) (i % 4) * 2 ^ 28 := by
  have : ∀ n, n < 24 → bit (reg builtIn.eng 0x3800 6) n = true := by decide
  simp [currentCard, this n hn]

theorem count_congr {a b : Nat → Nat} (h : ∀ i, i < 2048 → a i = b i) (kind lo n : Nat) (g : Option Nat) (hl : lo + n ≤ 512) :
    windowCount a kind lo n g = windowCount b kind lo n g := by
  unfold windowCount
  congr 1
  apply List.filter_congr
  intro i hi
  have := (mem_upFrom.mp hi).2
  rw [h i (by omega)]

theorem spread_of {a b : Nat → Nat} {counts : Nat} (h : ∀ i, i < 2048 → a i = b i) (hb : spreadOk counts b = true) :
    spreadOk counts a = true := by
  simp only [spreadOk, Bool.and_eq_true, List.all_eq_true, mem_below] at hb ⊢
  refine ⟨fun w hw g hg => ?_, fun v hv => ?_⟩
  · rw [count_congr h _ _ _ _ (by omega)]
    exact hb.1 w hw g hg
  · rw [count_congr h _ _ _ _ (by omega), count_congr h _ _ _ _ (by omega)]
    exact hb.2 v hv

theorem spread_builtIn :
    spreadOk (reg builtIn.eng 0x3810 3) (fun i => builtInKind (i / 4) (i % 4) * 2 ^ 28) = true := by decide +kernel

theorem no_moves {card : Nat → Nat → Nat} (h : ∀ n i, n < 24 → i < 2048 → card n i = builtInKind (i / 4) (i % 4) * 2 ^ 28)
    (wr : Bool) (s : Nat) : poolMoves card wr s = [] := by
  simp only [poolMoves, List.flatMap_eq_nil_iff, mem_below]
  intro n hn i hi
  rw [h n i hn hi, if_pos]
  rw [kind_entry]
  rcases kind_cases (i / 4) (i % 4) with h | h | h | h <;> rw [h] <;> cases wr <;> decide

theorem no_eighths {k dir slot : Nat} : handEighths builtIn.eng 0 k dir slot = 0 := by
  unfold handEighths
  rw [List.length_eq_zero_iff, List.flatMap_eq_nil_iff]
  intro n hn
  rw [List.filter_eq_nil_iff]
  intro i hi
  rw [hand_builtIn (mem_below.mp hn) (mem_below.mp hi)]
  simp only [no_shares, List.any_nil, Bool.false_eq_true, not_false_iff]

theorem spine_zero {k i : Nat} (hk : k < 3) (hi : i < 1024) : spineByte builtIn.eng k 0 (i / 2) (i % 2) = 0 := by
  have hdom : builtIn.eng.dom = [] := rfl
  have h1 : domKey (0x38A0 + k) (0 + 1) (2 * (i / 2) + i % 2) / 2 ^ 32 = 0x38A0 + k := by unfold domKey; omega
  have h2 : domKey (0x38A0 + k) (0 + 1) (2 * (i / 2) + i % 2) / 2 ^ 24 = (0x38A0 + k) * 256 + 1 := by unfold domKey; omega
  simp only [spineByte, domNat, domBytes, hdom, storeGetMany, storeGet, leNat, domDefault, h1, h2]
  rw [if_neg (by omega), if_neg (by omega), if_neg (by omega), if_neg (by omega)]
  rfl

/-- The load checks find nothing wrong with the built-in layout, so a swap to it becomes due. -/
theorem witness_SwapsAndFrames_pass : reg builtIn.eng 0x3810 5 = 1 ∧ loadChecks builtIn.eng = none := by
  refine ⟨by decide, ?_⟩
  have card : ∀ f : Nat → Nat → Nat → Option CheckFail, (∀ n j i, n < 24 → i < 2048 → f n j i = none) → firstCard f = none := by
    intro f h
    simp only [firstCard, List.findSome?_eq_none_iff, mem_below]
    exact fun n hn j _ i hi => h n j i hn hi
  have c1 : check3801 builtIn.eng = none := card _ fun n j i hn hi => by
    simp only [pending_entry, hand_builtIn hn hi]
    rcases kind_cases (i / 4) (i % 4) with h | h | h | h <;> rw [h] <;> rfl
  have c2 : check3802 builtIn.eng = none := by
    simp [check3802, List.findSome?_eq_none_iff, pending_entry]
  have c3 : check3803 builtIn.eng = none := by
    have e : reg builtIn.eng 0x3810 3 = reg builtIn.eng 0x3800 3 := by decide
    simp only [check3803, e, ne_eq, not_true_eq_false, and_false, if_false, List.findSome?_eq_none_iff, mem_below]
    intro n hn j _
    rw [if_pos]
    exact spread_of (fun i hi => pending_card j hn hi) (e ▸ spread_builtIn)
  have c4 : check3804 builtIn.eng = none := card _ fun n j i _ _ => by simp [pending_entry]
  have c5 : check3805 builtIn.eng = none := card _ fun n j i hn hi => by
    simp only [pending_card j hn hi, no_shares, List.findSome?_nil]
  have c7 : check3807 builtIn.eng = none := card _ fun n j i hn hi => by
    simp only [pending_card j hn hi, no_shares, List.findSome?_nil]
  have c6 : check3806 builtIn.eng = none := by
    simp only [check3806, List.findSome?_eq_none_iff]
    intro s _ c hc
    cases hc
  have c8 : check3808 builtIn.eng = none := by
    simp only [check3808, List.findSome?_eq_none_iff]
    intro s _ j _
    simp only [no_moves fun n i hn hi => pending_card j hn hi, no_moves fun n i hn hi => pending_card ((j + 1) % 16) hn hi,
      no_moves fun n i hn _ => current_card j hn]
    rfl
  have c9 : check3809 builtIn.eng = none := by
    simp only [check3809, List.findSome?_eq_none_iff, mem_below]
    intro k hk j _ i hi
    simp [pending_entry, spine_zero hk hi, no_eighths]
  have cA : check380A builtIn.eng = none := by decide
  have np : plannedStreams builtIn.eng = [] := by
    simp only [plannedStreams, List.flatMap_eq_nil_iff]
    intro s _
    rfl
  have cB : check380B builtIn.eng = none := by simp [check380B, np]
  have cC : check380C builtIn.eng = none := by simp [check380C, np]
  have cD : check380D builtIn.eng = none := by simp [check380D, np]
  simp [loadChecks, c1, c2, c3, c4, c5, c6, c7, c8, c9, cA, cB, cC, cD]

/-! ### Worked examples of the spec, and single commands -/

/-- The worked read of HW_RELEASE on MGT (spec/02_object_dictionary.md): request and response as the spec prints them. -/
theorem test_mgt_read_worked_example :
    (after .mgtRead (framed [0x01, 0x05, 0x01, 0x10, 0x01, 0, 0, 0])).port.mgtTx =
      some ([0x81, 0x05, 0x01, 0x10, 0x01, 0, 0, 0, 0x00, 0x01, 0x03, 0x00] ++ zeros 12) := by decide

/-- The same entry through BAR0: the cell of index 0x1001 sub 1 lies at 0x0100_1010 (R57). -/
theorem test_host_read_of_the_same_cell :
    (after (.hostDictionaryRead 0x1001010 16) up).eng.out = [.hostData ([0x00, 0x01, 0x03, 0x00] ++ zeros 12)] := by decide

/-- The worked global address of spec/03: endpoint 0x2_0005, local address 0x0030_0000_1000. -/
theorem test_global_address_worked_example :
    localOf 0x8001403000001000 = 0x003000001000 ∧ endpointOf 0x8001403000001000 = 0x20005 ∧
    agentAt 0x003000001000 = 3 := by decide

/-- The published check value of this CRC-32, over the digits 1 to 9. -/
theorem test_crc_check_value : crc32 [0x31, 0x32, 0x33, 0x34, 0x35, 0x36, 0x37, 0x38, 0x39] = 0xCBF43926 := by decide +kernel

/-- The lengths of the worked table of spec/07, by symbol. -/
def workedLengths : List Nat := [1, 2, 4, 6, 8, 11, 12, 12, 12, 3, 5, 7, 9, 12, 12, 12]

/-- Its codes, its load check, and its record's first and LENGTHS bytes as the spec prints them. -/
theorem test_worked_table :
    lengthsOk workedLengths = true ∧ codeOf workedLengths 5 = (0b11111111100, 11) ∧ codeOf workedLengths 6 = (0xFFA, 12) ∧
    codeOf workedLengths 0xF = (0xFFF, 12) ∧
    leBytes 24 (tableRecord ⟨false, 9, workedLengths⟩ 0) =
      [0x00, 0x09, 0, 0, 0, 0, 0, 0, 0, 0, 0, 0, 0, 0, 0, 0, 0x21, 0x64, 0xB8, 0xCC, 0x3C, 0x75, 0xC9, 0xCC] := by decide +kernel

/-- The worked lane: 23 bits, beginning 7A 03. -/
theorem test_worked_lane :
    encodeLane (streamCodes workedLengths) ([0, 1, 0xA, 9] ++ List.replicate 12 0) = (0x037A, 23) := by decide +kernel

/-- The worked WEEVIL word of spec/12: 192 bytes from 0x3001_2345_6780 to offset 0x4A40 of handle 0x00_0311. -/
theorem test_worked_weevil :
    let x := leNat (zeros 14 ++ [1, 4, 0xFD, 0x05, 0x80, 0x67, 0x45, 0x23, 0x01, 0x30, 0x11, 0x03, 0, 0x40, 0x4A, 0, 0, 0] ++ zeros 32)
    (smallCmd x 0).kind = 1 ∧ (smallCmd x 0).handleForm = true ∧ (smallCmd x 0).len = 192 ∧
    (smallCmd x 0).src = 0x300123456780 ∧ (smallCmd x 0).dst = 0x311 + 0x4A40 * 2 ^ 24 := by decide +kernel

/-- The worked ring of spec/12: a SKIP at index 29 of 16 entries completes to the end of its pass, and HEAD_INDEX is 32. -/
theorem test_skip_reaches_the_end_of_the_pass :
    let x := { entry 7 [] with index := 29, count := 3 }
    let s := ringUp 3 1 { entries := [x] }
    reg (after (.skip 3) s).eng 0x4103 11 = 32 ∧ (ringOf (after (.skip 3) s).eng 3).headDue = true := by decide

/-- A FENCE behind an entry that has started and is not complete waits (R284). -/
theorem test_fence_waits :
    let s := ringUp 3 1 { entries := [{ entry 1 [] with stage := .started }, { entry 6 [] with index := 1 }] }
    (ringOf (after (.fence 3) s).eng 3).entries = (ringOf s.eng 3).entries := by decide

/-- The rail: its rise begins a hold phase, its fall leaves nothing powered (R379). -/
theorem test_power_rail :
    (after .powerGoodRise up).eng.run = .hold 100000 true true ∧ (after .powerGoodFall up).eng.run = .unpowered := by decide

/-- A low of two edges resets with cause 2; a shorter one is a glitch (R380). -/
theorem test_reset_pin :
    (after .btRstNAssert up).eng.run = .hold 100000 false false ∧ (after .rstGlitch up).eng.run = .ready ∧
    reg (after .rstGlitch up).eng 0x1205 1 = 1 := by decide

/-- A loss of the clocks after the gates opened is a BLOCK reset whose step 2 starts cold, and raises source 86 (R387). -/
theorem test_clock_loss :
    let s := after .clkStateNotStable (upAt [(0x1100, 1, 2)])
    s.eng.run = .hold 100000 true false ∧ s.eng.raised = [(86, 0)] := by decide

/-- A BUDGET of 60.0 W is taken, one of 59.9 W is not (R401). -/
theorem test_budget_bounds :
    reg (after (.budget 600) up).eng 0x1101 1 = 600 ∧ reg (after (.budget 599) up).eng 0x1103 6 = 1 := by decide

/-- A POST from station 0 to station 47 crosses three stitch lines: 32 + 3 * 48 ARCLK (R201). -/
theorem test_post_across_the_block :
    let w := BitVec.ofNat 124 ((47 * 2 ^ 32 + 31 * 2 ^ 38 + 7 * 2 ^ 64) / 16)
    (dockOf (after (.post 0 1000 w) up).eng 47).posts = [⟨31, 7, 1176⟩] := by decide

/-- WAKE opens the operand group 180 ARCLK later; SLEEP of a group that is opening closes it (R207). -/
theorem test_wake_and_sleep :
    let w := BitVec.ofNat 124 (2 ^ 42)
    let s := after (.wake 5 1000 w) up
    (dockOf s.eng 5).operandGate = .opening 1180 ∧ (dockOf s.eng 5).resultGate = .closed ∧
    (dockOf (after (.sleep 5 1008 w) s).eng 5).operandGate = .closed := by decide

/-- A command seven ARCLK after the last one is discarded and counted, one eight after it is taken (R191). -/
theorem test_command_spacing :
    let s := dockUp 5 { lastCmd := some 1000 }
    reg (after (.dockNop 5 1007 0) s).eng (stIdx 5 0x30) 2 = 1 ∧ reg (after (.dockNop 5 1008 0) s).eng (stIdx 5 0x30) 1 = 1 := by
  decide

/-- Semaphores wrap at 32 bits in both directions (R328). -/
theorem test_semaphores_wrap :
    let s := mapped 0x3FFF []
    semVal (after (.semCmdSub .h 63 1023 2) s).eng 4095 = 0xFFFFFFFE ∧
    semVal (after (.semCmdAdd .h 63 1023 3) (after (.semCmdSub .h 63 1023 2) s)).eng 4095 = 1 := by decide

/-- A write of SEM_VALUES releases the waiter whose condition then holds (R329). -/
theorem test_waiter_released :
    (after (.semValuesWrite (.f 0) 4095 5) (mapped 0x3FFF [waiterOf])).eng.sems.waiters = [] ∧
    (after (.semValuesWrite (.f 0) 4095 4) (mapped 0x3FFF [waiterOf])).eng.sems.waiters = [waiterOf] := by decide

/-- A refresh card refreshes its bank and lowers its owed count (R241, R243). -/
theorem test_refresh_card :
    owedOf (after (.refreshCard 23 6400 0) (agentUp [] id)).eng 23 0 8 = -1 := by decide

/-- A read request's card carries it as a burst 200 SPCLK after the card's start (R236). -/
theorem test_dynamic_card :
    let s := agentUp [] fun a => { a with grants := [{ abs := 6401, group := 0, parts := [readReq] }] }
    (agentOf (after (.dynamicCard 23 6401 0) s).eng 23).bursts.map (·.readAt) = [8 * 6401 + 200] := by decide

/-- SWAP_COMMIT starts the checks; a bad Hand entry ends them with 0x3801 at agent 0 (R221). -/
theorem test_swap_checks :
    reg (after (.swapCommit .h) up).eng 0x3810 5 = 1 ∧
    reg (after .swapChecksComplete (upWith fun e => setDomNat 0x3880 1 0 16 (15 * 2 ^ 28) (put [(0x3810, 5, 1)] e))).eng 0x3810 6 =
      0x3801 := by decide

/-- A full-size flit spends its class's credit; a returned credit adds one (R308, R309). -/
theorem test_flit_credits :
    let s := linked 0 { stream := [chunkOf 0], credits := [(0, 1)] }
    flitCredits (linkOf (after (.flitSend 1) s).eng 1) 0 = 0 ∧
    flitCredits (linkOf (after (.creditReturn 1 0) s).eng 1) 0 = 2 := by decide

/-- HELLO is answered with type 0x81, the request's SEQ and 24 bytes (R365). -/
theorem test_hello_reply :
    ((after .hello (mail 1 (zeros 8) [] id)).eng.fw.queue.map fun m => m.take 6) = [[3, 0x81, 7, 0, 24, 0]] := by decide +kernel

/-- POST and ACK of the mailboxes (R364). -/
theorem test_mailbox_controls :
    reg (after (.h2fPost .h) up).eng 0x6002 3 = 1 ∧ reg (after (.f2hAck .h) (upAt [(0x6003, 3, 1)])).eng 0x6003 3 = 0 := by decide

/-- A store of a core within its window writes the firmware RAM, and one past it is a fault of its compartment (R361). -/
theorem test_core_store :
    fwBytes (after (.coreAccess 3 .store 0x101FFFFC 4 [1, 2, 3, 4]) (core3 0 [])).eng 0x1FFFFC 4 = [1, 2, 3, 4] ∧
    reg (after (.coreAccess 3 .store 0x101FFFFD 4 [1, 2, 3, 4]) (core3 0 [])).eng 0x6020 1 = 1 := by decide +kernel

/-- Two ALLOCs take slots 0 and 1; a FREE of the first releases it with the next generation (R336 to R339). -/
theorem test_alloc_and_free :
    let s1 := after .allocOperationComplete (after (.alloc .h 0 3 5 6) up)
    let s2 := after .allocOperationComplete (after (.alloc .m 2 7 31 6) s1)
    let s3 := after .allocOperationComplete (after (.free .h 0) s2)
    (slotOf s1.eng 0).state = .live ∧ (slotOf s2.eng 1).policy = 2 ∧ slotOf s3.eng 0 = { gen := 1 } := by decide

end Sys2Proof.Tests
end

section
/-! PROOFS. What the ports see of the block out of its running state (O7, O34), and the host's reads and writes of
dictionary entries through BAR0 (O19). -/

namespace Sys2Proof.Machine

/-! ### A block that holds nothing -/

theorem regB_of_regs_nil {e : Eng} (h : e.regs = []) (b i k : Nat) : regB e b i k = regDefault (cellKey b i k) := by
  rw [regB, h]; rfl

theorem domBytes_of_dom_eq {e e' : Eng} (h : e'.dom = e.dom) (i k o n : Nat) :
    domBytes e' i k o n = domBytes e i k o n := by
  rw [domBytes, domBytes, h]

/-- Memory in which nothing is written, of one generation throughout, reads as that generation's free values. -/
theorem memByte_of_mem_nil {e : Eng} (hm : e.mem = []) (hg : e.gens = []) (a : Nat) :
    memByte e a = Config.undefByte e.genBase a := by
  rw [memByte, hm, storeGet, undefMem, hg]; rfl

/-! ### Dock commands -/

/-- While BT_READY is low a dock command moves the clock alone (R16). -/
theorem dockCommand_of_not_ready {e : Eng} (h : isReady e = false) (s c x : Nat) :
    dockCommand s c x e = advanceCycle c e := by
  have hr : isReady (advanceCycle c e) = false := h
  simp only [dockCommand, hr, Bool.not_false, Bool.true_or, if_true]

/-- Every row of the dock's table presents its word at the station's dock (R189, R190). -/
theorem exec_dock_command {s : Fin 48} {c : Nat} {w : BitVec 124} {op : Fin 8} {cmd : Instr}
    (h : cmd ∈ [.dockNop s c w, .arm s c w, .start s c w, .cancel s c w, .accept s c w, .post s c w, .wake s c w,
      .sleep s c w, .reservedDockCommand s c op w]) (st : State) :
    ∃ x, exec cmd st = .next (onEng (dockCommand s.val c x) st) := by
  simp only [List.mem_cons, List.not_mem_nil, or_false] at h
  rcases h with rfl | rfl | rfl | rfl | rfl | rfl | rfl | rfl | rfl <;> exact ⟨_, rfl⟩

/-! ### Bits and bytes -/

theorem bit_eq_testBit (x i : Nat) : bit x i = x.testBit i := by
  rw [bit, Nat.testBit_eq_decide_div_mod_eq]; rfl

theorem testBit_bits (x lo n i : Nat) : (bits x lo n).testBit i = (decide (i < n) && x.testBit (lo + i)) := by
  rw [bits, Nat.testBit_mod_two_pow, Nat.testBit_div_two_pow, Nat.add_comm]

/-- A number around the `n` bits from bit `lo`: what `setBits` puts there, and the rest as it was. -/
theorem setBits_eq (x lo n v : Nat) :
    setBits x lo n v = 2 ^ lo * (2 ^ n * (x / 2 ^ lo / 2 ^ n) + v % 2 ^ n) + x % 2 ^ lo := by
  have h1 := Nat.div_add_mod x (2 ^ lo)
  have h2 := Nat.div_add_mod (x / 2 ^ lo) (2 ^ n)
  have h3 : x = 2 ^ lo * (2 ^ n * (x / 2 ^ lo / 2 ^ n)) + bits x lo n * 2 ^ lo + x % 2 ^ lo := by
    rw [Nat.mul_comm (bits x lo n), ← Nat.mul_add, bits, h2, h1]
  rw [setBits, Nat.mul_add, Nat.mul_comm (2 ^ lo) (v % 2 ^ n)]
  omega

theorem testBit_setBits (x lo n v i : Nat) :
    (setBits x lo n v).testBit i = if lo ≤ i ∧ i < lo + n then v.testBit (i - lo) else x.testBit i := by
  rw [setBits_eq, Nat.testBit_two_pow_mul_add _ (Nat.mod_lt _ (Nat.two_pow_pos lo)),
    Nat.testBit_two_pow_mul_add _ (Nat.mod_lt _ (Nat.two_pow_pos n))]
  simp only [Nat.testBit_mod_two_pow, Nat.testBit_div_two_pow]
  by_cases h1 : i < lo
  · simp [h1, Nat.not_le.mpr h1]
  · by_cases h2 : i < lo + n
    · have h3 : i - lo < n := by omega
      simp [h1, h2, h3, Nat.le_of_not_lt h1]
    · have h3 : ¬i - lo < n := by omega
      have h4 : i - lo - n + n + lo = i := by omega
      simp [h1, h2, h3, h4]

theorem leNat_lt (bs : List Byte) : leNat bs < 2 ^ (8 * bs.length) := by
  induction bs with
  | nil => simp [leNat]
  | cons b bs ih =>
    have hb := b.isLt
    rw [leNat, List.length_cons, Nat.mul_add, Nat.pow_add]
    omega

theorem leNat_append (as bs : List Byte) : leNat (as ++ bs) = leNat as + 2 ^ (8 * as.length) * leNat bs := by
  induction as with
  | nil => simp [leNat]
  | cons a as ih =>
    rw [List.cons_append, leNat, leNat, ih, List.length_cons, Nat.mul_add 8, Nat.pow_add]
    ring

/-- Packing into `n` bytes takes no bit beyond them. -/
theorem leBytes_mod (n x : Nat) : leBytes n (x % 2 ^ (8 * n)) = leBytes n x := by
  induction n generalizing x with
  | zero => rfl
  | succ n ih =>
    have hp : 2 ^ (8 * (n + 1)) = 256 * 2 ^ (8 * n) := by rw [Nat.mul_add, Nat.pow_add, Nat.mul_comm]
    rw [leBytes, leBytes, hp, Nat.mod_mul_right_div_self, ih]
    congr 1
    apply BitVec.eq_of_toNat_eq
    simp

theorem leBytes_bits (n x byte : Nat) : leBytes n (bits x (8 * byte) (8 * n)) = leBytes n (x / 2 ^ (8 * byte)) :=
  leBytes_mod n _

/-! ### The record of host accesses -/

@[simp] theorem recordHost_ok (idx sub off : Nat) (e : Eng) : recordHost .ok idx sub off e = e := if_pos rfl

/-- The record of a host access changes dictionary values alone. -/
theorem recordHost_only (st : Access) (idx sub off : Nat) (e : Eng) :
    recordHost st idx sub off e = { e with regs := (recordHost st idx sub off e).regs } := by
  by_cases h : st = .ok
  · rw [h, recordHost_ok]
  · rw [recordHost, if_neg h]; rfl

/-- R62: what the record of a host access holds, and that its count goes up. -/
theorem hostRecorded_recordHost {st : Access} (h : st ≠ .ok) (idx sub off : Nat) (e : Eng) :
    hostRecorded st.code idx sub off e (recordHost st idx sub off e) := by
  have hw : wrapWidth 0x1010 5 = 32 := by decide
  rw [recordHost, if_neg h]
  refine ⟨?_, ?_, ?_, ?_, ?_, ?_⟩
  · simp [reg_bump_other, reg_setReg, cellKey]
  · simp [reg_bump_other, reg_setReg, cellKey]
  · simp [reg_bump_other, reg_setReg, cellKey]
  · simp [reg_bump_other, cellKey]
  · simp [reg_bump_same, reg_setReg, cellKey, hw]
  · refine sameEntries.bump ?_ (by decide) (by decide) (by decide)
    iterate 4 refine sameEntries.setReg ?_ (by decide) (by decide) (by decide) _
    exact sameEntries_refl _ e

/-- An access that does nothing but end with a status other than OK and answer the host. -/
theorem host_access_recorded {c : Instr} {s : State} {o : PortOut} {st : Access} {idx sub off : Nat} (hst : st ≠ .ok)
    (h : exec c s = .next (onEng (fun e => emit o (recordHost st idx sub off e)) s)) :
    ∃ t, exec c s = .next t ∧ onlyEntries s t ∧ t.eng.out = o :: s.eng.out ∧
      hostRecorded st.code idx sub off s.eng t.eng := by
  have ho := recordHost_only st idx sub off s.eng
  refine ⟨_, h, ?_, ?_, hostRecorded_recordHost hst idx sub off s.eng⟩
  · rw [onlyEntries, onEng, ho]; rfl
  · rw [onEng_eng, emit, ho]

/-! ### When the host reaches the dictionary -/

theorem reach_of_ready {e : Eng} (h : e.run = .ready) (p : Port) : reach e p = .full := by
  unfold reach
  rw [h]

/-- Before BT_READY the host meets an error where the control complex runs, and no answer where it does not (R13, R14). -/
theorem reach_host_of_not_ready {e : Eng} (h : e.run ≠ .ready) :
    reach e .h = if controlUp e = true then .error else .none := by
  cases hr : e.run with
  | ready => exact absurd hr h
  | unpowered => simp [reach, hr, controlUp, releasedPast]
  | hold | release | failed | recovery => simp [reach, hr]

theorem hostAligned_iff {off n : Nat} : hostAligned off n = true ↔ (n = 4 ∨ n = 8 ∨ n = 16) ∧ off % n = 0 := by
  simp [hostAligned, or_assoc]

/-! ### Host reads of entries -/

/-- H has no right on DOM_DATA, so the host's reads move no cursor (R48, R65). -/
theorem readAccess_host (idx sub : Nat) (s : State) :
    readAccess .h idx sub s = ((readEntry .h idx sub s).1, (readEntry .h idx sub s).2, s) := by
  unfold readAccess
  split
  rename_i st v hv
  rw [hv]
  refine if_neg fun ⟨hst, hi, hk⟩ => ?_
  subst hst hi hk
  have hno : readEntry .h 0x1040 3 s = (.noRight, 0) := rfl
  rw [hno] at hv
  cases hv

theorem readPart_host_start {idx sub byte n v : Nat} {s : State} (hb : byte = 0)
    (h : readEntry .h idx sub s = (.ok, v)) :
    readPart .h idx sub byte n s = (.ok, bits v 0 (8 * n), setSnap 0 ⟨some (idx, sub), v⟩ s) := by
  rw [readPart, if_pos hb, readAccess_host, h]; rfl

theorem readPart_host_snapped {idx sub byte n : Nat} {s : State} (hb : byte ≠ 0) (h : (readEntry .h idx sub s).1 = .ok)
    (hs : (snapOf s 0).cell = some (idx, sub)) :
    readPart .h idx sub byte n s = (.ok, bits (snapOf s 0).value (8 * byte) (8 * n), s) := by
  simp only [readPart, partKey, if_neg hb, readAccess_host, h, hs, ne_eq, not_true_eq_false, if_false, if_true]

theorem readPart_host_live {idx sub byte n v : Nat} {s : State} (hb : byte ≠ 0) (h : readEntry .h idx sub s = (.ok, v))
    (hs : (snapOf s 0).cell ≠ some (idx, sub)) :
    readPart .h idx sub byte n s = (.stagingLost, bits v (8 * byte) (8 * n), s) := by
  simp only [readPart, partKey, if_neg hb, readAccess_host, h, hs, ne_eq, not_true_eq_false, if_false]

theorem readPart_host_refused {idx sub n v : Nat} {st : Access} {s : State} (h : readEntry .h idx sub s = (st, v))
    (hst : st ≠ .ok) (byte : Nat) : readPart .h idx sub byte n s = (st, 0, s) := by
  by_cases hb : byte = 0
  · simp only [readPart, if_pos hb, readAccess_host, h, if_neg hst]
  · simp only [readPart, if_neg hb, readAccess_host, h, ne_eq, hst, not_false_eq_true, if_true]

/-- A host read of an allowed width and alignment answers with the part read (R57, R59). -/
theorem exec_hostDictionaryRead_aligned {off : BitVec 28} {n v : Nat} {s s' : State} {st : Access}
    (hr : s.eng.run = .ready) (ha : hostAligned off.toNat n = true)
    (hp : readPart .h (off.toNat / 4096) (off.toNat / 16 % 256) (off.toNat % 16) n s = (st, v, s')) :
    exec (.hostDictionaryRead off n) s = .next (onEng (fun e => emit (.hostData (leBytes n v))
      (recordHost st (off.toNat / 4096) (off.toNat / 16 % 256) off.toNat e)) s') := by
  simp only [exec, execHostDictionaryRead, reach_of_ready hr, if_pos ha, hp]; rfl

theorem exec_hostDictionaryRead_unaligned {off : BitVec 28} {n : Nat} {s : State} (hr : s.eng.run = .ready)
    (ha : ¬hostAligned off.toNat n = true) :
    exec (.hostDictionaryRead off n) s = .next (onEng (fun e => emit (.hostData (leBytes n 0))
      (recordHost .badAccess (off.toNat / 4096) (off.toNat / 16 % 256) off.toNat e)) s) := by
  simp only [exec, execHostDictionaryRead, reach_of_ready hr, if_neg ha]; rfl

/-- A host read while BT_READY is low (R13, R14). -/
theorem exec_hostDictionaryRead_not_ready {s : State} (h : s.eng.run ≠ .ready) (off : BitVec 28) (n : Nat) :
    exec (.hostDictionaryRead off n) s = .next (if controlUp s.eng = true then
      onEng (emit (.hostError (List.replicate n 0xFF))) s else s) := by
  simp only [exec, execHostDictionaryRead, reach_host_of_not_ready h]
  by_cases hc : controlUp s.eng = true
  · simp only [if_pos hc]
  · simp only [if_neg hc]

/-- The part of a cell that includes byte 0: the value now, which the snapshot then holds (R60). -/
theorem hostRead_start {off : BitVec 28} {n v : Nat} {s : State} (hr : s.eng.run = .ready) (hn : n = 4 ∨ n = 8 ∨ n = 16)
    (ho : off.toNat % 16 = 0) (hv : readEntry .h (off.toNat / 4096) (off.toNat / 16 % 256) s = (.ok, v)) :
    exec (.hostDictionaryRead off n) s = .next (onEng (emit (.hostData (leBytes n v)))
      (setSnap 0 ⟨some (off.toNat / 4096, off.toNat / 16 % 256), v⟩ s)) := by
  have ha : hostAligned off.toNat n = true := hostAligned_iff.mpr ⟨hn, by rcases hn with rfl | rfl | rfl <;> omega⟩
  have hb : leBytes n (bits v 0 (8 * n)) = leBytes n v := by
    rw [bits, Nat.pow_zero, Nat.div_one, leBytes_mod]
  simp only [exec_hostDictionaryRead_aligned hr ha (readPart_host_start ho hv), hb, recordHost_ok]

/-! ### Host writes of entries -/

/-- The cell that a write of its first bytes completes: the value it holds, under the bytes staged for it (R60). -/
def stagedCell (p : Port) (idx sub : Nat) (s : State) : Nat :=
  let g := stagingOf s (partKey p)
  if g.cell = some (idx, sub) then
    (below 16).foldl (fun x i => if bit g.mask i then setBits x (8 * i) 8 (bits g.value (8 * i) 8) else x)
      (cellNow p idx sub s)
  else cellNow p idx sub s

theorem writePart_refused {p : Port} {idx sub : Nat} {s : State} {st : Access} (h : refusedWrite p idx sub s = some st)
    (byte n v : Nat) : writePart p idx sub byte n v s = (st, s) := by
  simp only [writePart, h]

theorem refusedWrite_ne_ok {p : Port} {idx sub : Nat} {s : State} {st : Access} (h : refusedWrite p idx sub s = some st) :
    st ≠ .ok := by
  rintro rfl
  unfold refusedWrite at h
  split at h
  · cases h
  · split at h
    · cases h
    · split at h <;> cases h

/-- A write of a cell's first bytes commits the cell and empties the staging (R60). -/
theorem writePart_start {p : Port} {idx sub byte : Nat} {s : State} (h : refusedWrite p idx sub s = none)
    (hb : byte = 0) {n v x : Nat} (hx : setBits (stagedCell p idx sub s) 0 (8 * n) v % 2 ^ 128 = x) :
    writePart p idx sub byte n v s =
      ((writeAccess p idx sub x s).1, setStaging (partKey p) {} (writeAccess p idx sub x s).2) := by
  subst hx
  simp only [writePart, h, if_pos hb, stagedCell]

/-- The staging after `n` bytes of a cell from a later byte. -/
def stagedPart (cell : Nat × Nat) (old : Staging) (byte n v : Nat) : Staging :=
  ⟨some cell, ((2 ^ n - 1) * 2 ^ byte) ||| old.mask, setBits old.value (8 * byte) (8 * n) v⟩

/-- A write of a cell's later bytes is staged, beside what is staged of that cell already (R60). -/
theorem writePart_later {p : Port} {idx sub byte : Nat} {s : State} (h : refusedWrite p idx sub s = none)
    (hb : byte ≠ 0)
    (hg : (stagingOf s (partKey p)).cell = none ∨ (stagingOf s (partKey p)).cell = some (idx, sub)) (n v : Nat) :
    ∃ old, writePart p idx sub byte n v s = (.ok, setStaging (partKey p) (stagedPart (idx, sub) old byte n v) s) := by
  simp only [writePart, h, if_neg hb]
  rcases hg with hg | hg
  · exact ⟨{}, by simp [hg, stagedPart]⟩
  · exact ⟨stagingOf s (partKey p), by simp [hg, stagedPart]⟩

@[simp] theorem stagingOf_setStaging (k : Nat) (g : Staging) (s : State) : stagingOf (setStaging k g s) k = g :=
  storeGet_set_same _ _ _ _

@[simp] theorem snapOf_setSnap (k : Nat) (x : Snapshot) (s : State) : snapOf (setSnap k x s) k = x :=
  storeGet_set_same _ _ _ _

/-- Staged bytes laid over a value: a bit of a byte that the mask names comes from the staging. -/
theorem testBit_foldl_setBits (mask value : Nat) (is : List Nat) (x j : Nat) :
    (is.foldl (fun x i => if bit mask i then setBits x (8 * i) 8 (bits value (8 * i) 8) else x) x).testBit j =
      if j / 8 ∈ is ∧ bit mask (j / 8) = true then value.testBit j else x.testBit j := by
  induction is generalizing x with
  | nil => simp
  | cons i is ih =>
    rw [List.foldl_cons, ih]
    by_cases hi : j / 8 = i
    · subst hi
      have hj : 8 * (j / 8) ≤ j ∧ j < 8 * (j / 8) + 8 := by omega
      have hd : j - 8 * (j / 8) < 8 := by omega
      by_cases hm : bit mask (j / 8) = true
      · simp [hm, testBit_setBits, testBit_bits, hj, hd]
      · simp [hm]
    · have hj : ¬(8 * i ≤ j ∧ j < 8 * i + 8) := by omega
      by_cases hm : bit mask i = true
      · simp [hm, hi, testBit_setBits, hj]
      · simp [hm, hi]

/-- The last eight bytes of a cell, staged: the completed cell shows them there. -/
theorem testBit_stagedCell {p : Port} {idx sub : Nat} {s : State} {old : Staging} {v : Nat}
    (hg : stagingOf s (partKey p) = stagedPart (idx, sub) old 8 8 v) {j : Nat} (h1 : 64 ≤ j) (h2 : j < 128) :
    (stagedCell p idx sub s).testBit j = v.testBit (j - 64) := by
  have hin : j / 8 ∈ below 16 := mem_below.mpr (by omega)
  have hmask : bit (((2 ^ 8 - 1) * 2 ^ 8) ||| old.mask) (j / 8) = true := by
    have h8 : 8 ≤ j / 8 := by omega
    have h9 : j / 8 - 8 < 8 := by omega
    rw [bit_eq_testBit, Nat.testBit_or, Nat.testBit_mul_two_pow, Nat.testBit_two_pow_sub_one]
    simp [h8, h9]
  have hj : 8 * 8 ≤ j ∧ j < 8 * 8 + 8 * 8 := by omega
  simp only [stagedCell, hg, stagedPart, if_true, testBit_foldl_setBits]
  rw [if_pos ⟨hin, hmask⟩, testBit_setBits, if_pos hj]

/-- A write of a whole cell leaves nothing of what the cell held. -/
theorem setBits_whole {v : Nat} (h : v < 2 ^ 128) (x : Nat) : setBits x 0 128 v % 2 ^ 128 = v := by
  apply Nat.eq_of_testBit_eq
  intro j
  rw [Nat.testBit_mod_two_pow, testBit_setBits]
  by_cases hj : j < 128
  · simp [hj]
  · simp [hj, Nat.testBit_lt_two_pow (Nat.lt_of_lt_of_le h (Nat.pow_le_pow_right (by decide) (Nat.le_of_not_lt hj)))]

/-- The first eight bytes of a cell written over a staging of its last eight make up the cell. -/
theorem setBits_stagedCell {p : Port} {idx sub : Nat} {s : State} {old : Staging} {lo hi : List Byte}
    (hl : lo.length = 8) (hh : hi.length = 8)
    (hg : stagingOf s (partKey p) = stagedPart (idx, sub) old 8 8 (leNat hi)) :
    setBits (stagedCell p idx sub s) 0 64 (leNat lo) % 2 ^ 128 = leNat (lo ++ hi) := by
  have hlo : leNat lo < 2 ^ 64 := by simpa [hl] using leNat_lt lo
  have hhi : leNat hi < 2 ^ 64 := by simpa [hh] using leNat_lt hi
  rw [leNat_append, hl, Nat.add_comm]
  apply Nat.eq_of_testBit_eq
  intro j
  rw [Nat.testBit_mod_two_pow, testBit_setBits, Nat.testBit_two_pow_mul_add _ hlo]
  by_cases h1 : j < 64
  · have h2 : j < 128 := by omega
    simp [h1, h2]
  · by_cases h2 : j < 128
    · simp [h1, h2, testBit_stagedCell hg (Nat.le_of_not_lt h1) h2]
    · have h3 : leNat hi < 2 ^ (j - 8 * 8) :=
        Nat.lt_of_lt_of_le hhi (Nat.pow_le_pow_right (by decide) (by omega))
      simp [h1, h2, Nat.testBit_lt_two_pow h3]

/-- A host write of an allowed width and alignment is a write of a part of the cell (R57, R59). -/
theorem exec_hostDictionaryWrite_aligned {off : BitVec 28} {data : List Byte} {s s' : State} {st : Access}
    (hr : s.eng.run = .ready) (ha : hostAligned off.toNat data.length = true)
    (hp : writePart .h (off.toNat / 4096) (off.toNat / 16 % 256) (off.toNat % 16) data.length (leNat data) s = (st, s')) :
    exec (.hostDictionaryWrite off data) s = .next (onEng (fun e => emit .hostDone
      (recordHost st (off.toNat / 4096) (off.toNat / 16 % 256) off.toNat e)) s') := by
  simp only [exec, execHostDictionaryWrite, reach_of_ready hr, if_pos ha, hp]

theorem exec_hostDictionaryWrite_unaligned {off : BitVec 28} {data : List Byte} {s : State} (hr : s.eng.run = .ready)
    (ha : ¬hostAligned off.toNat data.length = true) :
    exec (.hostDictionaryWrite off data) s = .next (onEng (fun e => emit .hostDone
      (recordHost .badAccess (off.toNat / 4096) (off.toNat / 16 % 256) off.toNat e)) s) := by
  simp only [exec, execHostDictionaryWrite, reach_of_ready hr, if_neg ha]

/-- A host write from byte 0 of a cell whose value becomes `x`, and whose effect ends OK (R53, R60). -/
theorem hostWrite_commits {off : BitVec 28} {data : List Byte} {s u : State} {x : Nat} (hr : s.eng.run = .ready)
    (ha : hostAligned off.toNat data.length = true) (ho : off.toNat % 16 = 0)
    (hl : refusedWrite .h (off.toNat / 4096) (off.toNat / 16 % 256) s = none)
    (hx : setBits (stagedCell .h (off.toNat / 4096) (off.toNat / 16 % 256) s) 0 (8 * data.length) (leNat data) % 2 ^ 128 = x)
    (hu : writeAccess .h (off.toNat / 4096) (off.toNat / 16 % 256) x s = (.ok, u)) :
    ∃ t, exec (.hostDictionaryWrite off data) s = .next t ∧ t.eng = { u.eng with out := .hostDone :: u.eng.out } ∧
      stagingOf t 0 = {} := by
  have hp := writePart_start hl ho hx
  rw [hu] at hp
  refine ⟨_, exec_hostDictionaryWrite_aligned hr ha hp, ?_, stagingOf_setStaging 0 {} u⟩
  simp only [onEng_eng, recordHost_ok]; rfl

/-- A host write of a cell's last eight bytes does nothing but stage them (R60). -/
theorem hostWrite_stages {off : BitVec 28} {data : List Byte} {s : State} (hr : s.eng.run = .ready)
    (hd : data.length = 8) (ho : off.toNat % 16 = 8)
    (hl : refusedWrite .h (off.toNat / 4096) (off.toNat / 16 % 256) s = none)
    (hg : (stagingOf s 0).cell = none ∨ (stagingOf s 0).cell = some (off.toNat / 4096, off.toNat / 16 % 256)) :
    ∃ old, exec (.hostDictionaryWrite off data) s = .next (onEng (emit .hostDone) (setStaging 0
      (stagedPart (off.toNat / 4096, off.toNat / 16 % 256) old 8 8 (leNat data)) s)) := by
  have ha : hostAligned off.toNat data.length = true := hostAligned_iff.mpr ⟨.inr (.inl hd), by rw [hd]; omega⟩
  obtain ⟨old, hp⟩ := writePart_later (byte := off.toNat % 16) hl (by omega) hg data.length (leNat data)
  refine ⟨old, ?_⟩
  rw [exec_hostDictionaryWrite_aligned hr ha hp, ho, hd]
  simp only [recordHost_ok]
  rfl

end Sys2Proof.Machine

namespace Sys2Proof.Proofs

open Sys2Proof Sys2Proof.Machine

/-- Settles O7: after either edge of BT_PWRGOOD the block is written out in full by its command. -/
theorem powerRails : Obligations.PowerRails := by
  intro s
  refine ⟨⟨_, rfl, rfl, rfl, rfl, rfl, rfl, rfl, ?_, ?_, ?_, rfl, rfl, rfl, rfl, rfl, rfl, rfl, rfl⟩,
    ⟨_, rfl, rfl, rfl, rfl, rfl, rfl, rfl, rfl, ?_, ?_, rfl, rfl, rfl, rfl, rfl⟩⟩
  · exact regB_of_regs_nil rfl
  · exact domBytes_of_dom_eq rfl
  · exact memByte_of_mem_nil rfl rfl
  · exact regB_of_regs_nil rfl
  · exact memByte_of_mem_nil rfl rfl

/-- Settles O34: the nine rows share the dock's check of BT_READY. -/
theorem dockCommandsInReset : Obligations.DockCommandsInReset := by
  intro s c w op cmd st hcmd hready
  obtain ⟨x, hx⟩ := exec_dock_command hcmd st
  rw [hx, onEng, dockCommand_of_not_ready hready]
  rfl

/-- Settles O19: each clause is a case of a part read or of a part written, with the host's record of it. -/
theorem hostAccessesOfEntries : Obligations.HostAccessesOfEntries := by
  refine ⟨fun off n s => ⟨?_, ?_, ?_, ?_, ?_, ?_, ?_⟩, fun off data s => ?_⟩
  · intro hr hn ho v hv
    exact ⟨_, hostRead_start hr hn ho hv, rfl, snapOf_setSnap .., rfl, rfl, rfl⟩
  · intro hr hn ho hb hok hs
    have ha := hostAligned_iff.mpr ⟨hn.imp_right .inl, ho⟩
    simp only [exec_hostDictionaryRead_aligned hr ha (readPart_host_snapped hb hok hs), leBytes_bits, recordHost_ok]
    rfl
  · intro hr hn ho hb hs v hv
    have ha := hostAligned_iff.mpr ⟨hn.imp_right .inl, ho⟩
    have hx := exec_hostDictionaryRead_aligned hr ha (readPart_host_live hb hv hs)
    rw [leBytes_bits] at hx
    exact host_access_recorded (by decide) hx
  · intro hr hn ho st v hv hst
    have ha := hostAligned_iff.mpr ⟨hn, ho⟩
    exact host_access_recorded hst (exec_hostDictionaryRead_aligned hr ha (readPart_host_refused hv hst _))
  · intro hr hbad
    have ha : ¬hostAligned off.toNat n = true := by rw [hostAligned_iff]; tauto
    exact host_access_recorded (st := .badAccess) (by decide) (exec_hostDictionaryRead_unaligned hr ha)
  · intro hr hc
    rw [exec_hostDictionaryRead_not_ready hr, if_pos hc]
    rfl
  · intro hr hc
    rw [exec_hostDictionaryRead_not_ready hr, hc]
    rfl
  intro idx sub hr
  refine ⟨?_, ?_, ?_, ?_⟩
  · intro hbad
    have ha : ¬hostAligned off.toNat data.length = true := by rw [hostAligned_iff]; tauto
    exact host_access_recorded (st := .badAccess) (by decide) (exec_hostDictionaryWrite_unaligned hr ha)
  · intro hn ho st hst
    have ha := hostAligned_iff.mpr ⟨hn, ho⟩
    exact host_access_recorded (refusedWrite_ne_ok hst)
      (exec_hostDictionaryWrite_aligned hr ha (writePart_refused hst _ _ _))
  · intro hl hd ho u hu
    have ha : hostAligned off.toNat data.length = true := hostAligned_iff.mpr ⟨.inr (.inr hd), by rw [hd]; exact ho⟩
    have hv : leNat data < 2 ^ 128 := by simpa [hd] using leNat_lt data
    refine hostWrite_commits hr ha ho hl.2 ?_ hu
    rw [hd]
    exact setBits_whole hv _
  · intro hl hd ho hg
    obtain ⟨old, hx⟩ := hostWrite_stages hr hd ho hl.2 hg
    refine ⟨_, hx, rfl, rfl, congrArg Staging.cell (stagingOf_setStaging ..), ?_⟩
    intro lo off2 u hlo hoff hl2 hu
    have hidx : off2.toNat / 4096 = idx := by omega
    have hsub : off2.toNat / 16 % 256 = sub := by omega
    rw [← hidx, ← hsub] at hl2 hu
    have ha2 : hostAligned off2.toNat lo.length = true := hostAligned_iff.mpr ⟨.inr (.inl hlo), by rw [hlo]; omega⟩
    refine hostWrite_commits hr ha2 (by omega) hl2.2 ?_ hu
    rw [hlo, hidx, hsub]
    exact setBits_stagedCell hlo hd (stagingOf_setStaging ..)

end Sys2Proof.Proofs
end

section
/-! PROOFS. The release of the whole block after its hold phase (O11; spec/16_reset_clocks_power.md R383, R388, R393):
what begins with each step, when a step completes, and how a reset comes to step 2. -/

namespace Sys2Proof.Machine

/-! ### Folds -/

/-- A relation that every turn of a fold keeps relates its start to its result. -/
theorem foldl_related {α β : Type} {R : β → β → Prop} {f : β → α → β} {xs : List α} (hrefl : ∀ b, R b b)
    (htrans : ∀ {a b c}, R a b → R b c → R a c) (hstep : ∀ b, ∀ x ∈ xs, R b (f b x)) (b : β) : R b (xs.foldl f b) := by
  induction xs generalizing b with
  | nil => exact hrefl b
  | cons x xs ih =>
    exact htrans (hstep b x (by simp)) (ih (fun b y hy => hstep b y (by simp [hy])) (f b x))

/-- What one element's turn brings about, and every turn keeps, holds after the fold. -/
theorem foldl_reaches {α β : Type} {P : β → Prop} {f : β → α → β} {xs : List α} {x : α} (hx : x ∈ xs)
    (hset : ∀ b, P (f b x)) (hkeep : ∀ b, ∀ y ∈ xs, P b → P (f b y)) (b : β) : P (xs.foldl f b) := by
  obtain ⟨pre, post, rfl⟩ := List.append_of_mem hx
  rw [List.foldl_append, List.foldl_cons]
  exact foldl_related (R := fun a b => P a → P b) (fun _ h => h) (fun h g p => g (h p))
    (fun b y hy => hkeep b y (by simp [hy])) _ (hset _)

theorem sameMemory.trans {a b c : Eng} (h : sameMemory a b) (g : sameMemory b c) : sameMemory a c := by
  obtain ⟨hm, hf, hp⟩ := h
  obtain ⟨gm, gf, gp⟩ := g
  exact ⟨fun x => (gm x).trans (hm x), gf.trans hf, gp.trans hp⟩

/-! ### What starts with a release step -/

/-- What begins with a release step leaves the clock, the block's phase and memory alone. -/
structure Starts (e e' : Eng) : Prop where
  now : e'.now = e.now
  run : e'.run = e.run
  memory : sameMemory e e'

theorem Starts.refl (e : Eng) : Starts e e := ⟨rfl, rfl, sameMemory_refl e⟩

theorem Starts.trans {a b c : Eng} (h : Starts a b) (g : Starts b c) : Starts a c :=
  ⟨g.now.trans h.now, g.run.trans h.run, h.memory.trans g.memory⟩

theorem Starts.setReg {a b : Eng} (h : Starts a b) (i k v : Nat) : Starts a (Machine.setReg i k v b) :=
  h.trans ⟨rfl, rfl, sameMemory_of rfl rfl rfl rfl rfl⟩

theorem Starts.onAgent {a b : Eng} (h : Starts a b) (n : Nat) (f : Agent → Agent) : Starts a (Machine.onAgent n f b) :=
  h.trans ⟨rfl, rfl, sameMemory_of rfl rfl rfl rfl rfl⟩

theorem Starts.startModule {a b : Eng} (h : Starts a b) (m : Nat) : Starts a (Machine.startModule m b) :=
  h.trans ⟨rfl, rfl, sameMemory_of rfl rfl rfl rfl rfl⟩

theorem Starts.startControl {a b : Eng} (h : Starts a b) : Starts a (Machine.startControl b) :=
  h.trans ⟨rfl, rfl, sameMemory_of rfl rfl rfl rfl rfl⟩

theorem Starts.startLink {a b : Eng} (h : Starts a b) (p : Nat) : Starts a (Machine.startLink p b) := by
  unfold Machine.startLink
  have hl : Starts a (onLink p (fun l => { l with readyAt := b.now }) b) :=
    h.trans ⟨rfl, rfl, sameMemory_of rfl rfl rfl rfl rfl⟩
  exact (hl.startModule _).startModule _

theorem Starts.setInitStart {a b : Eng} (h : Starts a b) (n : Nat) (level : Bool) :
    Starts a (Machine.setInitStart n level b) :=
  h.trans ⟨rfl, rfl, sameMemory_of rfl rfl rfl rfl rfl⟩

theorem Starts.startAgent {a b : Eng} (h : Starts a b) (n : Nat) : Starts a (Machine.startAgent n b) := by
  unfold Machine.startAgent
  exact ((h.onAgent n _).setInitStart n true).setReg ..

theorem startTraining_eq (e : Eng) : startTraining e =
    (below 24).foldl (fun e n => setReg (0x3900 + n) 3 1 (setReg (0x3900 + n) 1 1 e))
      { e with trainAt := e.now, crossings := (below 24).map fun n => (n, { step := 1, since := e.now }) } := rfl

theorem startTraining_starts (e : Eng) : Starts e (startTraining e) := by
  rw [startTraining_eq]
  generalize below 24 = ns
  refine Starts.trans ?_ (foldl_related .refl .trans (fun e n _ => ((Starts.refl e).setReg ..).setReg ..) _)
  exact ⟨rfl, rfl, sameMemory_of rfl rfl rfl rfl rfl⟩

theorem startTraining_out (e : Eng) : (startTraining e).out = e.out := by
  rw [startTraining_eq]
  generalize below 24 = ns
  refine (foldl_related (R := fun a b : Eng => b.out = a.out) (fun _ => rfl) (fun h g => g.trans h) ?_ _).trans rfl
  exact fun e n _ => by rw [setReg_out, setReg_out]

/-- R270: every crossing trains, in its first attempt. -/
theorem reg_startTraining (e : Eng) {n : Nat} (hn : n < 24) :
    reg (startTraining e) (0x3900 + n) 1 = 1 ∧ reg (startTraining e) (0x3900 + n) 3 = 1 := by
  rw [startTraining_eq]
  refine foldl_reaches (P := fun e => reg e (0x3900 + n) 1 = 1 ∧ reg e (0x3900 + n) 3 = 1) (mem_below.mpr hn) ?_ ?_ _
  · intro e
    simp [reg_setReg, cellKey]
  · intro e m _ ⟨h1, h3⟩
    simp [reg_setReg, h1, h3]

theorem reg_startModule (m : Nat) (e : Eng) (i k : Nat) :
    reg (startModule m e) i k = if cellKey 0 i k = cellKey 0 (0x3930 + m) 1 then 1 else reg e i k := reg_setReg ..

/-- R355, R275: CP0 runs in the boot ROM, and the HST module initialises. -/
theorem reg_startControl (e : Eng) :
    reg (startControl e) 0x6008 1 = 1 ∧ reg (startControl e) 0x4000 1 = 1 ∧ reg (startControl e) 0x3934 1 = 1 := by
  simp [startControl, reg_startModule, reg_setReg, cellKey, coreIdx]

theorem reg_startAgent (n : Nat) (e : Eng) (i k : Nat) :
    reg (startAgent n e) i k = if cellKey 0 i k = cellKey 0 (agIdx n 0) 1 then 1 else reg e i k := reg_setReg ..

theorem agentOf_setReg (n i k v : Nat) (e : Eng) : agentOf (setReg i k v e) n = agentOf e n := rfl

theorem agentOf_setInitStart (n m : Nat) (level : Bool) (e : Eng) :
    agentOf (setInitStart m level e) n = agentOf (onAgent m (fun a => { a with initStart := level }) e) n := rfl

theorem startAgent_initStart_same (n : Nat) (e : Eng) : (agentOf (startAgent n e) n).initStart = true := by
  simp only [startAgent, agentOf_setReg, agentOf_setInitStart, agentOf_onAgent_same]

theorem agentOf_startAgent_other {n m : Nat} (h : n ≠ m) (e : Eng) : agentOf (startAgent m e) n = agentOf e n := by
  simp only [startAgent, agentOf_setReg, agentOf_setInitStart, agentOf_onAgent_other h]

theorem startAgent_out (n : Nat) (e : Eng) : (startAgent n e).out = .initStart n 1 :: e.out := by
  simp only [startAgent, setReg_out, setInitStart, emit, onAgent_out, if_true]

/-- R235: a stack agent that has raised INIT_START and initialises. -/
structure Initialising (n : Nat) (e : Eng) : Prop where
  state : reg e (agIdx n 0) 1 = 1
  level : (agentOf e n).initStart = true
  raised : .initStart n 1 ∈ e.out

theorem startAgent_initialising (n : Nat) (e : Eng) : Initialising n (startAgent n e) where
  state := by rw [reg_startAgent, if_pos rfl]
  level := startAgent_initStart_same n e
  raised := by rw [startAgent_out]; exact List.mem_cons_self

theorem Initialising.startAgent {n : Nat} {e : Eng} (h : Initialising n e) (m : Nat) :
    Initialising n (startAgent m e) := by
  by_cases hm : n = m
  · rw [← hm]
    exact startAgent_initialising n e
  · exact {
      state := by rw [reg_startAgent, h.state, ite_self]
      level := by rw [agentOf_startAgent_other hm, h.level]
      raised := by rw [startAgent_out]; exact List.mem_cons_of_mem _ h.raised }

/-- Every stack agent starts. -/
theorem startAgents_initialising (e : Eng) {n : Nat} (hn : n < 24) :
    Initialising n ((below 24).foldl (fun e n => startAgent n e) e) :=
  foldl_reaches (mem_below.mpr hn) (startAgent_initialising n) (fun _ m _ h => h.startAgent m) e

theorem startAgents_starts (ns : List Nat) (e : Eng) : Starts e (ns.foldl (fun e n => startAgent n e) e) :=
  foldl_related (R := Starts) .refl .trans (fun e n _ => (Starts.refl e).startAgent n) e

theorem startAgent_spBase (n : Nat) (e : Eng) : (startAgent n e).spBase = e.spBase := by
  simp only [startAgent, setReg_spBase, setInitStart, emit_spBase, onAgent_spBase]

theorem startAgents_spBase (ns : List Nat) (e : Eng) :
    (ns.foldl (fun e n => startAgent n e) e).spBase = e.spBase :=
  foldl_related (R := fun a b : Eng => b.spBase = a.spBase) (fun _ => rfl) (fun h g => g.trans h)
    (fun _ _ _ => startAgent_spBase ..) e

/-! ### Release steps -/

theorem stepDone_iff {e : Eng} {k : Nat} : stepDone e k = true ↔
    (k = 2 → reg e 0x1100 1 = 2) ∧ (k = 3 → reg e 0x3934 1 = 2) ∧ (k = 5 → ∀ n, n < 24 → reg e (0x3900 + n) 1 = 2) ∧
      (k = 6 → ∀ n, n < 24 → reg e (0x3000 + 0x40 * n) 1 = 2) := by
  unfold stepDone
  split
  case h_5 h2 h3 h5 h6 => exact iff_of_true rfl ⟨(absurd · h2), (absurd · h3), (absurd · h5), (absurd · h6)⟩
  all_goals simp [mem_below, agIdx]

/-- R383: at the start of step 6 the timeline begins and every stack agent starts. -/
theorem enterStep_agents (cold power : Bool) (e : Eng) : enterStep 6 cold power e =
    (below 24).foldl (fun e n => startAgent n e)
      { e with run := .release 6 e.now cold power, spBase := some e.now, nextFrame := 0 } := rfl

theorem enterStep_spBase (cold power : Bool) (e : Eng) : (enterStep 6 cold power e).spBase = some e.now := by
  rw [enterStep_agents, startAgents_spBase]

theorem enterStep_initialising (cold power : Bool) (e : Eng) {n : Nat} (hn : n < 24) :
    Initialising n (enterStep 6 cold power e) := by
  rw [enterStep_agents]
  exact startAgents_initialising _ hn

theorem Starts.entered {k : Nat} {cold power : Bool} {e e' : Eng}
    (h : Starts { e with run := .release k e.now cold power } e') :
    e'.now = e.now ∧ e'.run = .release k e.now cold power ∧ sameMemory e e' := by
  obtain ⟨hnow, hrun, hmem⟩ := h
  exact ⟨hnow, hrun, sameMemory.trans (sameMemory_of rfl rfl rfl rfl rfl) hmem⟩

/-- R383: a step after step 2 is the block's phase from its start on. -/
theorem enterStep_keeps (k : Nat) (cold power : Bool) (e : Eng) :
    (enterStep k cold power e).now = e.now ∧ (enterStep k cold power e).run = .release k e.now cold power ∧
      sameMemory e (enterStep k cold power e) := by
  refine Starts.entered ?_
  by_cases h6 : k = 6
  · subst h6
    rw [enterStep_agents]
    generalize below 24 = ns
    refine Starts.trans ?_ (startAgents_starts ns _)
    exact ⟨rfl, rfl, sameMemory_of rfl rfl rfl rfl rfl⟩
  · unfold enterStep
    dsimp only
    split
    · exact (Starts.refl _).startControl
    · exact startTraining_starts _
    · exact absurd rfl h6
    · exact ((Starts.refl _).startLink 0).startLink 1
    · exact .refl _

/-- Only the stack agents' INIT_START leaves a port as a step begins. -/
theorem enterStep_out {k : Nat} (hk : k ≠ 6) (cold power : Bool) (e : Eng) :
    (enterStep k cold power e).out = e.out := by
  unfold enterStep
  dsimp only
  split
  · rfl
  · exact startTraining_out _
  · exact absurd rfl hk
  · rfl
  · rfl

/-- Steps 4, 7 and 9 begin without a change of the dictionary. -/
theorem enterStep_regs {k : Nat} (hk : k = 4 ∨ k = 7 ∨ k = 9) (cold power : Bool) (e : Eng) :
    (enterStep k cold power e).regs = e.regs := by
  rcases hk with rfl | rfl | rfl <;> rfl

theorem completeStep_next {k : Nat} (h1 : k ≠ 1) (h8 : k ≠ 8) (cold power : Bool) (e : Eng) :
    completeStep k cold power e = enterStep (k + 1) cold power e := by
  unfold completeStep
  split
  · exact absurd rfl h1
  · exact absurd rfl h8
  · rfl

/-- R383: at the end of step 8 BT_READY rises, and no entry changes. -/
theorem completeStep_last (cold power : Bool) (e : Eng) :
    (completeStep 8 cold power e).now = e.now ∧ (completeStep 8 cold power e).run = .ready ∧
      sameMemory e (completeStep 8 cold power e) ∧ (completeStep 8 cold power e).out = e.out ∧
      (completeStep 8 cold power e).regs = e.regs :=
  ⟨rfl, rfl, sameMemory_of rfl rfl rfl rfl rfl, rfl, rfl⟩

theorem exec_releaseStepComplete_done {s : State} {k since : Nat} {cold power : Bool}
    (hrun : s.eng.run = .release k since cold power) (hd : stepDone s.eng k = true) :
    exec (.releaseStepComplete .block) s = .next (onEng (completeStep k cold power) s) := by
  simp only [exec, execReleaseStepComplete, onEng, hrun, hd, if_true]

/-- Where a step that is neither the first nor the last completes, the next begins. -/
theorem exec_releaseStepComplete_next {s : State} {k since : Nat} {cold power : Bool}
    (hrun : s.eng.run = .release k since cold power) (h2 : 2 ≤ k) (h8 : k < 8) (hd : stepDone s.eng k = true) :
    exec (.releaseStepComplete .block) s = .next (onEng (enterStep (k + 1) cold power) s) := by
  have hc : completeStep k cold power = enterStep (k + 1) cold power :=
    funext fun e => completeStep_next (by omega) (by omega) cold power e
  rw [exec_releaseStepComplete_done hrun hd, hc]

theorem exec_releaseStepComplete_waits {s : State} {k since : Nat} {cold power : Bool}
    (hrun : s.eng.run = .release k since cold power) (hd : ¬stepDone s.eng k = true) :
    exec (.releaseStepComplete .block) s = .next s := by
  simp only [exec, execReleaseStepComplete, onEng, hrun, if_neg hd]

/-! ### The start of step 2 -/

theorem enterStep2_recovery {e : Eng} (h : reg e 0x1202 1 / 256 % 256 ≤ reg e 0x1202 1 % 256) (cold power : Bool) :
    enterStep2 cold power e = enterRecovery e :=
  if_pos (by simpa [bits] using h)

/-- R393: where the source is stopped, the fast clocks are requested. -/
theorem enterStep2_cold {e : Eng} (h : reg e 0x1202 1 % 256 < reg e 0x1202 1 / 256 % 256) (power : Bool) :
    enterStep2 true power e = sendPwr 0x50000001#32
      (setReg 0x1100 1 1 { e with run := .release 2 e.now true power, clkReqAt := some e.now }) :=
  if_neg (by simpa [bits] using h)

/-- R393: where the source runs, the gates open. -/
theorem enterStep2_warm {e : Eng} (h : reg e 0x1202 1 % 256 < reg e 0x1202 1 / 256 % 256) (power : Bool) :
    enterStep2 false power e = setReg 0x1100 1 2 { e with run := .release 2 e.now false power } :=
  if_neg (by simpa [bits] using h)

theorem reg_withRun (e : Eng) (r : Run) (c : Option Nat) (o : ErrOut) (i k : Nat) :
    reg { e with run := r, clkReqAt := c, errOut := o } i k = reg e i k := rfl

/-- R388: what recovery mode shows. -/
theorem enterRecovery_effect (e : Eng) :
    (enterRecovery e).run = .recovery ∧ reg (enterRecovery e) 0x1200 2 = 3 ∧ reg (enterRecovery e) 0x1100 1 = 0 ∧
      reg (enterRecovery e) 0x6000 1 = 7 ∧ reg (enterRecovery e) 0x1205 4 = (reg e 0x1205 4 + 1) % 2 ^ 64 ∧
      (enterRecovery e).errOut.low = true ∧ (enterRecovery e).clkReqAt = none ∧
      (enterRecovery e).out = (sendPwr 0x50000000#32 e).out := by
  have hw : wrapWidth 0x1205 4 = 64 := by decide
  refine ⟨rfl, ?_, ?_, ?_, ?_, rfl, rfl, rfl⟩
  · simp [enterRecovery, reg_setReg, reg_bump_other, cellKey]
  · simp [enterRecovery, reg_setReg, cellKey]
  · simp [enterRecovery]
  · simp [enterRecovery, reg_setReg, reg_bump_same, reg_withRun, cellKey, hw]

/-- R393: the effect of the start of step 2 from a stopped source. -/
theorem enterStep2_cold_effect {e : Eng} (h : reg e 0x1202 1 % 256 < reg e 0x1202 1 / 256 % 256) (power : Bool) :
    (enterStep2 true power e).run = .release 2 e.now true power ∧ reg (enterStep2 true power e) 0x1100 1 = 1 ∧
      (enterStep2 true power e).clkReqAt = some e.now ∧
      (enterStep2 true power e).out = (sendPwr 0x50000001#32 e).out ∧
      sameEntries [(0x1100, 1)] e (enterStep2 true power e) := by
  rw [enterStep2_cold h]
  refine ⟨rfl, (reg_sendPwr ..).trans (reg_setReg_same ..), rfl, rfl, sameEntries.congr ?_ (sendPwr_regs ..)⟩
  exact ((sameEntries_refl _ e).congr rfl).setReg (by decide) (by decide) (by decide) 1

/-- R393: the effect of the start of step 2 where the source runs. -/
theorem enterStep2_warm_effect {e : Eng} (h : reg e 0x1202 1 % 256 < reg e 0x1202 1 / 256 % 256) (power : Bool) :
    (enterStep2 false power e).run = .release 2 e.now false power ∧ reg (enterStep2 false power e) 0x1100 1 = 2 ∧
      (enterStep2 false power e).out = e.out ∧ sameEntries [(0x1100, 1)] e (enterStep2 false power e) := by
  rw [enterStep2_warm h]
  refine ⟨rfl, reg_setReg_same .., rfl, ?_⟩
  exact ((sameEntries_refl _ e).congr rfl).setReg (by decide) (by decide) (by decide) 2

theorem enterRecovery_entries (e : Eng) :
    sameEntries [(0x1100, 1), (0x1200, 2), (0x1205, 4), (0x6000, 1)] e (enterRecovery e) := by
  refine sameEntries.congr ?_ (sendPwr_regs ..)
  refine sameEntries.setReg ?_ (by decide) (by decide) (by decide) 7
  refine sameEntries.setReg ?_ (by decide) (by decide) (by decide) 0
  refine sameEntries.bump ?_ (by decide) (by decide) (by decide)
  exact ((sameEntries_refl _ e).congr rfl).setReg (by decide) (by decide) (by decide) 3

/-- R388, R393: the entries that the start of step 2 can change, or recovery mode in its place. -/
theorem enterStep2_keeps (cold power : Bool) (e : Eng) :
    (enterStep2 cold power e).now = e.now ∧ sameMemory e (enterStep2 cold power e) ∧
      (enterStep2 cold power e).dom = e.dom ∧
      sameEntries [(0x1100, 1), (0x1200, 2), (0x1205, 4), (0x6000, 1)] e (enterStep2 cold power e) ∧
      ((enterStep2 cold power e).run = .release 2 e.now cold power ∨ (enterStep2 cold power e).run = .recovery) := by
  rcases Nat.lt_or_ge (reg e 0x1202 1 % 256) (reg e 0x1202 1 / 256 % 256) with h | h
  · cases cold with
    | true =>
      obtain ⟨hrun, -, -, -, hent⟩ := enterStep2_cold_effect h power
      rw [enterStep2_cold h] at hrun hent ⊢
      exact ⟨rfl, sameMemory_of rfl rfl rfl rfl rfl, rfl, hent.mono (by simp), .inl hrun⟩
    | false =>
      obtain ⟨hrun, -, -, hent⟩ := enterStep2_warm_effect h power
      rw [enterStep2_warm h] at hrun hent ⊢
      exact ⟨rfl, sameMemory_of rfl rfl rfl rfl rfl, rfl, hent.mono (by simp), .inl hrun⟩
  · rw [enterStep2_recovery h]
    exact ⟨rfl, sameMemory_of rfl rfl rfl rfl rfl, rfl, enterRecovery_entries e, .inr rfl⟩

/-! ### The end of the hold phase -/

theorem exec_holdPhaseEnd_powerOn {s : State} {since : Nat} {cold : Bool} (hrun : s.eng.run = .hold since cold true) :
    exec (.holdPhaseEnd .block) s = .next (onEng (fun e =>
      let e := advanceTo (since + 16 * aonT) e
      { e with run := .release 1 e.now cold true }) s) := by
  simp only [exec, execHoldPhaseEnd, onEng, endHold, hrun, if_true]

theorem exec_holdPhaseEnd_block {s : State} {since : Nat} {cold : Bool} (hrun : s.eng.run = .hold since cold false) :
    exec (.holdPhaseEnd .block) s =
      .next (onEng (fun e => enterStep2 cold false (advanceTo (since + 16 * aonT) e)) s) := by
  simp only [exec, execHoldPhaseEnd, onEng, endHold, hrun, Bool.false_eq_true, if_false]

/-! ### Step 1 of a power-on reset -/

/-- R390: the record of a reset in the log, and the entries that go with it. -/
theorem logReset_record (time cause scope part detail : Nat) (e : Eng) :
    reg (logReset time cause scope part detail e) 0x1202 2 = (reg e 0x1202 2 % 8 + 1) % 8 ∧
      reg (logReset time cause scope part detail e) 0x1205 2 = (reg e 0x1205 2 + 1) % 2 ^ 64 ∧
      domBytes (logReset time cause scope part detail e) 0x1203 2 (16 * (reg e 0x1202 2 % 8)) 16 =
        logRecord time cause scope part detail := by
  have hw : wrapWidth 0x1205 2 = 64 := by decide
  have hk : bits (reg e 0x1202 2) 0 3 = reg e 0x1202 2 % 8 := by simp [bits]
  have hl : (logRecord time cause scope part detail).length = 16 := by simp [logRecord]
  unfold logReset
  rw [hk]
  refine ⟨?_, ?_, ?_⟩
  · simp [reg_bump_other, cellKey]
  · simp [reg_bump_same, reg_setReg, cellKey, hw]
  · have h := domBytes_setDomBytes_same 0x1203 2 (16 * (reg e 0x1202 2 % 8)) (logRecord time cause scope part detail) e
    rw [hl] at h
    exact h

end Sys2Proof.Machine

namespace Sys2Proof.Proofs

open Sys2Proof Sys2Proof.Machine

/-- Settles O11: the end of the hold phase, a step whose condition does not hold, step 1, and the steps from 2 on. -/
theorem releaseFollowsTheHold : Obligations.ReleaseFollowsTheHold := by
  refine ⟨fun s since cold power hrun => ?_, fun s k since cold power hrun => ⟨?_, ?_, ?_⟩⟩
  · cases power with
    | true =>
      refine ⟨_, exec_holdPhaseEnd_powerOn hrun, rfl, rfl, rfl, sameMemory_of rfl rfl rfl rfl rfl,
        (sameEntries_refl _ _).congr rfl, fun _ => ⟨rfl, rfl, rfl⟩, ?_, ?_, ?_⟩
      all_goals exact fun h => Bool.noConfusion h
    | false =>
      obtain ⟨hnow, hmem, -, hent, -⟩ := enterStep2_keeps cold false (advanceTo (since + 16 * aonT) s.eng)
      refine ⟨_, exec_holdPhaseEnd_block hrun, rfl, rfl, hnow, hmem, hent, fun h => Bool.noConfusion h, ?_, ?_, ?_⟩
      · intro _ h hc
        subst hc
        rw [onEng_eng, hnow]
        exact enterStep2_cold_effect (by simpa using h) false
      · intro _ h hc
        subst hc
        rw [onEng_eng, hnow]
        exact enterStep2_warm_effect (by simpa using h) false
      · intro _ h
        rw [onEng_eng, hnow, enterStep2_recovery (by simpa using h)]
        exact enterRecovery_effect (advanceTo (since + 16 * aonT) s.eng)
  · intro hwait
    refine exec_releaseStepComplete_waits hrun fun hd => ?_
    obtain ⟨d2, d3, d5, d6⟩ := stepDone_iff.mp hd
    rcases hwait with ⟨hk, h⟩ | ⟨hk, h⟩ | ⟨hk, n, hn, h⟩ | ⟨hk, n, hn, h⟩
    · exact h (d2 hk)
    · exact h (d3 hk)
    · exact h (d5 hk n hn)
    · exact h (d6 hk n hn)
  · intro hk
    subst hk
    obtain ⟨hnext, hcount, hrec⟩ := logReset_record 0 1 0 0 0 s.eng
    obtain ⟨-, -, hdom, hent, hphase⟩ := enterStep2_keeps cold power (logReset 0 1 0 0 0 s.eng)
    refine ⟨_, exec_releaseStepComplete_done hrun rfl, hphase, ?_, ?_, ?_⟩
    · exact (hent.reg (by decide) (by decide) (by decide)).trans hnext
    · exact (hent.reg (by decide) (by decide) (by decide)).trans hcount
    · exact (domBytes_of_dom_eq hdom ..).trans hrec
  · intro h2 h8 d2 d3 d5 d6
    have hd : stepDone s.eng k = true := stepDone_iff.mpr ⟨d2, d3, d5, d6⟩
    rcases Nat.lt_or_eq_of_le h8 with hlt | rfl
    · obtain ⟨hnow, hphase, hmem⟩ := enterStep_keeps (k + 1) cold power s.eng
      refine ⟨_, exec_releaseStepComplete_next hrun h2 hlt hd, rfl, rfl, hnow, hmem,
        fun h5 => enterStep_out (by omega) .., fun _ => hphase, fun h => absurd h (by omega), ?_,
        fun h => enterStep_regs (by omega) .., ?_, ?_⟩
      · intro hk
        subst hk
        exact reg_startControl _
      · intro hk n hn
        subst hk
        exact reg_startTraining _ hn
      · intro hk
        subst hk
        refine ⟨enterStep_spBase .., fun n hn => ?_⟩
        obtain ⟨hstate, hlevel, hraised⟩ := enterStep_initialising cold power s.eng hn
        exact ⟨hstate, hlevel, hraised⟩
    · obtain ⟨hnow, hphase, hmem, hout, hregs⟩ := completeStep_last cold power s.eng
      exact ⟨_, exec_releaseStepComplete_done hrun hd, rfl, rfl, hnow, hmem, fun _ => hout,
        fun h => absurd h (by decide), fun _ => hphase, fun h => absurd h (by decide), fun _ => hregs,
        fun h => absurd h (by decide), fun h => absurd h (by decide)⟩

end Sys2Proof.Proofs
end

section
/-! PROOFS. Deck swaps and the boundary of a frame (O44; spec/09_deck.md R221, R225 to R229): SWAP_CTRL, the load checks
and the decision point, and a frame's boundary as a chain of stages, each with what it may change. -/

namespace Sys2Proof.Machine

/-! ### SWAP_CTRL -/

/-- SWAP_CTRL's codes pass the mask of its row. -/
theorem rowOf_swapCtrl : ∃ r, rowOf 0x3810 4 = some r ∧ maskValue r 1 = 1 ∧ maskValue r 2 = 2 := ⟨_, rfl, rfl, rfl⟩

theorem effSwapCtrl_decided {s : State} (h : reg s.eng 0x3810 5 = 4) {v : Nat} (hv : v ≠ 0) :
    effSwapCtrl v s = (.denied, s) := by
  unfold effSwapCtrl
  rw [if_neg hv, if_pos h]

theorem effSwapCtrl_commit {s : State} (h : reg s.eng 0x3810 5 ≠ 4) :
    effSwapCtrl 1 s = (.ok, onEng (fun e => setReg 0x3810 5 1 (noteSwapFrame e)) s) := by
  rw [effSwapCtrl, if_neg (by decide), if_neg h]

theorem effSwapCtrl_withdraw {s : State} (h : reg s.eng 0x3810 5 ≠ 4) :
    effSwapCtrl 2 s = (.ok, onEng (setReg 0x3810 5 0) s) := by
  rw [effSwapCtrl, if_neg (by decide), if_neg h]

/-- R227: once the swap is decided, a commit and a withdrawal are denied. -/
theorem exec_swapCtrl_denied {p : Port} {s : State} (h : letThrough p 0x3810 4 s) (hd : reg s.eng 0x3810 5 = 4) :
    exec (.swapCommit p) s = .next (onEng (endAccess p 0x3810 4 .denied) s) ∧
      exec (.swapWithdraw p) s = .next (onEng (endAccess p 0x3810 4 .denied) s) := by
  obtain ⟨r, hr, hm1, hm2⟩ := rowOf_swapCtrl
  constructor
  · simp only [exec, execSwapCommit, portWrite_letThrough h hr, hm1, effSwapCtrl_decided hd, ne_eq, one_ne_zero,
      not_false_eq_true]
  · simp only [exec, execSwapWithdraw, portWrite_letThrough h hr, hm2, effSwapCtrl_decided hd, ne_eq,
      OfNat.ofNat_ne_zero, not_false_eq_true]

theorem exec_swapCommit {p : Port} {s : State} (h : letThrough p 0x3810 4 s) (hd : reg s.eng 0x3810 5 ≠ 4) :
    exec (.swapCommit p) s =
      .next (onEng (fun e => emit (.access p 0x3810 4 0) (setReg 0x3810 5 1 (noteSwapFrame e))) s) := by
  obtain ⟨r, hr, hm, -⟩ := rowOf_swapCtrl
  exact congrArg Host.Outcome.next (portWrite_ok h hr (by rw [hm]; exact effSwapCtrl_commit hd))

theorem exec_swapWithdraw {p : Port} {s : State} (h : letThrough p 0x3810 4 s) (hd : reg s.eng 0x3810 5 ≠ 4) :
    exec (.swapWithdraw p) s = .next (onEng (fun e => emit (.access p 0x3810 4 0) (setReg 0x3810 5 0 e)) s) := by
  obtain ⟨r, hr, -, hm⟩ := rowOf_swapCtrl
  exact congrArg Host.Outcome.next (portWrite_ok h hr (by rw [hm]; exact effSwapCtrl_withdraw hd))

/-- R226: a swap is late that names a frame already begun. -/
theorem noteSwapFrame_late (e : Eng) :
    (noteSwapFrame e).deck.late = true ↔ ∃ f, frameNow e = some f ∧ reg e 0x3810 1 ≤ f := by
  simp only [noteSwapFrame, Option.any_eq_true, decide_eq_true_eq]

theorem endAccess_entries (p : Port) (i k : Nat) (st : Access) (e : Eng) :
    sameEntries [(0x1010, 1), (0x1010, 2), (0x1010, 3), (0x1010, 4), (0x1010, 5)] e (endAccess p i k st e) :=
  fun _ _ _ hi hk hn => endAccess_regs p i k st e hi hk hn

theorem endAccess_onlyEntries (p : Port) (i k : Nat) (st : Access) (s : State) :
    onlyEntries s (onEng (endAccess p i k st) s) := by
  rw [onlyEntries, onEng, endAccess_only]

theorem endAccess_out (p : Port) (i k : Nat) (st : Access) (e : Eng) :
    (endAccess p i k st e).out = .access p i k st.code :: e.out := by
  rw [endAccess_only]

/-! ### The load checks and the decision point -/

theorem exec_swapChecksComplete_idle {s : State} (h : reg s.eng 0x3810 5 ≠ 1) :
    exec .swapChecksComplete s = .next s := by
  simp only [exec, execSwapChecksComplete, onEng, if_pos h]

theorem exec_swapChecksComplete_pass {s : State} (h : reg s.eng 0x3810 5 = 1) (hc : loadChecks s.eng = none) :
    exec .swapChecksComplete s = .next (onEng (setReg 0x3810 5 2) s) := by
  simp only [exec, execSwapChecksComplete, onEng, h, hc, ne_eq, not_true_eq_false, if_false]

/-- R221: a swap that a check has failed, with the record of the failure and its count. -/
def refuseSwap (x : CheckFail) (e : Eng) : Eng := bump 0x3818 3 (setReg 0x3810 6 x.word (setReg 0x3810 5 3 e))

theorem exec_swapChecksComplete_fail {s : State} (h : reg s.eng 0x3810 5 = 1) {x : CheckFail}
    (hc : loadChecks s.eng = some x) : exec .swapChecksComplete s = .next (onEng (refuseSwap x) s) := by
  simp only [exec, execSwapChecksComplete, onEng, h, hc, ne_eq, not_true_eq_false, if_false, refuseSwap]

/-- Nothing has changed but dictionary values. -/
def onlyRegs (e e' : Eng) : Prop := e' = { e with regs := e'.regs }

theorem onlyRegs.refl (e : Eng) : onlyRegs e e := rfl

theorem onlyRegs.setReg {e e' : Eng} (h : onlyRegs e e') (i k v : Nat) : onlyRegs e (Machine.setReg i k v e') := by
  unfold onlyRegs at *
  rw [h]
  rfl

theorem onlyRegs.bump {e e' : Eng} (h : onlyRegs e e') (i k : Nat) : onlyRegs e (Machine.bump i k e') := h.setReg ..

theorem refuseSwap_only (x : CheckFail) (e : Eng) : onlyRegs e (refuseSwap x e) :=
  (((onlyRegs.refl e).setReg ..).setReg ..).bump ..

/-- A change of dictionary values alone, as a change of the state. -/
theorem onlyEntries_of_regs {f : Eng → Eng} {s : State} (h : onlyRegs s.eng (f s.eng)) : onlyEntries s (onEng f s) := by
  rw [onlyEntries, onEng, h]

theorem reg_refuseSwap (x : CheckFail) (e : Eng) : reg (refuseSwap x e) 0x3810 5 = 3 ∧
    reg (refuseSwap x e) 0x3810 6 = x.word ∧ reg (refuseSwap x e) 0x3818 3 = (reg e 0x3818 3 + 1) % 2 ^ 64 := by
  have hw : wrapWidth 0x3818 3 = 64 := by decide
  refine ⟨?_, ?_, ?_⟩
  · simp [refuseSwap, reg_bump_other, reg_setReg, cellKey]
  · simp [refuseSwap, reg_bump_other, cellKey]
  · simp [refuseSwap, reg_bump_same, reg_setReg, cellKey, hw]

theorem refuseSwap_entries (x : CheckFail) (e : Eng) :
    sameEntries [(0x3810, 5), (0x3810, 6), (0x3818, 3)] e (refuseSwap x e) := by
  refine sameEntries.bump ?_ (by decide) (by decide) (by decide)
  refine sameEntries.setReg ?_ (by decide) (by decide) (by decide) _
  exact (sameEntries_refl _ e).setReg (by decide) (by decide) (by decide) 3

theorem exec_swapDecisionPoint {s : State} {e : Eng} (h : decideSwap s.eng = e) :
    exec .swapDecisionPoint s = .next { s with eng := e } := by
  simp only [exec, execSwapDecisionPoint, onEng, h]

/-- The decision point of the frame that begins next, 192 SPCLK before it (R225). -/
def toDecision (b : Nat) (e : Eng) : Eng := { e with now := max e.now (b + 8192 * e.nextFrame - 384) }

theorem reg_toDecision (b : Nat) (e : Eng) (i k : Nat) : reg (toDecision b e) i k = reg e i k := rfl

/-- At the decision point a swap is decided, has missed its frame, or goes on as it is. -/
theorem decideSwap_eq {e : Eng} {b : Nat} (hb : e.spBase = some b) : decideSwap e =
    if reg e 0x3810 5 = 2 ∧ reg e 0x3810 1 ≤ e.nextFrame then
      setReg 0x3810 5 4 { toDecision b e with
        deck := { e.deck with decided := some e.nextFrame, pattern := reg e 0x3810 2, counts := reg e 0x3810 3 } }
    else if reg e 0x3810 5 = 1 ∧ reg e 0x3810 1 ≤ e.nextFrame ∧ reg e 0x3810 1 ≠ 0 ∧ !e.deck.late then
      bump 0x3818 2 (toDecision b e)
    else toDecision b e := by
  have hat : advanceTo (b + frameT * e.nextFrame - 2 * 192) e = toDecision b e := by
    simp only [advanceTo, toDecision, frameT]
  have hdeck : (toDecision b e).deck = e.deck := rfl
  unfold decideSwap
  rw [hb]
  simp only [hat, reg_toDecision, hdeck]

/-- R225: a swap that is due is decided for the frame that begins next, as it is pending now. -/
theorem decideSwap_due {e : Eng} {b : Nat} (hb : e.spBase = some b) (h : reg e 0x3810 5 = 2)
    (hf : reg e 0x3810 1 ≤ e.nextFrame) : decideSwap e = setReg 0x3810 5 4 { toDecision b e with
      deck := { e.deck with decided := some e.nextFrame, pattern := reg e 0x3810 2, counts := reg e 0x3810 3 } } := by
  rw [decideSwap_eq hb, if_pos ⟨h, hf⟩]

theorem decideSwap_early {e : Eng} {b : Nat} (hb : e.spBase = some b) (h : reg e 0x3810 5 = 2)
    (hf : e.nextFrame < reg e 0x3810 1) : decideSwap e = toDecision b e := by
  rw [decideSwap_eq hb, if_neg (by omega), if_neg (by omega)]

/-- R226: a swap still in its checks misses the frame that it names. -/
theorem decideSwap_missed {e : Eng} {b : Nat} (hb : e.spBase = some b) (h : reg e 0x3810 5 = 1)
    (hf : reg e 0x3810 1 ≤ e.nextFrame) (h0 : reg e 0x3810 1 ≠ 0) (hl : e.deck.late = false) :
    decideSwap e = bump 0x3818 2 (toDecision b e) := by
  rw [decideSwap_eq hb, if_neg (by omega), if_pos ⟨h, hf, h0, congrArg not hl⟩]

/-! ### The stages of a frame's boundary

Each definition names one step of `frameBegin`, which `frameBegin_eq` puts together again. -/

/-- The frame that begins next begins (R34). -/
def beginNext (b : Nat) (e : Eng) : Eng := advanceTo (b + frameT * e.nextFrame) { e with nextFrame := e.nextFrame + 1 }

/-- The Hand entries made dynamic for frames that have passed are forgotten. -/
def ageLoosened (f : Nat) (e : Eng) : Eng :=
  { e with deck := { e.deck with
      loosened := e.deck.loosened.filter fun x => f ≤ x.2.1 / 512
      looseSpine := e.deck.looseSpine.filter fun x => f ≤ x.2.1 / 512 } }

/-- R229: the Hand entries that a frame reads with an error. -/
def readErrors (f : Nat) (errs : List (HandSlot × Bool)) (e : Eng) : Eng :=
  errs.foldl (fun e x => readEntryError f x e) e

/-- R233: the refresh-rate indications of the agents that are not held in reset. -/
def sampleRates (rates : Nat) (e : Eng) : Eng :=
  (below 24).foldl (fun e n =>
    if partHeld e (48 + n) then e else setReg (agIdx n 0) 2 (bits rates (2 * n) 2) e) e

/-- R208: the docks with a hold in force count the frame. -/
def countHolds (e : Eng) : Eng :=
  (below 48).foldl (fun e s => if (dockOf e s).hold.isSome then bump (stIdx s 0x30) 11 e else e) e

/-- R375: the quiet frames in a row. -/
def countQuiet (e : Eng) : Eng :=
  let active := e.docks.any fun d => !d.2.streams.isEmpty || d.2.hold.isSome
  { e with fw := { e.fw with quiet := if active || e.fw.busy then 0 else e.fw.quiet + 1, busy := false } }

theorem exec_frameBegin (rates : BitVec 48) (errs : List (HandSlot × Bool)) (s : State) :
    exec (.frameBegin ⟨rates, errs⟩) s = .next (onEng (frameBegin rates.toNat errs) s) := by
  simp only [exec, execFrameBegin]

theorem beginNext_now (b : Nat) (e : Eng) : (beginNext b e).now = max e.now (b + 8192 * e.nextFrame) := by
  simp only [beginNext, advanceTo, frameT]

theorem reg_beginNext (b : Nat) (e : Eng) (i k : Nat) : reg (beginNext b e) i k = reg e i k := rfl

theorem beginNext_memory (b : Nat) (e : Eng) : sameMemory e (beginNext b e) := sameMemory_of rfl rfl rfl rfl rfl

/-- FRAME_BEGIN, stage by stage. -/
theorem frameBegin_eq {e : Eng} {b : Nat} (hb : e.spBase = some b) (rates : Nat) (errs : List (HandSlot × Bool)) :
    frameBegin rates errs e = countQuiet (countStalls 1 (countStalls 0 (countHolds (sampleRates rates
      (readErrors e.nextFrame errs (ageLoosened e.nextFrame (takeSwap e.nextFrame (beginNext b e)))))))) := by
  simp only [frameBegin, hb, countQuiet, countHolds, sampleRates, readErrors, ageLoosened, beginNext]

/-- A stage of a frame's boundary: it may change the listed entries, and leaves the clock, the phases, the docks, what
left the ports, and memory alone. -/
structure Boundary (ks : List (Nat × Nat)) (e e' : Eng) : Prop where
  now : e'.now = e.now
  nextFrame : e'.nextFrame = e.nextFrame
  run : e'.run = e.run
  parts : e'.parts = e.parts
  docks : e'.docks = e.docks
  out : e'.out = e.out
  memory : sameMemory e e'
  entries : sameEntries ks e e'

/-- A stage that besides raises no fault and leaves the Deck alone. -/
structure Quiet (ks : List (Nat × Nat)) (e e' : Eng) : Prop extends Boundary ks e e' where
  raised : e'.raised = e.raised
  deck : e'.deck = e.deck

variable {ks ks' : List (Nat × Nat)} {a b c : Eng}

theorem Boundary.refl (ks : List (Nat × Nat)) (e : Eng) : Boundary ks e e :=
  ⟨rfl, rfl, rfl, rfl, rfl, rfl, sameMemory_refl e, sameEntries_refl ks e⟩

theorem Boundary.trans (h : Boundary ks a b) (g : Boundary ks b c) : Boundary ks a c where
  now := g.now.trans h.now
  nextFrame := g.nextFrame.trans h.nextFrame
  run := g.run.trans h.run
  parts := g.parts.trans h.parts
  docks := g.docks.trans h.docks
  out := g.out.trans h.out
  memory := h.memory.trans g.memory
  entries := h.entries.trans g.entries

theorem Boundary.mono (h : Boundary ks a b) (hs : ks ⊆ ks') : Boundary ks' a b :=
  { h with entries := h.entries.mono hs }

theorem Boundary.setReg {i k : Nat} (h : Boundary ks a b) (hm : (i, k) ∈ ks) (hi : i < 65536) (hk : k < 256) (v : Nat) :
    Boundary ks a (Machine.setReg i k v b) :=
  h.trans ⟨rfl, rfl, rfl, rfl, rfl, rfl, sameMemory_of rfl rfl rfl rfl rfl, (sameEntries_refl ks b).setReg hm hi hk v⟩

theorem Boundary.bump {i k : Nat} (h : Boundary ks a b) (hm : (i, k) ∈ ks) (hi : i < 65536) (hk : k < 256) :
    Boundary ks a (Machine.bump i k b) := h.setReg hm hi hk _

theorem Boundary.withDeck (h : Boundary ks a b) (d : Deck) : Boundary ks a { b with deck := d } :=
  h.trans ⟨rfl, rfl, rfl, rfl, rfl, rfl, sameMemory_of rfl rfl rfl rfl rfl, (sameEntries_refl ks b).congr rfl⟩

theorem Boundary.raise (h : Boundary ks a b) (src d : Nat) : Boundary ks a (Machine.raise src d b) :=
  h.trans ⟨rfl, rfl, rfl, rfl, rfl, rfl, sameMemory_of rfl rfl rfl rfl rfl, (sameEntries_refl ks b).congr rfl⟩

theorem Quiet.refl (ks : List (Nat × Nat)) (e : Eng) : Quiet ks e e := ⟨.refl ks e, rfl, rfl⟩

theorem Quiet.trans (h : Quiet ks a b) (g : Quiet ks b c) : Quiet ks a c :=
  ⟨h.toBoundary.trans g.toBoundary, g.raised.trans h.raised, g.deck.trans h.deck⟩

theorem Quiet.mono (h : Quiet ks a b) (hs : ks ⊆ ks') : Quiet ks' a b :=
  ⟨h.toBoundary.mono hs, h.raised, h.deck⟩

theorem Quiet.setReg {i k : Nat} (h : Quiet ks a b) (hm : (i, k) ∈ ks) (hi : i < 65536) (hk : k < 256) (v : Nat) :
    Quiet ks a (Machine.setReg i k v b) := ⟨h.toBoundary.setReg hm hi hk v, h.raised, h.deck⟩

theorem Quiet.bump {i k : Nat} (h : Quiet ks a b) (hm : (i, k) ∈ ks) (hi : i < 65536) (hk : k < 256) :
    Quiet ks a (Machine.bump i k b) := h.setReg hm hi hk _

theorem Quiet.onChan (h : Quiet ks a b) (p c : Nat) (f : Chan → Chan) : Quiet ks a (Machine.onChan p c f b) :=
  h.trans ⟨⟨rfl, rfl, rfl, rfl, rfl, rfl, sameMemory_of rfl rfl rfl rfl rfl, (sameEntries_refl ks b).congr rfl⟩,
    rfl, rfl⟩

theorem Quiet.setDomNat (h : Quiet ks a b) (i k o n v : Nat) : Quiet ks a (Machine.setDomNat i k o n v b) :=
  h.trans ⟨⟨rfl, rfl, rfl, rfl, rfl, rfl, sameMemory_of rfl rfl rfl rfl rfl, (sameEntries_refl ks b).congr rfl⟩,
    rfl, rfl⟩

theorem Quiet.chanBump (h : Quiet ks a b) (p c k : Nat) : Quiet ks a (Machine.chanBump p c k b) := h.setDomNat ..

theorem Quiet.ite {p : Prop} [Decidable p] {x y : Eng} (h : Quiet ks a x) (g : Quiet ks a y) :
    Quiet ks a (if p then x else y) := by
  split
  · exact h
  · exact g

/-- A fold whose every turn is quiet. -/
theorem Quiet.foldl {α : Type} {f : Eng → α → Eng} {xs : List α} (h : ∀ e, ∀ x ∈ xs, Quiet ks e (f e x)) (e : Eng) :
    Quiet ks e (xs.foldl f e) := foldl_related (.refl ks) .trans h e

/-! ### A decided swap takes effect -/

/-- The entries that a swap which takes effect writes (R225). -/
def swapEntries : List (Nat × Nat) :=
  [(0x3800, 1), (0x3800, 2), (0x3800, 3), (0x3800, 5), (0x3800, 6), (0x3818, 1), (0x3810, 5)]

theorem takeSwap_other {f : Nat} {e : Eng} (h : e.deck.decided ≠ some f) : takeSwap f e = e := if_neg h

theorem takeSwap_decided {f : Nat} {e : Eng} (h : e.deck.decided = some f) : takeSwap f e =
    setReg 0x3810 5 0 (bump 0x3818 1 (setReg 0x3800 6 0 (setReg 0x3800 5 f (setReg 0x3800 3 e.deck.counts
      (setReg 0x3800 2 e.deck.pattern (setReg 0x3800 1 1 { e with deck := { e.deck with decided := none } })))))) :=
  if_pos h

theorem takeSwap_boundary (f : Nat) (e : Eng) : Boundary swapEntries e (takeSwap f e) := by
  by_cases h : e.deck.decided = some f
  · rw [takeSwap_decided h]
    refine Boundary.setReg (.bump ?_ (by decide) (by decide) (by decide)) (by decide) (by decide) (by decide) _
    iterate 5 refine Boundary.setReg ?_ (by decide) (by decide) (by decide) _
    exact (Boundary.refl ..).withDeck _
  · rw [takeSwap_other h]
    exact .refl ..

theorem takeSwap_raised (f : Nat) (e : Eng) : (takeSwap f e).raised = e.raised := by
  by_cases h : e.deck.decided = some f
  · rw [takeSwap_decided h]
    simp only [setReg_raised, bump_raised]
  · rw [takeSwap_other h]

/-- What the entries of a swap read once it has taken effect. -/
theorem reg_takeSwap_decided {f : Nat} {e : Eng} (h : e.deck.decided = some f) :
    reg (takeSwap f e) 0x3800 1 = 1 ∧ reg (takeSwap f e) 0x3800 2 = e.deck.pattern ∧
      reg (takeSwap f e) 0x3800 3 = e.deck.counts ∧ reg (takeSwap f e) 0x3800 5 = f ∧ reg (takeSwap f e) 0x3800 6 = 0 ∧
      reg (takeSwap f e) 0x3810 5 = 0 ∧ reg (takeSwap f e) 0x3818 1 = (reg e 0x3818 1 + 1) % 2 ^ 64 ∧
      (takeSwap f e).deck.decided = none := by
  have hw : wrapWidth 0x3818 1 = 64 := by decide
  have hdeck (d : Deck) : reg { e with deck := d } 0x3818 1 = reg e 0x3818 1 := rfl
  rw [takeSwap_decided h]
  refine ⟨?_, ?_, ?_, ?_, ?_, ?_, ?_, rfl⟩
  all_goals simp [reg_setReg, reg_bump_other, reg_bump_same, cellKey, hw, hdeck]

/-- R228: a swap that takes effect leaves no agent on the built-in layout, and none joins them. -/
theorem takeSwap_blank {f n : Nat} {e : Eng} (h : bit (reg e 0x3800 6) n = false) :
    bit (reg (takeSwap f e) 0x3800 6) n = false := by
  by_cases hd : e.deck.decided = some f
  · obtain ⟨-, -, -, -, hb, -⟩ := reg_takeSwap_decided hd
    rw [hb, bit_eq_testBit, Nat.zero_testBit]
  · rwa [takeSwap_other hd]

theorem ageLoosened_boundary (f : Nat) (e : Eng) : Boundary [] e (ageLoosened f e) := (Boundary.refl ..).withDeck _

/-! ### Hand entries read with an error -/

theorem blankAt_of_bit {e : Eng} {n : Nat} (h : bit (reg e 0x3800 6) n = false) (f : Nat) : blankAt e n f = false := by
  rw [blankAt, h, Bool.and_false]

/-- The counters of corrected and of uncorrectable Hand entries (R229). -/
def errorEntries : List (Nat × Nat) := [(0x3818, 4), (0x3818, 5)]

/-- R229: an entry read with an error is passed over, counted as corrected, or counted and raised as uncorrectable, its
place kept for the frame. -/
theorem readEntryError_cases (f : Nat) (x : HandSlot) (fatal : Bool) (e : Eng) :
    (readEntryError f (x, fatal) e = e ∧
        ∃ n slot g, x = .card n slot g ∧ blankAt e n.val ((512 * f + slot.val) / 512) = true) ∨
      (fatal = false ∧ readEntryError f (x, fatal) e = bump 0x3818 4 e) ∨
      fatal = true ∧ ∃ d : Deck, d.decided = e.deck.decided ∧
        readEntryError f (x, fatal) e = raise 82 0 (bump 0x3818 5 { e with deck := d }) := by
  cases x with
  | card n slot g =>
    by_cases hb : blankAt e n.val ((512 * f + slot.val) / 512) = true
    · left
      refine ⟨?_, n, slot, g, rfl, hb⟩
      cases fatal <;> simp only [readEntryError, readHandEntry, hb, if_true, Bool.false_eq_true, if_false]
    · right
      cases fatal with
      | false =>
        left
        simp only [readEntryError, readHandEntry, hb, Bool.false_eq_true, if_false, and_self]
      | true =>
        right
        refine ⟨rfl, { e.deck with loosened := (n.val, 512 * f + slot.val, g.val) :: e.deck.loosened }, rfl, ?_⟩
        simp only [readEntryError, readHandEntry, hb, if_true, Bool.false_eq_true, if_false]
  | spine k slot dir =>
    right
    cases fatal with
    | false => exact .inl ⟨rfl, rfl⟩
    | true => exact .inr ⟨rfl, { e.deck with
        looseSpine := (k.val, 512 * f + slot.val, if dir then 1 else 0) :: e.deck.looseSpine }, rfl, rfl⟩

theorem readEntryError_boundary (f : Nat) (x : HandSlot × Bool) (e : Eng) :
    Boundary errorEntries e (readEntryError f x e) ∧ (readEntryError f x e).deck.decided = e.deck.decided := by
  obtain ⟨x, fatal⟩ := x
  rcases readEntryError_cases f x fatal e with ⟨h, -⟩ | ⟨-, h⟩ | ⟨-, d, hd, h⟩
  · rw [h]
    exact ⟨.refl .., rfl⟩
  · rw [h]
    exact ⟨(Boundary.refl ..).bump (by decide) (by decide) (by decide), rfl⟩
  · rw [h]
    exact ⟨(((Boundary.refl ..).withDeck d).bump (by decide) (by decide) (by decide)).raise 82 0, hd⟩

theorem readErrors_boundary (f : Nat) (errs : List (HandSlot × Bool)) (e : Eng) :
    Boundary errorEntries e (readErrors f errs e) ∧ (readErrors f errs e).deck.decided = e.deck.decided :=
  foldl_related (R := fun a b : Eng => Boundary errorEntries a b ∧ b.deck.decided = a.deck.decided)
    (fun _ => ⟨.refl .., rfl⟩) (fun ⟨h, d⟩ ⟨g, d'⟩ => ⟨h.trans g, d'.trans d⟩)
    (fun e x _ => readEntryError_boundary f x e) e

/-- R229: one entry read with an error, of an agent that does not use the built-in layout. -/
theorem readEntryError_counts (f : Nat) {x : HandSlot} (fatal : Bool) {e : Eng}
    (hx : ∀ n slot g, x = .card n slot g → bit (reg e 0x3800 6) n.val = false) :
    (readEntryError f (x, fatal) e).raised = e.raised ++ (if fatal = true then [(82, 0)] else []) ∧
      reg (readEntryError f (x, fatal) e) 0x3818 4 =
        (if fatal = true then reg e 0x3818 4 else (reg e 0x3818 4 + 1) % 2 ^ 64) ∧
      reg (readEntryError f (x, fatal) e) 0x3818 5 =
        (if fatal = true then (reg e 0x3818 5 + 1) % 2 ^ 64 else reg e 0x3818 5) := by
  have h4 : wrapWidth 0x3818 4 = 64 := by decide
  have h5 : wrapWidth 0x3818 5 = 64 := by decide
  rcases readEntryError_cases f x fatal e with ⟨-, n, slot, g, hc, hb⟩ | ⟨hf, h⟩ | ⟨hf, d, -, h⟩
  · rw [blankAt_of_bit (hx n slot g hc)] at hb
    cases hb
  · subst hf
    rw [h]
    refine ⟨(List.append_nil _).symm, ?_, ?_⟩
    · simp [reg_bump_same, h4]
    · simp [reg_bump_other, cellKey]
  · subst hf
    have hdeck (k : Nat) : reg { e with deck := d } 0x3818 k = reg e 0x3818 k := rfl
    rw [h]
    refine ⟨rfl, ?_, ?_⟩
    · simp [reg_bump_other, cellKey, hdeck]
    · simp [reg_bump_same, h5, hdeck]

/-! ### The stages that count and sample -/

theorem upFrom_nodup (lo n : Nat) : (upFrom lo n).Nodup := by
  induction n generalizing lo with
  | zero => exact List.nodup_nil
  | succ n ih =>
    refine List.nodup_cons.mpr ⟨fun h => ?_, ih (lo + 1)⟩
    obtain ⟨hlo, -⟩ := mem_upFrom.mp h
    omega

/-- A fold over distinct elements, one of which moves a value by `h` in the states of an invariant, the others not. -/
theorem foldl_once {α β γ : Type} {I : β → Prop} {f : β → α → β} {g : β → γ} {h : γ → γ} {xs : List α} {x : α}
    (hd : xs.Nodup) (hx : x ∈ xs) (hI : ∀ b, ∀ y ∈ xs, I b → I (f b y)) (hhit : ∀ b, I b → g (f b x) = h (g b))
    (hother : ∀ b, ∀ y ∈ xs, y ≠ x → g (f b y) = g b) {b : β} (hb : I b) : g (xs.foldl f b) = h (g b) := by
  obtain ⟨pre, post, rfl⟩ := List.append_of_mem hx
  obtain ⟨-, hpost, hdisj⟩ := List.nodup_append.mp hd
  have hpre : ∀ y ∈ pre, y ≠ x := fun y hy => hdisj y hy x (by simp)
  have hkeep (zs : List α) (hz : ∀ y ∈ zs, y ∈ pre ++ x :: post ∧ y ≠ x) (b : β) : g (zs.foldl f b) = g b :=
    foldl_related (R := fun a b => g b = g a) (fun _ => rfl) (fun p q => q.trans p)
      (fun b y hy => hother b y (hz y hy).1 (hz y hy).2) b
  have hIpre : I (pre.foldl f b) :=
    foldl_related (R := fun a b => I a → I b) (fun _ p => p) (fun p q r => q (p r))
      (fun b y hy => hI b y (by simp [hy])) b hb
  rw [List.foldl_append, List.foldl_cons, hkeep post, hhit _ hIpre, hkeep pre]
  · exact fun y hy => ⟨by simp [hy], hpre y hy⟩
  · exact fun y hy => ⟨by simp [hy], fun hxy => (List.nodup_cons.mp hpost).1 (hxy ▸ hy)⟩

/-- The refresh-rate entries of the agents (R233). -/
def rateEntries : List (Nat × Nat) := (below 24).map fun n => (agIdx n 0, 2)

/-- The counters of frames held of the docks (R208). -/
def holdEntries : List (Nat × Nat) := (below 48).map fun q => (stIdx q 0x30, 11)

/-- The counters of queue holds of the link agents (R323). -/
def stallEntries : List (Nat × Nat) := [(0x5010, 13), (0x5011, 13)]

theorem mem_rateEntries {i k : Nat} : (i, k) ∈ rateEntries ↔ ∃ n, n < 24 ∧ agIdx n 0 = i ∧ 2 = k := by
  simp [rateEntries, mem_below]

theorem mem_holdEntries {i k : Nat} : (i, k) ∈ holdEntries ↔ ∃ q, q < 48 ∧ stIdx q 0x30 = i ∧ 11 = k := by
  simp [holdEntries, mem_below]

/-- One agent's turn of the sampling. -/
theorem sampleRate_quiet (rates : Nat) (e : Eng) {n : Nat} (hn : n < 24) : Quiet rateEntries e
    (if partHeld e (48 + n) then e else setReg (agIdx n 0) 2 (bits rates (2 * n) 2) e) :=
  .ite (.refl ..) <|
    (Quiet.refl ..).setReg (mem_rateEntries.mpr ⟨n, hn, rfl, rfl⟩) (by unfold agIdx; omega) (by decide) _

theorem sampleRates_quiet (rates : Nat) (e : Eng) : Quiet rateEntries e (sampleRates rates e) :=
  .foldl (fun e _ hn => sampleRate_quiet rates e (mem_below.mp hn)) e

theorem countHold_quiet (e : Eng) {q : Nat} (hq : q < 48) : Quiet holdEntries e
    (if (dockOf e q).hold.isSome then bump (stIdx q 0x30) 11 e else e) :=
  .ite ((Quiet.refl ..).bump (mem_holdEntries.mpr ⟨q, hq, rfl, rfl⟩) (by unfold stIdx; omega) (by decide)) (.refl ..)

theorem countHolds_quiet (e : Eng) : Quiet holdEntries e (countHolds e) :=
  .foldl (fun e _ hq => countHold_quiet e (mem_below.mp hq)) e

theorem noteStall_quiet (p c : Nat) (e : Eng) : Quiet stallEntries e (noteStall p c e) := by
  unfold noteStall
  exact .ite (.refl ..) (((Quiet.refl ..).onChan ..).chanBump ..)

theorem noteHold_quiet {p : Nat} (hp : p < 2) (c : Nat) (e : Eng) : Quiet stallEntries e (noteHold p c e) := by
  have hm : (0x5010 + p, 13) ∈ stallEntries := by
    have : p = 0 ∨ p = 1 := by omega
    rcases this with rfl | rfl <;> decide
  unfold noteHold
  exact .ite (.refl ..) (((Quiet.refl ..).onChan ..).bump hm (by omega) (by decide))

theorem countStalls_quiet {p : Nat} (hp : p < 2) (e : Eng) : Quiet stallEntries e (countStalls p e) := by
  refine .foldl (fun e c _ => ?_) e
  have hstall (b : Prop) [Decidable b] : Quiet stallEntries e (if b then noteStall p c e else e) :=
    .ite (noteStall_quiet ..) (.refl ..)
  exact .ite ((hstall _).trans (noteHold_quiet hp ..)) (hstall _)

theorem countQuiet_quiet (ks : List (Nat × Nat)) (e : Eng) : Quiet ks e (countQuiet e) :=
  ⟨⟨rfl, rfl, rfl, rfl, rfl, rfl, sameMemory_of rfl rfl rfl rfl rfl, (sameEntries_refl ks e).congr rfl⟩, rfl, rfl⟩

theorem partHeld_congr {e e' : Eng} (hr : e'.run = e.run) (hp : e'.parts = e.parts) (part : Nat) :
    partHeld e' part = partHeld e part := by
  simp only [partHeld, releasedPast, phaseOf, hr, hp]

/-- R233: what an agent's refresh rate reads once the indications are sampled. -/
theorem reg_sampleRates (rates : Nat) (e : Eng) {n : Nat} (hn : n < 24) : reg (sampleRates rates e) (agIdx n 0) 2 =
    if partHeld e (48 + n) then reg e (agIdx n 0) 2 else rates / 2 ^ (2 * n) % 4 := by
  refine foldl_once (I := fun a : Eng => a.run = e.run ∧ a.parts = e.parts) (g := fun a => reg a (agIdx n 0) 2)
    (h := fun v => if partHeld e (48 + n) then v else rates / 2 ^ (2 * n) % 4) (upFrom_nodup 0 24) (mem_below.mpr hn)
    ?_ ?_ ?_ ⟨rfl, rfl⟩
  · intro a m hm ⟨hr, hp⟩
    have hq := sampleRate_quiet rates a (mem_below.mp hm)
    exact ⟨hq.run.trans hr, hq.parts.trans hp⟩
  · intro a ⟨hr, hp⟩
    rw [partHeld_congr hr hp]
    split
    · rfl
    · exact reg_setReg_same ..
  · intro a m hm hne
    have hlt := mem_below.mp hm
    split
    · rfl
    · exact reg_setReg_other (cellKey_ne (by unfold agIdx; omega) (by decide) (by decide) (by unfold agIdx; omega)
        (by unfold agIdx; omega)) ..

theorem wrapWidth_holds {q : Nat} (hq : q < 48) : wrapWidth (stIdx q 0x30) 11 = 64 := by
  have h : ∀ q < 48, wrapWidth (stIdx q 0x30) 11 = 64 := by decide
  exact h q hq

/-- R208: what a dock's counter of frames held reads once the holds are counted. -/
theorem reg_countHolds (e : Eng) {q : Nat} (hq : q < 48) : reg (countHolds e) (stIdx q 0x30) 11 =
    if (dockOf e q).hold.isSome then (reg e (stIdx q 0x30) 11 + 1) % 2 ^ 64 else reg e (stIdx q 0x30) 11 := by
  refine foldl_once (I := fun a : Eng => a.docks = e.docks) (g := fun a => reg a (stIdx q 0x30) 11)
    (h := fun v => if (dockOf e q).hold.isSome then (v + 1) % 2 ^ 64 else v) (upFrom_nodup 0 48) (mem_below.mpr hq)
    ?_ ?_ ?_ rfl
  · exact fun a r hr hd => (countHold_quiet a (mem_below.mp hr)).docks.trans hd
  · intro a hd
    have hdock : dockOf a q = dockOf e q := by rw [dockOf, dockOf, hd]
    rw [hdock]
    split
    · rw [reg_bump_same, wrapWidth_holds hq]
    · rfl
  · intro a r hr hne
    have hlt := mem_below.mp hr
    split
    · exact reg_bump_other (cellKey_ne (by unfold stIdx; omega) (by decide) (by decide) (by unfold stIdx; omega)
        (by unfold stIdx; omega)) ..
    · rfl

/-! ### A frame begins -/

/-- The entries of the stages that count and sample. -/
def settleEntries : List (Nat × Nat) := rateEntries ++ (holdEntries ++ stallEntries)

/-- The frame up to the reading of its Hand entries. -/
def readFrame (b : Nat) (errs : List (HandSlot × Bool)) (e : Eng) : Eng :=
  readErrors e.nextFrame errs (ageLoosened e.nextFrame (takeSwap e.nextFrame (beginNext b e)))

/-- After the holds are counted, a frame changes no entry but the counters of queue holds. -/
theorem frameBegin_afterHolds {e : Eng} {b : Nat} (hb : e.spBase = some b) (rates : Nat)
    (errs : List (HandSlot × Bool)) :
    Quiet stallEntries (countHolds (sampleRates rates (readFrame b errs e))) (frameBegin rates errs e) := by
  rw [frameBegin_eq hb]
  exact ((countStalls_quiet (by decide) _).trans (countStalls_quiet (by decide) _)).trans (countQuiet_quiet ..)

theorem frameBegin_afterRates {e : Eng} {b : Nat} (hb : e.spBase = some b) (rates : Nat)
    (errs : List (HandSlot × Bool)) :
    Quiet (holdEntries ++ stallEntries) (sampleRates rates (readFrame b errs e)) (frameBegin rates errs e) :=
  ((countHolds_quiet _).mono (by simp)).trans ((frameBegin_afterHolds hb rates errs).mono (by simp))

theorem frameBegin_afterErrors {e : Eng} {b : Nat} (hb : e.spBase = some b) (rates : Nat)
    (errs : List (HandSlot × Bool)) : Quiet settleEntries (readFrame b errs e) (frameBegin rates errs e) :=
  ((sampleRates_quiet ..).mono (by simp [settleEntries])).trans
    ((frameBegin_afterRates hb rates errs).mono (by simp [settleEntries]))

/-- The Hand entries are read after a decided swap has taken effect. -/
theorem readFrame_afterSwap (b : Nat) (errs : List (HandSlot × Bool)) (e : Eng) :
    Boundary errorEntries (takeSwap e.nextFrame (beginNext b e)) (readFrame b errs e) ∧
      (readFrame b errs e).deck.decided = (takeSwap e.nextFrame (beginNext b e)).deck.decided := by
  obtain ⟨h, hd⟩ := readErrors_boundary e.nextFrame errs
    (ageLoosened e.nextFrame (takeSwap e.nextFrame (beginNext b e)))
  exact ⟨((ageLoosened_boundary ..).mono (by simp)).trans h, hd⟩

theorem readFrame_boundary (b : Nat) (errs : List (HandSlot × Bool)) (e : Eng) :
    Boundary (swapEntries ++ errorEntries) (beginNext b e) (readFrame b errs e) :=
  ((takeSwap_boundary ..).mono (by simp)).trans ((readFrame_afterSwap b errs e).1.mono (by simp))

theorem frameBegin_boundary {e : Eng} {b : Nat} (hb : e.spBase = some b) (rates : Nat)
    (errs : List (HandSlot × Bool)) :
    Boundary ((swapEntries ++ errorEntries) ++ settleEntries) (beginNext b e) (frameBegin rates errs e) :=
  ((readFrame_boundary ..).mono (by simp)).trans ((frameBegin_afterErrors hb rates errs).toBoundary.mono (by simp))

/-- An entry of the Deck is none of those that count and sample. -/
theorem deck_notMem_settleEntries {i k : Nat} (hi : 0x3800 ≤ i ∧ i < 0x3880) : (i, k) ∉ settleEntries := by
  simp only [settleEntries, List.mem_append, mem_rateEntries, mem_holdEntries]
  rintro (⟨n, hn, h, -⟩ | ⟨q, hq, h, -⟩ | h)
  · unfold agIdx at h
    omega
  · unfold stIdx at h
    omega
  · simp only [stallEntries, List.mem_cons, Prod.mk.injEq, List.not_mem_nil, or_false] at h
    omega

/-- The entries of the Deck once the Hand entries are read stay as the frame goes on. -/
theorem reg_frameBegin_deck {e : Eng} {b : Nat} (hb : e.spBase = some b) (rates : Nat) (errs : List (HandSlot × Bool))
    {i k : Nat} (hi : 0x3800 ≤ i ∧ i < 0x3880) (hk : k < 256) :
    reg (frameBegin rates errs e) i k = reg (readFrame b errs e) i k :=
  (frameBegin_afterErrors hb rates errs).entries.reg (by omega) hk (deck_notMem_settleEntries hi)

/-- The faults raised and the errors counted are those of the Hand entries read. -/
theorem frameBegin_errors {e : Eng} {b : Nat} (hb : e.spBase = some b) (rates : Nat) (errs : List (HandSlot × Bool)) :
    (frameBegin rates errs e).raised = (readFrame b errs e).raised ∧
      reg (frameBegin rates errs e) 0x3818 4 = reg (readFrame b errs e) 0x3818 4 ∧
      reg (frameBegin rates errs e) 0x3818 5 = reg (readFrame b errs e) 0x3818 5 :=
  ⟨(frameBegin_afterErrors hb rates errs).raised, reg_frameBegin_deck hb rates errs (by decide) (by decide),
    reg_frameBegin_deck hb rates errs (by decide) (by decide)⟩

/-- The entries that a swap writes read as the swap, or its absence, left them. -/
theorem reg_frameBegin_swap {e : Eng} {b : Nat} (hb : e.spBase = some b) (rates : Nat) (errs : List (HandSlot × Bool))
    {i k : Nat} (hm : (i, k) ∈ swapEntries) :
    reg (frameBegin rates errs e) i k = reg (takeSwap e.nextFrame (beginNext b e)) i k := by
  have hall : ∀ x ∈ swapEntries, (0x3800 ≤ x.1 ∧ x.1 < 0x3880) ∧ x.2 < 256 ∧ x ∉ errorEntries := by decide
  obtain ⟨hi, hk, hn⟩ := hall _ hm
  exact (reg_frameBegin_deck hb rates errs hi hk).trans
    ((readFrame_afterSwap b errs e).1.entries.reg (Nat.lt_trans hi.2 (by decide)) hk hn)

theorem frameBegin_decided {e : Eng} {b : Nat} (hb : e.spBase = some b) (rates : Nat) (errs : List (HandSlot × Bool)) :
    (frameBegin rates errs e).deck.decided = (takeSwap e.nextFrame (beginNext b e)).deck.decided :=
  (congrArg Deck.decided (frameBegin_afterErrors hb rates errs).deck).trans (readFrame_afterSwap b errs e).2

theorem ageLoosened_raised (f : Nat) (e : Eng) : (ageLoosened f e).raised = e.raised := rfl

theorem reg_ageLoosened (f : Nat) (e : Eng) (i k : Nat) : reg (ageLoosened f e) i k = reg e i k := rfl

/-- Neither the counters of errors nor the faults raised change as a swap takes effect. -/
theorem errors_beforeReading (b : Nat) (e : Eng) :
    (ageLoosened e.nextFrame (takeSwap e.nextFrame (beginNext b e))).raised = e.raised ∧
      reg (ageLoosened e.nextFrame (takeSwap e.nextFrame (beginNext b e))) 0x3818 4 = reg e 0x3818 4 ∧
      reg (ageLoosened e.nextFrame (takeSwap e.nextFrame (beginNext b e))) 0x3818 5 = reg e 0x3818 5 := by
  have hswap := (takeSwap_boundary e.nextFrame (beginNext b e)).entries
  refine ⟨?_, ?_, ?_⟩
  · rw [ageLoosened_raised, takeSwap_raised]
    rfl
  · rw [reg_ageLoosened, hswap.reg (by decide) (by decide) (by decide)]
    rfl
  · rw [reg_ageLoosened, hswap.reg (by decide) (by decide) (by decide)]
    rfl

/-- A frame that reads no Hand entry with an error. -/
theorem readFrame_clean (b : Nat) (e : Eng) : (readFrame b [] e).raised = e.raised ∧
    reg (readFrame b [] e) 0x3818 4 = reg e 0x3818 4 ∧ reg (readFrame b [] e) 0x3818 5 = reg e 0x3818 5 :=
  errors_beforeReading b e

/-- R229: a frame that reads one Hand entry with an error. -/
theorem readFrame_error (b : Nat) (fatal : Bool) {x : HandSlot} {e : Eng}
    (hx : ∀ n slot g, x = .card n slot g → bit (reg e 0x3800 6) n.val = false) :
    (readFrame b [(x, fatal)] e).raised = e.raised ++ (if fatal = true then [(82, 0)] else []) ∧
      reg (readFrame b [(x, fatal)] e) 0x3818 4 =
        (if fatal = true then reg e 0x3818 4 else (reg e 0x3818 4 + 1) % 2 ^ 64) ∧
      reg (readFrame b [(x, fatal)] e) 0x3818 5 =
        (if fatal = true then (reg e 0x3818 5 + 1) % 2 ^ 64 else reg e 0x3818 5) := by
  obtain ⟨hr, h4, h5⟩ := errors_beforeReading b e
  have h := readEntryError_counts e.nextFrame fatal (x := x)
    (e := ageLoosened e.nextFrame (takeSwap e.nextFrame (beginNext b e)))
    fun n slot g hc => takeSwap_blank (e := beginNext b e) (hx n slot g hc)
  rw [hr, h4, h5] at h
  exact h

/-- R233: the refresh rates of a frame. -/
theorem reg_frameBegin_rate {e : Eng} {b : Nat} (hb : e.spBase = some b) (rates : Nat) (errs : List (HandSlot × Bool))
    {n : Nat} (hn : n < 24) : reg (frameBegin rates errs e) (agIdx n 0) 2 =
      if partHeld e (48 + n) then reg e (agIdx n 0) 2 else rates / 2 ^ (2 * n) % 4 := by
  have hread := readFrame_boundary b errs e
  have hi : agIdx n 0 < 65536 := by unfold agIdx; omega
  have hlate : (agIdx n 0, 2) ∉ holdEntries ++ stallEntries := by
    simp [stallEntries, mem_holdEntries]
  have hearly : (agIdx n 0, 2) ∉ swapEntries ++ errorEntries := by
    simp [swapEntries, errorEntries, agIdx]
    omega
  rw [(frameBegin_afterRates hb rates errs).entries.reg hi (by decide) hlate, reg_sampleRates _ _ hn,
    partHeld_congr hread.run hread.parts, hread.entries.reg hi (by decide) hearly]
  rfl

/-- R208: the frames held that a frame counts. -/
theorem reg_frameBegin_hold {e : Eng} {b : Nat} (hb : e.spBase = some b) (rates : Nat) (errs : List (HandSlot × Bool))
    {q : Nat} (hq : q < 48) : reg (frameBegin rates errs e) (stIdx q 0x30) 11 =
      if (dockOf e q).hold.isSome then (reg e (stIdx q 0x30) 11 + 1) % 2 ^ 64 else reg e (stIdx q 0x30) 11 := by
  have hread : Boundary _ (beginNext b e) (sampleRates rates (readFrame b errs e)) :=
    ((readFrame_boundary b errs e).mono (List.subset_append_left _ _)).trans
      ((sampleRates_quiet rates _).toBoundary.mono (List.subset_append_right _ _))
  have hi : stIdx q 0x30 < 65536 := by unfold stIdx; omega
  have hlate : (stIdx q 0x30, 11) ∉ stallEntries := by simp [stallEntries]
  have hearly : (stIdx q 0x30, 11) ∉ (swapEntries ++ errorEntries) ++ rateEntries := by
    simp [swapEntries, errorEntries, mem_rateEntries]
  have hdock (d : Nat) : dockOf (sampleRates rates (readFrame b errs e)) d = dockOf e d := by
    rw [dockOf, hread.docks]
    rfl
  rw [(frameBegin_afterHolds hb rates errs).entries.reg hi (by decide) hlate, reg_countHolds _ hq, hdock,
    hread.entries.reg hi (by decide) hearly]
  rfl

end Sys2Proof.Machine

namespace Sys2Proof.Proofs

open Sys2Proof Sys2Proof.Machine

/-- Settles O44: the two writes of SWAP_CTRL, the load checks, the decision point, and the boundary of a frame. -/
theorem swapsAndFrames : Obligations.SwapsAndFrames := by
  intro s
  refine ⟨fun p hp => ⟨fun hd => ?_, fun hd => ⟨?_, ?_⟩⟩, exec_swapChecksComplete_idle, fun h1 => ⟨?_, ?_⟩, ?_⟩
  · exact ⟨_, exec_swapCtrl_denied hp hd, endAccess_onlyEntries .., endAccess_out .., endAccess_entries p _ _ _ _⟩
  · refine ⟨_, exec_swapCommit hp hd, (reg_emit ..).trans (reg_setReg_same ..), sameEntries.congr ?_ (emit_regs ..),
      noteSwapFrame_late _, rfl⟩
    exact ((sameEntries_refl _ s.eng).congr rfl).setReg (by decide) (by decide) (by decide) 1
  · refine ⟨_, exec_swapWithdraw hp hd, (reg_emit ..).trans (reg_setReg_same ..), sameEntries.congr ?_ (emit_regs ..),
      rfl, rfl⟩
    exact (sameEntries_refl _ s.eng).setReg (by decide) (by decide) (by decide) 0
  · intro hc
    refine ⟨_, exec_swapChecksComplete_pass h1 hc, reg_setReg_same .., ?_, rfl, rfl⟩
    exact (sameEntries_refl _ s.eng).setReg (by decide) (by decide) (by decide) 2
  · intro x hc
    have honly := refuseSwap_only x s.eng
    obtain ⟨hstate, hword, hcount⟩ := reg_refuseSwap x s.eng
    exact ⟨_, exec_swapChecksComplete_fail h1 hc, hstate, hword, hcount, refuseSwap_entries x s.eng,
      onlyEntries_of_regs honly, congrArg (·.out) honly⟩
  · intro b hb
    refine ⟨fun h2 hf => ?_, fun h2 hf => ?_, fun h1 hf h0 hl => ?_, fun rates errs => ?_⟩
    · refine ⟨_, exec_swapDecisionPoint (decideSwap_due hb h2 hf), reg_setReg_same .., ?_, rfl⟩
      exact ((sameEntries_refl _ s.eng).congr rfl).setReg (by decide) (by decide) (by decide) 4
    · exact exec_swapDecisionPoint (decideSwap_early hb h2 hf)
    · have hw : wrapWidth 0x3818 2 = 64 := by decide
      refine ⟨_, exec_swapDecisionPoint (decideSwap_missed hb h1 hf h0 hl), ?_, ?_,
        congrArg (fun e => { s with eng := e }) ((onlyRegs.refl (toDecision b s.eng)).bump ..)⟩
      · exact (reg_bump_same ..).trans (by rw [hw, reg_toDecision])
      · exact ((sameEntries_refl _ s.eng).congr rfl).bump (by decide) (by decide) (by decide)
    · have hbound := frameBegin_boundary hb rates.toNat errs
      refine ⟨_, exec_frameBegin .., hbound.nextFrame, hbound.now.trans (beginNext_now ..), hbound.docks, hbound.out,
        (beginNext_memory ..).trans hbound.memory,
        fun n hn => reg_frameBegin_rate hb rates.toNat errs hn, ?_, ?_,
        fun q hq => reg_frameBegin_hold hb rates.toNat errs hq, ?_, ?_⟩
      · intro he
        subst he
        obtain ⟨fr, f4, f5⟩ := frameBegin_errors hb rates.toNat []
        obtain ⟨hr, h4, h5⟩ := readFrame_clean b s.eng
        exact ⟨fr.trans hr, f4.trans h4, f5.trans h5⟩
      · intro x fatal he hx
        subst he
        obtain ⟨fr, f4, f5⟩ := frameBegin_errors hb rates.toNat [(x, fatal)]
        obtain ⟨hr, h4, h5⟩ := readFrame_error b fatal hx
        exact ⟨fr.trans hr, f4.trans h4, f5.trans h5⟩
      · intro hd
        obtain ⟨h1, h2, h3, h5, h6, hstate, hcount, hnone⟩ := reg_takeSwap_decided (e := beginNext b s.eng) hd
        rw [reg_beginNext] at hcount
        have hreg {i k : Nat} (hm : (i, k) ∈ swapEntries) := reg_frameBegin_swap hb rates.toNat errs hm
        exact ⟨(hreg (by decide)).trans h1, (hreg (by decide)).trans h2, (hreg (by decide)).trans h3,
          (hreg (by decide)).trans h5, (hreg (by decide)).trans h6, (hreg (by decide)).trans hstate,
          (hreg (by decide)).trans hcount, (frameBegin_decided hb _ _).trans hnone⟩
      · intro hd
        have hsame := takeSwap_other (e := beginNext b s.eng) hd
        have hreg {i k : Nat} (hm : (i, k) ∈ swapEntries) :
            reg (frameBegin rates.toNat errs s.eng) i k = reg s.eng i k :=
          (reg_frameBegin_swap hb rates.toNat errs hm).trans (by rw [hsame, reg_beginNext])
        exact ⟨hreg (by decide), hreg (by decide),
          (frameBegin_decided hb _ _).trans (congrArg (·.deck.decided) hsame)⟩

end Sys2Proof.Proofs
end

section
/-! PROOFS. Ring entries become jobs (O28; spec/12_dynamic_channels.md R281, R282, R286, R289, R293, R296,
spec/04_move_descriptors.md R110, R111): the job of an entry, the read of its record, the checks of a descriptor, and
the reads of a WEEVIL entry's sources. -/

namespace Sys2Proof.Machine

/-! ### Jobs in the store -/

/-- Whether the store holds a job of an identifier. -/
def holdsJob (e : Eng) (j : Nat) : Prop := ∃ y ∈ e.jobs, y.id = j

theorem holdsJob.congr {e e' : Eng} {j : Nat} (h : holdsJob e j) (he : e'.jobs = e.jobs) : holdsJob e' j := by
  rwa [holdsJob, he]

/-- A job set is the one found, wherever a job of its identifier stood. -/
theorem jobOf_setJob {x : Job} {e : Eng} (h : holdsJob e x.id) : jobOf (setJob x e) x.id = some x := by
  obtain ⟨y, hy, hid⟩ := h
  have hmem : x ∈ (setJob x e).jobs := List.mem_map.mpr ⟨y, hy, if_pos hid⟩
  have hsome : (jobOf (setJob x e) x.id).isSome := List.find?_isSome.mpr ⟨x, hmem, by simp⟩
  obtain ⟨z, hz⟩ := Option.isSome_iff_exists.mp hsome
  have hzid : z.id = x.id := by simpa using List.find?_some hz
  obtain ⟨w, -, hw⟩ := List.mem_map.mp (List.mem_of_find?_eq_some hz)
  by_cases hc : w.id = x.id
  · rw [if_pos hc] at hw; rw [hz, hw]
  · rw [if_neg hc] at hw; exact absurd (hw ▸ hzid) hc

theorem holdsJob_setJob {x : Job} {e : Eng} (h : holdsJob e x.id) : holdsJob (setJob x e) x.id :=
  ⟨x, List.mem_of_find?_eq_some (jobOf_setJob h), rfl⟩

/-! ### What requests leave alone -/

/-- What only asks for reads or pins handles leaves the jobs, the rings, the dictionary and memory alone. -/
structure Requests (e e' : Eng) : Prop where
  jobs : e'.jobs = e.jobs
  rings : e'.rings = e.rings
  regs : e'.regs = e.regs
  dom : e'.dom = e.dom
  memory : sameMemory e e'

theorem Requests.refl (e : Eng) : Requests e e := ⟨rfl, rfl, rfl, rfl, sameMemory_refl e⟩

theorem Requests.trans {a b c : Eng} (h : Requests a b) (g : Requests b c) : Requests a c :=
  ⟨g.jobs.trans h.jobs, g.rings.trans h.rings, g.regs.trans h.regs, g.dom.trans h.dom, h.memory.trans g.memory⟩

theorem Requests.foldl {α : Type} {f : Eng → α → Eng} {xs : List α} (h : ∀ e x, Requests e (f e x)) (e : Eng) :
    Requests e (xs.foldl f e) :=
  foldl_related Requests.refl Requests.trans (fun e x _ => h e x) e

theorem pinHandle_requests (h : Nat) (e : Eng) : Requests e (pinHandle h e) :=
  ⟨rfl, rfl, rfl, rfl, sameMemory_of rfl rfl rfl rfl rfl⟩

/-- Pinning what a job resolves changes its list of pins and the handle table. -/
theorem pinResolved_fst (x : Job) (hs : List Nat) (e : Eng) :
    ∃ ps, (pinResolved x hs e).1 = { x with pins := ps } := ⟨_, rfl⟩

theorem pinResolved_requests (x : Job) (hs : List Nat) (e : Eng) : Requests e (pinResolved x hs e).2 :=
  Requests.foldl (fun e h => pinHandle_requests h e) e

theorem submitOne_requests (b : AccessBy) (kind : ReqKind) (turn : Nat) (xs : List (Nat × List Atom)) (e : Eng) :
    Requests e (submitOne b kind turn xs e).2 :=
  ⟨rfl, rfl, rfl, rfl, sameMemory_of rfl rfl rfl rfl rfl⟩

theorem submitEach_requests {α : Type} {f : α → Eng → Nat × Eng} (h : ∀ x e, Requests e (f x e).2) (xs : List α)
    (e : Eng) : Requests e (submitEach f xs e).2 := by
  induction xs generalizing e with
  | nil => exact .refl e
  | cons x xs ih => exact (h x e).trans (ih _)

theorem submitReads_requests (b : AccessBy) (ranges : List (Nat × Nat)) (e : Eng) :
    Requests e (submitReads b ranges e).2 :=
  submitEach_requests (fun _ _ => submitOne_requests ..) _ e

theorem issueReads_requests (fuel : Nat) (e : Eng) : Requests e (issueReads fuel e) := by
  induction fuel generalizing e with
  | zero => exact .refl e
  | succ fuel ih =>
    rw [issueReads]
    split
    · exact .refl e
    · split
      · exact .refl e
      · refine .trans ?_ (ih _)
        exact ⟨rfl, rfl, rfl, rfl, sameMemory_of rfl rfl rfl rfl rfl⟩

theorem requestRead_requests (use : ReadUse) (cls : Nat) (data : Bool) (a n : Nat) (e : Eng) :
    Requests e (requestRead use cls data a n e).2 := by
  refine .trans ?_ (issueReads_requests _ _)
  exact ⟨rfl, rfl, rfl, rfl, sameMemory_of rfl rfl rfl rfl rfl⟩

/-! ### The reads of HST -/

/-- A read's number, place and length, which it keeps as HST issues it. -/
def HostRead.range (h : HostRead) : Nat × Nat × Nat := (h.id, h.addr, h.len)

/-- Issuing reads marks them and changes nothing else of them. -/
theorem issueReads_ranges (fuel : Nat) (e : Eng) :
    (issueReads fuel e).hostReads.map HostRead.range = e.hostReads.map HostRead.range := by
  induction fuel generalizing e with
  | zero => rfl
  | succ fuel ih =>
    rw [issueReads]
    split
    · rfl
    · split
      · rfl
      · rw [ih, emit_hostReads, List.map_map]
        refine List.map_congr_left fun h _ => ?_
        rw [Function.comp_apply]
        split <;> rfl

/-- A range that is not empty is read in at least one piece (R296). -/
theorem readPieces_ne_nil {n : Nat} (hn : 0 < n) (fuel a : Nat) : readPieces (fuel + 1) a n ≠ [] := by
  rw [readPieces, if_neg (by omega)]
  exact List.cons_ne_nil _ _

/-- A range of at most 4 KiB is read in one piece (R296). -/
theorem readPieces_single {n : Nat} (hn : 0 < n) (hle : n ≤ 4096) (fuel a : Nat) :
    readPieces (fuel + 1) a n = [(a, n)] := by
  have hrest : readPieces fuel (a + n) 0 = [] := by cases fuel <;> rfl
  rw [readPieces, if_neg (by omega), Nat.min_eq_left hle, Nat.sub_eq_zero_of_le hle, hrest]

theorem requestRead_ids_ne_nil (use : ReadUse) (cls : Nat) (data : Bool) (a : Nat) {n : Nat} (hn : 0 < n) (e : Eng) :
    (requestRead use cls data a n e).1 ≠ [] := by
  have hlen : 0 < (readPieces (n / 4096 + 1) a n).length := List.length_pos_iff.mpr (readPieces_ne_nil hn _ _)
  exact List.ne_nil_of_length_pos ((upFrom_length _ _).symm ▸ hlen)

/-- A record's read is one read of HST (R296). -/
theorem requestRead_single (use : ReadUse) (cls : Nat) (data : Bool) (a : Nat) {n : Nat} (hn : 0 < n) (hle : n ≤ 4096)
    (e : Eng) : (requestRead use cls data a n e).1 = [e.ids] ∧
      (requestRead use cls data a n e).2.hostReads.map HostRead.range =
        e.hostReads.map HostRead.range ++ [(e.ids, a, n)] := by
  rw [requestRead, readPieces_single hn hle]
  exact ⟨rfl, (issueReads_ranges _ _).trans (List.map_append ..)⟩

/-! ### The stages of entries -/

/-- The entry of a ring at an index and an epoch, wherever it is listed, stands in a stage. -/
def entryAt (e : Eng) (r epoch index : Nat) (st : EntryStage) : Prop :=
  ∀ y ∈ (ringOf e r).entries, y.index = index → y.epoch = epoch → y.stage = st

theorem entryAt.congr {e e' : Eng} {r epoch index : Nat} {st : EntryStage} (h : entryAt e r epoch index st)
    (he : e'.rings = e.rings) : entryAt e' r epoch index st := by
  rwa [entryAt, ringOf, he]

/-- Among entries whose stage at an index and an epoch is set, one at that index and epoch has that stage. -/
theorem stage_of_mem_map {es : List RingEntry} {epoch index : Nat} {st : EntryStage} {y : RingEntry}
    (h : y ∈ es.map fun z => if z.index = index ∧ z.epoch = epoch then { z with stage := st } else z)
    (hi : y.index = index) (he : y.epoch = epoch) : y.stage = st := by
  obtain ⟨z, -, rfl⟩ := List.mem_map.mp h
  by_cases hz : z.index = index ∧ z.epoch = epoch
  · rw [if_pos hz]
  · rw [if_neg hz] at hi he
    exact absurd ⟨hi, he⟩ hz

theorem entryAt_setEntryStage (r epoch index : Nat) (st : EntryStage) (e : Eng) :
    entryAt (setEntryStage r epoch index st e) r epoch index st := by
  intro y hy
  rw [setEntryStage, ringOf_onRing_same] at hy
  exact stage_of_mem_map hy

theorem ringOf_setReg (i k v : Nat) (e : Eng) (r : Nat) : ringOf (setReg i k v e) r = ringOf e r := rfl

/-- The head passes complete entries; what stays of a ring's entries is what stood there. -/
theorem mem_of_mem_advanceHead {r : Nat} {es : List RingEntry} {e : Eng} {y : RingEntry}
    (h : y ∈ (ringOf (advanceHead r es e) r).entries) : y ∈ es := by
  unfold advanceHead at h
  dsimp only at h
  split at h
  · rw [ringOf_setReg, ringOf_onRing_same] at h
    exact List.mem_of_mem_filter (List.mem_of_mem_filter h)
  · rw [ringOf_onRing_same] at h
    exact List.mem_of_mem_filter (List.mem_of_mem_filter h)

/-- Once an entry completes, nothing of its ring stands at its index and epoch but complete (R286, R297). -/
theorem entryAt_completeEntry (r epoch index : Nat) (z : Ending) (frag : Nat) (e : Eng) :
    entryAt (completeEntry r epoch index z frag e) r epoch index .complete := by
  unfold completeEntry
  split
  · rename_i hnone
    refine entryAt.congr (e := e) (fun y hy hi he => ?_) (bump_rings ..)
    simpa [hi, he] using List.find?_eq_none.mp hnone y hy
  · rename_i x _
    dsimp only
    generalize (if x.epoch ≠ reg e (ringIdx r) 12 then _ else _) = m
    have hdone : entryAt (advanceHead r ((ringOf m r).entries.map fun y =>
        if y.index = index ∧ y.epoch = epoch then { y with stage := .complete } else y) m) r epoch index .complete :=
      fun y hy => stage_of_mem_map (mem_of_mem_advanceHead hy)
    split
    · exact hdone.congr (setReg_rings ..)
    · exact hdone

/-! ### The job of an entry -/

/-- An entry's job is added and its entry is being checked: the dictionary and memory stand as they were (R286). -/
theorem entryNewJob_frame (r : Nat) (x : RingEntry) (e : Eng) :
    let t := (entryNewJob r x e).2
    t.regs = e.regs ∧ t.dom = e.dom ∧ sameMemory e t :=
  ⟨rfl, rfl, sameMemory_of rfl rfl rfl rfl rfl⟩

theorem entryNewJob_holds (r : Nat) (x : RingEntry) (e : Eng) : holdsJob (entryNewJob r x e).2 e.ids :=
  ⟨_, List.mem_append_right _ (List.mem_singleton_self _), rfl⟩

theorem entryNewJob_entry (r : Nat) (x : RingEntry) (e : Eng) :
    entryAt (entryNewJob r x e).2 r x.epoch x.index .checking :=
  (entryAt_setEntryStage r x.epoch x.index .checking (newId e).2).congr rfl

/-- What follows for a next entry that can go on. -/
theorem onEntry_found {r op : Nat} {can : Eng → RingEntry → Bool} {f : RingEntry → Eng → Eng} {e : Eng} {x : RingEntry}
    (h : (nextEntries e r).find? (fun y => opcodeOf y.bytes == op && can e y) = some x) :
    onEntry r op can f e = f x e := by
  rw [onEntry, h]

/-- An entry whose checks may begin at once is found by its opcode alone. -/
theorem onEntry_checked {r op : Nat} {f : RingEntry → Eng → Eng} {e : Eng} {x : RingEntry}
    (h : (nextEntries e r).find? (fun y => opcodeOf y.bytes == op) = some x) :
    onEntry r op canCheck f e = f x e :=
  onEntry_found (by simpa only [canCheck, Bool.and_true] using h)

/-! ### The read of a record -/

theorem regionOf_host {a : Nat} (h : 0x300000000000 ≤ a) : regionOf a = (.host, 0x300000000000, 0x400000000000) := by
  rw [regionOf, if_neg (by omega), if_neg (by omega), if_neg (by omega), if_neg (by omega)]

/-- A pointer of 64-byte alignment into the host window passes the checks of R111, and HST is asked for the record. -/
theorem startRecord_host {x : Job} {n : Nat} (hal : x.addr % 64 = 0) (hlo : 0x300000000000 ≤ x.addr) (hn : 0 < n)
    (hhi : x.addr + n ≤ 0x400000000000) (align place : Nat) (k : Job → List (Byte × Bool) → Eng → Eng) (e : Eng) :
    startRecord x align place n k e =
      let read := requestRead (.job x.id) x.cls false x.addr n e
      setJob { x with stage := .descriptor, waits := read.1, buf := [] } read.2 := by
  have hin : inMemory x.addr n = true := by
    simp [inMemory, regionOf_host hlo]
    omega
  simp only [startRecord, hal, hin, fetchRecord, regionOf_host hlo]
  rfl

/-- The job that reads its record for an entry: FRAGMENTS also takes the place of its table (R108). -/
def recordJob (op : Nat) (x : RingEntry) (j : Job) : Job :=
  if op = 3 then { j with tableAddr := entryField x.bytes 24 8, tableCount := entryField x.bytes 32 4 } else j

theorem recordJob_eq (op : Nat) (x : RingEntry) (j : Job) :
    ∃ a c, recordJob op x j = { j with tableAddr := a, tableCount := c } ∧
      (op = 3 → a = entryField x.bytes 24 8 ∧ c = entryField x.bytes 32 4) := by
  by_cases h : op = 3
  · exact ⟨_, _, if_pos h, fun _ => ⟨rfl, rfl⟩⟩
  · exact ⟨j.tableAddr, j.tableCount, if_neg h, fun g => absurd g h⟩

/-- An entry whose record lies in the host window has a job that waits for one read of HST (R281, R296). -/
theorem recordEntry_reads {r op n : Nat} {x : RingEntry} {e : Eng} (hal : entryField x.bytes 16 8 % 64 = 0)
    (hlo : 0x300000000000 ≤ entryField x.bytes 16 8) (hhi : entryField x.bytes 16 8 + n ≤ 0x400000000000) (hn : 0 < n)
    (hle : n ≤ 4096) (align place : Nat) (k : Job → List (Byte × Bool) → Eng → Eng) :
    let t := startRecord (recordJob op x (entryNewJob r x e).1) align place n k (entryNewJob r x e).2
    (∃ j, jobOf t e.ids = some j ∧ j.op = opcodeOf x.bytes ∧ j.ring = some r ∧ j.epoch = x.epoch ∧ j.index = x.index ∧
      j.stage = .descriptor ∧ j.waits = [e.ids + 1] ∧
      (op = 3 → j.tableAddr = entryField x.bytes 24 8 ∧ j.tableCount = entryField x.bytes 32 4)) ∧
    t.hostReads.map HostRead.range = e.hostReads.map HostRead.range ++ [(e.ids + 1, entryField x.bytes 16 8, n)] ∧
    entryAt t r x.epoch x.index .checking ∧ t.regs = e.regs ∧ t.dom = e.dom ∧ sameMemory e t := by
  obtain ⟨a, c, hjob, htable⟩ := recordJob_eq op x (entryNewJob r x e).1
  obtain ⟨hregs, hdom, hmem⟩ := entryNewJob_frame r x e
  have hreq := requestRead_requests (.job e.ids) (reg e (ringIdx r) 3) false (entryField x.bytes 16 8) n
    (entryNewJob r x e).2
  obtain ⟨hids, hreads⟩ :=
    requestRead_single (.job e.ids) (reg e (ringIdx r) 3) false (entryField x.bytes 16 8) hn hle (entryNewJob r x e).2
  have hheld := (entryNewJob_holds r x e).congr hreq.jobs
  rw [hjob, startRecord_host hal hlo hn hhi]
  exact ⟨⟨_, jobOf_setJob hheld, rfl, rfl, rfl, rfl, rfl, hids, htable⟩, hreads,
    (entryNewJob_entry r x e).congr hreq.rings, hreq.regs.trans hregs, hreq.dom.trans hdom, hmem.trans
      (hreq.memory.trans (sameMemory_of rfl rfl rfl rfl rfl))⟩

/-- The five rows whose jobs read a record are one command, up to the details of its checks (R281). -/
theorem exec_recordEntry {r : Fin 64} {c : Instr} {op n : Nat}
    (h : (c = .move r ∧ op = 1 ∧ n = 256) ∨ (c = .fragments r ∧ op = 3 ∧ n = 256) ∨ (c = .pack r ∧ op = 8 ∧ n = 64) ∨
      (c = .expand r ∧ op = 9 ∧ n = 64) ∨ (c = .reshard r ∧ op = 10 ∧ n = 192)) {s : State} {x : RingEntry}
    (hx : (nextEntries s.eng r.val).find? (fun y => opcodeOf y.bytes == op) = some x) :
    ∃ align place k, exec c s = .next { s with eng :=
      (startRecord (recordJob op x (entryNewJob r.val x s.eng).1) align place n k (entryNewJob r.val x s.eng).2) } := by
  have hrow : ∃ align place k, exec c s = .next (onEng (onEntry r.val op canCheck fun x e =>
      startRecord (recordJob op x (entryNewJob r.val x e).1) align place n k (entryNewJob r.val x e).2) s) := by
    rcases h with ⟨rfl, rfl, rfl⟩ | ⟨rfl, rfl, rfl⟩ | ⟨rfl, rfl, rfl⟩ | ⟨rfl, rfl, rfl⟩ | ⟨rfl, rfl, rfl⟩ <;>
      exact ⟨_, _, _, rfl⟩
  obtain ⟨align, place, k, hexec⟩ := hrow
  exact ⟨align, place, k, by rw [hexec, onEng, onEntry_checked hx]⟩

/-! ### The checks of a descriptor -/

/-- Where the checks of a ring's job end (R111, R286): its job waits for a station or for its index record, or its entry
is complete. -/
def checksEnd (r : Nat) (x : Job) (e : Eng) : Prop :=
  (∃ j, jobOf e x.id = some j ∧ j.op = x.op ∧ j.ring = x.ring ∧ j.desc = x.desc ∧
    (j.stage = .ready ∨ j.stage = .indexRecord)) ∨ entryAt e r x.epoch x.index .complete

/-- A failed check completes the job's entry. -/
theorem failCheck_ends {r : Nat} {x : Job} (hr : x.ring = some r) (z : Ending) (frag : Nat) (e : Eng) :
    checksEnd r x (failCheck x z frag e) := by
  refine .inr ?_
  simp only [failCheck, finishJob, hr]
  exact entryAt_completeEntry _ _ _ _ _ _

/-- A job that has passed its checks, as it waits for a station (R290, R295). -/
def passed (x : Job) (deadline : Nat) (e : Eng) : Job :=
  { x with stage := .ready, passedAt := spNow e, lst := serviceTime e x.cls deadline, waits := [] }

theorem jobOf_passJob {x : Job} {e : Eng} (h : holdsJob e x.id) (deadline : Nat) :
    jobOf (passJob x deadline e) x.id = some (passed x deadline e) :=
  jobOf_setJob (x := passed x deadline e) h

theorem passJob_ends {r : Nat} {x : Job} {e : Eng} (h : holdsJob e x.id) (deadline : Nat) :
    checksEnd r x (passJob x deadline e) :=
  .inl ⟨_, jobOf_passJob h deadline, rfl, rfl, rfl, .inl rfl⟩

theorem checkLast_ends {r : Nat} {x : Job} {e : Eng} (hr : x.ring = some r) (h : holdsJob e x.id) :
    checksEnd r x (checkLast x e) := by
  unfold checkLast
  dsimp only
  split
  · exact failCheck_ends hr ..
  · exact passJob_ends h _

/-- The checks from the index view on, of a job without a fragment table. -/
theorem afterIndexView_ends {r : Nat} {x : Job} {e : Eng} (hr : x.ring = some r) (hop : x.op ≠ 3)
    (h : holdsJob e x.id) : checksEnd r x (afterIndexView x e) := by
  unfold afterIndexView
  split
  · exact failCheck_ends hr ..
  · have hpins := pinResolved_requests x ((x.index?.map View.pins).getD []) e
    dsimp only
    split
    · exact checkLast_ends (x := (pinResolved x _ e).1) hr (h.congr hpins.jobs)
    · rename_i hno
      exact absurd hop hno

theorem afterIndex_ends {r : Nat} {x : Job} {e : Eng} (hr : x.ring = some r) (hop : x.op ≠ 3) (h : holdsJob e x.id)
    (bs : List (Byte × Bool)) : checksEnd r x (afterIndex x bs e) := by
  unfold afterIndex
  dsimp only
  split
  · exact failCheck_ends hr ..
  · exact afterIndexView_ends (x := { x with indexRec := some (recordNat bs).1 }) hr hop h

/-- The index record's read is asked for, or, from a Pool, made at once. -/
theorem fetchIndex_ends {r : Nat} {x : Job} {e : Eng} (hr : x.ring = some r) (hop : x.op ≠ 3) (h : holdsJob e x.id)
    (hst : x.stage = .indexRecord) (a n : Nat) : checksEnd r x (fetchRecord x a n afterIndex e) := by
  unfold fetchRecord
  split
  · exact .inl ⟨_, jobOf_setJob (h.congr (requestRead_requests ..).jobs), rfl, rfl, rfl, .inr hst⟩
  · exact .inl ⟨_, jobOf_setJob (h.congr (submitReads_requests ..).jobs), rfl, rfl, rfl, .inr hst⟩
  · exact afterIndex_ends hr hop h _

theorem checkDescriptor_ends {r : Nat} {x : Job} {e : Eng} (hr : x.ring = some r) (hop : x.op ≠ 3)
    (h : holdsJob e x.id) : checksEnd r x (checkDescriptor x e) := by
  unfold checkDescriptor
  dsimp only
  split
  · exact failCheck_ends (x := { x with cls := x.tmd.cls }) hr ..
  · have hpins := pinResolved_requests { x with cls := x.tmd.cls }
      ((if x.tmd.kind = .fill then [] else x.tmd.src.pins) ++ x.tmd.dst.pins) e
    split
    · exact fetchIndex_ends (x := { (pinResolved { x with cls := x.tmd.cls } _ e).1 with stage := .indexRecord })
        hr hop (h.congr hpins.jobs) rfl ..
    · exact afterIndexView_ends (x := (pinResolved { x with cls := x.tmd.cls } _ e).1) hr hop (h.congr hpins.jobs)

/-- The job of a MOVE_INLINE entry, with its four entries as its descriptor (R282). -/
def inlineJob (r : Nat) (x : RingEntry) (e : Eng) : Job :=
  { (entryNewJob r x e).1 with desc := leNat (x.bytes.take 13 ++ [0, 0, 0] ++ x.bytes.drop 16) }

theorem exec_moveInline {r : Fin 64} {s : State} {x : RingEntry}
    (h : (nextEntries s.eng r.val).find? (fun y => opcodeOf y.bytes == 2) = some x) :
    exec (.moveInline r) s =
      .next { s with eng := checkDescriptor (inlineJob r.val x s.eng) (entryNewJob r.val x s.eng).2 } := by
  change Host.Outcome.next (onEng (onEntry r.val 2 canCheck fun x e =>
    checkDescriptor (inlineJob r.val x e) (entryNewJob r.val x e).2) s) = _
  rw [onEng, onEntry_checked h]

theorem inlineJob_ends {x : RingEntry} (hop : opcodeOf x.bytes = 2) (r : Nat) (e : Eng) :
    checksEnd r (inlineJob r x e) (checkDescriptor (inlineJob r x e) (entryNewJob r x e).2) := by
  have hne : (inlineJob r x e).op ≠ 3 := by
    change opcodeOf x.bytes ≠ 3
    omega
  exact checkDescriptor_ends rfl hne (entryNewJob_holds r x e)

/-! ### The sources of a WEEVIL entry -/

/-- Ranges put together begin with a range at least as long as the first. -/
theorem mergeRanges_head (a n : Nat) (t : List (Nat × Nat)) :
    ∃ m rest, n ≤ m ∧ mergeRanges ((a, n) :: t) = (a, m) :: rest := by
  rw [mergeRanges]
  split
  · split
    · exact ⟨_, _, Nat.le_add_right .., rfl⟩
    · exact ⟨_, _, le_rfl, rfl⟩
  · exact ⟨_, _, le_rfl, rfl⟩

/-- Reads of ranges of the host window are asked for, one after the other. -/
def requestRanges (x : Job) (ranges : List (Nat × Nat)) (e : Eng) : List Nat × Eng :=
  ranges.foldl (fun (acc : List Nat × Eng) r =>
    let (is, e) := requestRead (.job x.id) x.cls true r.1 r.2 acc.2
    (acc.1 ++ is, e)) ([], e)

theorem requestRanges_requests (x : Job) (ranges : List (Nat × Nat)) (e : Eng) :
    Requests e (requestRanges x ranges e).2 :=
  foldl_related (R := fun a b : List Nat × Eng => Requests a.2 b.2) (fun a => .refl a.2) Requests.trans
    (fun acc q _ => requestRead_requests (.job x.id) x.cls true q.1 q.2 acc.2) ([], e)

theorem requestRanges_ids_ne_nil (x : Job) {ranges : List (Nat × Nat)} {q : Nat × Nat} (hq : q ∈ ranges)
    (hpos : 0 < q.2) (e : Eng) : (requestRanges x ranges e).1 ≠ [] :=
  foldl_reaches (P := fun acc : List Nat × Eng => acc.1 ≠ []) hq
    (fun _ => List.append_ne_nil_of_right_ne_nil _ (requestRead_ids_ne_nil _ _ _ _ hpos _))
    (fun _ _ _ h => List.append_ne_nil_of_left_ne_nil h _) ([], e)

/-- A job that reads ranges of the host window alone waits for HST. -/
theorem readInto_host {ranges : List (Nat × Nat)} (hhost : ∀ q ∈ ranges, 0x300000000000 ≤ q.1) (x : Job) (e : Eng) :
    readInto x ranges e =
      let read := requestRanges x (mergeRanges ranges) e
      setJob { x with waits := read.1 } read.2 := by
  have hnone (g : Region) (hg : g ≠ .host) : (ranges.filter fun q => (regionOf q.1).1 = g) = [] := by
    refine List.filter_eq_nil_iff.mpr fun q hq => ?_
    rw [regionOf_host (hhost q hq)]
    simpa using hg.symm
  have hall : (ranges.filter fun q => (regionOf q.1).1 = .host) = ranges := by
    refine List.filter_eq_self.mpr fun q hq => ?_
    rw [regionOf_host (hhost q hq)]
    rfl
  unfold readInto readTurned
  simp only [hnone .pool (by decide), hnone .stack (by decide), hall]
  rfl

theorem copies_len_pos {x : Job} {m : SmallCmd} (h : m ∈ x.copies) : 0 < m.len := by
  obtain ⟨c, -, rfl⟩ := List.mem_map.mp (List.mem_of_mem_filter h)
  exact Nat.succ_pos _

/-- A WEEVIL job that copies from the host window alone begins by asking HST for its sources (R294). -/
theorem stepWeevil_reads {x : Job} (hstep : x.step = 0) (hne : x.copies ≠ [])
    (hhost : ∀ m ∈ x.copies, 0x300000000000 ≤ m.src) (e : Eng) :
    ∃ ids e', ids ≠ [] ∧ Requests e e' ∧ stepWeevil x e = setJob { x with step := 1, waits := ids } e' := by
  have hranges : ∀ q ∈ x.copies.map (fun m => (m.src, m.len)), 0x300000000000 ≤ q.1 := by
    intro q hq
    obtain ⟨m, hm, rfl⟩ := List.mem_map.mp hq
    exact hhost m hm
  have hread : stepWeevil x e = readInto { x with step := 1 } (x.copies.map fun m => (m.src, m.len)) e := by
    simp only [stepWeevil, hstep]
  rw [hread, readInto_host hranges]
  refine ⟨_, _, ?_, requestRanges_requests .., rfl⟩
  obtain ⟨m, t, hmt⟩ := List.exists_cons_of_ne_nil hne
  have hpos : 0 < m.len := copies_len_pos (x := x) (hmt ▸ List.mem_cons_self)
  obtain ⟨len, rest, hlen, hmerge⟩ := mergeRanges_head m.src m.len (t.map fun m => (m.src, m.len))
  rw [hmt, List.map_cons, hmerge]
  exact requestRanges_ids_ne_nil _ List.mem_cons_self (Nat.lt_of_lt_of_le hpos hlen) _

/-- A job that waits takes no step. -/
theorem runJob_waiting {j : Nat} {x : Job} {e : Eng} (h : jobOf e j = some x) (hw : x.waits ≠ []) (fuel : Nat) :
    runJob fuel j e = e := by
  have hno : steps x = false := by simp [steps, hw]
  cases fuel with
  | zero => rfl
  | succ fuel => rw [runJob, h]; simp only [hno, Bool.false_eq_true, if_false]

theorem runJob_weevil {j : Nat} {x : Job} {e : Eng} (h : jobOf e j = some x) (hop : x.op = 4) (hgo : steps x = true)
    (fuel : Nat) : runJob (fuel + 1) j e = runJob fuel j (stepWeevil x e) := by
  rw [runJob, h]
  simp only [hgo, if_true, hop]

/-- A WEEVIL job that has just started asks for its sources and waits (R294). -/
theorem continueJob_weevil {x : Job} {e : Eng} (h : jobOf e x.id = some x) (hop : x.op = 4) (hst : x.stage = .reading)
    (hw : x.waits = []) (hstep : x.step = 0) (hne : x.copies ≠ [])
    (hhost : ∀ m ∈ x.copies, 0x300000000000 ≤ m.src) :
    ∃ ids e', ids ≠ [] ∧ Requests e e' ∧
      continueJob x.id e = setJob { x with step := 1, waits := ids } e' := by
  obtain ⟨ids, e', hids, hreq, hsw⟩ := stepWeevil_reads hstep hne hhost e
  have hgo : steps x = true := by simp [steps, hst, hw]
  have hfuel : jobFuel x = jobFuel x - 1 + 1 := by rw [jobFuel]; omega
  have hholds : holdsJob e' x.id := ⟨x, hreq.jobs ▸ List.mem_of_find?_eq_some h, rfl⟩
  refine ⟨ids, e', hids, hreq, ?_⟩
  rw [continueJob, h]
  dsimp only
  rw [hfuel, runJob_weevil h hop hgo, hsw]
  exact runJob_waiting (jobOf_setJob (x := { x with step := 1, waits := ids }) hholds) hids _

/-- The copies of a WEEVIL entry whose first command copies. -/
theorem copies_ne_nil {x : Job} (h : (smallCmd x.desc 0).kind = 1) : x.copies ≠ [] := by
  have hmem : smallCmd x.desc 0 ∈ x.copies :=
    List.mem_filter.mpr ⟨List.mem_map.mpr ⟨0, mem_below.mpr (by decide), rfl⟩, by simp [h]⟩
  exact List.ne_nil_of_mem hmem

theorem copies_forall {x : Job} {p : SmallCmd → Prop}
    (h : ∀ c, c < 3 → (smallCmd x.desc c).kind = 1 → p (smallCmd x.desc c)) : ∀ m ∈ x.copies, p m := by
  intro m hm
  obtain ⟨hin, hk⟩ := List.mem_filter.mp hm
  obtain ⟨c, hc, rfl⟩ := List.mem_map.mp hin
  exact h c (mem_below.mp hc) (by simpa using hk)

/-- The job of a WEEVIL entry, with its commands (R292). -/
def weevilJob (r : Nat) (x : RingEntry) (e : Eng) : Job := { (entryNewJob r x e).1 with desc := leNat x.bytes }

/-- A WEEVIL job as it starts (R294): nothing is read yet. -/
def startedWeevil (p : Job) (e : Eng) : Job := { passed p 0 e with stage := .reading }

/-- A WEEVIL entry that passes its checks pins the handles `hs` of its destinations and starts at once (R293, R338). -/
theorem weevilEntry_pinned {r : Nat} {x : RingEntry} {e : Eng} (hpass : checkWeevil e (leNat x.bytes) = none) :
    ∃ hs p u, pinResolved (weevilJob r x e) hs (entryNewJob r x e).2 = (p, u) ∧
      ∀ y, jobOf (passJob p 0 u) p.id = some y → weevilEntry r x e =
        continueJob y.id (setJob { y with stage := .reading }
          (setEntryStage r x.epoch x.index .started (passJob p 0 u))) := by
  -- The definition is unfolded as a function and its matches are split one by one, so that the kernel never evaluates
  -- what they look at.
  generalize hf : weevilEntry = f
  delta weevilEntry at hf
  subst hf
  beta_reduce
  extract_lets w
  split
  next z hz => exact absurd (hz.symm.trans hpass) (Option.some_ne_none z)
  next =>
    split
    next j u hnew =>
      extract_lets y
      split
      next p v hpin =>
        extract_lets t
        rw [weevilJob, hnew]
        refine ⟨_, p, v, hpin, fun k hk => ?_⟩
        split
        next k' hk' => rw [Option.some.inj (hk'.symm.trans hk)]
        next hno => exact absurd (hk.symm.trans hno) (Option.some_ne_none k)

/-- The job of a WEEVIL entry that passes its checks starts with its commands, and no source yet (R293): `p` and `u` are
the job and the block once the handles are pinned. -/
theorem weevilEntry_passed {r : Nat} {x : RingEntry} {e : Eng} (hpass : checkWeevil e (leNat x.bytes) = none) :
    ∃ p u, weevilEntry r x e = continueJob p.id (setJob (startedWeevil p u)
        (setEntryStage r x.epoch x.index .started (passJob p 0 u))) ∧
      p.id = e.ids ∧ p.op = opcodeOf x.bytes ∧ p.desc = leNat x.bytes ∧ p.step = 0 ∧
      Requests (entryNewJob r x e).2 u := by
  obtain ⟨hs, p, u, hpin, hgo⟩ := weevilEntry_pinned (r := r) hpass
  obtain ⟨ps, hp⟩ := pinResolved_fst (weevilJob r x e) hs (entryNewJob r x e).2
  have hreq := pinResolved_requests (weevilJob r x e) hs (entryNewJob r x e).2
  rw [hpin] at hp hreq
  subst hp
  exact ⟨_, u, hgo _ (jobOf_passJob ((entryNewJob_holds r x e).congr hreq.jobs) 0), rfl, rfl, rfl, rfl, hreq⟩

/-- Such an entry that copies from the host window leaves its job waiting for its sources (R294). -/
theorem weevilEntry_reads {r : Nat} {x : RingEntry} {e : Eng} (hop : opcodeOf x.bytes = 4)
    (hpass : checkWeevil e (leNat x.bytes) = none) (hcopy : (smallCmd (leNat x.bytes) 0).kind = 1)
    (hhost : ∀ c, c < 3 → (smallCmd (leNat x.bytes) c).kind = 1 → 0x300000000000 ≤ (smallCmd (leNat x.bytes) c).src) :
    let t := weevilEntry r x e
    (∃ j, jobOf t e.ids = some j ∧ j.op = 4 ∧ j.desc = leNat x.bytes ∧ j.stage = .reading ∧ j.waits ≠ []) ∧
      entryAt t r x.epoch x.index .started ∧ t.regs = e.regs ∧ sameMemory e t := by
  obtain ⟨hregs, -, hmem⟩ := entryNewJob_frame r x e
  obtain ⟨p, u, heq, hid, hpop, hdesc, hstep, hpin⟩ := weevilEntry_passed (r := r) hpass
  rw [← hdesc] at hcopy hhost
  have hheld : holdsJob (passJob p 0 u) p.id :=
    holdsJob_setJob (x := passed p 0 u) (hid ▸ (entryNewJob_holds r x e).congr hpin.jobs)
  have hset : holdsJob (setEntryStage r x.epoch x.index .started (passJob p 0 u)) (startedWeevil p u).id :=
    hheld.congr rfl
  obtain ⟨ids, w, hids, hreq, hgo⟩ := continueJob_weevil (jobOf_setJob hset) (hpop.trans hop) rfl rfl hstep
    (copies_ne_nil hcopy) (copies_forall hhost)
  have hw : holdsJob w p.id := (holdsJob_setJob hset).congr hreq.jobs
  rw [heq.trans hgo, ← hid]
  refine ⟨⟨_, jobOf_setJob hw, hpop.trans hop, hdesc, rfl, hids⟩, ?_, hreq.regs.trans (hpin.regs.trans hregs),
    hmem.trans (hpin.memory.trans (.trans ?_ hreq.memory))⟩
  · exact (entryAt_setEntryStage r x.epoch x.index .started (passJob p 0 u)).congr hreq.rings
  · exact sameMemory_of rfl rfl rfl rfl rfl

theorem exec_weevil {r : Fin 64} {s : State} {x : RingEntry}
    (h : (nextEntries s.eng r.val).find? (fun y => opcodeOf y.bytes == 4 &&
      ((checkWeevil s.eng (leNat y.bytes)).isSome || canStart r.val s.eng y)) = some x) :
    exec (.weevil r) s = .next { s with eng := weevilEntry r.val x s.eng } := by
  change Host.Outcome.next (onEng (onEntry r.val 4
    (fun e x => (checkWeevil e (leNat x.bytes)).isSome || canStart r.val e x) (weevilEntry r.val)) s) = _
  rw [onEng, onEntry_found h]

end Sys2Proof.Machine

namespace Sys2Proof.Proofs

open Sys2Proof Sys2Proof.Machine

/-- Settles O28: the five rows that read a record share one command, whose job asks HST for it; the checks of an inline
descriptor leave the job waiting or its entry complete; and a WEEVIL job takes one step, which asks for its sources. -/
theorem entriesBecomeJobs : Obligations.EntriesBecomeJobs := by
  refine ⟨fun r s x c op n hc hfind => ?_, fun r s x => ⟨fun hfind => ?_, fun hfind hpass hhost hcopy => ?_⟩⟩
  · intro a hal hlo hhi
    have hn : 0 < n ∧ n ≤ 4096 := by omega
    have hop : opcodeOf x.bytes = op := by simpa using List.find?_some hfind
    obtain ⟨align, place, k, hexec⟩ := exec_recordEntry hc hfind
    obtain ⟨⟨j, hj, hjop, hring, hepoch, hindex, hstage, hwaits, htable⟩, hreads, hentry, hregs, hdom, hmem⟩ :=
      recordEntry_reads (r := r.val) (op := op) hal hlo hhi hn.1 hn.2 align place k
    exact ⟨_, j, hexec, hj, hjop.trans hop, hring, hepoch, hindex, hstage, hwaits, htable, hreads, hentry, hregs, hdom,
      hmem, rfl, rfl⟩
  · have hop : opcodeOf x.bytes = 2 := by simpa using List.find?_some hfind
    refine ⟨_, exec_moveInline hfind, rfl, rfl, (inlineJob_ends hop r.val s.eng).imp ?_ id⟩
    rintro ⟨j, hj, hjop, hring, hdesc, hstage⟩
    exact ⟨j, hj, hjop.trans hop, hring, hdesc, hstage⟩
  · have hop : opcodeOf x.bytes = 4 := by
      have hboth := List.find?_some hfind
      simp only [Bool.and_eq_true, beq_iff_eq] at hboth
      exact hboth.1
    obtain ⟨⟨j, hj, hjop, hdesc, hstage, hwaits⟩, hentry, hregs, hmem⟩ :=
      weevilEntry_reads (r := r.val) hop hpass hcopy hhost
    exact ⟨_, j, exec_weevil hfind, hj, hjop, hdesc, hstage, hwaits, hentry, hregs, hmem, rfl, rfl⟩

end Sys2Proof.Proofs
end

section
/-! PROOFS. The streams of a station as they run (O39; spec/08_docks.md R183, R195, R197, R198;
spec/06_casting_quantisation.md R155; spec/07_weight_compression.md R170; spec/09_deck.md R218): result beats, operand
intervals, tally sums, decoded blocks and sectors that land. -/

namespace Sys2Proof.Machine

/-! ### The stream of a slot -/

theorem lookup_cons_ite {α : Type} (i j : Nat) (v : α) (t : List (Nat × α)) :
    List.lookup j ((i, v) :: t) = if j = i then some v else List.lookup j t := by
  by_cases h : j = i
  · simp [h]
  · simp [h, List.lookup, beq_false_of_ne h]

theorem lookup_storeErase {α : Type} (k j : Nat) (m : List (Nat × α)) :
    (storeErase k m).lookup j = if j = k then none else m.lookup j := by
  induction m with
  | nil => simp [storeErase]
  | cons x t ih =>
    obtain ⟨i, v⟩ := x
    simp only [storeErase]
    split
    · rename_i hi
      rw [ih, lookup_cons_ite, hi]
      split <;> rfl
    · rename_i hi
      simp only [lookup_cons_ite, ih]
      by_cases hj : j = i
      · simp [hj, hi]
      · simp [hj]

theorem lookup_storeInsert {α : Type} {k : Nat} {m : List (Nat × α)} (h : storeFree k m) (v : α) (j : Nat) :
    (storeInsert k v m).lookup j = if j = k then some v else m.lookup j := by
  induction m with
  | nil => exact lookup_cons_ite ..
  | cons x t ih =>
    obtain ⟨i, w⟩ := x
    have hi : i ≠ k := h (i, w) (by simp)
    simp only [storeInsert]
    split
    · exact lookup_cons_ite ..
    · simp only [lookup_cons_ite, ih fun y hy => h y (by simp [hy])]
      by_cases hj : j = i
      · simp [hj, hi]
      · simp [hj]

@[simp] theorem streamOf_setStream_same (slot : Nat) (x : Stream) (d : Dock) :
    streamOf (setStream slot x d) slot = some x := by
  rw [streamOf, setStream, lookup_storeInsert (storeFree_erase slot d.streams), if_pos rfl]

@[simp] theorem streamOf_dropStream_same (slot : Nat) (d : Dock) : streamOf (dropStream slot d) slot = none := by
  rw [streamOf, dropStream, lookup_storeErase, if_pos rfl]

theorem streamOf_dropStream_other {slot k : Nat} (h : k ≠ slot) (d : Dock) :
    streamOf (dropStream slot d) k = streamOf d k := by
  rw [streamOf, dropStream, lookup_storeErase, if_neg h]
  rfl

theorem dockOf_congr {e e' : Eng} (h : e'.docks = e.docks) (q : Nat) : dockOf e' q = dockOf e q := by
  rw [dockOf, dockOf, h]

theorem otherDocks_onDock (s : Nat) (f : Dock → Dock) (e : Eng) : otherDocks s e (onDock s f e) :=
  fun _ hq => dockOf_onDock_other hq f e

theorem otherDocks.trans {s : Nat} {a b c : Eng} (h : otherDocks s a b) (g : otherDocks s b c) : otherDocks s a c :=
  fun q hq => (g q hq).trans (h q hq)

theorem sameMemory_onDock (s : Nat) (f : Dock → Dock) (e : Eng) : sameMemory e (onDock s f e) :=
  sameMemory_of rfl rfl rfl rfl rfl

theorem sameMemory_advanceCycle (c : Nat) (e : Eng) : sameMemory e (advanceCycle c e) :=
  sameMemory_of rfl rfl rfl rfl rfl

theorem sameMemory_withOut (e : Eng) (out : List PortOut) : sameMemory e { e with out := out } :=
  sameMemory_of rfl rfl rfl rfl rfl

theorem otherDocks_of_docks {s : Nat} {e e' : Eng} (h : e'.docks = e.docks) : otherDocks s e e' :=
  fun q _ => dockOf_congr h q

theorem below_eq_range (n : Nat) : below n = List.range n := by
  have hup : ∀ lo, upFrom lo n = List.range' lo n := by
    induction n with
    | zero => exact fun _ => rfl
    | succ n ih => exact fun lo => by rw [upFrom, ih, List.range'_succ]
  rw [below, hup, List.range_eq_range']

/-! ### Writes of a Pool -/

/-- Nothing has changed but the poison of words of Pools. -/
def onlyPoison (e e' : Eng) : Prop := e' = { e with poolPois := e'.poolPois }

theorem setPoolPois_only (a : Nat) (p : Bool) (e : Eng) : onlyPoison e (setPoolPois a p e) := rfl

theorem onlyPoison.trans {a b c : Eng} (h : onlyPoison a b) (g : onlyPoison b c) : onlyPoison a c := by
  rw [onlyPoison, g, h]

theorem poolWrite_poison (a : Nat) (bs : List (Byte × Bool)) (e : Eng) :
    onlyPoison (setMemBytes a (bs.map (·.1)) e) (poolWrite a bs e) :=
  foldl_related (R := onlyPoison) (fun _ => rfl) .trans (fun _ _ _ => setPoolPois_only ..) _

/-- A write of a Pool changes memory and the poison of words alone (R413). -/
theorem poolWrite_only (a : Nat) (bs : List (Byte × Bool)) (e : Eng) : poolWrite a bs e =
    { e with mem := (setMemBytes a (bs.map (·.1)) e).mem, poolPois := (poolWrite a bs e).poolPois } :=
  poolWrite_poison a bs e

theorem memByte_poolWrite (a : Nat) (bs : List (Byte × Bool)) (e : Eng) (j : Nat) : memByte (poolWrite a bs e) j =
    memByte (setMemBytes a (bs.map (·.1)) e) j := by
  rw [poolWrite_only]
  rfl

/-- A write of a Pool with its stream's place in it: docks, memory and the poison of words change, and nothing else. -/
theorem onDock_poolWrite_only (s : Nat) (f : Dock → Dock) (a : Nat) (bs : List (Byte × Bool)) (e : Eng) :
    let u := onDock s f (poolWrite a bs e)
    u = { e with docks := u.docks, mem := u.mem, poolPois := u.poolPois } := by
  rw [poolWrite_only]
  rfl

/-! ### Work that stays aside of the docks -/

/-- Work of a station that leaves the clock, the ports and every dock alone, and memory too where it writes none. -/
structure Aside (writes : Bool) (e e' : Eng) : Prop where
  now : e'.now = e.now
  out : e'.out = e.out
  docks : e'.docks = e.docks
  memory : writes = false → sameMemory e e'

namespace Aside

variable {w : Bool} {a b c : Eng}

theorem refl (w : Bool) (e : Eng) : Aside w e e := ⟨rfl, rfl, rfl, fun _ => sameMemory_refl e⟩

theorem trans (h : Aside w a b) (g : Aside w b c) : Aside w a c :=
  ⟨g.now.trans h.now, g.out.trans h.out, g.docks.trans h.docks, fun hw => (h.memory hw).trans (g.memory hw)⟩

theorem weaken (h : Aside false a b) (w : Bool) : Aside w a b := ⟨h.now, h.out, h.docks, fun _ => h.memory rfl⟩

theorem ite {p : Prop} [Decidable p] (h : p → Aside w a b) (g : ¬p → Aside w a c) :
    Aside w a (if p then b else c) := by
  split
  · exact h ‹_›
  · exact g ‹_›

theorem setReg (h : Aside w a b) (i k v : Nat) : Aside w a (Machine.setReg i k v b) :=
  h.trans ⟨rfl, rfl, rfl, fun _ => sameMemory_of rfl rfl rfl rfl rfl⟩

theorem bumpBy (h : Aside w a b) (n i k : Nat) : Aside w a (Machine.bumpBy n i k b) := h.setReg ..

theorem bump (h : Aside w a b) (i k : Nat) : Aside w a (Machine.bump i k b) := h.setReg ..

theorem raise (h : Aside w a b) (src d : Nat) : Aside w a (Machine.raise src d b) :=
  h.trans ⟨rfl, rfl, rfl, fun _ => sameMemory_of rfl rfl rfl rfl rfl⟩

theorem streamEvent (h : Aside w a b) (s id : Nat) (st : Status) (d : Nat) :
    Aside w a (Machine.streamEvent s id st d b) := (h.setReg ..).raise ..

theorem poolWrite (h : Aside true a b) (p : Nat) (bs : List (Byte × Bool)) :
    Aside true a (Machine.poolWrite p bs b) := by
  refine h.trans ⟨?_, ?_, ?_, nofun⟩ <;> rw [poolWrite_only]

theorem foldl {α : Type} {f : Eng → α → Eng} {xs : List α} (h : ∀ e, ∀ x ∈ xs, Aside w e (f e x))
    (e : Eng) : Aside w e (xs.foldl f e) := foldl_related (refl w) trans h e

theorem dockOf (h : Aside w a b) (q : Nat) : Machine.dockOf b q = Machine.dockOf a q := dockOf_congr h.docks q

end Aside

theorem onlyRegs.aside {e e' : Eng} (h : onlyRegs e e') : Aside false e e' := by
  rw [h]
  exact ⟨rfl, rfl, rfl, fun _ => sameMemory_of rfl rfl rfl rfl rfl⟩

theorem onlyRegs.trans {a b c : Eng} (h : onlyRegs a b) (g : onlyRegs b c) : onlyRegs a c := by
  rw [onlyRegs, g, h]

theorem onlyRegs.raised {e e' : Eng} (h : onlyRegs e e') : e'.raised = e.raised := by rw [h]

/-! ### References and the end of a stream -/

theorem dropRef_only (s k : Nat) (e : Eng) : onlyRegs e (dropRef s k e) := by
  have h := (onlyRegs.refl e).setReg (stIdx s (0x20 + k)) 6 (reg e (stIdx s (0x20 + k)) 6 - 1)
  rw [dropRef, retireSlot]
  split
  · exact ((((h.setReg ..).setReg ..).setReg ..).setReg ..).setReg ..
  · exact h

theorem dropStreamRefs_only (s : Nat) (x : Stream) (e : Eng) : onlyRegs e (dropStreamRefs s x e) := by
  refine foldl_related onlyRegs.refl onlyRegs.trans (fun e c _ => ?_) e
  split
  · exact dropRef_only ..
  · exact .refl e

theorem freeStream_only {s slot : Nat} {x : Stream} {e : Eng} (h : streamOf (dockOf e s) slot = some x) :
    onlyRegs (onDock s (dropStream slot) e) (freeStream s slot e) := by
  simp only [freeStream, h]
  exact dropStreamRefs_only ..

/-- The post of an end counter reaches the waiting posts of a dock alone (R201). -/
theorem postEnd_frame (s slot at_ : Nat) (e : Eng) : (postEnd s slot at_ e).now = e.now ∧
    (postEnd s slot at_ e).out = e.out ∧ sameMemory e (postEnd s slot at_ e) ∧
    ∀ q, dockOf (postEnd s slot at_ e) q = { dockOf e q with posts := (dockOf (postEnd s slot at_ e) q).posts } := by
  rw [postEnd]
  dsimp only
  split
  · exact ⟨rfl, rfl, sameMemory_refl e, fun _ => rfl⟩
  · split
    · refine ⟨rfl, rfl, sameMemory_onDock .., fun q => ?_⟩
      rw [sendPost]
      by_cases hq : q = (recOf (dockOf e s) slot).endStation
      · rw [hq, dockOf_onDock_same]
      · rw [dockOf_onDock_other hq]
    · exact ⟨rfl, rfl, sameMemory_refl e, fun _ => rfl⟩

theorem postEnd_spoilt {s slot : Nat} {x : Stream} {e : Eng} (h : streamOf (dockOf e s) slot = some x)
    (hx : x.poisoned = true ∨ x.failed = true) (at_ : Nat) : postEnd s slot at_ e = e := by
  simp only [postEnd, h]
  rcases hx with hx | hx <;> simp [hx]

theorem endStream_spoilt {s slot : Nat} {x : Stream} {e : Eng} (h : streamOf (dockOf e s) slot = some x)
    (hx : x.poisoned = true ∨ x.failed = true) (at_ : Nat) :
    onlyRegs (onDock s (dropStream slot) e) (endStream s slot at_ e) := by
  rw [endStream, postEnd_spoilt h hx]
  exact freeStream_only h

/-- A stream waits for its tally sums, or its slot is free. -/
theorem settleTally_cases (s slot : Nat) (e : Eng) : settleTally s slot e = e ∨
    onlyRegs (onDock s (dropStream slot) e) (settleTally s slot e) := by
  rw [settleTally]
  split
  · exact .inl rfl
  · rename_i x hx
    split
    · exact .inr (freeStream_only hx)
    · exact .inl rfl

theorem settleTally_settled {s slot : Nat} {x : Stream} {e : Eng} (h : streamOf (dockOf e s) slot = some x)
    (hd : x.done = true) (hc : x.cancelAt = none) (hk : (recOf (dockOf e s) slot).kind = 1)
    (ht : ∀ q ∈ (dockOf e s).tally, q.slot ≠ slot) :
    onlyRegs (onDock s (dropStream slot) e) (settleTally s slot e) := by
  have hall : (dockOf e s).tally.all (·.slot ≠ slot) = true := by simpa using ht
  simp only [settleTally, h, hd, hc, hk, hall]
  exact freeStream_only h

/-! ### Sectors that land -/

/-- The station's state when its next sector is written: the clock at the sector's time, the sector no longer on its
way. -/
def landingNow (s : Nat) (f : InFlight) (rest : List InFlight) (e : Eng) : Eng :=
  onDock s (fun d => { d with arriving := rest }) (advanceCycle (2 * f.land) e)

theorem reg_landingNow (s : Nat) (f : InFlight) (rest : List InFlight) (e : Eng) (i k : Nat) :
    reg (landingNow s f rest e) i k = reg e i k := rfl

theorem queueAddr_landingNow (s : Nat) (f : InFlight) (rest : List InFlight) (e : Eng) (r : StreamRec) (pos : Nat) :
    queueAddr (landingNow s f rest e) s r pos = queueAddr e s r pos := by
  simp only [queueAddr, queueRing, reg_landingNow]

theorem queueFull_landingNow (s : Nat) (f : InFlight) (rest : List InFlight) (e : Eng) (r : StreamRec) (x : Stream) :
    queueFull (landingNow s f rest e) s r x = queueFull e s r x := by
  have hring : queueRing (landingNow s f rest e) s r = queueRing e s r := by simp only [queueRing, reg_landingNow]
  rw [queueFull, queueFull, hring]

theorem sameEntries_landingNow (ks : List (Nat × Nat)) (s : Nat) (f : InFlight) (rest : List InFlight) (e : Eng) :
    sameEntries ks e (landingNow s f rest e) := (sameEntries_refl ks e).congr rfl

theorem memByte_landingNow (s : Nat) (f : InFlight) (rest : List InFlight) (e : Eng) (a : Nat) :
    memByte (landingNow s f rest e) a = memByte e a := rfl

theorem otherDocks_landingNow (s : Nat) (f : InFlight) (rest : List InFlight) (e : Eng) :
    otherDocks s e (landingNow s f rest e) := otherDocks_onDock s _ (advanceCycle (2 * f.land) e)

theorem landingNow_dock (s : Nat) (f : InFlight) (rest : List InFlight) (e : Eng) :
    dockOf (landingNow s f rest e) s = { dockOf e s with arriving := rest } := dockOf_onDock_same ..

theorem landingNow_record (s : Nat) (f : InFlight) (rest : List InFlight) (e : Eng) (slot : Nat) :
    recOf (dockOf (landingNow s f rest e) s) slot = recOf (dockOf e s) slot := by
  rw [landingNow_dock]
  rfl

theorem landingNow_stream (s : Nat) (f : InFlight) (rest : List InFlight) (e : Eng) (slot : Nat) :
    streamOf (dockOf (landingNow s f rest e) s) slot = streamOf (dockOf e s) slot := by
  rw [landingNow_dock]
  rfl

theorem exec_staticSectorLand_idle {s : Fin 48} {st : State} (h : (dockOf st.eng s.val).arriving = []) :
    exec (.staticSectorLand s) st = .next st := by
  change Host.Outcome.next (onEng (fun e => match firstArriving (dockOf e s.val).arriving with
    | none => e
    | some (f, rest) => if partUp (landingNow s.val f rest e) s.val then
        landSector s.val f.slot f.sector (landingNow s.val f rest e) else landingNow s.val f rest e) st) = _
  rw [onEng, h]
  rfl

theorem exec_staticSectorLand {s : Fin 48} {st : State} {f : InFlight} {rest : List InFlight}
    (h : firstArriving (dockOf st.eng s.val).arriving = some (f, rest)) (hup : partUp st.eng s.val = true) :
    exec (.staticSectorLand s) st =
      .next (onEng (fun e => landSector s.val f.slot f.sector (landingNow s.val f rest e)) st) := by
  have hup' : partUp (landingNow s.val f rest st.eng) s.val = true := hup
  change Host.Outcome.next (onEng (fun e => match firstArriving (dockOf e s.val).arriving with
    | none => e
    | some (f, rest) => if partUp (landingNow s.val f rest e) s.val then
        landSector s.val f.slot f.sector (landingNow s.val f rest e) else landingNow s.val f rest e) st) = _
  simp only [onEng, h, hup', if_true]

section
variable {s slot : Nat} {l : Landed} {r : StreamRec} {x : Stream} {e : Eng}

theorem landSector_draining (h : streamOf (dockOf e s) slot = some x) (hc : x.cancelAt ≠ none) :
    landSector s slot l e = e := by
  have hc' : x.cancelAt.isSome = true := Option.isSome_iff_ne_none.mpr hc
  simp only [landSector, h, hc', if_true]

/-- The ring of a queue is full: the landing is refused (R195). -/
theorem landSector_full (hr : recOf (dockOf e s) slot = r) (h : streamOf (dockOf e s) slot = some x)
    (hc : x.cancelAt = none) (hk : r.kind ≠ 3) (hf : queueFull e s r x = true) : landSector s slot l e =
      streamEvent s r.id .exhausted 0x3F31 (bump (stIdx s 0x30) 7 e) := by
  simp only [landSector, hr, h, hc, hk, hf, Option.isSome_none, Bool.false_eq_true, if_false, if_true]

/-- A landing takes the next place of its queue's ring (R193, R194). -/
theorem landSector_lands (hr : recOf (dockOf e s) slot = r) (h : streamOf (dockOf e s) slot = some x)
    (hc : x.cancelAt = none) (hk : r.kind ≠ 3) (hp : l.part ≠ 2) (hf : queueFull e s r x = false) :
    landSector s slot l e = onDock s (setStream slot
        { x with landed := x.landed ++ [{ l with data := 0, pois := 0, pos := x.landCount }],
                 landCount := x.landCount + 1 })
      (poolWrite (queueAddr e s r x.landCount) (sectorBytes l.data l.pois) e) := by
  simp only [landSector, hr, h, hc, hk, hf, hp, Option.isSome_none, Bool.false_eq_true, if_false, id]

end

theorem sectorBytes_values (data pois : Nat) : (sectorBytes data pois).map (·.1) =
    (List.range 32).map fun k => BitVec.ofNat 8 (bits data (8 * k) 8) := by
  rw [sectorBytes, List.map_map, below_eq_range]
  rfl

/-- What the bytes of memory read as once a sector is written in a Pool. -/
theorem memByte_sectorWrite (q data pois : Nat) (e : Eng) :
    (∀ k, k < 32 → memByte (poolWrite q (sectorBytes data pois) e) (q + k) =
      BitVec.ofNat 8 (data / 2 ^ (8 * k) % 256)) ∧
    ∀ a, ¬(q ≤ a ∧ a < q + 32) → memByte (poolWrite q (sectorBytes data pois) e) a = memByte e a := by
  simp only [memByte_poolWrite, memByte_setMemBytes, sectorBytes_values]
  refine ⟨fun k hk => ?_, fun a ha => dif_neg ?_⟩
  · rw [dif_pos (by simp; omega)]
    simp [bits]
  · simp only [List.length_map, List.length_range]
    omega

/-- What a landing changes: its stream's dock, and the sector's bytes at the next place of the ring (R185, R193). -/
theorem landSector_frame {s slot : Nat} {l : Landed} {r : StreamRec} {x : Stream} {e : Eng}
    (hr : recOf (dockOf e s) slot = r) (h : streamOf (dockOf e s) slot = some x)
    (hc : x.cancelAt = none) (hk : r.kind ≠ 3) (hp : l.part ≠ 2) (hf : queueFull e s r x = false) :
    let u := landSector s slot l e
    let q := queueAddr e s r x.landCount
    dockOf u s = setStream slot
        { x with landed := x.landed ++ [{ l with data := 0, pois := 0, pos := x.landCount }],
                 landCount := x.landCount + 1 } (dockOf e s) ∧
      otherDocks s e u ∧
      (∀ k, k < 32 → memByte u (q + k) = BitVec.ofNat 8 (l.data / 2 ^ (8 * k) % 256)) ∧
      (∀ a, ¬(q ≤ a ∧ a < q + 32) → memByte u a = memByte e a) ∧
      u = { e with docks := u.docks, mem := u.mem, poolPois := u.poolPois } := by
  have hw := (Aside.refl true e).poolWrite (queueAddr e s r x.landCount) (sectorBytes l.data l.pois)
  obtain ⟨hin, hout⟩ := memByte_sectorWrite (queueAddr e s r x.landCount) l.data l.pois e
  rw [landSector_lands hr h hc hk hp hf]
  refine ⟨?_, ?_, fun k hk => ?_, fun a ha => ?_, onDock_poolWrite_only ..⟩
  · rw [dockOf_onDock_same, hw.dockOf]
  · exact .trans (otherDocks_of_docks hw.docks) (otherDocks_onDock _ _ _)
  · rw [memByte_onDock]
    exact hin k hk
  · rw [memByte_onDock]
    exact hout a ha

theorem wrapWidth_dock {s k : Nat} (hs : s < 48) (hk : k = 7 ∨ k = 9) : wrapWidth (stIdx s 0x30) k = 64 := by
  have h : ∀ q < 48, wrapWidth (stIdx q 0x30) 7 = 64 ∧ wrapWidth (stIdx q 0x30) 9 = 64 := by decide
  rcases hk with rfl | rfl
  · exact (h s hs).1
  · exact (h s hs).2

theorem stIdx_lt {s k : Nat} (hs : s < 48) (hk : k < 64) : stIdx s k < 65536 := by
  unfold stIdx
  omega

theorem streamEvent_raised (s id : Nat) (st : Status) (detail : Nat) (e : Eng) :
    (streamEvent s id st detail e).raised = e.raised ++ [(s, detail)] := by
  rw [streamEvent, raise, setReg_raised]

/-- An overrun queue counts, and its status names the stream; no dock changes (R195). -/
theorem queueOverrun_frame {s : Nat} (hs : s < 48) (id : Nat) (st : Status) (detail : Nat) (e : Eng) :
    let u := streamEvent s id st detail (bump (stIdx s 0x30) 7 e)
    dockOf u s = dockOf e s ∧ u.raised = e.raised ++ [(s, detail)] ∧
      reg u (stIdx s 0x30) 7 = (reg e (stIdx s 0x30) 7 + 1) % 2 ^ 64 ∧
      reg u (stIdx s 5) 1 = st.code + detail * 2 ^ 8 + id * 2 ^ 24 ∧
      sameEntries [(stIdx s 0x30, 7), (stIdx s 5, 1)] e u := by
  have hcount : stIdx s 0x30 < 65536 := stIdx_lt hs (by decide)
  have hstatus : stIdx s 5 < 65536 := stIdx_lt hs (by decide)
  have ha := ((Aside.refl true e).bump (stIdx s 0x30) 7).streamEvent s id st detail
  refine ⟨ha.dockOf s, streamEvent_raised .., ?_, ?_, ?_⟩
  · rw [streamEvent, reg_raise, reg_setReg_other (cellKey_ne (by simp) (by decide) (by decide) hcount hstatus),
      reg_bump_same, wrapWidth_dock hs (.inl rfl)]
  · rw [streamEvent, reg_raise, reg_setReg_same]
  · have hbump := (sameEntries_refl [(stIdx s 0x30, 7), (stIdx s 5, 1)] e).bump (k := 7) (by simp) hcount (by decide)
    have hset := hbump.setReg (k := 1) (by simp) hstatus (by decide) (st.code + detail * 2 ^ 8 + id * 2 ^ 24)
    exact hset.congr (raise_regs ..)

/-! ### The beats of the tally lane -/

/-- The station's state once the next sums of a tile have left its queue (R155). -/
def tallyLeft (s : Nat) (y : TallyTile) (rest : List TallyTile) (left : List TallySum) (e : Eng) : Eng :=
  let t := max y.at_ (dockOf e s).tallyFree
  let e := onDock s (fun d => { d with tallyFree := t + 1 }) (advanceCycle t e)
  if left.isEmpty then settleTally s y.slot (onDock s (fun d => { d with tally := rest }) e)
  else onDock s (fun d => { d with tally := { y with sums := left } :: rest }) e

/-- The beat of OPT that takes a sum, with the next one where the tile holds one (R155). -/
def tallyOut (s t : Nat) (a : TallySum) (b : Option TallySum) : PortOut :=
  .opt s t (unsigned 32 a.value + ((b.map fun x => unsigned 32 x.value).getD 0) * 2 ^ 32)
    (if a.overrun then 3 else (if a.pois then 1 else 0) + if b.any (·.pois) then 2 else 0)

theorem tallyOut_eq (s t : Nat) (a : TallySum) (more : List TallySum) : tallyOut s t a more.head? = .opt s t
    (unsigned 32 a.value + (match more with | b :: _ => unsigned 32 b.value | [] => 0) * 2 ^ 32)
    (if a.overrun then 3
      else (if a.pois then 1 else 0) + match more with | b :: _ => (if b.pois then 2 else 0) | [] => 0) := by
  cases more <;> rfl

theorem tallyLeft_more {left : List TallySum} (h : left ≠ []) (s : Nat) (y : TallyTile) (rest : List TallyTile)
    (e : Eng) :
    tallyLeft s y rest left e = onDock s (fun d => { d with tally := { y with sums := left } :: rest })
      (onDock s (fun d => { d with tallyFree := max y.at_ (dockOf e s).tallyFree + 1 })
        (advanceCycle (max y.at_ (dockOf e s).tallyFree) e)) := by
  rw [tallyLeft, if_neg (by simpa using h)]

/-- The station's state once a tile's last sums have left, before its stream is settled. -/
def tileLeft (s : Nat) (y : TallyTile) (rest : List TallyTile) (e : Eng) : Eng :=
  onDock s (fun d => { d with tally := rest })
    (onDock s (fun d => { d with tallyFree := max y.at_ (dockOf e s).tallyFree + 1 })
      (advanceCycle (max y.at_ (dockOf e s).tallyFree) e))

theorem tileLeft_dock (s : Nat) (y : TallyTile) (rest : List TallyTile) (e : Eng) : dockOf (tileLeft s y rest e) s =
    { dockOf e s with tallyFree := max y.at_ (dockOf e s).tallyFree + 1, tally := rest } := by
  rw [tileLeft, dockOf_onDock_same, dockOf_onDock_same]
  rfl

theorem tileLeft_now (s : Nat) (y : TallyTile) (rest : List TallyTile) (e : Eng) :
    (tileLeft s y rest e).now = max e.now (e.spBase.getD 0 + max y.at_ (dockOf e s).tallyFree) := rfl

theorem tallyLeft_last (s : Nat) (y : TallyTile) (rest : List TallyTile) (e : Eng) :
    tallyLeft s y rest [] e = settleTally s y.slot (tileLeft s y rest e) := rfl

theorem tallyLaneBeat_idle {s : Nat} {e : Eng} (h : (dockOf e s).tally = []) : tallyLaneBeat s e = e := by
  rw [tallyLaneBeat, h]

theorem tallyLaneBeat_sums {s : Nat} {e : Eng} {y : TallyTile} {rest : List TallyTile} {a : TallySum}
    {more : List TallySum} (h : (dockOf e s).tally = y :: rest) (hy : y.sums = a :: more) :
    tallyLaneBeat s e = emit (tallyOut s (max y.at_ (dockOf e s).tallyFree) a more.head?)
      (tallyLeft s y rest (more.drop 1) e) := by
  simp only [tallyLaneBeat, h, hy]
  rfl

/-! ### Result beats -/

theorem exec_resultBeat_unseen {s : Fin 48} {st : State}
    (h : ¬(isReady st.eng = true ∧ partUp st.eng s.val = true)) (c : Nat) (data : BitVec 2048) :
    exec (.resultBeat s c data) st = .next st := by
  have hc : (!isReady st.eng || !partUp st.eng s.val) = true := by simpa [imp_iff_not_or] using h
  change Host.Outcome.next (onEng (fun e => if !isReady e || !partUp e s.val then e else _) st) = _
  simp only [onEng, hc, if_true]

theorem exec_resultBeat_seen {s : Fin 48} {st : State} (hr : isReady st.eng = true) (hu : partUp st.eng s.val = true)
    (c : Nat) (data : BitVec 2048) : exec (.resultBeat s c data) st =
      .next (onEng (fun e => match openResult (dockOf e s.val) c with
        | some (slot, x) => takeResult s.val slot c data x (advanceCycle c e)
        | none => raise s.val 0 (bump (stIdx s.val 0x30) 9 (advanceCycle c e))) st) := by
  change Host.Outcome.next (onEng (fun e => if !isReady e || !partUp e s.val then e else
    match openResult (dockOf e s.val) c with
      | some (slot, x) => takeResult s.val slot c data x (advanceCycle c e)
      | none => raise s.val 0 (bump (stIdx s.val 0x30) 9 (advanceCycle c e))) st) = _
  simp only [onEng, hr, hu, Bool.not_true, Bool.or_self, Bool.false_eq_true, if_false]

theorem exec_resultBeat_lost {s : Fin 48} {st : State} {c : Nat} (hr : isReady st.eng = true)
    (hu : partUp st.eng s.val = true) (h : openResult (dockOf st.eng s.val) c = none) (data : BitVec 2048) :
    exec (.resultBeat s c data) st =
      .next (onEng (fun e => raise s.val 0 (bump (stIdx s.val 0x30) 9 (advanceCycle c e))) st) := by
  rw [exec_resultBeat_seen hr hu, onEng, h]
  rfl

theorem exec_resultBeat_taken {s : Fin 48} {st : State} {c slot : Nat} {x : Stream} (hr : isReady st.eng = true)
    (hu : partUp st.eng s.val = true) (h : openResult (dockOf st.eng s.val) c = some (slot, x)) (data : BitVec 2048) :
    exec (.resultBeat s c data) st =
      .next (onEng (fun e => takeResult s.val slot c data x (advanceCycle c e)) st) := by
  rw [exec_resultBeat_seen hr hu, onEng, h]
  rfl

/-- A beat that no stream takes is counted in RES_DROPPED and raised, and nothing else changes but the clock (R183). -/
theorem lostBeat_frame {s : Nat} (hs : s < 48) (c : Nat) (e : Eng) :
    let u := raise s 0 (bump (stIdx s 0x30) 9 (advanceCycle c e))
    reg u (stIdx s 0x30) 9 = (reg e (stIdx s 0x30) 9 + 1) % 2 ^ 64 ∧ sameEntries [(stIdx s 0x30, 9)] e u ∧
      u = { e with now := max e.now (e.spBase.getD 0 + c), regs := u.regs, raised := e.raised ++ [(s, 0)] } := by
  have hclock : sameEntries [(stIdx s 0x30, 9)] e (advanceCycle c e) :=
    (sameEntries_refl _ e).congr (advanceTo_regs ..)
  have hcount := hclock.bump (i := stIdx s 0x30) (k := 9) (by simp) (stIdx_lt hs (by decide)) (by decide)
  refine ⟨?_, hcount.congr (raise_regs ..), rfl⟩
  rw [reg_raise, reg_bump_same, wrapWidth_dock hs (.inr rfl), advanceCycle, reg_advanceTo]

/-- A result stream once it has accepted a beat (R184, R198). -/
def acceptedBeat (r : StreamRec) (data : BitVec 2048) (x : Stream) : Stream :=
  { x with
    beat := x.beat + 1
    taken := x.taken ++ (below (beatBytes r.portFmt true)).map fun k => bits data.toNat (8 * k) 8
    done := decide (x.beat + 1 = resultBeats r) }

theorem acceptedBeat_taken (r : StreamRec) (data : BitVec 2048) (x : Stream) : (acceptedBeat r data x).taken =
    x.taken ++ (List.range (beatBytes r.portFmt true)).map (fun k => data.toNat / 2 ^ (8 * k) % 256) := by
  rw [acceptedBeat, below_eq_range]
  rfl

/-- What staging a beat's atoms leaves alone: the stream's progress and bytes as they came, and everything but
memory. -/
def Stages (p q : Stream × Eng) : Prop := q.1.beat = p.1.beat ∧ q.1.taken = p.1.taken ∧ Aside true p.2 q.2

theorem Stages.trans {p q u : Stream × Eng} (h : Stages p q) (g : Stages q u) : Stages p u := by
  obtain ⟨hb, ht, ha⟩ := h
  obtain ⟨gb, gt, ga⟩ := g
  exact ⟨gb.trans hb, gt.trans ht, ha.trans ga⟩

theorem stageAtom_stages (s : Nat) (r : StreamRec) (part seq written : Nat) (at_ : Atom) (p : Stream × Eng) :
    Stages p (stageAtom s r part seq written at_ p) := by
  simp only [stageAtom]
  split
  · exact ⟨rfl, rfl, (Aside.refl ..).poolWrite ..⟩
  · exact ⟨rfl, rfl, ((Aside.refl ..).poolWrite ..).poolWrite ..⟩

/-- A stream that has accepted a beat stands a beat further, or ends with its last one. -/
def settleBeat (last : Bool) (s slot written : Nat) (y : Stream) (e : Eng) : Eng :=
  if last then endStream s slot written (onDock s (setStream slot y) e) else onDock s (setStream slot y) e

theorem raise_onDock (src detail q : Nat) (f : Dock → Dock) (e : Eng) :
    raise src detail (onDock q f e) = onDock q f (raise src detail e) := rfl

theorem setReg_onDock (i k v q : Nat) (f : Dock → Dock) (e : Eng) :
    setReg i k v (onDock q f e) = onDock q f (setReg i k v e) := rfl

theorem streamEvent_onDock (s id : Nat) (st : Status) (detail q : Nat) (f : Dock → Dock) (e : Eng) :
    streamEvent s id st detail (onDock q f e) = onDock q f (streamEvent s id st detail e) := by
  rw [streamEvent, streamEvent, setReg_onDock, raise_onDock]

/-- A poisoned or failed stream discards a beat (R192). -/
theorem takeResult_spoilt {x : Stream} (hx : x.poisoned = true ∨ x.failed = true) (s slot c : Nat)
    (data : BitVec 2048) (e : Eng) :
    let y := acceptedBeat (recOf (dockOf e s) slot) data x
    ∃ written, takeResult s slot c data x e = settleBeat y.done s slot written y e := by
  have hor : (x.poisoned || x.failed) = true := by simpa using hx
  exact ⟨_, by simp only [takeResult, hor, if_true, settleBeat, acceptedBeat, decide_eq_true_eq]; rfl⟩

theorem stageAtoms_stages (s : Nat) (r : StreamRec) (written : Nat) (plan : List (Nat × Nat × Atom))
    (p : Stream × Eng) :
    Stages p (plan.foldl (fun xe q => stageAtom s r q.1 q.2.1 written q.2.2 xe) p) :=
  foldl_related (R := Stages) (fun _ => ⟨rfl, rfl, .refl ..⟩) .trans (fun _ _ _ => stageAtom_stages ..) p

/-- What a beat's work counts (R157). -/
def countResult (s : Nat) (all : Work) (e : Eng) : Eng :=
  bumpBy all.outliers (stIdx s 0x10) 7 (bumpBy all.nans (stIdx s 0x10) 5 (bumpBy all.sats (stIdx s 0x10) 2 e))

theorem countResult_aside (w : Bool) (s : Nat) (all : Work) (e : Eng) : Aside w e (countResult s all e) :=
  (((Aside.refl w e).bumpBy ..).bumpBy ..).bumpBy ..

/-- A sound stream to stack memory stages a beat, or fails where its queue's ring is full (R194, R195). -/
theorem takeResult_stages {x : Stream} {e : Eng} {s slot : Nat} (hx : (x.poisoned || x.failed) = false)
    (hin : (recOf (dockOf e s) slot).inStack = true) (c : Nat) (data : BitVec 2048) :
    let r := recOf (dockOf e s) slot
    let y := acceptedBeat r data x
    ∃ (all : Work) (full : Bool) (plan : List (Nat × Nat × Atom)) (written : Nat), takeResult s slot c data x e =
      if full then streamEvent s r.id .exhausted 0x3F33
        (settleBeat y.done s slot written { y with failed := true, staged := [], places := [] } (countResult s all e))
      else
        let p := plan.foldl (fun xe q => stageAtom s r q.1 q.2.1 written q.2.2 xe) (y, countResult s all e)
        onDock s (setStream slot p.1) p.2 :=
  ⟨_, _, _, _, by
    simp only [takeResult, hx, hin, Bool.false_eq_true, if_false, if_true, settleBeat, acceptedBeat,
      decide_eq_true_eq]
    rfl⟩

/-- A sound stream to its Pool writes a beat at once. -/
theorem takeResult_writes {x : Stream} {e : Eng} {s slot : Nat} (hx : (x.poisoned || x.failed) = false)
    (hin : (recOf (dockOf e s) slot).inStack = false) (c : Nat) (data : BitVec 2048) :
    let y := acceptedBeat (recOf (dockOf e s) slot) data x
    ∃ (all : Work) (written : Nat), takeResult s slot c data x e = settleBeat y.done s slot written y
      ((all.atoms ++ all.records).foldl (fun e at_ => poolWrite (localOf at_.addr.toNat)
        [(BitVec.ofNat 8 (applyAtom (memByte e (localOf at_.addr.toNat)).toNat at_), at_.pois)] e)
        (countResult s all e)) :=
  ⟨_, _, by
    simp only [takeResult, hx, hin, Bool.false_eq_true, if_false, settleBeat, acceptedBeat, decide_eq_true_eq]
    rfl⟩

/-- A beat before the last one leaves its stream open, a beat further (R198). -/
theorem takeResult_continues {s slot : Nat} {x : Stream} {e : Eng}
    (h : x.beat + 1 ≠ resultBeats (recOf (dockOf e s) slot)) (c : Nat) (data : BitVec 2048) :
    ∃ y u, takeResult s slot c data x e = onDock s (setStream slot y) u ∧ y.beat = x.beat + 1 ∧
      y.taken = (acceptedBeat (recOf (dockOf e s) slot) data x).taken ∧ Aside true e u ∧
      (x.poisoned = true ∨ x.failed = true → u = e) := by
  have hlast : ¬(acceptedBeat (recOf (dockOf e s) slot) data x).done = true := by simpa [acceptedBeat] using h
  by_cases hx : x.poisoned = true ∨ x.failed = true
  · obtain ⟨written, ht⟩ := takeResult_spoilt hx s slot c data e
    exact ⟨_, e, ht.trans (if_neg hlast), rfl, rfl, .refl .., fun _ => rfl⟩
  · have hor : (x.poisoned || x.failed) = false := by simpa using hx
    cases hin : (recOf (dockOf e s) slot).inStack
    · obtain ⟨all, written, ht⟩ := takeResult_writes hor hin c data
      rw [settleBeat, if_neg hlast] at ht
      exact ⟨_, _, ht, rfl, rfl,
        (countResult_aside ..).trans (.foldl (fun _ _ _ => (Aside.refl ..).poolWrite ..) _), fun h => absurd h hx⟩
    · obtain ⟨all, full, plan, written, ht⟩ := takeResult_stages hor hin c data
      cases full
      · obtain ⟨hb, hk, ha⟩ := stageAtoms_stages s (recOf (dockOf e s) slot) written plan
          (acceptedBeat (recOf (dockOf e s) slot) data x, countResult s all e)
        rw [if_neg nofun] at ht
        exact ⟨_, _, ht, hb, hk, (countResult_aside ..).trans ha, fun h => absurd h hx⟩
      · rw [if_pos rfl, settleBeat, if_neg hlast, streamEvent_onDock] at ht
        exact ⟨_, _, ht, rfl, rfl, (countResult_aside ..).streamEvent .., fun h => absurd h hx⟩

/-- The last beat of a poisoned or failed stream frees its slot, with no post (R192, R201). -/
theorem takeResult_ends {s slot : Nat} {x : Stream} {e : Eng} (hx : x.poisoned = true ∨ x.failed = true)
    (h : x.beat + 1 = resultBeats (recOf (dockOf e s) slot)) (c : Nat) (data : BitVec 2048) :
    ∃ y, onlyRegs (onDock s (dropStream slot) (onDock s (setStream slot y) e)) (takeResult s slot c data x e) := by
  have hlast : (acceptedBeat (recOf (dockOf e s) slot) data x).done = true := by simpa [acceptedBeat] using h
  obtain ⟨written, ht⟩ := takeResult_spoilt hx s slot c data e
  rw [ht, settleBeat, if_pos hlast]
  exact ⟨_, endStream_spoilt (x := acceptedBeat (recOf (dockOf e s) slot) data x)
    (by rw [dockOf_onDock_same, streamOf_setStream_same]) hx written⟩

/-- What the last beat of a poisoned or failed stream changes: its slot is free, and its references are given back. -/
theorem resultBeat_ends {s slot c : Nat} {x : Stream} {e : Eng} (hx : x.poisoned = true ∨ x.failed = true)
    (h : x.beat + 1 = resultBeats (recOf (dockOf e s) slot)) (data : BitVec 2048) :
    let u := takeResult s slot c data x (advanceCycle c e)
    streamOf (dockOf u s) slot = none ∧ otherDocks s e u ∧ sameMemory e u ∧ u.raised = e.raised := by
  obtain ⟨y, hy⟩ := takeResult_ends (e := advanceCycle c e) hx h c data
  have hclock : otherDocks s e (advanceCycle c e) := fun _ _ => rfl
  refine ⟨?_, ?_, ?_, hy.raised⟩
  · rw [hy.aside.dockOf, dockOf_onDock_same, streamOf_dropStream_same]
  · exact hclock.trans (.trans (otherDocks_onDock _ _ _) (.trans (otherDocks_onDock _ _ _)
      (otherDocks_of_docks hy.aside.docks)))
  · exact .trans (.trans (sameMemory_advanceCycle ..) (.trans (sameMemory_onDock ..) (sameMemory_onDock ..)))
      (hy.aside.memory rfl)

/-- What a beat before the last one changes: its stream, and for a sound one what it counts and writes. -/
theorem resultBeat_continues {s slot c : Nat} {x : Stream} {e : Eng}
    (h : x.beat + 1 < resultBeats (recOf (dockOf e s) slot)) (data : BitVec 2048) :
    let u := takeResult s slot c data x (advanceCycle c e)
    ∃ y, streamOf (dockOf u s) slot = some y ∧ y.beat = x.beat + 1 ∧ otherDocks s e u ∧
      y.taken = (acceptedBeat (recOf (dockOf e s) slot) data x).taken ∧
      (x.poisoned = true ∨ x.failed = true → u.regs = e.regs ∧ sameMemory e u) := by
  obtain ⟨y, u, ht, hb, hk, ha, hspoilt⟩ := takeResult_continues (e := advanceCycle c e) (Nat.ne_of_lt h) c data
  have hclock : otherDocks s e (advanceCycle c e) := fun _ _ => rfl
  rw [ht]
  refine ⟨y, ?_, hb, ?_, hk, fun hx => ?_⟩
  · rw [dockOf_onDock_same, streamOf_setStream_same]
  · exact hclock.trans (.trans (otherDocks_of_docks ha.docks) (otherDocks_onDock _ _ _))
  · rw [hspoilt hx]
    exact ⟨rfl, .trans (sameMemory_advanceCycle ..) (sameMemory_onDock ..)⟩

/-! ### Tallies of a beat -/

/-- What the tally of a beat leaves alone: the stream but for its tile, the clock, the ports, memory, and the station's
records. -/
structure Tallied (s : Nat) (p q : Stream × Eng) : Prop where
  cancelAt : q.1.cancelAt = p.1.cancelAt
  now : q.2.now = p.2.now
  out : q.2.out = p.2.out
  memory : sameMemory p.2 q.2
  committed : (dockOf q.2 s).committed = (dockOf p.2 s).committed

theorem Tallied.refl (s : Nat) (p : Stream × Eng) : Tallied s p p := ⟨rfl, rfl, rfl, sameMemory_refl _, rfl⟩

theorem Tallied.trans {s : Nat} {p q u : Stream × Eng} (h : Tallied s p q) (g : Tallied s q u) : Tallied s p u :=
  ⟨g.cancelAt.trans h.cancelAt, g.now.trans h.now, g.out.trans h.out, h.memory.trans g.memory,
    g.committed.trans h.committed⟩

theorem Tallied.aside {s : Nat} {p q : Stream × Eng} {u : Eng} (h : Tallied s p q) (g : Aside false q.2 u) :
    Tallied s p (q.1, u) :=
  h.trans ⟨rfl, g.now, g.out, g.memory rfl, by rw [g.dockOf]⟩

theorem Tallied.before {s : Nat} {x y : Stream} {e e' : Eng} {q : Stream × Eng} (h : Tallied s (y, e') q)
    (g : Aside false e e') (hx : y.cancelAt = x.cancelAt) : Tallied s (x, e) q :=
  Tallied.trans ⟨hx, g.now, g.out, g.memory rfl, by rw [g.dockOf]⟩ h

/-- Sums that enter the tally queue. -/
theorem tallied_enter (s : Nat) (y : TallyTile) (x : Stream) (e : Eng) :
    Tallied s (x, e) (x, onDock s (fun d => { d with tally := d.tally ++ [y] }) e) :=
  ⟨rfl, rfl, rfl, sameMemory_onDock .., by rw [dockOf_onDock_same]⟩

/-- The sums of a tile enter the tally queue, or overrun it (R155, R156). -/
def enterTile (s slot t : Nat) (x : Stream) (sums : List TallySum) (e : Eng) : Stream × Eng :=
  let zeros : List TallySum := sums.map fun _ => ⟨0, true, true⟩
  let enter (ys : List TallySum) (e : Eng) : Eng :=
    onDock s (fun d => { d with tally := d.tally ++ [⟨t + 1, slot, ys⟩] }) e
  let u := if x.poisoned then e else bumpBy (sums.filter sumWraps).length (stIdx s 0x11) 5 e
  if 8192 < ((dockOf e s).tally.map (·.sums.length)).sum + sums.length then
    ({ x with tile := [] }, raise s 0 (bump (stIdx s 0x11) 4 (enter zeros u)))
  else ({ x with tile := [] }, enter (if x.poisoned then zeros else sums.map tallySum) u)

theorem closeTile_enters (s slot t : Nat) (x : Stream) (e : Eng) :
    ∃ sums, closeTile s slot t x e = enterTile s slot t x sums e := ⟨_, rfl⟩

theorem closeTile_tallied (s slot t : Nat) (x : Stream) (e : Eng) : Tallied s (x, e) (closeTile s slot t x e) := by
  obtain ⟨sums, h⟩ := closeTile_enters s slot t x e
  have hwraps : Aside false e (if x.poisoned then e else bumpBy (sums.filter sumWraps).length (stIdx s 0x11) 5 e) :=
    .ite (fun _ => .refl ..) fun _ => (Aside.refl ..).bumpBy ..
  rw [h]
  simp only [enterTile]
  split
  · exact ((tallied_enter ..).aside (((Aside.refl ..).bump ..).raise ..)).before hwraps rfl
  · exact (tallied_enter ..).before hwraps rfl

theorem tallyElem_tallied (s slot t : Nat) (last : Bool) (m : Nat) (value : Int) (pois : Bool) (p : Stream × Eng) :
    Tallied s p (tallyElem s slot t last m value pois p) := by
  simp only [tallyElem]
  split
  · exact (closeTile_tallied ..).before (.refl ..) rfl
  · exact (Tallied.refl ..).before (.refl ..) rfl

theorem tallyBeat_tallied (s slot : Nat) (r : StreamRec) (b t data pois : Nat) (x : Stream) (e : Eng) :
    Tallied s (x, e) (tallyBeat s slot r b t data pois x e) := by
  rw [tallyBeat]
  split
  · exact .refl ..
  · refine foldl_related (.refl s) .trans (fun p m _ => ?_) _
    dsimp only
    split
    · exact tallyElem_tallied ..
    · exact .refl ..

theorem tallyBeat_off {x : Stream} (h : x.sel = 0) (s slot : Nat) (r : StreamRec) (b t data pois : Nat) (e : Eng) :
    tallyBeat s slot r b t data pois x e = (x, e) := by rw [tallyBeat, if_pos h]

/-! ### Operand intervals -/

/-- Beats leave a station's operand ports: the data beat last, and nothing else changes (R152, R197). -/
theorem deliver_emits (s t data pois lane lanePois laneBits : Nat) (e : Eng) : ∃ lanes,
    deliver s t data pois lane lanePois laneBits e = { e with out := .opd s t data pois :: (lanes ++ e.out) } := by
  have hlanes (k : Nat) (js : List Nat) (e : Eng) : ∃ lanes, js.foldl (fun e j => if 256 * j < laneBits then
      emit (.ops s (t + 1 + j - k) (bits lane (256 * j) 256) (bits lanePois (8 * j) 8)) e else e) e =
        { e with out := lanes ++ e.out } :=
    foldl_related (R := fun a b : Eng => ∃ lanes, b = { a with out := lanes ++ a.out }) (fun _ => ⟨[], rfl⟩)
      (fun {a b c} ⟨l, hb⟩ ⟨m, hc⟩ => ⟨m ++ l, by rw [hc, hb, List.append_assoc]⟩)
      (fun e j _ => by
        split
        · exact ⟨[_], rfl⟩
        · exact ⟨[], rfl⟩) e
  obtain ⟨lanes, h⟩ := hlanes (max 1 ((laneBits + 255) / 256)) (below (max 1 ((laneBits + 255) / 256))) e
  exact ⟨lanes, by simp only [deliver, h]; rfl⟩

/-- What a beat of a sound operand stream works out to over the bytes as they are read (R151). -/
def readWork (e : Eng) (s : Nat) (r : StreamRec) (x : Stream) (b : Nat) : List (Nat × Work) :=
  beatWork e s r x b fun a => ((operandByte e s r x (beatUses r b) a).1, (operandByte e s r x (beatUses r b) a).2.1)

/-- What it works out to with the missing bytes for poisoned ones (R195). -/
def lostWork (e : Eng) (s : Nat) (r : StreamRec) (x : Stream) (b : Nat) : List (Nat × Work) :=
  beatWork e s r x b fun a => ((operandByte e s r x (beatUses r b) a).1, (operandByte e s r x (beatUses r b) a).2.2)

/-- The words of the data beat `b` that rest on missing bytes (R195). -/
def lostWords (e : Eng) (s : Nat) (r : StreamRec) (x : Stream) (b : Nat) : Nat :=
  (assemble (sumWork (lostWork e s r x b)).atoms ((beatBytes r.portFmt false * b : Nat) : Int)
    (beatBytes r.portFmt false)).2

/-- The data beat `b` of a sound operand stream with the poison of its words, before missing bytes are seen to
(R151). -/
def readBeat (e : Eng) (s : Nat) (r : StreamRec) (x : Stream) (b : Nat) : Nat × Nat :=
  assemble (sumWork (readWork e s r x b)).atoms ((beatBytes r.portFmt false * b : Nat) : Int)
    (beatBytes r.portFmt false)

/-- What the data beat `b` of a sound operand stream carries: zero in the words that rest on missing bytes (R195). -/
def beatData (e : Eng) (s : Nat) (r : StreamRec) (x : Stream) (b : Nat) : Nat :=
  clearWords 128 (readBeat e s r x b).1 (lostWords e s r x b)

/-- The poison of its words. -/
def beatPois (e : Eng) (s : Nat) (r : StreamRec) (x : Stream) (b : Nat) : Nat :=
  (readBeat e s r x b).2 ||| lostWords e s r x b

/-- What the lane beats of the interval carry: the entries, and the poison of their words (R152, R195). -/
def laneValue (e : Eng) (s : Nat) (r : StreamRec) (x : Stream) (b : Nat) : Nat × Nat :=
  let (entries, pois, _) := laneStream r (sumWork (readWork e s r x b)) b
  let gone := (laneStream r (sumWork (lostWork e s r x b)) b).2.1
  (clearWords (((beatGroups r b).length * r.laneWidth + 31) / 32) entries gone, pois ||| gone)

/-- Missing bytes of an interval are counted and are an event of its stream (R195). -/
def noteMissing (s : Nat) (r : StreamRec) (x : Stream) (e : Eng) : Eng :=
  if (beatUses r x.beat).any fun u => (operandByte e s r x (beatUses r x.beat) u.1).2.2 then
    streamEvent s r.id .poisoned 0x3F32 (bump (stIdx s 0x30) 8 e)
  else e

/-- The beats of an interval leave, and what its own elements saturate or lose is counted (R157). -/
def leaveBeat (s : Nat) (r : StreamRec) (x : Stream) (t : Nat) (e : Eng) : Eng :=
  let b := x.beat
  let lane := laneValue e s r x b
  let own := sumWork ((readWork e s r x b).filter fun w => (beatRange r b).1 ≤ w.1 && w.1 < (beatRange r b).2)
  deliver s t (beatData e s r x b) (beatPois e s r x b) lane.1 lane.2 ((beatGroups r b).length * r.laneWidth) e |>
    bumpBy own.sats (stIdx s 0x10) 1 |> bumpBy own.nans (stIdx s 0x10) 4 |> noteMissing s r x

/-- The last ARCLK of the interval of data beat `b` (R197). -/
def intervalEnd (r : StreamRec) (x : Stream) (b : Nat) : Nat :=
  x.started.getD 0 + startLatency r.decode (emptyChain x.profile) + interval r * (b + 1) - 1

/-- An interval's stream once its beat has left: a beat further, and with the last one its end posted (R197, R201). -/
def settleInterval (s slot t read : Nat) (r : StreamRec) (b : Nat) (x : Stream) (e : Eng) : Eng :=
  let y := { x with beat := b + 1, done := b + 1 == r.beats }
  let e := onDock s (setStream slot y) e
  if b + 1 == r.beats then settleTally s slot (postEnd s slot (max t read) e) else e

/-- What comes once a sound stream's beat has left: the tally, the bytes passed on, and the references and sectors no
longer needed (R154, R174, R193, R206). -/
def closeInterval (s slot t : Nat) (r : StreamRec) (b data pois : Nat) (x : Stream) (e : Eng) : Eng :=
  let (x, e) := tallyBeat s slot r b t data pois x e
  let e := if r.pass then (passBytes r b).foldl (fun e a => passOn s r a (poolRead e a 1) e) e else e
  let (x, e) := finishBlocks s r x (beatRange r b).2 e
  settleInterval s slot t (if r.pass then x.started.getD 0 + 16 + interval r * b + 40 else 0) r b (consume r b x) e

section
variable {s slot : Nat} {x : Stream} {e : Eng}

/-- A started operand stream whose next interval can be delivered (R197). -/
structure Delivers (s slot : Nat) (x : Stream) (e : Eng) : Prop where
  stream : streamOf (dockOf e s) slot = some x
  operand : (recOf (dockOf e s) slot).kind = 1
  started : x.started ≠ none
  running : x.cancelAt = none
  undone : x.done = false
  left : x.beat < (recOf (dockOf e s) slot).beats
  decoded : (recOf (dockOf e s) slot).decode = true → x.poisoned = true ∨
    (beatRange (recOf (dockOf e s) slot) x.beat).2 * (recOf (dockOf e s) slot).view.fmt.width / 8 ≤ 4096 * x.nextBlock

/-- Whether one of the conditions holds under which an interval does not come. -/
def withheld (r : StreamRec) (x : Stream) : Bool :=
  decide (r.kind ≠ 1) || x.started.isNone || x.cancelAt.isSome || x.done || decide (r.beats ≤ x.beat) ||
    !(!r.decode || x.poisoned || decide ((beatRange r x.beat).2 * r.view.fmt.width / 8 ≤ 4096 * x.nextBlock))

theorem Delivers.comes (h : Delivers s slot x e) : withheld (recOf (dockOf e s) slot) x = false := by
  have hready : (!(recOf (dockOf e s) slot).decode || x.poisoned ||
      decide ((beatRange (recOf (dockOf e s) slot) x.beat).2 *
        (recOf (dockOf e s) slot).view.fmt.width / 8 ≤ 4096 * x.nextBlock)) = true := by
    cases hd : (recOf (dockOf e s) slot).decode
    · rfl
    · simpa using h.decoded hd
  have hs : x.started.isNone = false := Option.isNone_eq_false_iff.mpr (Option.isSome_iff_ne_none.mpr h.started)
  rw [withheld, hready, hs, h.running, h.undone, decide_eq_false (not_not.mpr h.operand),
    decide_eq_false (Nat.not_le.mpr h.left)]
  rfl

theorem operandInterval_poisoned (h : Delivers s slot x e) (hp : x.poisoned = true) :
    let r := recOf (dockOf e s) slot
    let t := intervalEnd r x x.beat
    ∃ lanePois laneBits,
      let q := tallyBeat s slot r x.beat t 0 (2 ^ 128 - 1) x
        (deliver s t 0 (2 ^ 128 - 1) 0 lanePois laneBits (advanceCycle t e))
      operandInterval s slot e = settleInterval s slot t 0 r x.beat q.1 q.2 := by
  exact ⟨_, _, by
    rw [operandInterval, h.stream]
    change (if withheld (recOf (dockOf e s) slot) x = true then e else if x.poisoned = true then _ else _) = _
    rw [if_neg (by rw [h.comes]; nofun), if_pos hp]
    rfl⟩

/-- A sound stream's interval: its beat leaves, and the interval is closed. -/
theorem operandInterval_sound (h : Delivers s slot x e) (hp : x.poisoned = false) :
    let r := recOf (dockOf e s) slot
    let t := intervalEnd r x x.beat
    let u := advanceCycle t e
    operandInterval s slot e = closeInterval s slot t r x.beat (beatData u s r x x.beat) (beatPois u s r x x.beat) x
      (leaveBeat s r x t u) := by
  rw [operandInterval, h.stream]
  change (if withheld (recOf (dockOf e s) slot) x = true then e else if x.poisoned = true then _ else _) = _
  rw [if_neg (by rw [h.comes]; nofun), if_neg (by rw [hp]; nofun)]
  rfl

end

theorem noteMissing_aside (s : Nat) (r : StreamRec) (x : Stream) (e : Eng) : Aside false e (noteMissing s r x e) :=
  .ite (fun _ => ((Aside.refl ..).bump ..).streamEvent ..) fun _ => .refl ..

/-- The data beat of a sound stream is the last thing to leave its ports in its interval. -/
theorem leaveBeat_emits (s : Nat) (r : StreamRec) (x : Stream) (t : Nat) (e : Eng) : ∃ lanes, Aside false
    { e with out := .opd s t (beatData e s r x x.beat) (beatPois e s r x x.beat) :: (lanes ++ e.out) }
    (leaveBeat s r x t e) := by
  obtain ⟨lanes, h⟩ := deliver_emits s t (beatData e s r x x.beat) (beatPois e s r x x.beat)
    (laneValue e s r x x.beat).1 (laneValue e s r x x.beat).2 ((beatGroups r x.beat).length * r.laneWidth) e
  refine ⟨lanes, ?_⟩
  rw [leaveBeat, h]
  exact (((Aside.refl ..).bumpBy ..).bumpBy ..).trans (noteMissing_aside ..)

theorem passOn_aside (s : Nat) (r : StreamRec) (addr : Nat) (bs : List (Byte × Bool)) (e : Eng) :
    Aside true e (passOn s r addr bs e) := Aside.foldl (fun _ _ _ => (Aside.refl ..).poolWrite ..) e

theorem finishBlocks_keeps (s : Nat) (r : StreamRec) (x : Stream) (hi : Nat) (e : Eng) :
    (finishBlocks s r x hi e).1.cancelAt = x.cancelAt ∧ Aside false e (finishBlocks s r x hi e).2 := by
  rw [finishBlocks]
  split
  · exact ⟨rfl, .refl ..⟩
  · refine ⟨rfl, Aside.foldl (fun e d _ => ?_) e⟩
    split
    · exact (dropRef_only ..).aside
    · exact .refl ..

/-- A station's data beat `o` has left, and the rest of its interval but for the stream itself is done: what has changed
since `e`. -/
structure BeatLeft (s : Nat) (x : Stream) (o : PortOut) (pass : Bool) (e : Eng) (y : Stream) (u : Eng) : Prop where
  cancelAt : y.cancelAt = x.cancelAt
  now : u.now = e.now
  out : ∃ lanes, u.out = o :: (lanes ++ e.out)
  memory : pass = false → sameMemory e u
  committed : (dockOf u s).committed = (dockOf e s).committed
  tally : x.sel = 0 → (dockOf u s).tally = (dockOf e s).tally

/-- A beat leaves, its tally is taken, and the rest stays aside of the docks. -/
theorem BeatLeft.of_tally {s slot : Nat} {r : StreamRec} {b t data pois : Nat} {x y : Stream} {o : PortOut}
    {pass : Bool} {e u v : Eng} {lanes : List PortOut} (hu : Aside false { e with out := o :: (lanes ++ e.out) } u)
    (hy : y.cancelAt = (tallyBeat s slot r b t data pois x u).1.cancelAt)
    (hv : Aside pass (tallyBeat s slot r b t data pois x u).2 v) : BeatLeft s x o pass e y v where
  cancelAt := hy.trans (tallyBeat_tallied ..).cancelAt
  now := hv.now.trans ((tallyBeat_tallied ..).now.trans hu.now)
  out := ⟨lanes, hv.out.trans ((tallyBeat_tallied ..).out.trans hu.out)⟩
  memory hp := .trans (.trans (sameMemory_withOut ..) (hu.memory rfl))
    (.trans (tallyBeat_tallied ..).memory (hv.memory hp))
  committed := by
    rw [hv.dockOf, (tallyBeat_tallied ..).committed, hu.dockOf]
    rfl
  tally hs := by
    rw [hv.dockOf, tallyBeat_off hs, hu.dockOf]
    rfl

section
variable {s slot : Nat} {x : Stream} {e : Eng}

theorem closeInterval_settles (s slot t : Nat) (r : StreamRec) (b data pois : Nat) (x : Stream) (e : Eng) :
    ∃ y u read, closeInterval s slot t r b data pois x e = settleInterval s slot t read r b y u ∧
      y.cancelAt = (tallyBeat s slot r b t data pois x e).1.cancelAt ∧
      Aside r.pass (tallyBeat s slot r b t data pois x e).2 u := by
  have hpass (q : Eng) : Aside r.pass q
      (if r.pass then (passBytes r b).foldl (fun e a => passOn s r a (poolRead e a 1) e) q else q) :=
    .ite (fun hp => hp ▸ .foldl (fun _ _ _ => passOn_aside ..) q) fun _ => .refl ..
  obtain ⟨hc, ha⟩ := finishBlocks_keeps s r (tallyBeat s slot r b t data pois x e).1 (beatRange r b).2
    (if r.pass then (passBytes r b).foldl (fun e a => passOn s r a (poolRead e a 1) e)
      (tallyBeat s slot r b t data pois x e).2 else (tallyBeat s slot r b t data pois x e).2)
  exact ⟨_, _, _, rfl, hc, (hpass _).trans (ha.weaken _)⟩

/-- An interval that comes delivers its data beat at its last ARCLK, and is then settled. -/
theorem operandInterval_settles (h : Delivers s slot x e) :
    let r := recOf (dockOf e s) slot
    let t := intervalEnd r x x.beat
    let u := advanceCycle t e
    ∃ y v read, operandInterval s slot e = settleInterval s slot t read r x.beat y v ∧
      BeatLeft s x (if x.poisoned then .opd s t 0 (2 ^ 128 - 1)
        else .opd s t (beatData u s r x x.beat) (beatPois u s r x x.beat)) r.pass u y v := by
  cases hp : x.poisoned
  · obtain ⟨lanes, hl⟩ := leaveBeat_emits s (recOf (dockOf e s) slot) x
      (intervalEnd (recOf (dockOf e s) slot) x x.beat)
      (advanceCycle (intervalEnd (recOf (dockOf e s) slot) x x.beat) e)
    obtain ⟨y, v, read, hs, hc, ha⟩ := closeInterval_settles ..
    exact ⟨y, v, read, (operandInterval_sound h hp).trans hs, .of_tally hl hc ha⟩
  · obtain ⟨lanePois, laneBits, ho⟩ := operandInterval_poisoned h hp
    obtain ⟨lanes, hl⟩ := deliver_emits ..
    exact ⟨_, _, _, ho, .of_tally (lanes := lanes) (by rw [hl]; exact .refl ..) rfl (.refl ..)⟩

end

/-! ### The end of an interval -/

section
variable {s slot t read : Nat} {r : StreamRec} {b : Nat} {y : Stream} {u : Eng}

theorem settleTally_frame (s slot : Nat) (e : Eng) : (settleTally s slot e).now = e.now ∧
    (settleTally s slot e).out = e.out ∧ sameMemory e (settleTally s slot e) ∧
      otherDocks s e (settleTally s slot e) := by
  rcases settleTally_cases s slot e with h | h
  · rw [h]
    exact ⟨rfl, rfl, sameMemory_refl e, fun _ _ => rfl⟩
  · exact ⟨h.aside.now, h.aside.out, .trans (sameMemory_onDock ..) (h.aside.memory rfl),
      .trans (otherDocks_onDock _ _ _) (otherDocks_of_docks h.aside.docks)⟩

/-- What settles an interval leaves the clock, the ports and memory alone. -/
theorem settleInterval_frame (s slot t read : Nat) (r : StreamRec) (b : Nat) (y : Stream) (u : Eng) :
    (settleInterval s slot t read r b y u).now = u.now ∧ (settleInterval s slot t read r b y u).out = u.out ∧
      sameMemory u (settleInterval s slot t read r b y u) := by
  have hdock : sameMemory u (onDock s (setStream slot { y with beat := b + 1, done := b + 1 == r.beats }) u) :=
    sameMemory_onDock ..
  simp only [settleInterval]
  split
  · obtain ⟨pn, po, pm, -⟩ := postEnd_frame s slot (max t read)
      (onDock s (setStream slot { y with beat := b + 1, done := b + 1 == r.beats }) u)
    obtain ⟨gn, go, gm, -⟩ := settleTally_frame s slot (postEnd s slot (max t read)
      (onDock s (setStream slot { y with beat := b + 1, done := b + 1 == r.beats }) u))
    exact ⟨gn.trans pn, go.trans po, hdock.trans (pm.trans gm)⟩
  · exact ⟨rfl, rfl, hdock⟩

theorem settleInterval_continues (h : b + 1 < r.beats) :
    streamOf (dockOf (settleInterval s slot t read r b y u) s) slot = some { y with beat := b + 1, done := false } := by
  have hne : (b + 1 == r.beats) = false := beq_false_of_ne (Nat.ne_of_lt h)
  simp only [settleInterval, hne, Bool.false_eq_true, if_false, dockOf_onDock_same, streamOf_setStream_same]

/-- The dock of a stream that has delivered its last data beat, before its tally is settled. -/
theorem postEnd_dock (s slot at_ : Nat) (z : Stream) (u : Eng) : ∃ posts,
    dockOf (postEnd s slot at_ (onDock s (setStream slot z) u)) s =
      { setStream slot z (dockOf u s) with posts := posts } := by
  obtain ⟨-, -, -, hd⟩ := postEnd_frame s slot at_ (onDock s (setStream slot z) u)
  exact ⟨_, (hd s).trans (by rw [dockOf_onDock_same])⟩

theorem settleInterval_last (h : b + 1 = r.beats) : settleInterval s slot t read r b y u = settleTally s slot
    (postEnd s slot (max t read) (onDock s (setStream slot { y with beat := b + 1, done := true }) u)) := by
  have heq : (b + 1 == r.beats) = true := beq_iff_eq.mpr h
  simp only [settleInterval, heq, if_true]

theorem settleInterval_done (h : b + 1 = r.beats) {z : Stream}
    (hz : streamOf (dockOf (settleInterval s slot t read r b y u) s) slot = some z) : z.done = true := by
  rw [settleInterval_last h] at hz
  obtain ⟨posts, hd⟩ := postEnd_dock s slot (max t read) { y with beat := b + 1, done := true } u
  rcases settleTally_cases s slot (postEnd s slot (max t read)
    (onDock s (setStream slot { y with beat := b + 1, done := true }) u)) with hs | hs
  · rw [hs, hd] at hz
    exact Option.some.inj ((streamOf_setStream_same ..).symm.trans hz) ▸ rfl
  · rw [hs.aside.dockOf, dockOf_onDock_same, streamOf_dropStream_same] at hz
    exact nomatch hz

/-- A stream with no tally sums to come is gone with its last data beat (R197). -/
theorem settleInterval_gone (h : b + 1 = r.beats) (hc : y.cancelAt = none) (hk : (recOf (dockOf u s) slot).kind = 1)
    (ht : ∀ q ∈ (dockOf u s).tally, q.slot ≠ slot) :
    streamOf (dockOf (settleInterval s slot t read r b y u) s) slot = none := by
  rw [settleInterval_last h]
  obtain ⟨posts, hd⟩ := postEnd_dock s slot (max t read) { y with beat := b + 1, done := true } u
  have hs := settleTally_settled (s := s) (slot := slot) (x := { y with beat := b + 1, done := true })
    (e := postEnd s slot (max t read) (onDock s (setStream slot { y with beat := b + 1, done := true }) u))
    (by rw [hd]; exact streamOf_setStream_same ..) rfl hc (by rw [hd]; exact hk) (by rw [hd]; exact ht)
  rw [hs.aside.dockOf, dockOf_onDock_same, streamOf_dropStream_same]

end

theorem intervalEnd_started {c : Nat} {x : Stream} (h : x.started = some c) (r : StreamRec) (b : Nat) :
    intervalEnd r x b = c + startLatency r.decode (emptyChain x.profile) + interval r * (b + 1) - 1 := by
  rw [intervalEnd, h]
  rfl

/-! ### Blocks that enter the expander -/

/-- What the expander makes of the next block of a stream, by the header it finds (R167 to R169, R195). -/
def blockMade (e : Eng) (s : Nat) (r : StreamRec) (x : Stream) : Option (Nat × BlockCheck) → Decoded
  | none => zeroBlock x.nextBlock true true
  | some (h, c) => expandBlock e s x.nextBlock (placeBytes e s r x x.nextBlock)
      (if r.inStack then 32 * storeGet (fun _ => 0) x.lens x.nextBlock else 4096) h c

theorem expandBlock_block (e : Eng) (s k : Nat) (place : Nat → List PayloadByte) (limit h : Nat) (c : BlockCheck) :
    (expandBlock e s k place limit h c).block = k := by
  cases c with
  | coded slot =>
    simp only [expandBlock]
    split <;> rfl
  | stored => rfl
  | mismatch => rfl
  | poisoned => rfl

theorem blockMade_block (e : Eng) (s : Nat) (r : StreamRec) (x : Stream) (hc : Option (Nat × BlockCheck)) :
    (blockMade e s r x hc).block = x.nextBlock := by
  cases hc with
  | none => rfl
  | some q => exact expandBlock_block ..

theorem takeHeader_aside (s x : Nat) (poisoned : Bool) (e : Eng) : Aside false e (takeHeader s x poisoned e).2 := by
  rw [takeHeader]
  split
  · exact .refl ..
  · dsimp only
    split
    · exact (Aside.refl ..).setReg ..
    · exact (((Aside.refl ..).setReg ..).bump ..).raise ..
    · exact .refl ..

theorem blockHeader_aside (s : Nat) (r : StreamRec) (x : Stream) (k : Nat) (e : Eng) :
    Aside false e (blockHeader s r x k e).2 := by
  rw [blockHeader]
  split
  · split <;> exact .refl ..
  · exact takeHeader_aside ..

theorem countBlock_aside (s : Nat) (c : BlockCheck) (d : Decoded) (e : Eng) : Aside false e (countBlock s c d e) := by
  have hkind : Aside false e (match c with
      | .coded _ => bump (stIdx s 0x28) 1 e
      | .stored => bump (stIdx s 0x28) 2 e
      | _ => e) := by
    split
    · exact (Aside.refl ..).bump ..
    · exact (Aside.refl ..).bump ..
    · exact .refl ..
  exact .ite (fun _ => hkind.bump ..) fun _ => hkind

section
variable {s slot c : Nat} {x : Stream} {e : Eng}

theorem blockInput_enters (h : streamOf (dockOf e s) slot = some x) (hd : (recOf (dockOf e s) slot).decode = true)
    (hk : (recOf (dockOf e s) slot).kind = 1) (hs : x.started = some c) (hc : x.cancelAt = none)
    (hp : x.poisoned = false) (hb : x.nextBlock < (recOf (dockOf e s) slot).view.blocks) :
    let r := recOf (dockOf e s) slot
    let t := blockDue r x x.nextBlock
    let p := blockHeader s r x x.nextBlock (advanceCycle t e)
    let d := blockMade p.2 s r x p.1
    let k := (p.1.map (·.2)).getD .poisoned
    ∃ checks landed a bs b cs,
      let v := onDock s
        (setStream slot { x with nextBlock := x.nextBlock + 1, decoded := x.decoded ++ [d], checks, landed })
        (noteInput s t (if p.1.isSome then countBlock s k d p.2 else p.2))
      blockInput s slot e = if r.pass then passOn s r b cs (passOn s r a bs v) else v := by
  exact ⟨_, _, _, _, _, _, by
    rw [blockInput, h]
    change (if (!(recOf (dockOf e s) slot).decode || decide ((recOf (dockOf e s) slot).kind ≠ 1) ||
      x.started.isNone || x.cancelAt.isSome || x.poisoned ||
      decide ((recOf (dockOf e s) slot).view.blocks ≤ x.nextBlock)) = true then e
      else _) = _
    rw [if_neg (by simp [hd, hk, hs, hc, hp, hb])]
    rfl⟩

/-- The next block of a started stream enters the expander in its turn (R170, R197). -/
theorem blockInput_takes (h : streamOf (dockOf e s) slot = some x) (hd : (recOf (dockOf e s) slot).decode = true)
    (hk : (recOf (dockOf e s) slot).kind = 1) (hs : x.started = some c) (hc : x.cancelAt = none)
    (hp : x.poisoned = false) (hb : x.nextBlock < (recOf (dockOf e s) slot).view.blocks) :
    ∃ y blk u, Aside (recOf (dockOf e s) slot).pass
        (onDock s (setStream slot y) (noteInput s (blockDue (recOf (dockOf e s) slot) x x.nextBlock) u))
        (blockInput s slot e) ∧
      Aside false (advanceCycle (blockDue (recOf (dockOf e s) slot) x x.nextBlock) e) u ∧
      y.nextBlock = x.nextBlock + 1 ∧ y.decoded = x.decoded ++ [blk] ∧ blk.block = x.nextBlock := by
  obtain ⟨checks, landed, a, bs, b, cs, hin⟩ := blockInput_enters h hd hk hs hc hp hb
  exact ⟨_, _, _, by
      rw [hin]
      exact .ite (fun hpass => hpass ▸ (passOn_aside ..).trans (passOn_aside ..)) fun _ => .refl ..,
    .trans (blockHeader_aside ..) (.ite (fun _ => countBlock_aside ..) fun _ => .refl ..), rfl, rfl, blockMade_block ..⟩

/-- What a block that enters changes: its stream, and in Pass mode the next station's Pool (R206). -/
theorem blockInput_frame (h : streamOf (dockOf e s) slot = some x) (hd : (recOf (dockOf e s) slot).decode = true)
    (hk : (recOf (dockOf e s) slot).kind = 1) (hs : x.started = some c) (hc : x.cancelAt = none)
    (hp : x.poisoned = false) (hb : x.nextBlock < (recOf (dockOf e s) slot).view.blocks) :
    let r := recOf (dockOf e s) slot
    let u := blockInput s slot e
    ∃ y blk, streamOf (dockOf u s) slot = some y ∧ y.nextBlock = x.nextBlock + 1 ∧ y.decoded = x.decoded ++ [blk] ∧
      blk.block = x.nextBlock ∧
      u.now = max e.now (e.spBase.getD 0 + (c + 16 + 8 * interval r * x.nextBlock)) ∧ u.out = e.out ∧
      otherDocks s e u ∧ (r.pass = false → sameMemory e u) := by
  obtain ⟨y, blk, v, ha, hv, hn, hblk, hk'⟩ := blockInput_takes h hd hk hs hc hp hb
  have hdue : blockDue (recOf (dockOf e s) slot) x x.nextBlock =
      c + 16 + 8 * interval (recOf (dockOf e s) slot) * x.nextBlock := by
    rw [blockDue, hs]
    rfl
  rw [hdue] at ha hv
  refine ⟨y, blk, ?_, hn, hblk, hk', ha.now.trans hv.now, ha.out.trans hv.out, ?_, fun hpass => ?_⟩
  · rw [ha.dockOf, dockOf_onDock_same, streamOf_setStream_same]
  · exact .trans (.trans (otherDocks_of_docks hv.docks) (.trans (otherDocks_onDock _ _ _) (otherDocks_onDock _ _ _)))
      (otherDocks_of_docks ha.docks)
  · exact .trans (.trans (.trans (sameMemory_advanceCycle ..) (hv.memory rfl))
      (.trans (sameMemory_onDock ..) (sameMemory_onDock ..))) (ha.memory hpass)

end

/-! ### The last sums of a tile -/

theorem settleTally_dock (s slot : Nat) (e : Eng) : dockOf (settleTally s slot e) s = dockOf e s ∨
    dockOf (settleTally s slot e) s = dropStream slot (dockOf e s) := by
  rcases settleTally_cases s slot e with h | h
  · exact .inl (by rw [h])
  · exact .inr (by rw [h.aside.dockOf, dockOf_onDock_same])

theorem out_emit (o : PortOut) (e : Eng) : (emit o e).out = o :: e.out := rfl

theorem dockOf_emit (o : PortOut) (e : Eng) (q : Nat) : dockOf (emit o e) q = dockOf e q := rfl

theorem otherDocks_emit (s : Nat) (o : PortOut) (e : Eng) : otherDocks s e (emit o e) := fun _ _ => rfl

/-- Once a tile's last sums have left, its stream may be gone, and no other slot has changed (R155, R197). -/
theorem lastSums_frame (o : PortOut) (s : Nat) (y : TallyTile) (rest : List TallyTile) (e : Eng) :
    let u := emit o (tallyLeft s y rest [] e)
    u.now = max e.now (e.spBase.getD 0 + max y.at_ (dockOf e s).tallyFree) ∧ u.out = o :: e.out ∧ otherDocks s e u ∧
      sameMemory e u ∧ (dockOf u s).tally = rest ∧ (dockOf u s).tallyFree = max y.at_ (dockOf e s).tallyFree + 1 ∧
      ∀ k, k ≠ y.slot → streamOf (dockOf u s) k = streamOf (dockOf e s) k := by
  obtain ⟨fn, fo, fm, fd⟩ := settleTally_frame s y.slot (tileLeft s y rest e)
  have hother : otherDocks s e (tileLeft s y rest e) := fun q hq => by
    rw [tileLeft, dockOf_onDock_other hq, dockOf_onDock_other hq]
    rfl
  have hmem : sameMemory e (tileLeft s y rest e) :=
    .trans (sameMemory_advanceCycle ..) (.trans (sameMemory_onDock ..) (sameMemory_onDock ..))
  have hdock := tileLeft_dock s y rest e
  simp only [tallyLeft_last, dockOf_emit, emit_now, out_emit]
  refine ⟨fn.trans (tileLeft_now ..), congrArg (List.cons o) fo, (hother.trans fd).trans (otherDocks_emit _ _ _),
    (hmem.trans fm).trans (sameMemory_withOut ..), ?_⟩
  rcases settleTally_dock s y.slot (tileLeft s y rest e) with h | h
  · rw [h, hdock]
    exact ⟨rfl, rfl, fun _ _ => rfl⟩
  · rw [h, hdock]
    exact ⟨rfl, rfl, fun _ hk => streamOf_dropStream_other hk _⟩

/-- A stream that has delivered its last data beat is gone with its last sums (R197). -/
theorem lastSums_gone {s : Nat} {y : TallyTile} {rest : List TallyTile} {x : Stream} {e : Eng}
    (h : streamOf (dockOf e s) y.slot = some x) (hd : x.done = true) (hc : x.cancelAt = none)
    (hk : (recOf (dockOf e s) y.slot).kind = 1) (ht : ∀ q ∈ rest, q.slot ≠ y.slot) (o : PortOut) :
    streamOf (dockOf (emit o (tallyLeft s y rest [] e)) s) y.slot = none := by
  have hdock := tileLeft_dock s y rest e
  have hs := settleTally_settled (e := tileLeft s y rest e) (by rw [hdock]; exact h) hd hc (by rw [hdock]; exact hk)
    (by rw [hdock]; exact ht)
  rw [dockOf_emit, tallyLeft_last, hs.aside.dockOf, dockOf_onDock_same, streamOf_dropStream_same]

/-- Sums leave a tile that holds more: nothing changes but the tally queue, the clock and the ports (R155). -/
theorem someSums_frame {left : List TallySum} (h : left ≠ []) (o : PortOut) (s : Nat) (y : TallyTile)
    (rest : List TallyTile) (e : Eng) :
    let u := emit o (tallyLeft s y rest left e)
    let t := max y.at_ (dockOf e s).tallyFree
    u = { e with now := u.now, docks := u.docks, out := u.out } ∧ u.now = max e.now (e.spBase.getD 0 + t) ∧
      u.out = o :: e.out ∧ otherDocks s e u ∧ sameMemory e u ∧
      dockOf u s = { dockOf e s with tallyFree := t + 1, tally := { y with sums := left } :: rest } := by
  rw [tallyLeft_more h]
  refine ⟨rfl, rfl, rfl, fun q hq => ?_, ?_, ?_⟩
  · rw [dockOf_emit, dockOf_onDock_other hq, dockOf_onDock_other hq]
    rfl
  · exact .trans (sameMemory_advanceCycle ..) (.trans (sameMemory_onDock ..) (.trans (sameMemory_onDock ..)
      (sameMemory_withOut ..)))
  · rw [dockOf_emit, dockOf_onDock_same, dockOf_onDock_same]
    rfl

/-! ### The commands -/

theorem exec_operandInterval {s : Fin 48} {slot : Fin 128} {st : State} {u : Eng}
    (h : operandInterval s.val slot.val st.eng = u) : exec (.operandInterval s slot) st = .next { st with eng := u } :=
  congrArg (fun e => Host.Outcome.next ({ st with eng := e } : State)) h

theorem exec_tallyLaneBeat {s : Fin 48} {st : State} {u : Eng} (h : tallyLaneBeat s.val st.eng = u) :
    exec (.tallyLaneBeat s) st = .next { st with eng := u } :=
  congrArg (fun e => Host.Outcome.next ({ st with eng := e } : State)) h

end Sys2Proof.Machine

namespace Sys2Proof.Proofs

open Sys2Proof Sys2Proof.Machine

/-- Settles O39: each clause is what its command does (the lemmas on the commands above) with the frame of the step that
it takes. -/
theorem streamsMove : Obligations.StreamsMove := by
  intro s st i d base
  refine ⟨fun c data => ⟨fun h => exec_resultBeat_unseen h c data, fun hr hu hn => ?_,
    fun hr hu slot x ho _ hsp hlast => ?_, fun hr hu slot x ho _ hlt => ?_⟩, fun slot x c hx => ?_,
    fun h => exec_tallyLaneBeat (tallyLaneBeat_idle h), fun y rest a more hd hy => ?_, fun slot x c hx => ?_,
    exec_staticSectorLand_idle, fun f rest x hf hx hu => ?_⟩
  · obtain ⟨hcount, hsame, heng⟩ := lostBeat_frame s.isLt c st.eng
    exact ⟨_, exec_resultBeat_lost hr hu hn data, hcount, hsame,
      congrArg (fun e => ({ st with eng := e } : State)) heng⟩
  · exact ⟨_, exec_resultBeat_taken hr hu ho data, resultBeat_ends hsp hlast data⟩
  · obtain ⟨y, hy, hb, hothers, htaken, hspoilt⟩ := resultBeat_continues (s := s.val) (c := c) hlt data
    exact ⟨_, y, exec_resultBeat_taken hr hu ho data, hy, hb, hothers, htaken.trans (acceptedBeat_taken ..), hspoilt⟩
  · intro r b at_ n e' byte hk hs hc hdone hb hdec
    obtain ⟨y, v, read, hset, hl⟩ := operandInterval_settles ⟨hx, hk, by rw [hs]; nofun, hc, hdone, hb, hdec⟩
    rw [intervalEnd_started hs] at hset hl
    obtain ⟨lanes, hout⟩ := hl.out
    obtain ⟨fn, fo, fm⟩ := settleInterval_frame s.val slot.val at_ read r b y v
    have hrec : recOf (dockOf v s.val) slot.val = r := congrArg parseStream (congrArg (storeGet _ · _) hl.committed)
    exact ⟨_, _ :: lanes, exec_operandInterval hset, fn.trans hl.now, fo.trans hout, rfl,
      fun h => ⟨_, settleInterval_continues h, rfl, rfl⟩, fun h z hz => settleInterval_done h hz,
      fun h hsel ht => settleInterval_gone h (hl.cancelAt.trans hc) (hrec ▸ hk) ((hl.tally hsel).symm ▸ ht),
      fun hp => .trans (.trans (sameMemory_advanceCycle ..) (hl.memory hp)) fm⟩
  · intro at_ left
    refine ⟨_, exec_tallyLaneBeat (tallyLaneBeat_sums hd hy), ?_⟩
    rw [tallyOut_eq]
    by_cases hleft : more.drop 1 = []
    · rw [hleft]
      obtain ⟨fn, fo, fd, fm, ftally, ffree, fstreams⟩ := lastSums_frame _ s.val y rest st.eng
      exact ⟨fn, fd, fm, fo, fun h => absurd hleft h,
        fun _ => ⟨ftally, ffree, fstreams, fun _ hx hdone hc hk ht => lastSums_gone hx hdone hc hk ht _⟩⟩
    · obtain ⟨fe, fn, fo, fd, fm, fdock⟩ := someSums_frame hleft _ s.val y rest st.eng
      exact ⟨fn, fd, fm, fo, fun _ => ⟨fdock, congrArg (fun e => ({ st with eng := e } : State)) fe⟩,
        fun h => absurd h hleft⟩
  · intro r k hd hk hs hc hp hb
    obtain ⟨y, blk, hframe⟩ := blockInput_frame hx hd hk hs hc hp hb
    exact ⟨_, y, blk, rfl, hframe⟩
  · intro r now left
    have hrec := landingNow_record s.val f rest st.eng f.slot
    have hstream := (landingNow_stream s.val f rest st.eng f.slot).trans hx
    have hdock := landingNow_dock s.val f rest st.eng
    refine ⟨fun hc => ?_, fun hc hk hp => ⟨fun hq => ?_, fun hq => ?_⟩⟩
    · exact ⟨_, (exec_staticSectorLand hf hu).trans (by rw [onEng, landSector_draining hstream hc]), hdock, rfl⟩
    · obtain ⟨hd, hothers, hin, hout, heng⟩ := landSector_frame (l := f.sector) hrec hstream hc hk hp
        ((queueFull_landingNow ..).trans hq)
      rw [queueAddr_landingNow] at hin hout
      rw [hdock] at hd
      exact ⟨_, exec_staticSectorLand hf hu, hd, .trans (otherDocks_landingNow _ _ _ _) hothers,
        ⟨hin, fun a ha => (hout a ha).trans (memByte_landingNow ..)⟩,
        congrArg (fun e => ({ st with eng := e } : State)) heng⟩
    · obtain ⟨hd, hraised, hcount, hstatus, hsame⟩ := queueOverrun_frame s.isLt r.id .exhausted 0x3F31
        (landingNow s.val f rest st.eng)
      rw [reg_landingNow] at hcount
      refine ⟨_, (exec_staticSectorLand hf hu).trans (by
        rw [onEng, landSector_full hrec hstream hc hk ((queueFull_landingNow ..).trans hq)]), hd.trans hdock, hraised,
        hcount, hstatus, .trans (sameEntries_landingNow _ _ _ _ _) hsame⟩

end Sys2Proof.Proofs
end

section
/-! PROOFS. Stream records, decode table slots and the blocks of dynamic jobs at the expander (O40; spec/08_docks.md R188,
R208; spec/07_weight_compression.md R170, R172 to R174, R179, R181). -/

namespace Sys2Proof.Machine

/-! ### The entries that take commands -/

/-- A value within the bits that a row's mask keeps passes it unchanged. -/
theorem maskValue_of_lt {r : Row} {n v : Nat} (h : r.mask = 2 ^ n - 1) (hv : v < 2 ^ n) : maskValue r v = v := by
  rw [maskValue, h, Nat.and_two_pow_sub_one_of_lt_two_pow hv]

theorem rowOf_streamCommit {s : Nat} (hs : s < 48) : ∃ r, rowOf (stIdx s 1) 2 = some r ∧ r.mask = 2 ^ 8 - 1 := by
  have h : ∀ q < 48, (rowOf (stIdx q 1) 2).map (·.mask) = some (2 ^ 8 - 1) := by decide
  exact Option.map_eq_some_iff.mp (h s hs)

theorem rowsAt_tableSlot {s k : Nat} (hs : s < 48) (hk : k < 8) : rowsAt (stIdx s (0x20 + k)) = stationRows20k := by
  have hidx : 0x2000 ≤ stIdx s (0x20 + k) ∧ stIdx s (0x20 + k) < 0x2000 + 0x40 * 48 := by
    unfold stIdx
    omega
  have hrel : (stIdx s (0x20 + k) - 0x2000) % 0x40 = 0x20 + k := by
    unfold stIdx
    omega
  have hslot : 0x20 ≤ 0x20 + k ∧ 0x20 + k < 0x28 := by omega
  simp only [rowsAt, if_pos hidx, hrel, if_pos hslot]

theorem rowOf_slotCtrl {s k : Nat} (hs : s < 48) (hk : k < 8) :
    ∃ r, rowOf (stIdx s (0x20 + k)) 3 = some r ∧ r.mask = 2 ^ 32 - 1 := by
  unfold rowOf
  rw [rowsAt_tableSlot hs hk]
  exact ⟨_, rfl, rfl⟩

/-! ### Stream records -/

/-- A record replaced moves the pins of handles, and the committed record of its own slot alone (R188, R338). -/
theorem commitRecord_pins (s slot rec : Nat) (e : Eng) : ∃ u, u = { e with heap := u.heap } ∧ commitRecord s slot rec e =
    onDock s (fun d => { d with committed := storeSet (fun _ => 0) slot rec d.committed }) u := by
  refine ⟨_, ?_, rfl⟩
  cases recordHandle (recordOf (dockOf e s) slot) <;> cases recordHandle rec <;> rfl

/-- What a commit of a record changes: the record of its slot, the pins of handles, and nothing else. -/
theorem commitRecord_frame (s slot rec : Nat) (e : Eng) :
    let u := commitRecord s slot rec e
    recordOf (dockOf u s) slot = rec ∧ (∀ k, k ≠ slot → recordOf (dockOf u s) k = recordOf (dockOf e s) k) ∧
      otherDocks s e u ∧ u = { e with docks := u.docks, heap := u.heap } := by
  obtain ⟨v, hv, hu⟩ := commitRecord_pins s slot rec e
  have hdocks : v.docks = e.docks := by rw [hv]
  simp only [hu, dockOf_onDock_same]
  refine ⟨storeGet_set_same .., fun k hk => ?_, .trans (otherDocks_of_docks hdocks) (otherDocks_onDock _ _ _), ?_⟩
  · rw [recordOf, storeGet_set_other _ hk, dockOf_congr hdocks]
    rfl
  · rw [hv]
    rfl

/-- The detail of the first check that the staging record of a slot fails, if any (R188). -/
def stagedFault (s slot : Nat) (e : Eng) : Option Nat :=
  let r := parseStream (domNat e (stIdx s 1) 1 (128 * slot) 128)
  firstDetail (recordChecks e s slot r r.kind)

section
variable {s slot : Nat} {st : State}

theorem bits_slot {v : Nat} (hslot : slot < 128) (hv : v = slot ∨ v = 128 + slot) : bits v 0 7 = slot := by
  unfold bits
  rcases hv with rfl | rfl <;> omega

theorem effStreamCommit_armed {v : Nat} (hslot : slot < 128) (hv : v = slot ∨ v = 128 + slot)
    (h : (streamOf (dockOf st.eng s) slot).isSome = true) : effStreamCommit s v st = (.denied, st) := by
  simp only [effStreamCommit, bits_slot hslot hv, h, if_true]

theorem effStreamCommit_clear (hslot : slot < 128) (h : streamOf (dockOf st.eng s) slot = none) :
    effStreamCommit s (128 + slot) st = (.ok, onEng (commitRecord s slot 0) st) := by
  have hbit : bit (128 + slot) 7 = true := by
    unfold bit
    exact decide_eq_true (by omega)
  simp only [effStreamCommit, bits_slot hslot (.inr rfl), h, hbit, Option.isSome_none, Bool.false_eq_true, if_false,
    if_true]

theorem bit_slot (hslot : slot < 128) : bit slot 7 = false := by
  unfold bit
  exact decide_eq_false (by omega)

theorem effStreamCommit_faulty (hslot : slot < 128) (h : streamOf (dockOf st.eng s) slot = none) {d : Nat}
    (hd : stagedFault s slot st.eng = some d) :
    effStreamCommit s slot st = (.badValue, onEng (setReg (stIdx s 1) 3 d) st) := by
  unfold stagedFault at hd
  simp only [effStreamCommit, bits_slot hslot (.inl rfl), h, bit_slot hslot, hd, Option.isSome_none, Bool.false_eq_true,
    if_false]

theorem effStreamCommit_sound (hslot : slot < 128) (h : streamOf (dockOf st.eng s) slot = none)
    (hd : stagedFault s slot st.eng = none) : effStreamCommit s slot st = (.ok, onEng (fun e => setReg (stIdx s 1) 3 0
      (commitRecord s slot (domNat st.eng (stIdx s 1) 1 (128 * slot) 128) e)) st) := by
  unfold stagedFault at hd
  simp only [effStreamCommit, bits_slot hslot (.inl rfl), h, bit_slot hslot, hd, Option.isSome_none, Bool.false_eq_true,
    if_false]

end

section
variable {p : Port} {s : Fin 48} {slot : Fin 128} {st : State}

theorem exec_streamCommit (h : letThrough p (stIdx s.val 1) 2 st) {a : Access} {t : State}
    (he : effStreamCommit s.val slot.val st = (a, t)) :
    exec (.streamCommit p s slot) st = .next (onEng (endAccess p (stIdx s.val 1) 2 a) t) := by
  obtain ⟨r, hr, hm⟩ := rowOf_streamCommit s.isLt
  change Host.Outcome.next (portWrite p (stIdx s.val 1) 2 slot.val (effStreamCommit s.val) st) = _
  rw [portWrite_letThrough h hr, maskValue_of_lt hm (by omega), he]

theorem exec_streamClear (h : letThrough p (stIdx s.val 1) 2 st) {a : Access} {t : State}
    (he : effStreamCommit s.val (128 + slot.val) st = (a, t)) :
    exec (.streamClear p s slot) st = .next (onEng (endAccess p (stIdx s.val 1) 2 a) t) := by
  obtain ⟨r, hr, hm⟩ := rowOf_streamCommit s.isLt
  change Host.Outcome.next (portWrite p (stIdx s.val 1) 2 (128 + slot.val) (effStreamCommit s.val) st) = _
  rw [portWrite_letThrough h hr, maskValue_of_lt hm (by omega), he]

end

/-- A commit that a check refuses leaves the check's detail, and the records of host accesses (R62, R188). -/
theorem refusedRecord_frame {s : Nat} (hs : s < 48) (p : Port) (d : Nat) (st : State) :
    let t := onEng (endAccess p (stIdx s 1) 2 .badValue) (onEng (setReg (stIdx s 1) 3 d) st)
    reg t.eng (stIdx s 1) 3 = d ∧ onlyEntries st t ∧ t.eng.out = .access p (stIdx s 1) 2 3 :: st.eng.out ∧
      sameEntries [(stIdx s 1, 3), (0x1010, 1), (0x1010, 2), (0x1010, 3), (0x1010, 4), (0x1010, 5)] st.eng t.eng := by
  have hidx : stIdx s 1 < 65536 := stIdx_lt hs (by decide)
  have hfar : stIdx s 1 ≠ 0x1010 := by
    unfold stIdx
    omega
  have hend := endAccess_entries p (stIdx s 1) 2 .badValue (setReg (stIdx s 1) 3 d st.eng)
  refine ⟨?_, ?_, endAccess_out .., ?_⟩
  · exact (hend.reg hidx (by decide) (by simp [hfar])).trans (reg_setReg_same ..)
  · rw [onlyEntries, onEng, onEng, endAccess_only]
    rfl
  · exact ((sameEntries_refl _ st.eng).setReg (by simp) hidx (by decide) d).trans (hend.mono (by simp))

/-- A commit whose record passes its checks (R188). -/
theorem committedRecord_frame {s : Nat} (hs : s < 48) (p : Port) (slot x : Nat) (st : State) :
    let i := stIdx s 1
    let t := onEng (endAccess p i 2 .ok) (onEng (fun e => setReg i 3 0 (commitRecord s slot x e)) st)
    reg t.eng i 3 = 0 ∧ recordOf (dockOf t.eng s) slot = x ∧
      (∀ k, k ≠ slot → recordOf (dockOf t.eng s) k = recordOf (dockOf st.eng s) k) ∧
      otherDocks s st.eng t.eng ∧ sameEntries [(i, 3)] st.eng t.eng ∧
      t = { st with eng := { st.eng with regs := t.eng.regs, docks := t.eng.docks, heap := t.eng.heap,
                                         out := .access p i 2 0 :: st.eng.out } } := by
  obtain ⟨hrec, hothers, hdocks, hu⟩ := commitRecord_frame s slot x st.eng
  have hregs : (commitRecord s slot x st.eng).regs = st.eng.regs := by rw [hu]
  have hsame := ((sameEntries_refl [(stIdx s 1, 3)] st.eng).congr hregs).setReg (List.mem_singleton.mpr rfl)
    (stIdx_lt hs (by decide)) (by decide) 0
  simp only [onEng, endAccess_ok]
  generalize commitRecord s slot x st.eng = u at *
  refine ⟨?_, hrec, hothers, hdocks, hsame.congr rfl, ?_⟩
  · rw [reg_emit, reg_setReg_same]
  · rw [hu]
    rfl

/-- STREAM_CLEAR (R208). -/
theorem clearedRecord_frame (s : Nat) (p : Port) (slot : Nat) (st : State) :
    let t := onEng (endAccess p (stIdx s 1) 2 .ok) (onEng (commitRecord s slot 0) st)
    recordOf (dockOf t.eng s) slot = 0 ∧
      (∀ k, k ≠ slot → recordOf (dockOf t.eng s) k = recordOf (dockOf st.eng s) k) ∧ otherDocks s st.eng t.eng ∧
      t = { st with eng := { st.eng with docks := t.eng.docks, heap := t.eng.heap,
                                         out := .access p (stIdx s 1) 2 0 :: st.eng.out } } := by
  obtain ⟨hrec, hothers, hdocks, hu⟩ := commitRecord_frame s slot 0 st.eng
  simp only [onEng, endAccess_ok]
  generalize commitRecord s slot 0 st.eng = u at *
  refine ⟨hrec, hothers, hdocks, ?_⟩
  rw [hu]
  rfl

/-! ### Decode table slots -/

section
variable {p : Port} {s : Fin 48} {k : Fin 8} {st : State}

theorem exec_slotLoad (h : letThrough p (stIdx s.val (0x20 + k.val)) 3 st) {a : Access} {t : State}
    (he : effSlotCtrl s.val k.val 1 st = (a, t)) :
    exec (.slotLoad p s k) st = .next (onEng (endAccess p (stIdx s.val (0x20 + k.val)) 3 a) t) := by
  obtain ⟨r, hr, hm⟩ := rowOf_slotCtrl s.isLt k.isLt
  change Host.Outcome.next (portWrite p (stIdx s.val (0x20 + k.val)) 3 1 (effSlotCtrl s.val k.val) st) = _
  rw [portWrite_letThrough h hr, maskValue_of_lt hm (by decide), he]

theorem exec_slotFence (h : letThrough p (stIdx s.val (0x20 + k.val)) 3 st) {a : Access} {t : State}
    (he : effSlotCtrl s.val k.val 2 st = (a, t)) :
    exec (.slotFence p s k) st = .next (onEng (endAccess p (stIdx s.val (0x20 + k.val)) 3 a) t) := by
  obtain ⟨r, hr, hm⟩ := rowOf_slotCtrl s.isLt k.isLt
  change Host.Outcome.next (portWrite p (stIdx s.val (0x20 + k.val)) 3 2 (effSlotCtrl s.val k.val) st) = _
  rw [portWrite_letThrough h hr, maskValue_of_lt hm (by decide), he]

end

section
variable {s k : Nat} {st : State}

theorem effSlotCtrl_load_taken (h : reg st.eng (stIdx s (0x20 + k)) 2 ≠ 0) :
    effSlotCtrl s k 1 st = (.denied, st) := by
  simp only [effSlotCtrl, if_pos h]

theorem effSlotCtrl_load_sound (h : reg st.eng (stIdx s (0x20 + k)) 2 = 0) (hok : tableLoadOk st.eng s k = true) :
    effSlotCtrl s k 1 st = (.ok, onEng (loadTable s k) st) := by
  simp only [effSlotCtrl, h, hok, ne_eq, not_true_eq_false, if_false, if_true]

theorem effSlotCtrl_load_unsound (h : reg st.eng (stIdx s (0x20 + k)) 2 = 0) (hok : tableLoadOk st.eng s k = false) :
    effSlotCtrl s k 1 st = (.badValue, st) := by
  simp only [effSlotCtrl, h, hok, ne_eq, not_true_eq_false, if_false, Bool.false_eq_true]

theorem effSlotCtrl_fence (h : reg st.eng (stIdx s (0x20 + k)) 2 = 1) :
    effSlotCtrl s k 2 st = (.ok, onEng (fun e => retireSlot s k (setReg (stIdx s (0x20 + k)) 2 2 e)) st) := by
  simp only [effSlotCtrl, h, if_true]

end

/-- Two entries of one index have cells of their own. -/
theorem cellKey_sub_ne {i k k' : Nat} (h : k ≠ k') : cellKey 0 i k ≠ cellKey 0 i k' := by
  unfold cellKey
  omega

/-- A loaded table: the slot LIVE, with the table's tag and width, and the bytes of its record (R173). -/
theorem loadTable_frame {s k : Nat} (hs : s < 48) (hk : k < 8) (e : Eng) :
    let j := stIdx s (0x20 + k)
    let u := loadTable s k e
    let x := parseTable (slotTable e s k)
    reg u j 2 = 1 ∧ reg u j 4 = x.tag ∧ reg u j 7 = (if x.wide then 1 else 0) ∧ reg u j 1 = 144 ∧
      sameEntries [(j, 1), (j, 2), (j, 4), (j, 7)] e u ∧ onlyRegs e u := by
  have hj : stIdx s (0x20 + k) < 65536 := stIdx_lt hs (by omega)
  refine ⟨?_, ?_, ?_, reg_setReg_same .., ?_, ((((onlyRegs.refl e).setReg ..).setReg ..).setReg ..).setReg ..⟩
  · rw [loadTable, reg_setReg_other (cellKey_sub_ne (by decide)), reg_setReg_other (cellKey_sub_ne (by decide)),
      reg_setReg_other (cellKey_sub_ne (by decide)), reg_setReg_same]
  · rw [loadTable, reg_setReg_other (cellKey_sub_ne (by decide)), reg_setReg_other (cellKey_sub_ne (by decide)),
      reg_setReg_same]
  · rw [loadTable, reg_setReg_other (cellKey_sub_ne (by decide)), reg_setReg_same]
  · exact ((((sameEntries_refl _ e).setReg (by simp) hj (by decide) _).setReg (by simp) hj (by decide) _).setReg
      (by simp) hj (by decide) _).setReg (by simp) hj (by decide) _

theorem retireSlot_held {s k : Nat} {e : Eng} (h : reg e (stIdx s (0x20 + k)) 6 ≠ 0) : retireSlot s k e = e :=
  if_neg fun hr => h hr.2

/-- A FENCING slot without references is empty, and keeps its tag as the last one (R173). -/
theorem retireSlot_frame {s k : Nat} (hs : s < 48) (hk : k < 8) {e : Eng} (h2 : reg e (stIdx s (0x20 + k)) 2 = 2)
    (h6 : reg e (stIdx s (0x20 + k)) 6 = 0) :
    let j := stIdx s (0x20 + k)
    let u := retireSlot s k e
    reg u j 2 = 0 ∧ reg u j 5 = reg e j 4 ∧ reg u j 4 = 0 ∧ reg u j 7 = 0 ∧
      sameEntries [(j, 1), (j, 2), (j, 4), (j, 5), (j, 7)] e u ∧ onlyRegs e u := by
  have hj : stIdx s (0x20 + k) < 65536 := stIdx_lt hs (by omega)
  have hne (a b : Nat) (h : a ≠ b) (v : Nat) (u : Eng) : reg (setReg (stIdx s (0x20 + k)) b v u)
      (stIdx s (0x20 + k)) a = reg u (stIdx s (0x20 + k)) a := reg_setReg_other (cellKey_sub_ne h) v u
  rw [retireSlot, if_pos ⟨h2, h6⟩]
  refine ⟨?_, ?_, ?_, ?_, ?_,
    (((((onlyRegs.refl e).setReg ..).setReg ..).setReg ..).setReg ..).setReg ..⟩
  · rw [hne 2 1 (by decide), hne 2 7 (by decide), hne 2 4 (by decide), hne 2 5 (by decide), reg_setReg_same]
  · rw [hne 5 1 (by decide), hne 5 7 (by decide), hne 5 4 (by decide), reg_setReg_same]
  · rw [hne 4 1 (by decide), hne 4 7 (by decide), reg_setReg_same]
  · rw [hne 7 1 (by decide), reg_setReg_same]
  · exact (((((sameEntries_refl _ e).setReg (by simp) hj (by decide) _).setReg (by simp) hj (by decide) _).setReg
      (by simp) hj (by decide) _).setReg (by simp) hj (by decide) _).setReg (by simp) hj (by decide) _

/-- What a fence of a LIVE slot changes: it retires the slot, or leaves it FENCING while references are held (R173). -/
theorem fenceSlot_frame {s k : Nat} (hs : s < 48) (hk : k < 8) (e : Eng) :
    let j := stIdx s (0x20 + k)
    let u := retireSlot s k (setReg j 2 2 e)
    onlyRegs e u ∧
      (reg e j 6 = 0 → reg u j 2 = 0 ∧ reg u j 5 = reg e j 4 ∧ reg u j 4 = 0 ∧ reg u j 7 = 0 ∧
        sameEntries [(j, 1), (j, 2), (j, 4), (j, 5), (j, 7)] e u) ∧
      (reg e j 6 ≠ 0 → reg u j 2 = 2 ∧ sameEntries [(j, 2)] e u) := by
  intro j u
  have hj : j < 65536 := stIdx_lt hs (by omega)
  have hset (ks : List (Nat × Nat)) (hm : (j, 2) ∈ ks) : sameEntries ks e (setReg j 2 2 e) :=
    (sameEntries_refl ks e).setReg hm hj (by decide) 2
  have h6 : reg (setReg j 2 2 e) j 6 = reg e j 6 := reg_setReg_other (cellKey_sub_ne (by decide)) 2 e
  have h4 : reg (setReg j 2 2 e) j 4 = reg e j 4 := reg_setReg_other (cellKey_sub_ne (by decide)) 2 e
  have h2 : reg (setReg j 2 2 e) j 2 = 2 := reg_setReg_same ..
  have honly : onlyRegs e (setReg j 2 2 e) := (onlyRegs.refl e).setReg ..
  by_cases href : reg e j 6 = 0
  · obtain ⟨r2, r5, r4, r7, hsame, hregs⟩ := retireSlot_frame hs hk h2 (h6.trans href)
    exact ⟨honly.trans hregs, fun _ => ⟨r2, r5.trans h4, r4, r7, (hset _ (by simp)).trans hsame⟩,
      fun h => absurd href h⟩
  · have hkeep : u = setReg j 2 2 e := retireSlot_held fun h => href (h6.symm.trans h)
    rw [hkeep]
    exact ⟨honly, fun h => absurd h href, fun _ => ⟨h2, hset _ (by simp)⟩⟩

/-- A write that ends with OK and changes dictionary values alone (R420). -/
theorem answered_only {f : Eng → Eng} {st : State} (h : onlyRegs st.eng (f st.eng)) (p : Port) (i k : Nat) :
    let t := onEng (endAccess p i k .ok) (onEng f st)
    onlyEntries st t ∧ t.eng.out = .access p i k 0 :: st.eng.out := by
  simp only [onEng, endAccess_ok, onlyEntries, out_emit]
  rw [h]
  exact ⟨rfl, rfl⟩

/-- The entries after a write that ends with OK. -/
theorem sameEntries.answered {ks : List (Nat × Nat)} {e e' : Eng} (h : sameEntries ks e e') (p : Port) (i k : Nat) :
    sameEntries ks e (endAccess p i k .ok e') := by
  rw [endAccess_ok]
  exact h.congr rfl

theorem reg_answered (p : Port) (i k : Nat) (e : Eng) (i' k' : Nat) : reg (endAccess p i k .ok e) i' k' = reg e i' k' := by
  rw [endAccess_ok, reg_emit]

/-! ### A dynamic block at the expander -/

/-- A dynamic block waits at an ARCLK: a static block is due, or a block has entered within 8 ARCLK (R170, R172). -/
def blockWaits (e : Eng) (s c : Nat) : Prop :=
  staticDue e s c = true ∨ ∃ a ∈ (dockOf e s).admits, c < a + 8 ∧ a < c + 8

/-- The station's state once the first waiting block has entered the expander at an ARCLK and left it (R170). -/
def blockEntered (s c : Nat) (rest : List Nat) (e : Eng) : Eng :=
  advanceCycle (c + 31) (noteInput s c (onDock s (fun d => { d with decodeWaits := rest }) (advanceCycle c e)))

/-- What becomes of the block of a job that enters a station's expander: decoded and counted, its reference given back,
and the job goes on with it (R167 to R169, R174, R181). -/
def blockPassed (s : Nat) (x : Job) (e : Eng) : Eng :=
  let hc := x.refs.headD (0, .mismatch)
  let place := (blockPlace e x x.block).place
  let dec := expandBlock e s x.block (fun n => (bufBytes x place n).map fun b => ⟨b.1.toNat, b.2, false⟩) 4096 hc.1 hc.2
  let u := countBlock s hc.2 dec e
  let u := match hc.2 with | .coded k => dropRef s k u | _ => u
  let y := if x.op = 9 then { x with decoded := [dec], step := 13 }
    else { x with decoded := x.decoded ++ [dec], step := 1, block := x.block + 1 }
  continueJob x.id (setJob { y with stage := .reading, refs := [] } u)

theorem jobOf_id {e : Eng} {j : Nat} {x : Job} (h : jobOf e j = some x) : x.id = j := by
  simpa using List.find?_some h

section
variable {s c j : Nat} {rest : List Nat} {e : Eng}

theorem dynamicAdmit_idle (h : (dockOf e s).decodeWaits = []) (c : Nat) : dynamicAdmit s c e = e := by
  simp only [dynamicAdmit, h]

theorem admits_any_iff (l : List Nat) (c : Nat) : (l.any fun a => c < a + 8 ∧ a < c + 8) = true ↔
    ∃ a ∈ l, c < a + 8 ∧ a < c + 8 := by
  simp only [List.any_eq_true, decide_eq_true_eq]

theorem dynamicAdmit_waits (h : (dockOf e s).decodeWaits = j :: rest) (hw : blockWaits e s c) :
    dynamicAdmit s c e = noteDecodeWait s c (advanceCycle c e) := by
  simp only [dynamicAdmit, h]
  exact if_pos (hw.imp id (admits_any_iff ..).mpr)

theorem dynamicAdmit_enters (h : (dockOf e s).decodeWaits = j :: rest) (hw : ¬blockWaits e s c) :
    dynamicAdmit s c e = (jobOf (blockEntered s c rest e) j).elim (blockEntered s c rest e)
      fun x => blockPassed s x (blockEntered s c rest e) := by
  simp only [dynamicAdmit, h]
  rw [if_neg fun hn => hw (hn.imp id (admits_any_iff ..).mp)]
  split
  next hj =>
    have hj' : jobOf (blockEntered s c rest e) j = none := hj
    rw [hj', Option.elim_none]
    rfl
  next x hj =>
    have hj' : jobOf (blockEntered s c rest e) j = some x := hj
    rw [hj', Option.elim_some, blockPassed, jobOf_id hj']
    rfl

end

/-! ### The work of a job away from the expander -/

/-- What a job's reads and writes leave alone: the jobs, the docks, and a station's count of stored blocks (R181). -/
structure OffExpander (s : Nat) (e e' : Eng) : Prop where
  jobs : e'.jobs = e.jobs
  docks : e'.docks = e.docks
  stored : reg e' (stIdx s 0x28) 2 = reg e (stIdx s 0x28) 2

namespace OffExpander

variable {s : Nat} {a b c : Eng}

theorem refl (s : Nat) (e : Eng) : OffExpander s e e := ⟨rfl, rfl, rfl⟩

theorem trans (h : OffExpander s a b) (g : OffExpander s b c) : OffExpander s a c :=
  ⟨g.jobs.trans h.jobs, g.docks.trans h.docks, g.stored.trans h.stored⟩

theorem setReg (h : OffExpander s a b) {i k : Nat} (hk : k < 256) (hne : k ≠ 2) (v : Nat) :
    OffExpander s a (Machine.setReg i k v b) := by
  have hcell : cellKey 0 (stIdx s 0x28) 2 ≠ cellKey 0 i k := by
    unfold cellKey
    omega
  exact ⟨h.jobs, h.docks, (reg_setReg_other hcell v b).trans h.stored⟩

theorem bump (h : OffExpander s a b) {i k : Nat} (hk : k < 256) (hne : k ≠ 2) :
    OffExpander s a (Machine.bump i k b) := h.setReg hk hne _

theorem ite {p : Prop} [Decidable p] (h : OffExpander s a b) (g : OffExpander s a c) :
    OffExpander s a (if p then b else c) := by split <;> assumption

/-- Reads and writes made one after the other, each with its identifiers. -/
theorem foldl {α : Type} {f : List Nat × Eng → α → List Nat × Eng} (h : ∀ q x, OffExpander s q.2 (f q x).2)
    (xs : List α) (q : List Nat × Eng) : OffExpander s q.2 (xs.foldl f q).2 :=
  foldl_related (R := fun q r => OffExpander s q.2 r.2) (fun q => refl s q.2) trans (fun q x _ => h q x) q

end OffExpander

/-- Requests that reach no dock. -/
theorem Requests.offExpander {s : Nat} {e e' : Eng} (h : Requests e e') (hd : e'.docks = e.docks) :
    OffExpander s e e' := ⟨h.jobs, hd, congrArg (storeGet regDefault · _) h.regs⟩

section
variable (s : Nat)

theorem submitEach_offExpander {α : Type} {f : α → Eng → Nat × Eng} (h : ∀ x e, OffExpander s e (f x e).2)
    (xs : List α) (e : Eng) : OffExpander s e (submitEach f xs e).2 := by
  induction xs generalizing e with
  | nil => exact .refl s e
  | cons x xs ih => exact (h x e).trans (ih _)

theorem submitAll_offExpander (b : AccessBy) (read : Bool) (bs : List Batch) (e : Eng) :
    OffExpander s e (submitAll b read bs e).2 := submitEach_offExpander s (fun _ _ => ⟨rfl, rfl, rfl⟩) bs e

theorem issueReads_docks (fuel : Nat) (e : Eng) : (issueReads fuel e).docks = e.docks := by
  induction fuel generalizing e with
  | zero => rfl
  | succ fuel ih =>
    rw [issueReads]
    split
    · rfl
    · split
      · rfl
      · exact ih _

theorem requestRead_offExpander (use : ReadUse) (cls : Nat) (data : Bool) (a n : Nat) (e : Eng) :
    OffExpander s e (requestRead use cls data a n e).2 :=
  (requestRead_requests use cls data a n e).offExpander (issueReads_docks ..)

theorem requestRanges_offExpander (x : Job) (ranges : List (Nat × Nat)) (e : Eng) :
    OffExpander s e (requestRanges x ranges e).2 := by
  refine OffExpander.foldl (fun q r => ?_) ranges ([], e)
  exact requestRead_offExpander s (.job x.id) x.cls true r.1 r.2 q.2

theorem poolWrite_offExpander (a : Nat) (bs : List (Byte × Bool)) (e : Eng) : OffExpander s e (poolWrite a bs e) := by
  rw [poolWrite_only]
  exact ⟨rfl, rfl, rfl⟩

theorem writeBlock_offExpander (x : Job) (p : PackRec) (k off : Nat) (bs : List (Byte × Bool)) (e : Eng) :
    OffExpander s e (writeBlock x p k off bs e).2 := by
  refine OffExpander.foldl (fun q f => ?_) (packCopies e p k) ([], e)
  dsimp only
  split
  · exact .ite (poolWrite_offExpander ..) (.refl ..)
  · exact submitAll_offExpander ..

end

/-! ### The steps of an EXPAND job -/

/-- A job that is another at a later step: of the same identifier, kind and station. -/
def sameTask (x y : Job) : Prop := y.id = x.id ∧ y.op = x.op ∧ y.station = x.station

theorem sameTask.trans {x y z : Job} (h : sameTask x y) (g : sameTask y z) : sameTask x z :=
  ⟨g.1.trans h.1, g.2.1.trans h.2.1, g.2.2.trans h.2.2⟩

theorem noteFirst_sameTask (x : Job) (e : Eng) : sameTask x (noteFirst x e) := by
  unfold noteFirst
  split <;> exact ⟨rfl, rfl, rfl⟩

/-- A job with the bytes in its buffer that it reads of Pools (R294). -/
def poolsRead (x : Job) (ranges : List (Nat × Nat)) (e : Eng) : Job :=
  (ranges.filter fun r => (regionOf r.1).1 = .pool).foldl (fun x r => x.put r.1 (readLocal e r.1 r.2)) x

theorem poolsRead_sameTask (x : Job) (ranges : List (Nat × Nat)) (e : Eng) : sameTask x (poolsRead x ranges e) :=
  foldl_related (R := sameTask) (f := fun (y : Job) (r : Nat × Nat) => y.put r.1 (readLocal e r.1 r.2))
    (fun _ => ⟨rfl, rfl, rfl⟩) .trans (fun _ _ _ => ⟨rfl, rfl, rfl⟩) x

/-- A step that ends with the job set, after work away from the expander. -/
def stepsAside (s : Nat) (x : Job) (e e' : Eng) : Prop :=
  ∃ y u, sameTask x y ∧ OffExpander s e u ∧ e' = setJob y u

theorem stepsAside.after {s : Nat} {x y : Job} {a b c : Eng} (h : stepsAside s y b c) (hx : sameTask x y)
    (ha : OffExpander s a b) : stepsAside s x a c := by
  obtain ⟨z, u, hz, hu, rfl⟩ := h
  exact ⟨z, u, hx.trans hz, ha.trans hu, rfl⟩

/-- A job's read of ranges of memory: its requests for sectors of stack memory, then the reads of HST (R294, R296). -/
theorem readInto_requests (x : Job) (ranges : List (Nat × Nat)) (e : Eng) : ∃ b sectors waits,
    let y := poolsRead x ranges e
    let u := (requestRanges y (mergeRanges (ranges.filter fun r => (regionOf r.1).1 = .host))
      (submitSectors b sectors e).2).2
    let z := if (ranges.filter fun r => (regionOf r.1).1 = .pool).isEmpty then y else noteFirst y u
    readInto x ranges e = setJob { z with waits } u := ⟨_, _, _, rfl⟩

theorem readInto_aside (s : Nat) (x : Job) (ranges : List (Nat × Nat)) (e : Eng) :
    stepsAside s x e (readInto x ranges e) := by
  obtain ⟨b, sectors, waits, hread⟩ := readInto_requests x ranges e
  have hput := poolsRead_sameTask x ranges e
  refine ⟨_, _, ?_, (submitAll_offExpander ..).trans (requestRanges_offExpander ..), hread⟩
  split
  · exact hput.trans ⟨rfl, rfl, rfl⟩
  · exact (hput.trans (noteFirst_sameTask ..)).trans ⟨rfl, rfl, rfl⟩

theorem readHeader_aside (s : Nat) (x : Job) (e : Eng) : stepsAside s x e (readHeader x e) :=
  (readInto_aside ..).after ⟨rfl, rfl, rfl⟩ (.refl s e)

theorem takeJobHeader_aside (s : Nat) (x : Job) (e : Eng) :
    sameTask x (takeJobHeader x e).1 ∧ OffExpander s e (takeJobHeader x e).2 := by
  unfold takeJobHeader
  dsimp only
  split
  · exact ⟨⟨rfl, rfl, rfl⟩, .refl s e⟩
  · split
    · exact ⟨⟨rfl, rfl, rfl⟩, (OffExpander.refl s e).setReg (by decide) (by decide) _⟩
    · exact ⟨⟨rfl, rfl, rfl⟩, (OffExpander.refl s e).bump (by decide) (by decide)⟩
    · exact ⟨⟨rfl, rfl, rfl⟩, .refl s e⟩

/-- Every step of an EXPAND job but the one that hands its block to the expander leaves the docks alone (R179). -/
theorem stepExpand_aside (s : Nat) {x : Job} (h : x.step ≠ 12) (e : Eng) : stepsAside s x e (stepExpand x e) := by
  unfold stepExpand
  dsimp only
  split
  next h11 =>
    obtain ⟨htask, hoff⟩ := takeJobHeader_aside s x e
    simp only [stepMove, h11]
    exact (readInto_aside ..).after (htask.trans ⟨rfl, rfl, rfl⟩) hoff
  next h12 => exact absurd h12 h
  next =>
    refine ⟨_, _, ?_, writeBlock_offExpander s x (parsePack x.desc) 1 (4096 * x.block) _ e, rfl⟩
    exact ⟨rfl, rfl, rfl⟩
  next =>
    split
    · exact (readHeader_aside ..).after ⟨rfl, rfl, rfl⟩ (.refl s e)
    · exact ⟨{ x with stage := .ended, buf := [] }, e, ⟨rfl, rfl, rfl⟩, .refl s e, rfl⟩
  next => exact readHeader_aside ..

/-- The step that hands a block to the expander: the job waits there behind the others (R172). -/
theorem stepExpand_queues {x : Job} {s : Nat} (h : x.step = 12) (hs : x.station = some s) (e : Eng) : stepExpand x e =
    onDock s (fun d => { d with decodeWaits := d.decodeWaits ++ [x.id] }) (setJob { x with stage := .decoding } e) := by
  simp only [stepExpand, stepMove, h, hs, Option.getD_some]

theorem runJob_halted {j : Nat} {x : Job} {e : Eng} (h : jobOf e j = some x) (hx : steps x = false) (fuel : Nat) :
    runJob fuel j e = e := by
  cases fuel with
  | zero => rfl
  | succ fuel => rw [runJob, h]; simp only [hx, Bool.false_eq_true, if_false]

theorem holdsJob_of_jobOf {e : Eng} {j : Nat} {x : Job} (h : jobOf e j = some x) : holdsJob e j :=
  ⟨x, List.mem_of_find?_eq_some h, jobOf_id h⟩

/-- A job that goes on at a station reaches its dock as one that waits for the expander, or not at all; the station's
count of stored blocks stays. -/
structure GoesOn (s j : Nat) (e u : Eng) : Prop where
  stored : reg u (stIdx s 0x28) 2 = reg e (stIdx s 0x28) 2
  others : otherDocks s e u
  dock : dockOf u s = dockOf e s ∨
    dockOf u s = { dockOf e s with decodeWaits := (dockOf e s).decodeWaits ++ [j] }

theorem GoesOn.refl (s j : Nat) (e : Eng) : GoesOn s j e e := ⟨rfl, fun _ _ => rfl, .inl rfl⟩

/-- Work away from the expander, and then the job goes on. -/
theorem GoesOn.after {s j : Nat} {a b c : Eng} (h : GoesOn s j b c) (hd : b.docks = a.docks)
    (hr : reg b (stIdx s 0x28) 2 = reg a (stIdx s 0x28) 2) : GoesOn s j a c := by
  have hdock := dockOf_congr hd s
  exact ⟨h.stored.trans hr, .trans (otherDocks_of_docks hd) h.others, hdock ▸ h.dock⟩

theorem runJob_expand {s fuel : Nat} {x : Job} {e : Eng} (h : jobOf e x.id = some x) (hop : x.op = 9)
    (hs : x.station = some s) : GoesOn s x.id e (runJob fuel x.id e) := by
  induction fuel generalizing x e with
  | zero => exact .refl ..
  | succ fuel ih =>
    have hheld : holdsJob e x.id := holdsJob_of_jobOf h
    by_cases hgo : steps x = true
    · have hrun : runJob (fuel + 1) x.id e = runJob fuel x.id (stepExpand x e) := by
        rw [runJob, h]
        simp only [hgo, hop, if_true]
      rw [hrun]
      by_cases h12 : x.step = 12
      · have hset : jobOf (stepExpand x e) x.id = some { x with stage := .decoding } := by
          rw [stepExpand_queues h12 hs]
          exact jobOf_setJob (x := { x with stage := .decoding }) hheld
        rw [runJob_halted hset rfl, stepExpand_queues h12 hs]
        exact ⟨rfl, .trans (otherDocks_of_docks rfl) (otherDocks_onDock _ _ _), .inr (dockOf_onDock_same ..)⟩
      · obtain ⟨y, u, ⟨hid, hyop, hys⟩, hu, hstep⟩ := stepExpand_aside s h12 e
        have hset : jobOf (setJob y u) y.id = some y := jobOf_setJob (hid ▸ hheld.congr hu.jobs)
        rw [hstep, ← hid]
        exact (ih hset (hyop.trans hop) (hys.trans hs)).after hu.docks hu.stored
    · rw [runJob_halted h (by simpa using hgo)]
      exact .refl ..

theorem setJob_dockOf (x : Job) (e : Eng) (q : Nat) : dockOf (setJob x e) q = dockOf e q := rfl

theorem continueJob_expand {s : Nat} {x : Job} {e : Eng} (h : jobOf e x.id = some x) (hop : x.op = 9)
    (hs : x.station = some s) : GoesOn s x.id e (continueJob x.id e) := by
  rw [continueJob, h]
  exact runJob_expand h hop hs

/-! ### What DYNAMIC_BLOCK_ADMIT changes -/

theorem wrapWidth_blocks {s k : Nat} (hs : s < 48) (hk : k = 2 ∨ k = 6) : wrapWidth (stIdx s 0x28) k = 64 := by
  have h : ∀ q < 48, wrapWidth (stIdx q 0x28) 2 = 64 ∧ wrapWidth (stIdx q 0x28) 6 = 64 := by decide
  rcases hk with rfl | rfl
  · exact (h s hs).1
  · exact (h s hs).2

section
variable {s c j : Nat} {rest : List Nat} {e : Eng}

/-- The station's state at an ARCLK, with its window of 8 ARCLK noted as one in which a block waits (R172). -/
def windowNoted (s c : Nat) (e : Eng) : Eng :=
  onDock s (fun d => { d with waitWindow := some (c / 8) }) (advanceCycle c e)

/-- The first wait of a window of 8 ARCLK counts, and the dock notes the window (R172). -/
theorem noteDecodeWait_counts (hs : s < 48) (h : (dockOf e s).waitWindow ≠ some (c / 8)) :
    let u := noteDecodeWait s c (advanceCycle c e)
    reg u (stIdx s 0x28) 6 = (reg e (stIdx s 0x28) 6 + 1) % 2 ^ 64 ∧ sameEntries [(stIdx s 0x28, 6)] e u ∧
      dockOf u s = { dockOf e s with waitWindow := some (c / 8) } ∧ otherDocks s e u ∧
      u = { e with now := max e.now (e.spBase.getD 0 + c), regs := u.regs, docks := u.docks } := by
  have hnote : noteDecodeWait s c (advanceCycle c e) = bump (stIdx s 0x28) 6 (windowNoted s c e) := if_neg h
  have hcount := reg_bump_same (stIdx s 0x28) 6 (windowNoted s c e)
  have hsame : sameEntries [(stIdx s 0x28, 6)] e (bump (stIdx s 0x28) 6 (windowNoted s c e)) :=
    sameEntries.bump ((sameEntries_refl _ e).congr rfl) (List.mem_singleton.mpr rfl) (stIdx_lt hs (by decide)) (by decide)
  have honly : onlyRegs (windowNoted s c e) (bump (stIdx s 0x28) 6 (windowNoted s c e)) := (onlyRegs.refl _).bump ..
  rw [wrapWidth_blocks hs (.inr rfl)] at hcount
  rw [hnote]
  generalize bump (stIdx s 0x28) 6 (windowNoted s c e) = u at *
  refine ⟨hcount, hsame, (honly.aside.dockOf s).trans (dockOf_onDock_same ..),
    .trans (otherDocks_onDock s _ (advanceCycle c e)) (otherDocks_of_docks honly.aside.docks), ?_⟩
  rw [honly]
  rfl

theorem blockEntered_dock (s c : Nat) (rest : List Nat) (e : Eng) : dockOf (blockEntered s c rest e) s =
    { dockOf e s with decodeWaits := rest,
                      admits := c :: (dockOf e s).admits.filter fun a => decide (c < a + 8) } := by
  rw [blockEntered, advanceCycle, dockOf_congr (advanceTo_docks ..), noteInput, dockOf_onDock_same, dockOf_onDock_same]
  rfl

theorem blockEntered_others (s c : Nat) (rest : List Nat) (e : Eng) : otherDocks s e (blockEntered s c rest e) :=
  .trans (otherDocks_onDock s (fun d => { d with decodeWaits := rest }) (advanceCycle c e))
    (.trans (otherDocks_onDock s _ _) (otherDocks_of_docks (advanceTo_docks ..)))

theorem dynamicAdmit_gone (h : (dockOf e s).decodeWaits = j :: rest) (hw : ¬blockWaits e s c)
    (hj : jobOf e j = none) : dynamicAdmit s c e = blockEntered s c rest e := by
  have hj' : jobOf (blockEntered s c rest e) j = none := hj
  rw [dynamicAdmit_enters h hw, hj', Option.elim_none]

/-- A stored block of an EXPAND job passes the expander, and its job goes on to write it (R168, R172, R179). -/
theorem dynamicAdmit_stored (h : (dockOf e s).decodeWaits = j :: rest) (hw : ¬blockWaits e s c) {x : Job} {hdr : Nat}
    (hj : jobOf e j = some x) (hop : x.op = 9) (hrefs : x.refs = [(hdr, .stored)]) :
    ∃ dec, dynamicAdmit s c e = continueJob x.id
      (setJob { x with decoded := [dec], step := 13, stage := .reading, refs := [] }
        (countBlock s .stored dec (blockEntered s c rest e))) := by
  have hj' : jobOf (blockEntered s c rest e) j = some x := hj
  rw [dynamicAdmit_enters h hw, hj', Option.elim_some]
  simp only [blockPassed, hrefs, List.headD_cons, hop, if_true]
  exact ⟨_, rfl⟩

/-- A stored block counts, and one that its poison hurts counts as poisoned too (R181). -/
theorem countBlock_of_stored (s : Nat) (d : Decoded) (e : Eng) : countBlock s .stored d e =
    if d.hurt then bump (stIdx s 0x28) 5 (bump (stIdx s 0x28) 2 e) else bump (stIdx s 0x28) 2 e := rfl

theorem reg_countBlock_stored (hs : s < 48) (d : Decoded) (e : Eng) :
    reg (countBlock s .stored d e) (stIdx s 0x28) 2 = (reg e (stIdx s 0x28) 2 + 1) % 2 ^ 64 := by
  have hbump : reg (bump (stIdx s 0x28) 2 e) (stIdx s 0x28) 2 = (reg e (stIdx s 0x28) 2 + 1) % 2 ^ 64 := by
    rw [reg_bump_same, wrapWidth_blocks hs (.inl rfl)]
  rw [countBlock_of_stored]
  split
  · rw [reg_bump_other (cellKey_sub_ne (by decide)), hbump]
  · exact hbump

theorem countBlock_stored_jobs (s : Nat) (d : Decoded) (e : Eng) : (countBlock s .stored d e).jobs = e.jobs := by
  rw [countBlock_of_stored]
  split
  · rw [bump_jobs, bump_jobs]
  · exact bump_jobs ..

/-- What a stored block's passage changes at its station (R170, R172, R181). -/
theorem dynamicAdmit_stored_frame (hs : s < 48) (h : (dockOf e s).decodeWaits = j :: rest) (hw : ¬blockWaits e s c)
    {x : Job} {hdr : Nat} (hj : jobOf e j = some x) (hst : x.station = some s) (hop : x.op = 9)
    (hrefs : x.refs = [(hdr, .stored)]) :
    let u := dynamicAdmit s c e
    reg u (stIdx s 0x28) 2 = (reg e (stIdx s 0x28) 2 + 1) % 2 ^ 64 ∧ otherDocks s e u ∧
      ((dockOf u s).decodeWaits = rest ∨ (dockOf u s).decodeWaits = rest ++ [j]) ∧
      (dockOf u s).admits = c :: (dockOf e s).admits.filter fun a => decide (c < a + 8) := by
  obtain ⟨dec, hu⟩ := dynamicAdmit_stored h hw hj hop hrefs
  obtain rfl := jobOf_id hj
  have hcount := countBlock_aside s .stored dec (blockEntered s c rest e)
  have hd := (hcount.dockOf s).trans (blockEntered_dock s c rest e)
  have hjobs : (countBlock s .stored dec (blockEntered s c rest e)).jobs = e.jobs := countBlock_stored_jobs ..
  have hset := jobOf_setJob (x := { x with decoded := [dec], step := 13, stage := .reading, refs := [] })
    ((holdsJob_of_jobOf hj).congr hjobs)
  obtain ⟨hstored, hothers, hdock⟩ := continueJob_expand hset hop hst
  rw [setJob_dockOf, hd] at hdock
  simp only [hu]
  refine ⟨hstored.trans (reg_countBlock_stored hs dec _),
    .trans (blockEntered_others s c rest e) (.trans (otherDocks_of_docks hcount.docks) hothers), ?_, ?_⟩
  · exact hdock.imp (congrArg Dock.decodeWaits) (congrArg Dock.decodeWaits)
  · exact hdock.elim (congrArg Dock.admits) (congrArg Dock.admits)

theorem exec_dynamicBlockAdmit {s : Fin 48} {st : State} {u : Eng} (h : dynamicAdmit s.val c st.eng = u) :
    exec (.dynamicBlockAdmit s c) st = .next { st with eng := u } :=
  congrArg (fun e => Host.Outcome.next ({ st with eng := e } : State)) h

end

end Sys2Proof.Machine

namespace Sys2Proof.Proofs

open Sys2Proof Sys2Proof.Machine

/-- Settles O40: each clause is what its command does, by the lemmas on its effect above, with the frame of the answer
that its port gives. -/
theorem recordsAndTableSlots : Obligations.RecordsAndTableSlots := by
  intro p s st i d
  refine ⟨fun slot hlet => ?_, fun k hlet => ?_, fun c hidle => ?_, fun c j rest hq => ?_⟩
  · intro x bad
    have hslot := slot.isLt
    refine ⟨fun harmed => ?_, fun hfree => ⟨fun n hbad => ?_, fun hbad => ?_, ?_⟩⟩
    · exact ⟨_, ⟨exec_streamCommit hlet (effStreamCommit_armed hslot (.inl rfl) harmed),
          exec_streamClear hlet (effStreamCommit_armed hslot (.inr rfl) harmed)⟩,
        endAccess_onlyEntries .., endAccess_out .., endAccess_entries _ _ _ _ _⟩
    · exact ⟨_, exec_streamCommit hlet (effStreamCommit_faulty hslot hfree hbad), refusedRecord_frame s.isLt p n st⟩
    · exact ⟨_, exec_streamCommit hlet (effStreamCommit_sound hslot hfree hbad),
        committedRecord_frame s.isLt p slot.val x st⟩
    · exact ⟨_, exec_streamClear hlet (effStreamCommit_clear hslot hfree), clearedRecord_frame ..⟩
  · intro j
    refine ⟨fun hempty hok => ?_, fun hempty hok => ?_, fun htaken => ?_, fun hlive => ?_⟩
    · obtain ⟨h2, h4, h7, h1, hsame, honly⟩ := loadTable_frame s.isLt k.isLt st.eng
      obtain ⟨hst, hout⟩ := answered_only honly p j 3
      refine ⟨_, exec_slotLoad hlet (effSlotCtrl_load_sound hempty hok), ?_⟩
      simp only [onEng_eng, reg_answered]
      exact ⟨h2, h4, h7, h1, hsame.answered p j 3, hst, hout⟩
    · exact ⟨_, exec_slotLoad hlet (effSlotCtrl_load_unsound hempty hok), endAccess_onlyEntries .., endAccess_out ..,
        endAccess_entries _ _ _ _ _⟩
    · exact ⟨_, exec_slotLoad hlet (effSlotCtrl_load_taken htaken), endAccess_onlyEntries .., endAccess_out ..,
        endAccess_entries _ _ _ _ _⟩
    · obtain ⟨honly, hfree, hheld⟩ := fenceSlot_frame s.isLt k.isLt st.eng
      obtain ⟨hst, hout⟩ := answered_only (f := fun e => retireSlot s.val k.val (setReg j 2 2 e)) honly p j 3
      refine ⟨_, exec_slotFence hlet (effSlotCtrl_fence hlive), hst, hout, ?_⟩
      simp only [onEng_eng, reg_answered]
      exact ⟨fun href => (hfree href).imp_right fun ⟨h5, h4, h7, hsame⟩ => ⟨h5, h4, h7, hsame.answered p j 3⟩,
        fun href => (hheld href).imp_right fun hsame => hsame.answered p j 3⟩
  · exact exec_dynamicBlockAdmit (dynamicAdmit_idle hidle c)
  · intro now waits
    refine ⟨fun hw hwin => ?_, fun hw hwin => ?_, fun hw hj => ?_, fun hw x h hj _ hst hop hrefs => ?_⟩
    · exact exec_dynamicBlockAdmit ((dynamicAdmit_waits hq hw).trans (if_pos hwin))
    · obtain ⟨hcount, hsame, hdock, hothers, heng⟩ := noteDecodeWait_counts s.isLt hwin
      exact ⟨_, exec_dynamicBlockAdmit (dynamicAdmit_waits hq hw), hcount, hsame, hdock, hothers,
        congrArg (fun e => ({ st with eng := e } : State)) heng⟩
    · exact ⟨_, exec_dynamicBlockAdmit (dynamicAdmit_gone hq hw hj), blockEntered_dock .., blockEntered_others _ _ _ _, rfl⟩
    · obtain ⟨hcount, hothers, hwaits, hadmits⟩ := dynamicAdmit_stored_frame s.isLt hq hw hj hst hop hrefs
      exact ⟨_, exec_dynamicBlockAdmit rfl, hcount, hothers, hwaits, hadmits, rfl, rfl⟩

end Sys2Proof.Proofs
end

section
/-! PROOFS. The commands of a dock (O35; spec/08_docks.md R189 to R192): which of them a station takes, and what those
that it takes have in common. -/

namespace Sys2Proof.Machine

/-! ### A station's entries -/

/-- Entries of one station share a cell where they are the same entry. -/
theorem cellKey_station {s a k b k' : Nat} (hk : k < 256) (hk' : k' < 256) :
    cellKey 0 (stIdx s a) k = cellKey 0 (stIdx s b) k' ↔ a = b ∧ k = k' := by
  unfold cellKey stIdx
  omega

theorem rowsAt_counters {s : Nat} (hs : s < 48) : rowsAt (stIdx s 0x30) = stationRows30 := by
  have hidx : 0x2000 ≤ stIdx s 0x30 ∧ stIdx s 0x30 < 0x2000 + 0x40 * 48 := by
    unfold stIdx
    omega
  have hrel : (stIdx s 0x30 - 0x2000) % 0x40 = 0x30 := by
    unfold stIdx
    omega
  simp only [rowsAt, if_pos hidx, hrel]
  rfl

/-- A dock's counters are 64 bits wide (R208). -/
theorem wrapWidth_counter {s k : Nat} (hs : s < 48) (hk : 1 ≤ k ∧ k ≤ 12) : wrapWidth (stIdx s 0x30) k = 64 := by
  have hwide : ∀ j < 12, 8 * ((stationRows30[j]?).map (·.ty.width)).getD 8 = 64 := by decide
  obtain ⟨j, rfl⟩ := Nat.exists_eq_add_of_le' hk.1
  unfold wrapWidth rowOf
  rw [rowsAt_counters hs]
  exact hwide j (by omega)

/-- A dock's counter goes up; the station's other entries stay. -/
theorem reg_bump_counter {s k a k' : Nat} (hs : s < 48) (hk : 1 ≤ k ∧ k ≤ 12) (hk' : k' < 256) (e : Eng) :
    reg (bump (stIdx s 0x30) k e) (stIdx s a) k' =
      if a = 0x30 ∧ k' = k then (reg e (stIdx s 0x30) k + 1) % 2 ^ 64 else reg e (stIdx s a) k' := by
  have hcell := cellKey_station (s := s) (a := a) (b := 0x30) hk' (show k < 256 by omega)
  rw [← wrapWidth_counter hs hk, ← reg_bump_same]
  split
  case isTrue h => rw [h.1, h.2]
  case isFalse h => exact reg_bump_other (fun hc => h (hcell.mp hc)) e

theorem reg_setReg_station {s a k b k' : Nat} (hk : k < 256) (hk' : k' < 256) (v : Nat) (e : Eng) :
    reg (setReg (stIdx s a) k v e) (stIdx s b) k' = if b = a ∧ k' = k then v else reg e (stIdx s b) k' := by
  rw [reg_setReg]
  simp only [cellKey_station hk' hk]

theorem stIdx_inj {s a b : Nat} : stIdx s a = stIdx s b ↔ a = b := Nat.add_right_inj

/-- Nothing has changed but dictionary values, and faults raised after those before. -/
def onlyEvents (ev : List (Nat × Nat)) (e u : Eng) : Prop := u = { e with regs := u.regs, raised := e.raised ++ ev }

theorem onlyEvents.docks {ev : List (Nat × Nat)} {e u : Eng} (h : onlyEvents ev e u) : u.docks = e.docks := by
  rw [onlyEvents] at h
  rw [h]

theorem onlyEvents.out {ev : List (Nat × Nat)} {e u : Eng} (h : onlyEvents ev e u) : u.out = e.out := by
  rw [onlyEvents] at h
  rw [h]

theorem onlyEvents.raised {ev : List (Nat × Nat)} {e u : Eng} (h : onlyEvents ev e u) :
    u.raised = e.raised ++ ev := by
  rw [onlyEvents] at h
  rw [h]

theorem onlyEvents.setReg {ev : List (Nat × Nat)} {e u : Eng} (h : onlyEvents ev e u) (i k v : Nat) :
    onlyEvents ev e (Machine.setReg i k v u) :=
  congrArg (fun w : Eng => ({ w with regs := (Machine.setReg i k v u).regs } : Eng)) h

theorem onlyEvents.bump {ev : List (Nat × Nat)} {e u : Eng} (h : onlyEvents ev e u) (i k : Nat) :
    onlyEvents ev e (Machine.bump i k u) := h.setReg ..

theorem onlyRegs.raise {e u : Eng} (h : onlyRegs e u) (src detail : Nat) :
    onlyEvents [(src, detail)] e (Machine.raise src detail u) := congrArg (Machine.raise src detail) h

theorem streamEvent_only (s id : Nat) (st : Status) (detail : Nat) (e : Eng) :
    onlyEvents [(s, detail)] e (streamEvent s id st detail e) := ((onlyRegs.refl e).setReg ..).raise ..

/-! ### Which commands are taken -/

section
variable {s c x : Nat} {e : Eng}

/-- While BT_READY is low, or its station in reset, a command moves the clock alone (R16). -/
theorem dockCommand_unseen (h : ¬(isReady e = true ∧ partUp e s = true)) : dockCommand s c x e = advanceCycle c e := by
  have h' : (!isReady (advanceCycle c e) || !partUp (advanceCycle c e) s) = true := by
    show (!isReady e || !partUp e s) = true
    simpa [Decidable.imp_iff_not_or] using h
  exact if_pos h'

/-- A command that a station sees and does not take: counted, recorded and raised (R191, R192). -/
def discarded (s c x k detail : Nat) (e : Eng) : Eng :=
  raise s detail (setReg (stIdx s 5) 2 x (bump (stIdx s 0x30) k (advanceCycle c e)))

/-- The state in which a command that is taken has its effect: its cycle noted and the command counted (R191). -/
def accepted (s c : Nat) (e : Eng) : Eng :=
  bump (stIdx s 0x30) 1 (onDock s (fun d => { d with lastCmd := some c }) (advanceCycle c e))

/-- R191, R192: what a station that is up does with a command, by the state of its dock. -/
theorem dockCommand_seen (hr : isReady e = true) (hu : partUp e s = true) : dockCommand s c x e =
    if (dockOf e s).hold.isSome || (dockOf e s).contained then discarded s c x 4 0x3F28 e
    else if (dockOf e s).lastCmd.any fun t => c ≤ t + 7 then discarded s c x 2 0x3F20 e
    else if !cmdWellFormed x then badCommand s x .badEntry 0x3F21 true (accepted s c e)
    else runCommand s c x (accepted s c e) := by
  have h' : (!isReady (advanceCycle c e) || !partUp (advanceCycle c e) s) = false := by
    show (!isReady e || !partUp e s) = false
    rw [hr, hu]
    rfl
  rw [dockCommand]
  dsimp only
  rw [h', if_neg Bool.false_ne_true]
  rfl

theorem dockCommand_held (hr : isReady e = true) (hu : partUp e s = true)
    (h : (dockOf e s).hold ≠ none ∨ (dockOf e s).contained = true) :
    dockCommand s c x e = discarded s c x 4 0x3F28 e := by
  have h' : ((dockOf e s).hold.isSome || (dockOf e s).contained) = true := by
    rwa [Bool.or_eq_true, Option.isSome_iff_ne_none]
  rw [dockCommand_seen hr hu, if_pos h']

theorem dockCommand_early (hr : isReady e = true) (hu : partUp e s = true) (hh : (dockOf e s).hold = none)
    (hc : (dockOf e s).contained = false) (h : ∃ l, (dockOf e s).lastCmd = some l ∧ c ≤ l + 7) :
    dockCommand s c x e = discarded s c x 2 0x3F20 e := by
  obtain ⟨l, hl, hlt⟩ := h
  rw [dockCommand_seen hr hu]
  simp [hh, hc, hl, hlt]

theorem dockCommand_taken (h : dockTakes e s c) : dockCommand s c x e =
    if !cmdWellFormed x then badCommand s x .badEntry 0x3F21 true (accepted s c e)
    else runCommand s c x (accepted s c e) := by
  obtain ⟨hr, hu, hh, hc, hl⟩ := h
  have hlast : ((dockOf e s).lastCmd.any fun t => c ≤ t + 7) = false := by
    rw [Option.any_eq_false]
    exact fun t ht => by simpa using hl t ht
  rw [dockCommand_seen hr hu, hh, hc, hlast]
  rfl

theorem dockCommand_malformed (h : dockTakes e s c) (hx : cmdWellFormed x = false) :
    dockCommand s c x e = badCommand s x .badEntry 0x3F21 true (accepted s c e) := by
  rw [dockCommand_taken h, hx]
  rfl

theorem dockCommand_runs (h : dockTakes e s c) (hx : cmdWellFormed x = true) :
    dockCommand s c x e = runCommand s c x (accepted s c e) := by
  rw [dockCommand_taken h, hx]
  rfl

end

/-! ### What the common parts of a command change -/

section
variable {s : Nat} (hs : s < 48)
include hs

theorem discarded_frame (c x : Nat) {k : Nat} (hk : 1 ≤ k ∧ k ≤ 12) (detail : Nat) (e : Eng) :
    let u := discarded s c x k detail e
    reg u (stIdx s 0x30) (k) = (reg e (stIdx s 0x30) (k) + 1) % 2 ^ 64 ∧ reg u (stIdx s 5) 2 = x ∧
      sameEntries [(stIdx s 0x30, k), (stIdx s 5, 2)] e u ∧
      u = { e with
        now := max e.now (e.spBase.getD 0 + c), regs := u.regs, raised := e.raised ++ [(s, detail)] } := by
  refine ⟨?_, ?_, ?_, rfl⟩
  · rw [discarded, reg_raise, reg_setReg_station (by decide) (by omega), if_neg (by omega),
      reg_bump_counter hs hk (by omega), if_pos ⟨rfl, rfl⟩,
      advanceCycle, reg_advanceTo]
  · rw [discarded, reg_raise, reg_setReg_same]
  · refine sameEntries.congr ?_ (raise_regs ..)
    refine sameEntries.setReg ?_ (by simp) (stIdx_lt hs (by decide)) (by decide) x
    refine sameEntries.bump ?_ (by simp) (stIdx_lt hs (by decide)) (by omega)
    exact (sameEntries_refl _ e).congr (advanceTo_regs ..)

theorem reg_accepted (c : Nat) (e : Eng) {a k : Nat} (hk : k < 256) : reg (accepted s c e) (stIdx s a) k =
    if a = 0x30 ∧ k = 1 then (reg e (stIdx s 0x30) 1 + 1) % 2 ^ 64 else reg e (stIdx s a) k :=
  reg_bump_counter hs (by decide) hk _

theorem accepted_entries (c : Nat) (e : Eng) : sameEntries [(stIdx s 0x30, 1)] e (accepted s c e) :=
  ((sameEntries_refl _ e).congr (u := onDock s _ (advanceCycle c e)) rfl).bump (by simp) (stIdx_lt hs (by decide))
    (by decide)

omit hs in
theorem accepted_dock (c : Nat) (e : Eng) : dockOf (accepted s c e) s = { dockOf e s with lastCmd := some c } :=
  dockOf_onDock_same s (fun d => { d with lastCmd := some c }) (advanceCycle c e)

omit hs in
theorem accepted_others (c : Nat) (e : Eng) : otherDocks s e (accepted s c e) :=
  fun _ hq => dockOf_onDock_other hq (fun d => { d with lastCmd := some c }) (advanceCycle c e)

omit hs in
theorem cmdStream_eq (x : Nat) : cmdStream x = x / 2 ^ 16 % 2 ^ 12 := rfl

omit hs in
theorem badCommand_kept (x : Nat) (st : Status) (detail : Nat) (e : Eng) : badCommand s x st detail false e =
    bump (stIdx s 0x30) 3 (streamEvent s (cmdStream x) st detail e) := rfl

omit hs in
theorem badCommand_discarded (x : Nat) (st : Status) (detail : Nat) (e : Eng) : badCommand s x st detail true e =
    setReg (stIdx s 5) 2 x (bump (stIdx s 0x30) 3 (streamEvent s (cmdStream x) st detail e)) := rfl

omit hs in
/-- A command that is taken and then changes dictionary values and raises faults. -/
theorem accepted_only {c : Nat} {ev : List (Nat × Nat)} {e u : Eng} (h : onlyEvents ev (accepted s c e) u) :
    u = { e with
      now := max e.now (e.spBase.getD 0 + c), regs := u.regs, docks := u.docks, raised := e.raised ++ ev } := by
  rw [h.docks]
  exact h

/-- A command that fails a check: its status, its count, and where it is discarded its bits (R192). -/
theorem badCommand_frame (x : Nat) (st : Status) (detail : Nat) (whole : Bool) (e : Eng) :
    let u := badCommand s x st detail whole e
    reg u (stIdx s 5) 1 = st.code + detail * 2 ^ 8 + x / 2 ^ 16 % 2 ^ 12 * 2 ^ 24 ∧
      reg u (stIdx s 0x30) 3 = (reg e (stIdx s 0x30) 3 + 1) % 2 ^ 64 ∧ (whole = true → reg u (stIdx s 5) 2 = x) ∧
      sameEntries [(stIdx s 0x30, 3), (stIdx s 5, 1), (stIdx s 5, 2)] e u ∧
      onlyEvents [(s, detail)] e u := by
  have honly := (streamEvent_only s (cmdStream x) st detail e).bump (stIdx s 0x30) 3
  have hidx {k : Nat} (hk : k < 64) : stIdx s k < 65536 := stIdx_lt hs hk
  have hsame : sameEntries [(stIdx s 0x30, 3), (stIdx s 5, 1), (stIdx s 5, 2)] e
      (bump (stIdx s 0x30) 3 (streamEvent s (cmdStream x) st detail e)) :=
    (((sameEntries_refl _ e).setReg (k := 1) (by simp) (hidx (by decide)) (by decide) _).congr
      (raise_regs ..)).bump (k := 3) (by simp) (hidx (by decide)) (by decide)
  have hreg {a k : Nat} (hk : k < 256) : reg (bump (stIdx s 0x30) 3 (streamEvent s (cmdStream x) st detail e))
      (stIdx s a) k = if a = 0x30 ∧ k = 3 then (reg e (stIdx s 0x30) 3 + 1) % 2 ^ 64
        else if a = 5 ∧ k = 1 then st.code + detail * 2 ^ 8 + x / 2 ^ 16 % 2 ^ 12 * 2 ^ 24 else reg e (stIdx s a) k := by
    rw [reg_bump_counter hs (by decide) hk, streamEvent, reg_raise, reg_raise,
      reg_setReg_station (by decide) hk, reg_setReg_station (by decide) (by decide), cmdStream_eq]
    rfl
  cases whole with
  | false =>
    rw [badCommand_kept]
    exact ⟨(hreg (by decide)).trans (if_neg (by decide)), hreg (by decide), nofun, hsame, honly⟩
  | true =>
    rw [badCommand_discarded]
    refine ⟨?_, ?_, fun _ => ?_, ?_, honly.setReg ..⟩
    · rw [reg_setReg_station (by decide) (by decide), hreg (by decide)]
      rfl
    · rw [reg_setReg_station (by decide) (by decide), hreg (by decide)]
      rfl
    · exact reg_setReg_same ..
    · exact hsame.setReg (by simp) (hidx (by decide)) (by decide) x

/-- A command that is taken and then fails a check (R191, R192). -/
theorem refused_frame (c x : Nat) (st : Status) (detail : Nat) (e : Eng) :
    let u := badCommand s x st detail true (accepted s c e)
    reg u (stIdx s 0x30) 1 = (reg e (stIdx s 0x30) 1 + 1) % 2 ^ 64 ∧
      reg u (stIdx s 5) 1 = st.code + detail * 2 ^ 8 + x / 2 ^ 16 % 2 ^ 12 * 2 ^ 24 ∧
      reg u (stIdx s 0x30) 3 = (reg e (stIdx s 0x30) 3 + 1) % 2 ^ 64 ∧ reg u (stIdx s 5) 2 = x ∧
      sameEntries [(stIdx s 0x30, 1), (stIdx s 0x30, 3), (stIdx s 5, 1), (stIdx s 5, 2)] e u ∧
      dockOf u s = { dockOf e s with lastCmd := some c } ∧ otherDocks s e u ∧
      onlyEvents [(s, detail)] (accepted s c e) u := by
  obtain ⟨hstatus, hbad, hword, hsame, honly⟩ := badCommand_frame hs x st detail true (accepted s c e)
  refine ⟨?_, hstatus, ?_, hword rfl, ?_, ?_, ?_, honly⟩
  · rw [hsame.reg (stIdx_lt hs (by decide)) (by decide) (by simp [stIdx_inj]), reg_accepted hs c e (by decide)]
    rfl
  · rw [hbad, reg_accepted hs c e (by decide)]
    rfl
  · exact ((accepted_entries hs c e).mono (by simp)).trans (hsame.mono (by simp))
  · rw [dockOf_congr honly.docks, ← accepted_dock]
  · exact .trans (accepted_others c e) (otherDocks_of_docks honly.docks)

end

/-! ### The commands of the table -/

/-- The bits [3:0] of a reserved operation are none of those that R190 gives a meaning. -/
theorem cmdWellFormed_of_reserved {x : Nat} (h : 8 ≤ x % 16) : cmdWellFormed x = false := by
  have hop : ¬bits x 0 4 < 8 := by simpa [bits] using h
  simp [cmdWellFormed, hop]

/-- Every row of the dock's table presents the word of its operation (R189, R190). -/
theorem exec_dockWord {s : Fin 48} {c : Nat} {w : BitVec 124} {op : Fin 8} {cmd : Instr} {x : Nat}
    (h : (cmd = .dockNop s c w ∧ x = dockWord 0 w) ∨ (cmd = .arm s c w ∧ x = dockWord 1 w) ∨
      (cmd = .start s c w ∧ x = dockWord 2 w) ∨ (cmd = .cancel s c w ∧ x = dockWord 3 w) ∨
      (cmd = .accept s c w ∧ x = dockWord 4 w) ∨ (cmd = .post s c w ∧ x = dockWord 5 w) ∨
      (cmd = .wake s c w ∧ x = dockWord 6 w) ∨ (cmd = .sleep s c w ∧ x = dockWord 7 w) ∨
      (cmd = .reservedDockCommand s c op w ∧ x = dockWord (8 + op.val) w)) (st : State) :
    exec cmd st = .next (onEng (dockCommand s.val c x) st) := by
  rcases h with ⟨rfl, rfl⟩ | ⟨rfl, rfl⟩ | ⟨rfl, rfl⟩ | ⟨rfl, rfl⟩ | ⟨rfl, rfl⟩ | ⟨rfl, rfl⟩ | ⟨rfl, rfl⟩ | ⟨rfl, rfl⟩ |
    ⟨rfl, rfl⟩ <;> rfl

theorem withEng {st : State} {u v : Eng} (h : u = v) : ({ st with eng := u } : State) = { st with eng := v } :=
  congrArg (fun e => ({ st with eng := e } : State)) h

end Sys2Proof.Machine

namespace Sys2Proof.Proofs

open Sys2Proof Sys2Proof.Machine

/-- Settles O35: which case of `dockCommand` a command meets, and what that case changes. -/
theorem dockCommandsTaken : Obligations.DockCommandsTaken := by
  intro s c w op cmd x st hcmd i now d runs
  have hexec := exec_dockWord hcmd st
  refine ⟨fun h => ?_, fun ⟨hr, hu⟩ h => ?_, fun ⟨hr, hu⟩ hh hc h => ?_, fun h hx => ?_, cmdWellFormed_of_reserved,
    fun h hx => ?_⟩
  · rw [hexec, onEng, dockCommand_unseen h]
    rfl
  · rw [onEng, dockCommand_held hr hu h] at hexec
    obtain ⟨hcount, hword, hsame, heng⟩ := discarded_frame s.isLt c x (k := 4) (by decide) 0x3F28 st.eng
    exact ⟨_, hexec, hcount, hword, hsame, withEng heng⟩
  · rw [onEng, dockCommand_early hr hu hh hc h] at hexec
    obtain ⟨hcount, hword, hsame, heng⟩ := discarded_frame s.isLt c x (k := 2) (by decide) 0x3F20 st.eng
    exact ⟨_, hexec, hcount, hword, hsame, withEng heng⟩
  · rw [onEng, dockCommand_malformed h hx] at hexec
    obtain ⟨htaken, hstatus, hbad, hword, hsame, hdock, hothers, honly⟩ :=
      refused_frame s.isLt c x .badEntry 0x3F21 st.eng
    exact ⟨_, hexec, htaken, hbad, hword, hstatus, hsame, hdock, hothers, withEng (accepted_only honly)⟩
  · subst hx
    rw [onEng, dockCommand_runs h (by decide)] at hexec
    exact ⟨_, hexec, (reg_accepted s.isLt c st.eng (by decide)), accepted_entries s.isLt c st.eng, accepted_dock ..,
      accepted_others c st.eng, rfl⟩

end Sys2Proof.Proofs
end

section
/-! PROOFS. Armed streams and holds (O36; spec/08_docks.md R190 to R192, R202, R203; spec/13_remote_sync.md R333). -/

namespace Sys2Proof.Machine

/-! ### Commands that run -/

theorem bits_dockWord {op : Nat} (h : op < 16) (w : BitVec 124) : bits (dockWord op w) 0 4 = op := by
  unfold bits dockWord
  omega

theorem reg_of_regs {e e' : Eng} (h : e'.regs = e.regs) (i k : Nat) : reg e' i k = reg e i k :=
  congrArg (storeGet regDefault · _) h

theorem runCommand_arm (s c : Nat) (w : BitVec 124) (e : Eng) :
    runCommand s c (dockWord 1 w) e = runArm s c (dockWord 1 w) e := by
  rw [runCommand, bits_dockWord (by decide)]
  rfl

/-- Entries of no station stay when a command is taken. -/
theorem reg_accepted_far {s : Nat} (hs : s < 48) (c : Nat) (e : Eng) {i k : Nat} (hi : i < 65536) (hk : k < 256)
    (h : i < 0x2000 ∨ 0x2C00 ≤ i) : reg (accepted s c e) i k = reg e i k := by
  refine (accepted_entries hs c e).reg hi hk ?_
  simp only [List.mem_singleton, Prod.mk.injEq, not_and, stIdx]
  omega

section
variable {s c slot : Nat} {e : Eng}

theorem accepted_record : recOf (dockOf (accepted s c e) s) slot = recOf (dockOf e s) slot := by
  rw [accepted_dock]
  rfl

theorem accepted_stream : streamOf (dockOf (accepted s c e) s) slot = streamOf (dockOf e s) slot := by
  rw [accepted_dock]
  rfl

theorem accepted_named (x : Nat) : namesRecord (dockOf (accepted s c e) s) x = namesRecord (dockOf e s) x := by
  rw [accepted_dock]
  rfl

theorem accepted_queueFree (hs : s < 48) : queueFree (accepted s c e) s slot (recOf (dockOf e s) slot) =
    queueFree e s slot (recOf (dockOf e s) slot) := by
  have hq : (recOf (dockOf e s) slot).queue < 16 := Nat.mod_lt _ (by decide)
  rw [queueFree, queueFree, reg_accepted hs c e (by omega), if_neg (by omega), accepted_dock]
  rfl

end

/-! ### ARM -/

section
variable {s c x : Nat} {e : Eng}

theorem runArm_parked (h : reg e 0x6000 1 = 6) : runArm s c x e = badCommand s x .orphaned 0x6063 true e := if_pos h

/-- An ARM whose gate is not satisfied: the dock holds, and may lend the station's allocation (R202, R333). -/
def armHeld (s c x : Nat) (r : StreamRec) (e : Eng) : Eng :=
  lendFor s r.gateCtr (onDock s (fun d =>
    { d with hold := some ⟨cmdSlot x, r.gateCtr, cmdCount x, bits x 28 4, c, none, none⟩ }) e)

/-- R202: what an ARM that passes every check does, by its stream's gate. -/
theorem runArm_passed {r : StreamRec} (hr : recOf (dockOf e s) (cmdSlot x) = r) (hp : reg e 0x6000 1 ≠ 6)
    (hn : namesRecord (dockOf e s) x = true) (hf : streamOf (dockOf e s) (cmdSlot x) = none)
    (hq : queueFree e s (cmdSlot x) r = true) :
    runArm s c x e = if r.gateEn && !gateMet (linkCtr e s r.gateCtr) (cmdCount x) then armHeld s c x r e
      else armStream s (cmdSlot x) c false e := by
  simp only [runArm, if_neg hp, hr, hn, hf, hq, Bool.not_true, Bool.false_eq_true, if_false, Option.isSome_none,
    Bool.or_self]
  rfl

theorem runArm_accepted (hs : s < 48) {r : StreamRec} (hr : recOf (dockOf e s) (cmdSlot x) = r)
    (hp : reg e 0x6000 1 ≠ 6) (hn : namesRecord (dockOf e s) x = true)
    (hf : streamOf (dockOf e s) (cmdSlot x) = none) (hq : queueFree e s (cmdSlot x) r = true) :
    let met := gateMet (reg e (stIdx s 3) (r.gateCtr + 1)) (cmdCount x)
    (r.gateEn = false ∨ met = true →
      runArm s c x (accepted s c e) = armStream s (cmdSlot x) c false (accepted s c e)) ∧
    (r.gateEn = true → met = false → runArm s c x (accepted s c e) = armHeld s c x r (accepted s c e)) := by
  have hpark : reg (accepted s c e) 0x6000 1 = reg e 0x6000 1 :=
    reg_accepted_far hs c e (by decide) (by decide) (.inr (by decide))
  have hctr : r.gateCtr < 32 := hr ▸ Nat.mod_lt _ (by decide)
  have hgate : linkCtr (accepted s c e) s r.gateCtr = reg e (stIdx s 3) (r.gateCtr + 1) := by
    rw [linkCtr, reg_accepted hs c e (by omega), if_neg (by omega)]
  have hrun := runArm_passed (c := c) (accepted_record.trans hr) (hpark ▸ hp) ((accepted_named x).trans hn)
    (accepted_stream.trans hf) (by rw [← hr, accepted_queueFree hs, hr, hq])
  rw [hgate] at hrun
  refine ⟨fun hg => hrun.trans (if_neg ?_), fun hen hmet => hrun.trans (if_pos ?_)⟩
  · rcases hg with hg | hg <;> simp [hg]
  · simp [hen, hmet]

theorem streamOf_setStream_other {slot k : Nat} (h : k ≠ slot) (y : Stream) (d : Dock) :
    streamOf (setStream slot y d) k = streamOf d k := by
  rw [streamOf, setStream, lookup_storeInsert (storeFree_erase slot d.streams), if_neg h, lookup_storeErase, if_neg h]
  rfl

theorem armStream_dock (s slot t : Nat) (expired : Bool) (e : Eng) : dockOf (armStream s slot t expired e) s =
    setStream slot { armedAt := t, expired, poisoned := expired } (dockOf e s) := dockOf_onDock_same ..

theorem armStream_others (s slot t : Nat) (expired : Bool) (e : Eng) : otherDocks s e (armStream s slot t expired e) :=
  otherDocks_onDock s _ { e with fw := { e.fw with busy := true } }

/-! ### The allocation of a station that waits -/

/-- What a message to the power chain adds depends on the clock and the port alone (R395). -/
theorem sendPwr_out_congr {a b : Eng} (w : Word32) (hn : a.now = b.now) (hp : a.powerOnAt = b.powerOnAt)
    (hl : a.power = b.power) (ho : a.out = b.out) : (sendPwr w a).out = (sendPwr w b).out := by
  simp only [sendPwr, pwrWaiting, hn, hp, hl, ho]

theorem lendFor_short {ctr : Nat} (h : storeGet (fun _ => 0) (dockOf e s).holdLens ctr ≤ reg e 0x5103 1) :
    lendFor s ctr e = e := if_neg (Nat.not_lt.mpr h)

/-- The dictionary and the dock with the station's allocation lent. -/
theorem lendFor_long {ctr : Nat} (h : reg e 0x5103 1 < storeGet (fun _ => 0) (dockOf e s).holdLens ctr) :
    lendFor s ctr e = sendPwr (lendWord 2 s) (setReg 0x1101 2 (reg e 0x1101 2 + 50)
      (bump 0x5120 8 (onDock s (fun d => { d with lent := true }) e))) := if_pos h

theorem lendFor_frame {ctr : Nat} (h : reg e 0x5103 1 < storeGet (fun _ => 0) (dockOf e s).holdLens ctr) :
    let u := lendFor s ctr e
    dockOf u s = { dockOf e s with lent := true } ∧ otherDocks s e u ∧ u.now = e.now ∧ u.raised = e.raised ∧
      u.out = (sendPwr (lendWord 2 s) e).out ∧ reg u 0x1101 2 = reg e 0x1101 2 + 50 ∧
      sameEntries [(0x5120, 8), (0x1101, 2)] e u := by
  rw [lendFor_long h]
  refine ⟨dockOf_onDock_same s (fun d => { d with lent := true }) e,
    .trans (otherDocks_onDock s (fun d => { d with lent := true }) e) (otherDocks_of_docks rfl), rfl, rfl,
    sendPwr_out_congr _ rfl rfl rfl rfl, ?_, ?_⟩
  · rw [reg_sendPwr, reg_setReg_same]
  · refine sameEntries.congr ?_ (sendPwr_regs ..)
    refine sameEntries.setReg ?_ (by simp) (by decide) (by decide) _
    refine sameEntries.bump ?_ (by simp) (by decide) (by decide)
    exact (sameEntries_refl _ e).congr rfl

theorem reclaim_kept (h : (dockOf e s).lent = false) : reclaim s e = e := by
  rw [reclaim, h]
  rfl

theorem reclaim_lent (h : (dockOf e s).lent = true) : reclaim s e = sendPwr (lendWord 3 s)
    (setReg 0x1101 2 (reg e 0x1101 2 - 50) (onDock s (fun d => { d with lent := false }) e)) := if_pos h

/-- R333: with the allocation taken back, the station has lent nothing. -/
theorem reclaim_frame (s : Nat) (e : Eng) :
    let u := reclaim s e
    dockOf u s = { dockOf e s with lent := false } ∧ otherDocks s e u ∧ u.now = e.now ∧ u.raised = e.raised ∧
      u.spBase = e.spBase ∧ u.out = (if (dockOf e s).lent then (sendPwr (lendWord 3 s) e).out else e.out) ∧
      reg u 0x1101 2 = reg e 0x1101 2 - (if (dockOf e s).lent then 50 else 0) ∧ sameEntries [(0x1101, 2)] e u := by
  cases h : (dockOf e s).lent with
  | false =>
    rw [reclaim_kept h]
    refine ⟨?_, fun _ _ => rfl, rfl, rfl, rfl, rfl, rfl, sameEntries_refl _ e⟩
    rw [← h]
  | true =>
    rw [reclaim_lent h]
    refine ⟨dockOf_onDock_same s (fun d => { d with lent := false }) e,
      .trans (otherDocks_onDock s (fun d => { d with lent := false }) e) (otherDocks_of_docks rfl), rfl, rfl, rfl,
      sendPwr_out_congr _ rfl rfl rfl rfl, ?_, ?_⟩
    · rw [reg_sendPwr, reg_setReg_same]
      rfl
    · refine sameEntries.congr ?_ (sendPwr_regs ..)
      refine sameEntries.setReg ?_ (by simp) (by decide) (by decide) _
      exact (sameEntries_refl _ e).congr rfl

end

section
variable {s : Nat} (hs : s < 48)
include hs

/-- R190: an armed stream. -/
theorem armed_frame (c slot : Nat) (e : Eng) :
    let u := armStream s slot c false (accepted s c e)
    reg u (stIdx s 0x30) 1 = (reg e (stIdx s 0x30) 1 + 1) % 2 ^ 64 ∧ u.raised = e.raised ∧ otherDocks s e u ∧
      dockOf u s = setStream slot { armedAt := c } { dockOf e s with lastCmd := some c } ∧ u.out = e.out ∧
      sameEntries [(stIdx s 0x30, 1)] e u := by
  refine ⟨reg_accepted hs c e (by decide), rfl,
    .trans (accepted_others c e) (armStream_others s slot c false _), ?_, rfl, (accepted_entries hs c e).congr rfl⟩
  rw [armStream_dock, accepted_dock]

/-- R202: a dock that holds, before any lending. -/
theorem held_frame (c : Nat) (h : Hold) (e : Eng) :
    let v := onDock s (fun d => { d with hold := some h }) (accepted s c e)
    reg v (stIdx s 0x30) 1 = (reg e (stIdx s 0x30) 1 + 1) % 2 ^ 64 ∧ otherDocks s e v ∧
      dockOf v s = { dockOf e s with lastCmd := some c, hold := some h } ∧ sameEntries [(stIdx s 0x30, 1)] e v := by
  refine ⟨reg_accepted hs c e (by decide), .trans (accepted_others c e) (otherDocks_onDock s _ _), ?_,
    (accepted_entries hs c e).congr rfl⟩
  rw [dockOf_onDock_same, accepted_dock]

/-- R202, R333: a hold begins, and lends the allocation where its predicted length lies above the threshold. -/
theorem armHeld_frame (c x : Nat) (r : StreamRec) (e : Eng) :
    let u := armHeld s c x r (accepted s c e)
    let h : Hold := ⟨cmdSlot x, r.gateCtr, cmdCount x, bits x 28 4, c, none, none⟩
    let len := storeGet (fun _ => 0) (dockOf e s).holdLens r.gateCtr
    reg u (stIdx s 0x30) 1 = (reg e (stIdx s 0x30) 1 + 1) % 2 ^ 64 ∧ u.raised = e.raised ∧ otherDocks s e u ∧
      (len ≤ reg e 0x5103 1 → dockOf u s = { dockOf e s with lastCmd := some c, hold := some h } ∧ u.out = e.out ∧
        sameEntries [(stIdx s 0x30, 1)] e u) ∧
      (reg e 0x5103 1 < len →
        dockOf u s = { dockOf e s with lastCmd := some c, hold := some h, lent := true } ∧
        u.out = (sendPwr (lendWord 2 s) { e with now := u.now }).out ∧ reg u 0x1101 2 = reg e 0x1101 2 + 50 ∧
        sameEntries [(stIdx s 0x30, 1), (0x5120, 8), (0x1101, 2)] e u) := by
  intro u h len
  obtain ⟨hcount, hothers, hdock, hsame⟩ := held_frame hs c h e
  set v := onDock s (fun d => { d with hold := some h }) (accepted s c e)
  have hu : u = lendFor s r.gateCtr v := rfl
  have hlen : storeGet (fun _ => 0) (dockOf v s).holdLens r.gateCtr = len := by rw [hdock]
  have hlimit : reg v 0x5103 1 = reg e 0x5103 1 := hsame.reg (by decide) (by decide) (by simp [stIdx]; omega)
  have hwatts : reg v 0x1101 2 = reg e 0x1101 2 := hsame.reg (by decide) (by decide) (by simp)
  rcases Nat.lt_or_ge (reg e 0x5103 1) len with hlt | hle
  · obtain ⟨ldock, lothers, lnow, lraised, lout, lwatts, lsame⟩ := lendFor_frame (s := s) (e := v) (ctr := r.gateCtr)
      (by rwa [hlen, hlimit])
    rw [← hu] at ldock lothers lnow lraised lout lwatts lsame
    refine ⟨?_, lraised, .trans hothers lothers, fun hle => absurd hlt (Nat.not_lt.mpr hle), fun _ => ⟨?_, ?_, ?_, ?_⟩⟩
    · rw [lsame.reg (stIdx_lt hs (by decide)) (by decide) (by simp), hcount]
    · rw [ldock, hdock]
    · exact lout.trans (sendPwr_out_congr _ lnow.symm rfl rfl rfl)
    · rw [lwatts, hwatts]
    · exact (hsame.mono (by simp)).trans (lsame.mono (by simp))
  · have hkept : u = v := lendFor_short (by rwa [hlen, hlimit])
    rw [hkept]
    exact ⟨hcount, rfl, hothers, fun _ => ⟨hdock, rfl, hsame⟩, fun hlt => absurd hlt (Nat.not_lt.mpr hle)⟩

end

/-! ### The end of a hold -/

/-- R202: the aligned frame boundaries, and the first of them at least 128 ARCLK after a moment. -/
theorem releaseAt_bounds (m align : Nat) : 2 ^ align * 8192 ∣ releaseAt m align ∧ m + 128 ≤ releaseAt m align ∧
    releaseAt m align < m + 128 + 2 ^ align * 8192 := by
  have hpos : 0 < 2 ^ align * 8192 := by positivity
  have hdiv := Nat.div_add_mod' (m + 128 + 2 ^ align * 8192 - 1) (2 ^ align * 8192)
  have hmod := Nat.mod_lt (m + 128 + 2 ^ align * 8192 - 1) hpos
  have hat : releaseAt m align = (m + 128 + 2 ^ align * 8192 - 1) / (2 ^ align * 8192) * (2 ^ align * 8192) := rfl
  rw [hat]
  exact ⟨Nat.dvd_mul_left .., by omega, by omega⟩

theorem heldBy_eq_none {h : Hold} {limit : Nat} (hl : ∀ m, h.first = some m → limit < m) :
    h.heldBy limit = none := by
  rw [Hold.heldBy, Option.filter_eq_none_iff]
  exact fun m hm => by simpa using hl m hm

theorem heldBy_eq_some {h : Hold} {limit m : Nat} (hf : h.first = some m) (hm : m ≤ limit) :
    h.heldBy limit = some m := by
  rw [Hold.heldBy, hf, Option.filter_some, decide_eq_true hm, if_pos rfl]

/-- A station whose hold has ended, its length kept for the gate counter (R333). -/
def holdEnded (s : Nat) (h : Hold) (t : Nat) (e : Eng) : Eng :=
  onDock s (fun d => { d with
    hold := none, holdLens := storeSet (fun _ => 0) h.ctr ((t - h.since) / 2) d.holdLens }) (advanceCycle t e)

theorem endHoldAt_eq (s : Nat) (h : Hold) (t : Nat) (expired : Bool) (e : Eng) :
    endHoldAt s h t expired e = armStream s h.slot t expired (holdEnded s h t e) := rfl

theorem holdEnded_dock (s : Nat) (h : Hold) (t : Nat) (e : Eng) : dockOf (holdEnded s h t e) s = { dockOf e s with
    hold := none, holdLens := storeSet (fun _ => 0) h.ctr ((t - h.since) / 2) (dockOf e s).holdLens } :=
  dockOf_onDock_same s (fun d => { d with
    hold := none, holdLens := storeSet (fun _ => 0) h.ctr ((t - h.since) / 2) d.holdLens }) (advanceCycle t e)

theorem holdEnded_others (s : Nat) (h : Hold) (t : Nat) (e : Eng) : otherDocks s e (holdEnded s h t e) :=
  fun _ hq => dockOf_onDock_other hq (fun d => { d with
    hold := none, holdLens := storeSet (fun _ => 0) h.ctr ((t - h.since) / 2) d.holdLens }) (advanceCycle t e)

/-- R202, R203: at the end of a hold the dock is free and its stream armed. -/
theorem endHoldAt_frame (s : Nat) (h : Hold) (t : Nat) (expired : Bool) (e : Eng) :
    let u := endHoldAt s h t expired e
    (dockOf u s).hold = none ∧ (dockOf u s).lent = (dockOf e s).lent ∧
      streamOf (dockOf u s) h.slot = some { armedAt := t, expired, poisoned := expired } ∧
      (∀ k, k ≠ h.slot → streamOf (dockOf u s) k = streamOf (dockOf e s) k) ∧ u.regs = e.regs ∧
      u.raised = e.raised ∧ u.out = e.out ∧ u.now = max e.now (e.spBase.getD 0 + t) ∧ otherDocks s e u := by
  have hdock := (armStream_dock s h.slot t expired (holdEnded s h t e)).trans
    (congrArg (setStream h.slot _) (holdEnded_dock s h t e))
  rw [endHoldAt_eq]
  refine ⟨?_, ?_, ?_, fun k hk => ?_, rfl, rfl, rfl, rfl, ?_⟩
  · rw [hdock]
    rfl
  · rw [hdock]
    rfl
  · rw [hdock, streamOf_setStream_same]
  · rw [hdock, streamOf_setStream_other hk]
    rfl
  · exact .trans (holdEnded_others s h t e) (armStream_others s h.slot t expired _)

/-! ### The commands -/

section
variable {s : Fin 48} {c : Nat} {w : BitVec 124} {st : State}

theorem exec_arm (h : dockTakes st.eng s.val c) (hx : cmdWellFormed (dockWord 1 w) = true) {u : Eng}
    (hu : runArm s.val c (dockWord 1 w) (accepted s.val c st.eng) = u) :
    exec (.arm s c w) st = .next { st with eng := u } := by
  rw [← hu, ← runCommand_arm, ← dockCommand_runs h hx]
  rfl

theorem exec_gateConditionMet_late {h : Hold} (hh : (dockOf st.eng s.val).hold = some h)
    (hb : h.heldBy (holdLimit st.eng s.val h) = none) : exec (.gateConditionMet s) st = .next st := by
  simp only [exec, execGateConditionMet, onEng, hh, hb]
  cases h.met <;> rfl

/-- A station whose gate has been satisfied: the allocation back, the release set (R202, R333). -/
def gateSatisfied (s : Nat) (h : Hold) (m : Nat) (e : Eng) : Eng :=
  reclaim s (onDock s (fun d => { d with hold := some { h with met := some m } }) e)

theorem exec_gateConditionMet_held {h : Hold} {m : Nat} (hh : (dockOf st.eng s.val).hold = some h) (hm : h.met = none)
    (hb : h.heldBy (holdLimit st.eng s.val h) = some m) :
    exec (.gateConditionMet s) st = .next { st with eng := gateSatisfied s.val h m st.eng } := by
  simp only [exec, execGateConditionMet, onEng, hh, hm, hb]
  rfl

theorem exec_holdRelease {h : Hold} {m : Nat} (hh : (dockOf st.eng s.val).hold = some h) (hm : h.met = some m) :
    exec (.holdRelease s) st =
      .next { st with eng := endHoldAt s.val h (releaseAt m h.align) false st.eng } := by
  simp only [exec, execHoldRelease, onEng, hh, hm]

theorem exec_linkWaitExpiry_held {h : Hold} (hh : (dockOf st.eng s.val).hold = some h)
    (hb : (h.heldBy (holdLimit st.eng s.val h)).isSome = true) : exec (.linkWaitExpiry s) st = .next st := by
  simp only [exec, execLinkWaitExpiry, onEng, hh, hb, if_true]

/-- A station whose hold has expired (R203). -/
def holdExpired (s : Nat) (h : Hold) (e : Eng) : Eng :=
  bump (stIdx s 0x30) 12 (streamEvent s (recOf (dockOf e s) h.slot).id .waitExpired 0x3F34
    (endHoldAt s h (releaseAt (holdLimit e s h) h.align) true (reclaim s e)))

theorem exec_linkWaitExpiry_expired {h : Hold} (hh : (dockOf st.eng s.val).hold = some h)
    (hb : h.heldBy (holdLimit st.eng s.val h) = none) :
    exec (.linkWaitExpiry s) st = .next { st with eng := holdExpired s.val h st.eng } := by
  simp only [exec, execLinkWaitExpiry, onEng, hh, hb, Option.isSome_none, Bool.false_eq_true, if_false]
  rfl

end

/-- R203, R333: what an expired hold leaves. -/
theorem holdExpired_frame {s : Nat} (hs : s < 48) (h : Hold) (e : Eng) :
    let u := holdExpired s h e
    let at_ := releaseAt (h.since + 8192 * reg e (stIdx s 4) 2) h.align
    (dockOf u s).hold = none ∧ (dockOf u s).lent = false ∧
      reg u 0x1101 2 = reg e 0x1101 2 - (if (dockOf e s).lent then 50 else 0) ∧
      u.out = (if (dockOf e s).lent then (sendPwr (lendWord 3 s) e).out else e.out) ∧
      streamOf (dockOf u s) h.slot = some { armedAt := at_, expired := true, poisoned := true } ∧
      reg u (stIdx s 5) 1 = Status.waitExpired.code + 0x3F34 * 2 ^ 8 + (recOf (dockOf e s) h.slot).id * 2 ^ 24 ∧
      reg u (stIdx s 0x30) 12 = (reg e (stIdx s 0x30) 12 + 1) % 2 ^ 64 ∧
      sameEntries [(stIdx s 5, 1), (stIdx s 0x30, 12), (0x1101, 2)] e u ∧ u.raised = e.raised ++ [(s, 0x3F34)] ∧
      otherDocks s e u := by
  intro u at_
  obtain ⟨rdock, rothers, -, rraised, -, rout, rwatts, rsame⟩ := reclaim_frame s e
  obtain ⟨hnone, hlent, hstream, -, hregs, hraised, hout, -, hothers⟩ := endHoldAt_frame s h at_ true (reclaim s e)
  set v := endHoldAt s h at_ true (reclaim s e)
  set id := (recOf (dockOf e s) h.slot).id
  have hu : u = bump (stIdx s 0x30) 12 (streamEvent s id .waitExpired 0x3F34 v) := rfl
  have honly := (streamEvent_only s id .waitExpired 0x3F34 v).bump (stIdx s 0x30) 12
  rw [← hu] at honly
  have hdock := dockOf_congr honly.docks
  have hsame : sameEntries [(stIdx s 5, 1), (stIdx s 0x30, 12)] (reclaim s e) u := by
    rw [hu, streamEvent]
    refine sameEntries.bump ?_ (by simp) (stIdx_lt hs (by decide)) (by decide)
    refine sameEntries.congr ?_ (raise_regs ..)
    refine sameEntries.setReg ?_ (by simp) (stIdx_lt hs (by decide)) (by decide) _
    exact (sameEntries_refl _ _).congr hregs
  refine ⟨?_, ?_, ?_, ?_, ?_, ?_, ?_, ?_, ?_, ?_⟩
  · rw [hdock, hnone]
  · rw [hdock, hlent, rdock]
  · rw [hsame.reg (by decide) (by decide) (by simp), rwatts]
  · rw [honly.out, hout, rout]
  · rw [hdock, hstream]
  · rw [hu, reg_bump_counter hs (by decide) (by decide), streamEvent, reg_raise, reg_raise, reg_setReg_same]
    rfl
  · rw [hu, reg_bump_counter hs (by decide) (by decide), if_pos ⟨rfl, rfl⟩, streamEvent, reg_raise,
      reg_setReg_station (by decide) (by decide), if_neg (by decide), reg_of_regs hregs,
      rsame.reg (stIdx_lt hs (by decide)) (by decide) (by simp)]
  · exact (rsame.mono (by simp)).trans (hsame.mono (by simp))
  · rw [honly.raised, hraised, rraised]
  · exact .trans rothers (.trans hothers (otherDocks_of_docks honly.docks))

/-- R333: a gate that has been satisfied. -/
theorem gateSatisfied_frame (s : Nat) (h : Hold) (m : Nat) (e : Eng) :
    let u := gateSatisfied s h m e
    otherDocks s e u ∧ u.now = e.now ∧
      dockOf u s = { dockOf e s with lent := false, hold := some { h with met := some m } } ∧
      ((dockOf e s).lent = true → u.out = (sendPwr (lendWord 3 s) e).out ∧
        reg u 0x1101 2 = reg e 0x1101 2 - 50 ∧ sameEntries [(0x1101, 2)] e u) ∧
      ((dockOf e s).lent = false → u.out = e.out ∧ u.regs = e.regs) := by
  intro u
  set v := onDock s (fun d => { d with hold := some { h with met := some m } }) e
  have hv : dockOf v s = { dockOf e s with hold := some { h with met := some m } } :=
    dockOf_onDock_same s (fun d => { d with hold := some { h with met := some m } }) e
  have hlent : (dockOf v s).lent = (dockOf e s).lent := by rw [hv]
  obtain ⟨rdock, rothers, rnow, -, -, rout, rwatts, rsame⟩ := reclaim_frame s v
  rw [hv] at rdock
  rw [hlent] at rout rwatts
  refine ⟨.trans (otherDocks_onDock s _ e) rothers, rnow, rdock, fun hl => ?_, fun hl => ?_⟩
  · rw [if_pos hl] at rout rwatts
    exact ⟨rout.trans (sendPwr_out_congr _ rfl rfl rfl rfl), rwatts, ((sameEntries_refl _ e).congr rfl).trans rsame⟩
  · have hkept : u = v := reclaim_kept (hlent.trans hl)
    rw [hkept]
    exact ⟨rfl, rfl⟩

end Sys2Proof.Machine

namespace Sys2Proof.Proofs

open Sys2Proof Sys2Proof.Machine

/-- Settles O36: the cases of an ARM, and then those of a hold, by the moment at which its gate was first met. -/
theorem streamsArmAndHold : Obligations.StreamsArmAndHold := by
  intro s c w st i x d slot r ctr
  refine ⟨fun h hx hp => ?_, fun h hx hp hn hf hq => ?_, fun h hh => ?_⟩
  · obtain ⟨-, -, -, hword, -, hdock, hothers, honly⟩ := refused_frame s.isLt c x .orphaned 0x6063 st.eng
    have hpark := (reg_accepted_far s.isLt c st.eng (by decide) (by decide) (by decide)).trans hp
    exact ⟨_, exec_arm h hx (runArm_parked hpark), honly.raised, hword, hdock, hothers⟩
  · obtain ⟨harms, hholds⟩ := runArm_accepted (c := c) s.isLt rfl hp hn hf hq
    by_cases hg : r.gateEn = false ∨ gateMet ctr (x / 2 ^ 64 % 2 ^ 32) = true
    · obtain ⟨hcount, hraised, hothers, hdock, hout, hsame⟩ := armed_frame s.isLt c slot st.eng
      refine ⟨_, exec_arm h hx (harms hg), hcount, hraised, hothers, fun _ => ⟨hdock, hout, hsame⟩, fun hen hmet => ?_⟩
      rcases hg with hg | hg
      · exact absurd (hen.symm.trans hg) nofun
      · exact absurd (hmet.symm.trans hg) nofun
    · obtain ⟨hen, hmet⟩ := not_or.mp hg
      obtain ⟨hcount, hraised, hothers, hlends⟩ := armHeld_frame s.isLt c x r st.eng
      exact ⟨_, exec_arm h hx (hholds (Bool.eq_true_of_not_eq_false hen) (Bool.eq_false_of_not_eq_true hmet)), hcount, hraised,
        hothers, fun hno => absurd hno hg, fun _ _ => hlends⟩
  · intro limit
    refine ⟨fun hl => exec_gateConditionMet_late hh (heldBy_eq_none hl), fun m hm hf hle => ?_, fun m hm => ?_,
      fun hl => ?_⟩
    · have hb : h.heldBy (holdLimit st.eng s.val h) = some m := heldBy_eq_some hf hle
      exact ⟨exec_linkWaitExpiry_held hh (by rw [hb]; rfl), _, exec_gateConditionMet_held hh hm hb,
        gateSatisfied_frame ..⟩
    · obtain ⟨hdvd, hlo, hhi⟩ := releaseAt_bounds m h.align
      obtain ⟨hnone, -, hstream, hstreams, hregs, -, -, hnow, hothers⟩ :=
        endHoldAt_frame s.val h (releaseAt m h.align) false st.eng
      exact ⟨_, _, exec_holdRelease hh hm, hdvd, hlo, hhi, hnone, hstream, hstreams, hregs, hnow, hothers⟩
    · obtain ⟨hdvd, hlo, hhi⟩ := releaseAt_bounds limit h.align
      exact ⟨_, _, exec_linkWaitExpiry_expired hh (heldBy_eq_none hl), hdvd, hlo, hhi, holdExpired_frame s.isLt h st.eng⟩

end Sys2Proof.Proofs
end

section
/-! PROOFS. The start, the acceptance and the cancelling of streams (O37; spec/08_docks.md R190, R192, R199, R207). -/

namespace Sys2Proof.Machine

/-! ### START and ACCEPT -/

/-- Whether the formats of a stream's profile fit its record (R151, R192 check 0x3F26). -/
def profileFits (r : StreamRec) (profile : Nat) : Bool :=
  streamRules (streamTmd r profile).ops (streamTmd r profile).src (streamTmd r profile).dst

/-- Whether the unit group that serves streams of a kind is open (R207). -/
def groupServes (d : Dock) (kind : Nat) : Bool := (if kind = 1 then d.operandGate else d.resultGate).isOpen

/-- Whether a stream that starts would meet another one (R192 check 0x3F25). -/
def startClashes (d : Dock) (kind slot c : Nat) (r : StreamRec) (profile : Nat) : Bool :=
  if kind = 1 then deliversAfter d slot (c + startLatency r.decode (emptyChain profile)) else resultOpen d slot

/-- A stream at its start, poisoned where its profile or its unit group does not serve it (R190, R192). -/
def startedStream (e : Eng) (s c profile : Nat) (served : Bool) (y : Stream) : Stream :=
  { y with
    started := some c, profile, rows := reg e (stIdx s 0x11) 1, cols := reg e (stIdx s 0x11) 2,
    sel := reg e (stIdx s 0x11) 3, poisoned := y.poisoned || !served }

/-- A stream that has started, counted (R208). -/
def streamStarted (s slot : Nat) (z : Stream) (e : Eng) : Eng :=
  bump (stIdx s 0x30) 5 (onDock s (setStream slot z) e)

/-- A stream that has started and is not served: its event, which discards nothing (R192). -/
def noteServed (s x : Nat) (fits group : Bool) (v : Eng) : Eng :=
  if !fits then badCommand s x .badView 0x3F26 false v
  else if !group then badCommand s x .denied 0x3F27 false v
  else v

theorem noteServed_unfit (s x : Nat) (group : Bool) (v : Eng) :
    noteServed s x false group v = badCommand s x .badView 0x3F26 false v := by
  simp only [noteServed, Bool.not_false, if_true]

theorem noteServed_closed (s x : Nat) (v : Eng) :
    noteServed s x true false v = badCommand s x .denied 0x3F27 false v := by
  simp only [noteServed, Bool.not_false, Bool.not_true, Bool.false_eq_true, if_true, if_false]

theorem noteServed_served (s x : Nat) (v : Eng) : noteServed s x true true v = v := by
  simp only [noteServed, Bool.not_true, Bool.false_eq_true, if_false]

/-- The start of a slot's armed stream (R190, R192). -/
def startStream (s c x kind : Nat) (r : StreamRec) (profile : Nat) (y : Stream) (e : Eng) : Eng :=
  noteServed s x (profileFits r profile) (groupServes (dockOf e s) kind) (streamStarted s (cmdSlot x)
    (startedStream e s c profile (profileFits r profile && groupServes (dockOf e s) kind) y) e)

section
variable {s c x kind : Nat} {e : Eng}

theorem runCommand_start (s c : Nat) (w : BitVec 124) (e : Eng) :
    runCommand s c (dockWord 2 w) e = runStart 1 s c (dockWord 2 w) e := by
  rw [runCommand, bits_dockWord (by decide)]
  rfl

theorem runCommand_accept (s c : Nat) (w : BitVec 124) (e : Eng) :
    runCommand s c (dockWord 4 w) e = runStart 2 s c (dockWord 4 w) e := by
  rw [runCommand, bits_dockWord (by decide)]
  rfl

theorem runStart_unarmed (hn : namesRecord (dockOf e s) x = true) (h : streamOf (dockOf e s) (cmdSlot x) = none) :
    runStart kind s c x e = badCommand s x .denied 0x3F24 true e := by
  simp only [runStart, hn, h, Bool.not_true, Bool.false_eq_true, if_false]

section
variable {y : Stream} {r : StreamRec} {profile det : Nat} (hn : namesRecord (dockOf e s) x = true)
  (h : streamOf (dockOf e s) (cmdSlot x) = some y) (hr : recOf (dockOf e s) (cmdSlot x) = r)
  (hprofile : reg e (stIdx s (0x18 + cmdProfile x)) 1 = profile)
include hn h hr hprofile

/-- R192: what START or ACCEPT does with a slot's stream, check by check. -/
theorem runStart_armed : runStart kind s c x e =
    if r.kind ≠ kind ∨ y.started.isSome ∨ y.cancelAt.isSome then badCommand s x .denied 0x3F24 true e
    else if startClashes (dockOf e s) kind (cmdSlot x) c r profile then badCommand s x .denied 0x3F25 true e
    else startStream s c x kind r profile y e := by
  have hpoison (fits group : Bool) : (y.poisoned || !(fits && group)) = (y.poisoned || !fits || !group) := by
    rw [Bool.not_and, Bool.or_assoc]
  simp only [runStart, hn, h, hr, hprofile, Bool.not_true, Bool.false_eq_true, if_false, startStream, startedStream,
    hpoison]
  rfl

theorem runStart_starts (hkind : r.kind = kind) (hstart : y.started = none) (hcancel : y.cancelAt = none)
    (hclash : startClashes (dockOf e s) kind (cmdSlot x) c r profile = false) :
    runStart kind s c x e = startStream s c x kind r profile y e := by
  rw [runStart_armed hn h hr hprofile, if_neg (by simp [hkind, hstart, hcancel]), hclash, if_neg Bool.false_ne_true]

/-- The states of a slot's stream in which neither START nor ACCEPT starts it, with the detail of each (R192). -/
theorem runStart_refused
    (hdet : (r.kind ≠ kind ∨ y.started.isSome = true ∨ y.cancelAt.isSome = true) ∧ det = 0x3F24 ∨
      r.kind = kind ∧ y.started = none ∧ y.cancelAt = none ∧
        startClashes (dockOf e s) kind (cmdSlot x) c r profile = true ∧ det = 0x3F25) :
    runStart kind s c x e = badCommand s x .denied det true e := by
  rw [runStart_armed hn h hr hprofile]
  rcases hdet with ⟨hspent, rfl⟩ | ⟨hkind, hstart, hcancel, hclash, rfl⟩
  · exact if_pos hspent
  · rw [if_neg (by simp [hkind, hstart, hcancel]), if_pos hclash]

end

end

/-! ### A command that starts a stream -/

theorem cmdProfile_lt (x : Nat) : cmdProfile x < 8 := Nat.mod_lt _ (by decide)

/-- What every stream that starts has changed, whether it is served or not (R190, R208). -/
structure Started (s slot : Nat) (z : Stream) (e u : Eng) : Prop where
  stream : streamOf (dockOf u s) slot = some z
  streams : ∀ k, k ≠ slot → streamOf (dockOf u s) k = streamOf (dockOf e s) k
  others : otherDocks s e u
  taken : reg u (stIdx s 0x30) 1 = (reg e (stIdx s 0x30) 1 + 1) % 2 ^ 64
  counted : reg u (stIdx s 0x30) 5 = (reg e (stIdx s 0x30) 5 + 1) % 2 ^ 64
  out : u.out = e.out

section
variable {s : Nat} (hs : s < 48)
include hs

theorem accepted_profile (c x : Nat) (e : Eng) : reg (accepted s c e) (stIdx s (0x18 + cmdProfile x)) 1 =
    reg e (stIdx s (0x18 + cmdProfile x)) 1 := by
  have hp := cmdProfile_lt x
  rw [reg_accepted hs c e (by decide), if_neg (by omega)]

theorem accepted_startedStream (c profile : Nat) (served : Bool) (y : Stream) (e : Eng) :
    startedStream (accepted s c e) s c profile served y = startedStream e s c profile served y := by
  simp only [startedStream, reg_accepted hs c e (show 1 < 256 by decide), reg_accepted hs c e (show 2 < 256 by decide),
    reg_accepted hs c e (show 3 < 256 by decide)]
  rfl

omit hs in
theorem accepted_groupServes (c kind : Nat) (e : Eng) :
    groupServes (dockOf (accepted s c e) s) kind = groupServes (dockOf e s) kind := by
  rw [accepted_dock]
  rfl

omit hs in
theorem accepted_startClashes (c kind slot : Nat) (r : StreamRec) (profile : Nat) (e : Eng) :
    startClashes (dockOf (accepted s c e) s) kind slot c r profile =
      startClashes (dockOf e s) kind slot c r profile := by
  rw [accepted_dock]
  rfl

theorem streamStarted_frame (c slot : Nat) (z : Stream) (e : Eng) :
    let v := streamStarted s slot z (accepted s c e)
    Started s slot z e v ∧ v.raised = e.raised ∧ sameEntries [(stIdx s 0x30, 1), (stIdx s 0x30, 5)] e v := by
  intro v
  have hv : v = bump (stIdx s 0x30) 5 (onDock s (setStream slot z) (accepted s c e)) := rfl
  have hdock : dockOf v s = setStream slot z (dockOf (accepted s c e) s) := dockOf_onDock_same ..
  refine ⟨⟨?_, fun k hk => ?_, ?_, ?_, ?_, rfl⟩, rfl, ?_⟩
  · rw [hdock, streamOf_setStream_same]
  · rw [hdock, streamOf_setStream_other hk, accepted_stream]
  · exact .trans (accepted_others c e) (.trans (otherDocks_onDock s (setStream slot z) _) (otherDocks_of_docks rfl))
  · rw [hv, reg_bump_counter hs (by decide) (by decide), if_neg (by decide),
      reg_onDock, reg_accepted hs c e (by decide), if_pos ⟨rfl, rfl⟩]
  · rw [hv, reg_bump_counter hs (by decide) (by decide), if_pos ⟨rfl, rfl⟩,
      reg_onDock, reg_accepted hs c e (by decide), if_neg (by decide)]
  · rw [hv]
    refine sameEntries.bump ?_ (by simp) (stIdx_lt hs (by decide)) (by decide)
    exact ((accepted_entries hs c e).mono (by simp)).congr (onDock_regs ..)

/-- An event of a stream that has started leaves it started. -/
theorem Started.noted {slot : Nat} {z : Stream} {e v : Eng} (h : Started s slot z e v) (x : Nat) (st : Status)
    (detail : Nat) : Started s slot z e (badCommand s x st detail false v) := by
  obtain ⟨-, -, -, hsame, honly⟩ := badCommand_frame hs x st detail false v
  have hdock := dockOf_congr honly.docks
  refine ⟨?_, fun k hk => ?_, .trans h.others (otherDocks_of_docks honly.docks), ?_, ?_, honly.out.trans h.out⟩
  · rw [hdock, h.stream]
  · rw [hdock, h.streams k hk]
  · rw [hsame.reg (stIdx_lt hs (by decide)) (by decide) (by simp [stIdx_inj]), h.taken]
  · rw [hsame.reg (stIdx_lt hs (by decide)) (by decide) (by simp [stIdx_inj]), h.counted]

/-- R190, R192: a started stream, with the event of one that is not served. -/
theorem noteServed_frame (c x : Nat) (z : Stream) (fits group : Bool) (e : Eng) :
    let u := noteServed s x fits group (streamStarted s (cmdSlot x) z (accepted s c e))
    Started s (cmdSlot x) z e u ∧
      (fits = true → group = true → u.raised = e.raised ∧
        sameEntries [(stIdx s 0x30, 1), (stIdx s 0x30, 5)] e u) ∧
      (fits = false → u.raised = e.raised ++ [(s, 0x3F26)] ∧
        reg u (stIdx s 5) 1 = Status.badView.code + 0x3F26 * 2 ^ 8 + x / 2 ^ 16 % 2 ^ 12 * 2 ^ 24) ∧
      (fits = true → group = false → u.raised = e.raised ++ [(s, 0x3F27)] ∧
        reg u (stIdx s 5) 1 = Status.denied.code + 0x3F27 * 2 ^ 8 + x / 2 ^ 16 % 2 ^ 12 * 2 ^ 24) := by
  obtain ⟨hstarted, hraised, hsame⟩ := streamStarted_frame hs c (cmdSlot x) z e
  set v := streamStarted s (cmdSlot x) z (accepted s c e)
  cases fits with
  | false =>
    rw [noteServed_unfit]
    obtain ⟨hstatus, -, -, -, honly⟩ := badCommand_frame hs x .badView 0x3F26 false v
    exact ⟨hstarted.noted hs x .badView 0x3F26, nofun, fun _ => ⟨honly.raised.trans (by rw [hraised]), hstatus⟩, nofun⟩
  | true =>
    cases group with
    | false =>
      rw [noteServed_closed]
      obtain ⟨hstatus, -, -, -, honly⟩ := badCommand_frame hs x .denied 0x3F27 false v
      exact ⟨hstarted.noted hs x .denied 0x3F27, nofun, nofun,
        fun _ _ => ⟨honly.raised.trans (by rw [hraised]), hstatus⟩⟩
    | true =>
      rw [noteServed_served]
      exact ⟨hstarted, fun _ _ => ⟨hraised, hsame⟩, nofun, nofun⟩

theorem startStream_accepted (c x kind : Nat) (r : StreamRec) (profile : Nat) (y : Stream) (e : Eng) :
    startStream s c x kind r profile y (accepted s c e) =
      noteServed s x (profileFits r profile) (groupServes (dockOf e s) kind) (streamStarted s (cmdSlot x)
        (startedStream e s c profile (profileFits r profile && groupServes (dockOf e s) kind) y) (accepted s c e)) := by
  rw [startStream, accepted_groupServes, accepted_startedStream hs]

end

/-! ### The clauses of START and ACCEPT -/

section
variable {s : Fin 48} {c : Nat} {w : BitVec 124} {st : State} {cmd : Instr} {x kind : Nat}

/-- START presents a stream of kind 1 and ACCEPT one of kind 2; each meets the checks of R192 once it is taken. -/
theorem exec_start_accept
    (hcmd : (cmd = .start s c w ∧ x = dockWord 2 w ∧ kind = 1) ∨ (cmd = .accept s c w ∧ x = dockWord 4 w ∧ kind = 2))
    (h : dockTakes st.eng s.val c) (hx : cmdWellFormed x = true) {u : Eng}
    (hu : runStart kind s.val c x (accepted s.val c st.eng) = u) : exec cmd st = .next { st with eng := u } := by
  rw [← hu]
  rcases hcmd with ⟨rfl, rfl, rfl⟩ | ⟨rfl, rfl, rfl⟩
  · rw [← runCommand_start, ← dockCommand_runs h hx]
    rfl
  · rw [← runCommand_accept, ← dockCommand_runs h hx]
    rfl

end

/-! ### CANCEL -/

/-- A stream that a CANCEL empties (R199). -/
def emptiedStream (c : Nat) (y : Stream) : Stream :=
  { y with cancelAt := some c, checks := [], landed := [], staged := [], places := [], tile := [] }

/-- A dock whose stream drains, without its queued tally sums (R199). -/
def drainedDock (c slot : Nat) (y : Stream) (d : Dock) : Dock :=
  { setStream slot (emptiedStream c y) d with tally := d.tally.filter fun t => t.slot ≠ slot }

/-- CANCEL of a stream that does not drain yet: the table references that its queue held are released, its queue is
emptied, and the cancelling is counted and recorded (R199). -/
def cancelStream (s c x : Nat) (y : Stream) (e : Eng) : Eng :=
  setReg (stIdx s 5) 1 (Status.cancelled.code + 0x3F35 * 2 ^ 8 + cmdStream x * 2 ^ 24)
    (bump (stIdx s 0x30) 6 (onDock s (drainedDock c (cmdSlot x) y) (dropStreamRefs s y e)))

theorem runCommand_cancel (s c : Nat) (w : BitVec 124) (e : Eng) :
    runCommand s c (dockWord 3 w) e = runCancel s c (dockWord 3 w) e := by
  rw [runCommand, bits_dockWord (by decide)]
  rfl

theorem runCancel_streaming {s c x : Nat} {y : Stream} {e : Eng} (hn : namesRecord (dockOf e s) x = true)
    (h : streamOf (dockOf e s) (cmdSlot x) = some y) (hy : y.cancelAt = none) :
    runCancel s c x e = cancelStream s c x y e := by
  simp only [runCancel, hn, h, hy, Bool.not_true, Option.isSome_none, Bool.false_eq_true, if_false]
  rfl

theorem dropStreamRefs_unreferenced {s : Nat} {y : Stream} (h : y.checks = []) (e : Eng) :
    dropStreamRefs s y e = e := by
  rw [dropStreamRefs, h, List.foldl_nil]

theorem onlyRegs.docks {e e' : Eng} (h : onlyRegs e e') : e'.docks = e.docks := by rw [h]

theorem onlyRegs.out {e e' : Eng} (h : onlyRegs e e') : e'.out = e.out := by rw [h]

theorem cancelStream_only (s c x : Nat) (y : Stream) (e : Eng) :
    onlyRegs (onDock s (drainedDock c (cmdSlot x) y) e) (cancelStream s c x y e) := by
  have hdock : onlyRegs (onDock s (drainedDock c (cmdSlot x) y) e)
      (onDock s (drainedDock c (cmdSlot x) y) (dropStreamRefs s y e)) := by
    rw [dropStreamRefs_only s y e]
    rfl
  exact (hdock.bump ..).setReg ..

theorem cancelStream_frame {s : Nat} (hs : s < 48) (c x : Nat) (y : Stream) (e : Eng) :
    let u := cancelStream s c x y (accepted s c e)
    streamOf (dockOf u s) (cmdSlot x) = some (emptiedStream c y) ∧
      (∀ k, k ≠ cmdSlot x → streamOf (dockOf u s) k = streamOf (dockOf e s) k) ∧ otherDocks s e u ∧
      reg u (stIdx s 5) 1 = Status.cancelled.code + 0x3F35 * 2 ^ 8 + x / 2 ^ 16 % 2 ^ 12 * 2 ^ 24 ∧
      u.raised = e.raised ∧ u.out = e.out ∧
      (y.checks = [] → reg u (stIdx s 0x30) 6 = (reg e (stIdx s 0x30) 6 + 1) % 2 ^ 64 ∧
        sameEntries [(stIdx s 0x30, 1), (stIdx s 0x30, 6), (stIdx s 5, 1)] e u) := by
  have honly := cancelStream_only s c x y (accepted s c e)
  have hdocks : (cancelStream s c x y (accepted s c e)).docks =
      (onDock s (drainedDock c (cmdSlot x) y) (accepted s c e)).docks := honly.docks
  have hdock : dockOf (cancelStream s c x y (accepted s c e)) s =
      drainedDock c (cmdSlot x) y (dockOf (accepted s c e) s) := by
    rw [dockOf_congr hdocks, dockOf_onDock_same]
  refine ⟨?_, fun k hk => ?_, ?_, reg_setReg_same .., honly.raised, honly.out,
    fun hchecks => ⟨?_, ?_⟩⟩
  · rw [hdock]
    exact streamOf_setStream_same ..
  · rw [hdock, ← accepted_stream (c := c)]
    exact streamOf_setStream_other hk ..
  · exact .trans (accepted_others c e)
      (.trans (otherDocks_onDock s (drainedDock c (cmdSlot x) y) _) (otherDocks_of_docks hdocks))
  · rw [cancelStream, dropStreamRefs_unreferenced hchecks, reg_setReg_station (by decide) (by decide),
      if_neg (by decide), reg_bump_counter hs (by decide) (by decide), if_pos ⟨rfl, rfl⟩, reg_onDock,
      reg_accepted hs c e (by decide), if_neg (by decide)]
  · rw [cancelStream, dropStreamRefs_unreferenced hchecks]
    refine sameEntries.setReg ?_ (by simp) (stIdx_lt hs (by decide)) (by decide) _
    refine sameEntries.bump ?_ (by simp) (stIdx_lt hs (by decide)) (by decide)
    exact ((accepted_entries hs c e).mono (by simp)).congr (onDock_regs ..)

theorem exec_cancel {s : Fin 48} {c : Nat} {w : BitVec 124} {st : State} (h : dockTakes st.eng s.val c)
    (hx : cmdWellFormed (dockWord 3 w) = true) {u : Eng}
    (hu : runCancel s.val c (dockWord 3 w) (accepted s.val c st.eng) = u) :
    exec (.cancel s c w) st = .next { st with eng := u } := by
  rw [← hu, ← runCommand_cancel, ← dockCommand_runs h hx]
  rfl

/-- R199: a cancelled stream leaves its slot 1792 ARCLK after the CANCEL. -/
theorem exec_cancelDrainEnd {s : Fin 48} {slot : Fin 128} {st : State} {y : Stream} {c : Nat}
    (h : streamOf (dockOf st.eng s.val) slot.val = some y) (hy : y.cancelAt = some c) :
    exec (.cancelDrainEnd s slot) st =
      .next { st with eng := onDock s.val (dropStream slot.val) (advanceCycle (c + 1792) st.eng) } := by
  simp only [exec, execCancelDrainEnd, onEng, h, hy]

theorem drainEnd_frame (s slot c : Nat) (e : Eng) :
    let u := onDock s (dropStream slot) (advanceCycle c e)
    streamOf (dockOf u s) slot = none ∧ ∀ k, k ≠ slot → streamOf (dockOf u s) k = streamOf (dockOf e s) k := by
  intro u
  have hdock : dockOf u s = dropStream slot (dockOf e s) := dockOf_onDock_same ..
  rw [hdock]
  exact ⟨streamOf_dropStream_same .., fun k hk => streamOf_dropStream_other hk _⟩

end Sys2Proof.Machine

namespace Sys2Proof.Proofs

open Sys2Proof Sys2Proof.Machine

/-- Settles O37: the checks of START and ACCEPT in their order (R192), then CANCEL and the end of its drain (R199). -/
theorem streamsStartAndCancel : Obligations.StreamsStartAndCancel := by
  intro s c w st i d
  refine ⟨fun cmd x kind hcmd h hx hn => ?_, ?_, fun slot y c' hy hc => ?_⟩
  · intro slot r profile fits group clash
    have hnamed : namesRecord (dockOf (accepted s.val c st.eng) s.val) x = true := (accepted_named x).trans hn
    have hprofile := accepted_profile s.isLt c x st.eng
    have hclash := accepted_startClashes (s := s.val) c kind slot r profile st.eng
    refine ⟨fun hnone => ?_, fun y det hy hdet => ?_, fun y hy hkind hstart hcancel hfree => ?_⟩
    · obtain ⟨-, -, -, hword, -, hdock, hothers, honly⟩ := refused_frame s.isLt c x .denied 0x3F24 st.eng
      exact ⟨_, exec_start_accept hcmd h hx (runStart_unarmed hnamed (accepted_stream.trans hnone)), honly.raised,
        hword, hdock, hothers⟩
    · obtain ⟨-, hstatus, -, hword, -, hdock, hothers, honly⟩ := refused_frame s.isLt c x .denied det st.eng
      have hrun := runStart_refused (c := c) (kind := kind) (det := det) hnamed (accepted_stream.trans hy)
        accepted_record hprofile (by rw [hclash]; exact hdet)
      exact ⟨_, exec_start_accept hcmd h hx hrun, honly.raised, hword, hstatus, hdock, hothers⟩
    · have hrun := runStart_starts (c := c) hnamed (accepted_stream.trans hy) accepted_record hprofile hkind hstart
        hcancel (hclash.trans hfree)
      rw [startStream_accepted s.isLt] at hrun
      obtain ⟨⟨hstream, hstreams, hothers, htaken, hcount, hout⟩, hserved, hunfit, hclosed⟩ :=
        noteServed_frame s.isLt c x (startedStream st.eng s.val c profile (fits && group) y) fits group st.eng
      exact ⟨_, _, exec_start_accept hcmd h hx hrun, hstream, rfl, hstreams, hothers, htaken, hcount, hout, hserved,
        hunfit, hclosed⟩
  · intro x h hx hn y hy hc
    exact ⟨_, exec_cancel h hx (runCancel_streaming ((accepted_named x).trans hn) (accepted_stream.trans hy) hc),
      cancelStream_frame s.isLt c x y st.eng⟩
  · obtain ⟨hnone, hstreams⟩ := drainEnd_frame s.val slot.val (c' + 1792) st.eng
    exact ⟨_, exec_cancelDrainEnd hy hc, hnone, hstreams, rfl⟩

end Sys2Proof.Proofs
end

section
/-! PROOFS. Posts to link counters and the unit groups (O38; spec/08_docks.md R201, R202, R207;
spec/16_power.md R399). -/

namespace Sys2Proof.Machine

/-! ### Posts on their way -/

theorem rowOf_linkPost {s : Nat} (hs : s < 48) : ∃ r, rowOf (stIdx s 4) 1 = some r ∧ r.mask = 0xffffffff0000001f := by
  have h : ∀ q < 48, (rowOf (stIdx q 4) 1).map (·.mask) = some 0xffffffff0000001f := by decide
  exact Option.map_eq_some_iff.mp (h s hs)

/-- The row of the link counters keeps both fields of a post (R201). -/
theorem linkPostValue_masked {n a : Nat} (hn : n < 32) (ha : a < 2 ^ 32) :
    (n + a * 2 ^ 32) &&& 0xffffffff0000001f = n + a * 2 ^ 32 := by
  have hmask : 0xffffffff0000001f = 2 ^ 32 * (2 ^ 32 - 1) + (2 ^ 5 - 1) := by norm_num
  refine Nat.eq_of_testBit_eq fun j => ?_
  rw [Nat.testBit_and, hmask, Nat.add_comm, Nat.mul_comm, Nat.testBit_two_pow_mul_add a (by omega),
    Nat.testBit_two_pow_mul_add _ (by decide), Nat.testBit_two_pow_sub_one, Nat.testBit_two_pow_sub_one]
  split
  · by_cases hj : j < 5
    · simp [hj]
    · rw [Nat.testBit_lt_two_pow (hn.trans_le (Nat.pow_le_pow_right Nat.two_pos (Nat.le_of_not_lt hj))), Bool.false_and]
  · by_cases hj : j - 32 < 32
    · simp [hj]
    · rw [Nat.testBit_lt_two_pow (ha.trans_le (Nat.pow_le_pow_right Nat.two_pos (Nat.le_of_not_lt hj))), Bool.false_and]

/-- A dock with one more post on its way to it. -/
def addPost (p : Post) (d : Dock) : Dock := { d with posts := d.posts ++ [p] }

theorem stitches_self (s : Nat) : stitches s s = 0 := by
  rw [stitches, if_pos (Nat.le_refl s), Nat.sub_self]

/-- A post to a counter of its own station crosses no stitch line (R201). -/
theorem sendPost_own (s ctr amount t : Nat) (e : Eng) :
    sendPost s s ctr amount t e = onDock s (addPost ⟨ctr, amount, t + 32⟩) e := by
  simp only [sendPost, stitches_self]
  rfl

/-- LINK_POST posts the amount of its value to the counter that it names (R201). -/
theorem effLinkPost_value {s n a : Nat} (hn : n < 32) (ha : a < 2 ^ 32) (st : State) :
    effLinkPost s (n + a * 2 ^ 32) st = (.ok, { st with
      eng := onDock s (addPost ⟨n, a, timeline st.eng + 32⟩) st.eng }) := by
  have hctr : bits (n + a * 2 ^ 32) 0 5 = n := by
    unfold bits
    omega
  have hamount : bits (n + a * 2 ^ 32) 32 32 = a := by
    unfold bits
    omega
  rw [effLinkPost, hctr, hamount, onEng, sendPost_own]

theorem exec_linkPost {p : Port} {s : Fin 48} {ctr : Fin 32} {amount : Word32} {st : State}
    (h : letThrough p (stIdx s.val 4) 1 st) : exec (.linkPost p s ctr amount) st = .next { st with
      eng := emit (.access p (stIdx s.val 4) 1 0)
        (onDock s.val (addPost ⟨ctr.val, amount.toNat, timeline st.eng + 32⟩) st.eng) } := by
  obtain ⟨r, hr, hm⟩ := rowOf_linkPost s.isLt
  have hvalue : maskValue r (ctr.val + amount.toNat * 2 ^ 32) = ctr.val + amount.toNat * 2 ^ 32 := by
    rw [maskValue, hm, linkPostValue_masked ctr.isLt amount.isLt]
  have heff : effLinkPost s.val (maskValue r (ctr.val + amount.toNat * 2 ^ 32)) st = _ :=
    (congrArg (effLinkPost s.val · st) hvalue).trans (effLinkPost_value ctr.isLt amount.isLt st)
  exact congrArg Host.Outcome.next (portWrite_ok h hr heff)

theorem runCommand_post (s c : Nat) (w : BitVec 124) (e : Eng) :
    let x := dockWord 5 w
    runCommand s c x e = sendPost s (bits x 32 6) (bits x 38 5) (cmdCount x) c e := by
  intro x
  rw [runCommand, bits_dockWord (by decide)]
  rfl

theorem stitches_comm (a b : Nat) : stitches a b = stitches b a := by
  unfold stitches
  split <;> split <;> omega

/-- R201: a POST arrives 32 ARCLK after it, and 48 more for each stitch line between the stations' fields. -/
theorem exec_post {s : Fin 48} {c : Nat} {w : BitVec 124} {st : State} (h : dockTakes st.eng s.val c)
    (hx : cmdWellFormed (dockWord 5 w) = true) : exec (.post s c w) st = .next { st with
      eng := onDock (bits (dockWord 5 w) 32 6) (addPost ⟨bits (dockWord 5 w) 38 5, cmdCount (dockWord 5 w),
        c + 32 + 48 * stitches (bits (dockWord 5 w) 32 6 / 12) (s.val / 12)⟩) (accepted s.val c st.eng) } := by
  rw [stitches_comm]
  exact congrArg (fun e => Host.Outcome.next { st with eng := e })
    ((dockCommand_runs h hx).trans (runCommand_post s.val c w (accepted s.val c st.eng)))

theorem accepted_posts (s c q : Nat) (e : Eng) : (dockOf (accepted s c e) q).posts = (dockOf e q).posts := by
  by_cases hq : q = s
  · rw [hq, accepted_dock]
  · rw [accepted_others c e q hq]

/-- A post of an accepted command waits at the dock that it names (R201). -/
theorem postSent_frame {s : Nat} (hs : s < 48) (c q : Nat) (p : Post) (e : Eng) :
    let u := onDock q (addPost p) (accepted s c e)
    (dockOf u q).posts = (dockOf e q).posts ++ [p] ∧ (∀ k, k ≠ q → (dockOf u k).posts = (dockOf e k).posts) ∧
      sameEntries [(stIdx s 0x30, 1)] e u ∧
      u = { e with now := max e.now (e.spBase.getD 0 + c), regs := u.regs, docks := u.docks } := by
  intro u
  have hdock : dockOf u q = addPost p (dockOf (accepted s c e) q) := dockOf_onDock_same ..
  refine ⟨?_, fun k hk => ?_, (accepted_entries hs c e).congr (onDock_regs ..), rfl⟩
  · rw [hdock, addPost, accepted_posts]
  · rw [dockOf_onDock_other hk, accepted_posts]

/-! ### Posts that fall due -/

theorem earliestPost_eq_none {ctr : Nat} {l : List Post} (h : ∀ q ∈ l, q.ctr ≠ ctr) : earliestPost ctr l = none := by
  induction l with
  | nil => rfl
  | cons p t ih =>
    rw [earliestPost, ih fun q hq => h q (.tail p hq)]
    exact if_neg (h p (.head t))

/-- The earliest post to a counter is one of those to it, and none of them falls due before it. -/
theorem earliestPost_eq_some {ctr : Nat} {l : List Post} {p : Post} (hp : p ∈ l) (hc : p.ctr = ctr) :
    ∃ q, earliestPost ctr l = some q ∧ q ∈ l ∧ q.ctr = ctr ∧ q.due ≤ p.due := by
  induction l generalizing p with
  | nil => cases hp
  | cons a t ih =>
    rw [earliestPost]
    by_cases hnone : ∀ q ∈ t, q.ctr ≠ ctr
    · have hpa : p = a := (List.mem_cons.mp hp).resolve_right fun ht => hnone p ht hc
      rw [earliestPost_eq_none hnone, ← hpa]
      exact ⟨p, if_pos hc, .head t, hc, Nat.le_refl _⟩
    · push Not at hnone
      obtain ⟨b, hb, hbc⟩ := hnone
      obtain ⟨q, hq, hmem, hqc, -⟩ := ih hb hbc
      have hmin : p ∈ t → q.due ≤ p.due := fun ht => by
        obtain ⟨q', hq', -, -, hle⟩ := ih ht hc
        rwa [Option.some_inj.mp (hq.symm.trans hq')]
      rw [hq]
      dsimp only
      split
      case isTrue h =>
        refine ⟨a, rfl, .head t, h.1, ?_⟩
        rcases List.mem_cons.mp hp with rfl | ht
        · exact Nat.le_refl _
        · exact h.2.trans (hmin ht)
      case isFalse h =>
        refine ⟨q, rfl, .tail a hmem, hqc, ?_⟩
        rcases List.mem_cons.mp hp with rfl | ht
        · exact Nat.le_of_lt (Nat.lt_of_not_le fun hle => h ⟨hc, hle⟩)
        · exact hmin ht

/-- Whether a post falls due at a counter at a moment. -/
def Post.fallsDue (ctr due : Nat) (q : Post) : Bool := q.ctr == ctr && q.due == due

/-- What the posts of a moment bring a counter to (R201). -/
def postedValue (s ctr due : Nat) (e : Eng) : Nat :=
  (reg e (stIdx s 3) (ctr + 1) + (((dockOf e s).posts.filter (Post.fallsDue ctr due)).map (·.amount)).sum) % 2 ^ 32

/-- A hold that notes the value of the counter that it waits for (R202). -/
def Hold.noted (ctr due v : Nat) (h : Hold) : Hold :=
  if h.ctr = ctr ∧ h.first.isNone ∧ gateMet v h.count then { h with first := some due } else h

/-- A dock whose posts of a moment to a counter have left (R201). -/
def postsTaken (ctr due : Nat) (d : Dock) : Dock := { d with posts := d.posts.filter fun q => !q.fallsDue ctr due }

/-- The posts of a moment are added to their counter, and a hold notes its value (R201, R202). -/
def applyPosts (s ctr due : Nat) (e : Eng) : Eng :=
  noteGate s ctr due (setReg (stIdx s 3) (ctr + 1) (postedValue s ctr due e)
    (onDock s (postsTaken ctr due) (advanceCycle due e)))

theorem Hold.noted_eq (ctr due v : Nat) (h : Hold) : h.noted ctr due v =
    if h.ctr = ctr ∧ h.first = none ∧ gateMet v h.count = true then { h with first := some due } else h := by
  simp only [Hold.noted, Option.isNone_iff_eq_none]

theorem holdNoted_none {ctr due v : Nat} {d : Dock} (h : d.hold = none) :
    { postsTaken ctr due d with hold := d.hold.map (Hold.noted ctr due v) } = postsTaken ctr due d := by
  rw [h, Option.map_none, ← h]
  rfl

theorem exec_linkPostApply_none {s : Fin 48} {ctr : Fin 32} {st : State}
    (h : ∀ q ∈ (dockOf st.eng s.val).posts, q.ctr ≠ ctr.val) : exec (.linkPostApply s ctr) st = .next st := by
  simp only [exec, execLinkPostApply, onEng, earliestPost_eq_none h]

theorem exec_linkPostApply_due {s : Fin 48} {ctr : Fin 32} {st : State} {p : Post}
    (hp : p ∈ (dockOf st.eng s.val).posts) (hc : p.ctr = ctr.val)
    (hmin : ∀ q ∈ (dockOf st.eng s.val).posts, q.ctr = ctr.val → p.due ≤ q.due) :
    exec (.linkPostApply s ctr) st = .next { st with eng := applyPosts s.val ctr.val p.due st.eng } := by
  obtain ⟨q, hq, hmem, hqc, hle⟩ := earliestPost_eq_some hp hc
  have hdue : q.due = p.due := Nat.le_antisymm hle (hmin q hmem hqc)
  simp only [exec, execLinkPostApply, onEng, hq, hdue]
  rfl

theorem noteGate_dock (s ctr due : Nat) (e : Eng) : dockOf (noteGate s ctr due e) s =
    { dockOf e s with hold := (dockOf e s).hold.map (Hold.noted ctr due (reg e (stIdx s 3) (ctr + 1))) } :=
  dockOf_onDock_same ..

theorem applyPosts_dock (s ctr due : Nat) (e : Eng) : dockOf (applyPosts s ctr due e) s =
    { postsTaken ctr due (dockOf e s) with
      hold := (dockOf e s).hold.map (Hold.noted ctr due (postedValue s ctr due e)) } := by
  have hposts (v : Nat) :
      dockOf (setReg (stIdx s 3) (ctr + 1) v (onDock s (postsTaken ctr due) (advanceCycle due e))) s =
        postsTaken ctr due (dockOf e s) :=
    (dockOf_congr (setReg_docks ..) s).trans (dockOf_onDock_same s (postsTaken ctr due) (advanceCycle due e))
  rw [applyPosts, noteGate_dock, reg_setReg_same, hposts]
  rfl

theorem applyPosts_others (s ctr due : Nat) (e : Eng) : otherDocks s e (applyPosts s ctr due e) := fun q hq => by
  rw [applyPosts, noteGate, dockOf_onDock_other hq, dockOf_congr (setReg_docks ..),
    dockOf_onDock_other hq]
  rfl

theorem applyPosts_frame {s ctr : Nat} (hs : s < 48) (hctr : ctr < 32) (due : Nat) (e : Eng) :
    let u := applyPosts s ctr due e
    reg u (stIdx s 3) (ctr + 1) = postedValue s ctr due e ∧ sameEntries [(stIdx s 3, ctr + 1)] e u ∧
      u = { e with now := max e.now (e.spBase.getD 0 + due), regs := u.regs, docks := u.docks } := by
  intro u
  refine ⟨?_, ?_, rfl⟩
  · exact (reg_onDock ..).trans (reg_setReg_same ..)
  · refine sameEntries.congr ?_ (onDock_regs ..)
    refine sameEntries.setReg ?_ (by simp) (stIdx_lt hs (by decide)) (by omega) _
    exact (sameEntries_refl _ e).congr rfl

/-! ### WAKE and SLEEP -/

section
variable {s : Fin 48} {c x : Nat} {w : BitVec 124} {f : Gate → Gate} {cmd : Instr} {st : State}

theorem runCommand_wake (s c : Nat) (w : BitVec 124) (e : Eng) :
    let x := dockWord 6 w
    runCommand s c x e = onGates (bits x 46 2) (wakeGate c) s e := by
  intro x
  rw [runCommand, bits_dockWord (by decide)]
  rfl

theorem runCommand_sleep (s c : Nat) (w : BitVec 124) (e : Eng) :
    let x := dockWord 7 w
    runCommand s c x e = onGates (bits x 46 2) sleepGate s e := by
  intro x
  rw [runCommand, bits_dockWord (by decide)]
  rfl

theorem eq_wakeGate (hc : f .closed = .opening (c + 180)) (hg : f .closing = .opened) (ho : f .opened = .opened)
    (ha : ∀ a, f (.opening a) = .opening a) : f = wakeGate c := by
  funext g
  cases g with
  | closed => exact hc
  | closing => exact hg
  | opened => exact ho
  | opening a => exact ha a

theorem eq_sleepGate (ho : f .opened = .closing) (hc : f .closed = .closed) (hg : f .closing = .closing)
    (ha : ∀ a, f (.opening a) = .closed) : f = sleepGate := by
  funext g
  cases g with
  | closed => exact hc
  | closing => exact hg
  | opened => exact ho
  | opening a => exact ha a

/-- WAKE and SLEEP change the unit groups that their UNITS name (R207). -/
theorem exec_wake_sleep
    (hcmd : (cmd = .wake s c w ∧ x = dockWord 6 w ∧ f .closed = .opening (c + 180) ∧ f .closing = .opened ∧
        f .opened = .opened ∧ (∀ a, f (.opening a) = .opening a)) ∨
      (cmd = .sleep s c w ∧ x = dockWord 7 w ∧ f .opened = .closing ∧ f .closed = .closed ∧ f .closing = .closing ∧
        (∀ a, f (.opening a) = .closed)))
    (h : dockTakes st.eng s.val c) (hx : cmdWellFormed x = true) :
    exec cmd st = .next { st with eng := onGates (bits x 46 2) f s.val (accepted s.val c st.eng) } := by
  rcases hcmd with ⟨rfl, rfl, hc, hg, ho, ha⟩ | ⟨rfl, rfl, ho, hc, hg, ha⟩
  · rw [eq_wakeGate hc hg ho ha, ← runCommand_wake, ← dockCommand_runs h hx]
    rfl
  · rw [eq_sleepGate ho hc hg ha, ← runCommand_sleep, ← dockCommand_runs h hx]
    rfl

theorem onGates_dock (units : Nat) (f : Gate → Gate) (s : Nat) (e : Eng) : dockOf (onGates units f s e) s =
    { dockOf e s with
      operandGate := if bit units 0 then f (dockOf e s).operandGate else (dockOf e s).operandGate
      resultGate := if bit units 1 then f (dockOf e s).resultGate else (dockOf e s).resultGate } :=
  dockOf_onDock_same ..

theorem onGates_others (units : Nat) (f : Gate → Gate) (s : Nat) (e : Eng) : otherDocks s e (onGates units f s e) :=
  fun _ hq => dockOf_onDock_other hq _ e

theorem bit_units (x : Nat) : bit (bits x 46 2) 0 = x.testBit 46 ∧ bit (bits x 46 2) 1 = x.testBit 47 := by
  simp only [bit_eq_testBit, testBit_bits, Nat.reduceLT, decide_true, Bool.true_and, and_self]

theorem gatesChanged_frame {s : Nat} (hs : s < 48) (c x : Nat) (f : Gate → Gate) (e : Eng) :
    let u := onGates (bits x 46 2) f s (accepted s c e)
    dockOf u s = { dockOf e s with
      lastCmd := some c
      operandGate := if x.testBit 46 then f (dockOf e s).operandGate else (dockOf e s).operandGate
      resultGate := if x.testBit 47 then f (dockOf e s).resultGate else (dockOf e s).resultGate } ∧
      otherDocks s e u ∧ sameEntries [(stIdx s 0x30, 1)] e u ∧
      u = { e with now := max e.now (e.spBase.getD 0 + c), regs := u.regs, docks := u.docks } := by
  intro u
  refine ⟨?_, .trans (accepted_others c e) (onGates_others (bits x 46 2) f s _),
    (accepted_entries hs c e).congr (onDock_regs ..), rfl⟩
  rw [onGates_dock, accepted_dock, (bit_units x).1, (bit_units x).2]

end

/-! ### A unit group's gate -/

/-- A dock with one unit group's gate set. -/
def setGate (result : Bool) (v : Gate) (d : Dock) : Dock :=
  if result then { d with resultGate := v } else { d with operandGate := v }

/-- The gate of a station's unit group set (R207). -/
def gateMoved (s : Nat) (result : Bool) (v : Gate) (e : Eng) : Eng := onDock s (setGate result v) e

theorem onGates_group (result : Bool) (v : Gate) (s : Nat) (e : Eng) :
    onGates (if result then 2 else 1) (fun _ => v) s e = gateMoved s result v e := by
  cases result <;> rfl

theorem gateMoved_dock (s : Nat) (result : Bool) (v : Gate) (e : Eng) :
    dockOf (gateMoved s result v e) s = setGate result v (dockOf e s) := dockOf_onDock_same ..

theorem gateMoved_others (s : Nat) (result : Bool) (v : Gate) (e : Eng) : otherDocks s e (gateMoved s result v e) :=
  otherDocks_onDock s (setGate result v) e

theorem gateOf_gateMoved (s : Nat) (result : Bool) (v : Gate) (e : Eng) :
    gateOf (gateMoved s result v e) s result = v := by
  rw [gateOf, gateMoved_dock]
  cases result <;> rfl

/-- The gate changes of the last 2 AONCLK, with one of this moment (R399). -/
def gatesWith (ma : Int) (e : Eng) : List (Nat × Int) :=
  (e.now, ma) :: e.power.gates.filter fun g => decide (e.now < g.1 + 7200)

/-- Whether a gate change makes a step beyond 20 A outside every announced ramp (R399). -/
def gateSteep (ma : Int) (e : Eng) : Prop :=
  20000 < ((gatesWith ma e).foldl (fun (a : Int) (g : Nat × Int) => a + g.2) 0).natAbs ∧
    ∀ r ∈ e.power.ramps, ¬(r.1 ≤ e.now ∧ e.now < r.2)

theorem wrapWidth_unforecastSteps : wrapWidth 0x1103 2 = 64 := by decide

theorem unannounced_iff (ramps : List (Nat × Nat)) (now : Nat) :
    (!ramps.any fun r => r.1 ≤ now && now < r.2) = true ↔ ∀ r ∈ ramps, ¬(r.1 ≤ now ∧ now < r.2) := by
  simp only [Bool.not_eq_true', List.any_eq_false, Bool.and_eq_true, decide_eq_true_iff]

theorem gateStep_steep {ma : Int} {e : Eng} (h : gateSteep ma e) : gateStep ma e =
    raise 85 0x1122 (bump 0x1103 2 (onPower (fun p => { p with gates := gatesWith ma e }) e)) :=
  if_pos ⟨h.1, (unannounced_iff ..).mpr h.2⟩

theorem gateStep_smooth {ma : Int} {e : Eng} (h : ¬gateSteep ma e) : gateStep ma e =
    onPower (fun p => { p with gates := gatesWith ma e }) e :=
  if_neg fun hs => h ⟨hs.1, (unannounced_iff ..).mp hs.2⟩

theorem gateStep_frame (ma : Int) (e : Eng) :
    let u := gateStep ma e
    (gateSteep ma e → reg u 0x1103 2 = (reg e 0x1103 2 + 1) % 2 ^ 64 ∧ sameEntries [(0x1103, 2)] e u ∧
      u.raised = e.raised ++ [(85, 0x1122)]) ∧
      (¬gateSteep ma e → u.regs = e.regs ∧ u.raised = e.raised) ∧
      u = { e with regs := u.regs, raised := u.raised, power := { e.power with gates := gatesWith ma e } } := by
  refine ⟨fun h => ?_, fun h => ?_, ?_⟩
  · rw [gateStep_steep h, reg_raise, reg_bump_same, wrapWidth_unforecastSteps, reg_onPower]
    refine ⟨rfl, ?_, rfl⟩
    refine sameEntries.congr ?_ (raise_regs ..)
    exact ((sameEntries_refl _ e).congr rfl).bump (by simp) (by decide) (by decide)
  · rw [gateStep_smooth h]
    exact ⟨rfl, rfl⟩
  · by_cases h : gateSteep ma e
    · rw [gateStep_steep h]
      rfl
    · rw [gateStep_smooth h]
      rfl

/-- R399: the step of a gate that has moved at a moment. -/
theorem gateMoved_stepped (s : Nat) (result : Bool) (v : Gate) (ma : Int) {now : Nat} {e e' : Eng}
    (he : e' = { e with now }) :
    let u := gateStep ma (gateMoved s result v e')
    dockOf u s = setGate result v (dockOf e s) ∧ otherDocks s e u ∧
      (gateSteep ma e' → reg u 0x1103 2 = (reg e 0x1103 2 + 1) % 2 ^ 64 ∧ sameEntries [(0x1103, 2)] e u ∧
        u.raised = e.raised ++ [(85, 0x1122)]) ∧
      (¬gateSteep ma e' → u.regs = e.regs ∧ u.raised = e.raised) ∧
      u = { e with
        now, docks := u.docks, regs := u.regs, raised := u.raised
        power := { e.power with gates := gatesWith ma e' } } := by
  subst he
  obtain ⟨hsteep, hsmooth, hall⟩ := gateStep_frame ma (gateMoved s result v { e with now })
  have hdocks : (gateStep ma (gateMoved s result v { e with now })).docks =
      (gateMoved s result v { e with now }).docks := by
    rw [hall]
  refine ⟨?_, ?_, hsteep, hsmooth, ?_⟩
  · exact (dockOf_congr hdocks s).trans (gateMoved_dock s result v { e with now })
  · exact .trans (gateMoved_others s result v { e with now }) (otherDocks_of_docks hdocks)
  · rw [hdocks]
    exact hall

section
variable {s : Fin 48} {result : Bool} {st : State}

theorem exec_unitGroupOpen {a : Nat} (h : gateOf st.eng s.val result = .opening a) :
    exec (.unitGroupOpen s result) st = .next { st with
      eng := gateStep (if result then 1330 else 4000) (gateMoved s.val result .opened (advanceCycle a st.eng)) } := by
  have hopen : openGroup s.val result st.eng = gateMoved s.val result .opened (advanceCycle a st.eng) := by
    rw [← onGates_group]
    rw [gateOf] at h
    simp only [openGroup, h]
  simp only [exec, execUnitGroupOpen, onEng, unitGroupOpen, h, hopen]
  rfl

theorem exec_unitGroupClose_used (h : gateOf st.eng s.val result = .closing)
    (hu : groupInUse (dockOf st.eng s.val) result = true) : exec (.unitGroupClose s result) st = .next st := by
  have hclose : closeGroup s.val result st.eng = st.eng := by
    rw [gateOf] at h
    simp only [closeGroup, h, hu, if_true]
  simp only [exec, execUnitGroupClose, onEng, unitGroupClose, hclose, h]
  rfl

theorem exec_unitGroupClose (h : gateOf st.eng s.val result = .closing)
    (hu : groupInUse (dockOf st.eng s.val) result = false) :
    exec (.unitGroupClose s result) st = .next { st with
      eng := gateStep (if result then -1330 else -4000) (gateMoved s.val result .closed st.eng) } := by
  have hclose : closeGroup s.val result st.eng = gateMoved s.val result .closed st.eng := by
    rw [← onGates_group]
    rw [gateOf] at h
    simp only [closeGroup, h, hu, Bool.false_eq_true, if_false]
  have hcurrent : -groupCurrent result = if result then -1330 else -4000 := by cases result <;> rfl
  simp only [exec, execUnitGroupClose, onEng, unitGroupClose, hclose, h, gateOf_gateMoved, and_self, if_true, hcurrent]

end

end Sys2Proof.Machine

namespace Sys2Proof.Proofs

open Sys2Proof Sys2Proof.Machine

/-- Settles O38: a post from its event to its counter (R201), then WAKE, SLEEP and the gates that they move (R207,
R399). -/
theorem postsAndUnitGroups : Obligations.PostsAndUnitGroups := by
  intro s c w st i d now
  refine ⟨?_, fun p ctr amount h => ?_, fun ctr => ⟨exec_linkPostApply_none, fun p hp hc hmin => ?_⟩,
    fun cmd x f hcmd h hx => ?_, fun result => ?_⟩
  · intro x q h ht hx
    obtain ⟨hposts, hothers, hsame, hall⟩ :=
      postSent_frame s.isLt c q ⟨x / 2 ^ 38 % 32, x / 2 ^ 64 % 2 ^ 32, c + 32 + 48 * h⟩ st.eng
    exact ⟨_, exec_post ht hx, hposts, hothers, hsame, withEng hall⟩
  · have hothers := otherDocks_onDock s.val (addPost ⟨ctr.val, amount.toNat, timeline st.eng + 32⟩) st.eng
    exact ⟨_, exec_linkPost h, (dockOf_congr (emit_docks ..) s.val).trans (dockOf_onDock_same ..),
      .trans hothers (otherDocks_of_docks (emit_docks ..)), rfl⟩
  · intro due v
    obtain ⟨hvalue, hsame, hall⟩ := applyPosts_frame s.isLt ctr.isLt p.due st.eng
    have hdock := applyPosts_dock s.val ctr.val p.due st.eng
    refine ⟨_, exec_linkPostApply_due hp hc hmin, hvalue, hsame, congrArg Dock.posts hdock, fun hn => ?_,
      fun h hh => ?_, applyPosts_others s.val ctr.val p.due st.eng, withEng hall⟩
    · exact hdock.trans (holdNoted_none hn)
    · rw [hdock, show (dockOf st.eng s.val).hold = some h from hh, Option.map_some, Hold.noted_eq]
      rfl
  · obtain ⟨hdock, hothers, hsame, hall⟩ := gatesChanged_frame s.isLt c x f st.eng
    exact ⟨_, exec_wake_sleep hcmd h hx, hdock, hothers, hsame, withEng hall⟩
  · intro g set stepped
    refine ⟨fun a ha => ?_, exec_unitGroupClose_used, fun hg hu => ?_⟩
    · obtain ⟨hdock, hothers, hsteep, hsmooth, hall⟩ := gateMoved_stepped s.val result .opened
        (if result then 1330 else 4000) (e := st.eng) (e' := advanceCycle a st.eng) rfl
      exact ⟨_, exec_unitGroupOpen ha, hdock, hothers, hsteep, hsmooth, withEng hall⟩
    · obtain ⟨hdock, hothers, hsteep, hsmooth, hall⟩ := gateMoved_stepped s.val result .closed
        (if result then -1330 else -4000) (e := st.eng) (e' := st.eng) rfl
      exact ⟨_, exec_unitGroupClose hg hu, hdock, hothers, hsteep, hsmooth, withEng hall⟩

end Sys2Proof.Proofs
end

section
/-! PROOFS. Static cards (O41; spec/08_docks.md R199, R201, spec/09_deck.md R229, spec/17_faults_limits.md R414): a state
in which the end of a write card's stream takes back the count of its uncorrectable Hand entry. -/

namespace Sys2Proof.Machine

/-- A result stream that has ended but for its last sectors, with a queued block check whose table slot is none of a
station's eight: `stIdx 0 (0x20 + 6136)` is 0x3818, the index of the Hands' error counts. -/
def strayStream : Stream := { armedAt := 0, done := true, carried := 1, checks := [(0, .coded 6136)] }

/-- The ruled list of a static write card with one sector of that stream, which has left the Pool. -/
def strayCard : CardList :=
  ⟨0, 0, true,
    [{ station := 0, slot := 0, part := 0, seq := 0, off := 0, j := 0, stream := 0, drawn := some [] }]⟩

/-- The card waits at agent 0, whose Hands are written, and 0x3818:02 reads 2, which is RETIRING in a table slot. -/
def strayState : State :=
  { pending := [], port := {}
    eng :=
      { regs := [(cellKey 0 0x3800 6, 0), (cellKey 0 0x3818 2, 2)]
        docks := [(0, { streams := [(0, strayStream)] })]
        agents := [(0, { kept := [strayCard] })] } }

/-- The stream ends with its card, and the reference of its block check is given back at 0x3818, whose entry 5 then takes
the value of entry 4: the error that the card has just counted there is lost. -/
theorem strayState_uncounted :
    reg (staticWriteCard (0 : Fin 24).val 0 (0 : Fin 4).val .uncorrectable strayState.eng) 0x3818 5 = 0 := by
  decide +kernel

theorem staticWriteCard_of_exec {n : Fin 24} {abs : Nat} {g : Fin 4} {ecc : EccResult} {s t : State}
    (h : exec (.staticWriteCard n abs g ecc) s = .next t) : t.eng = staticWriteCard n.val abs g.val ecc s.eng := by
  rw [← Host.Outcome.next.inj h]
  rfl

theorem strayState_handsWritten : blankAt strayState.eng 0 0 = false := by decide

theorem strayState_handErrors : reg strayState.eng 0x3818 5 = 0 := by decide

end Sys2Proof.Machine

namespace Sys2Proof.Proofs

open Sys2Proof Sys2Proof.Machine

/-- Refutes O41: the statement speaks of every state, and in `strayState` a static write card whose Hand entry reads
uncorrectable leaves 0x3818:05 at 0, not at 1. The table slot of a stream's block check is a number without a bound
(`BlockCheck.coded`), and one beyond the eight of R174 gives back its reference among the Hands' error counts. A header
names its slot in three bits (R159), so no block that arrives has such a check; the statement does not ask for that. -/
theorem not_staticCards : ¬ Obligations.StaticCards := by
  intro h
  obtain ⟨-, -, -, -, hcard⟩ := h 0 0 0 strayState
  obtain ⟨t, hexec, -, -, -, -, herror, -⟩ :=
    hcard strayCard .uncorrectable _ true (.inr ⟨rfl, rfl⟩) (by decide)
  obtain ⟨-, -, hcount⟩ := herror rfl strayState_handsWritten
  rw [staticWriteCard_of_exec hexec, strayState_uncounted, strayState_handErrors] at hcount
  exact absurd hcount (by decide)

end Sys2Proof.Proofs
end

section
/-! PROOFS. FREEZE (O43; spec/02_object_dictionary.md R46, R47, spec/10_stack_agents.md R251, R260): what a port's write
of it does, and a written value that it does not refuse. -/

namespace Sys2Proof.Machine

theorem rowOf_freeze {n : Nat} (hn : n < 24) : rowOf (agIdx n 0) 3 = some (row .bool .rw .ro .rw .rw 0) := by
  have h : ∀ m < 24, rowOf (agIdx m 0) 3 = some (row .bool .rw .ro .rw .rw 0) := by decide
  exact h n hn

/-- The bits [7:1] of a written BOOL are reserved: they are dropped before its value is checked (R46, R47). -/
theorem maskValue_bool (h m d f : Right) (dflt v : Nat) : maskValue (row .bool h m d f dflt) v = v % 2 :=
  Nat.and_one_is_mod v

theorem agentEntry_unbanked {n a : Nat} (hn : n < 24) (ha : a < 0x40) : isBanked (agIdx n a) = false := by
  simp only [isBanked, Bool.or_eq_false_iff, beq_eq_false_iff_ne, agIdx]
  omega

/-- FREEZE takes bit 0 of what a port writes, whatever the other bits are, and the access ends with OK. -/
theorem exec_freeze {p : Port} {n : Fin 24} {v : Byte} {s : State} (h : letThrough p (agIdx n.val 0) 3 s) :
    exec (.freeze p n v) s = .next (onEng
      (fun e => emit (.access p (agIdx n.val 0) 3 0) (setReg (agIdx n.val 0) 3 (v.toNat % 2) e)) s) := by
  have hrow := rowOf_freeze n.isLt
  have hrange : inRange (row .bool .rw .ro .rw .rw 0) (v.toNat % 2) = true := by
    simp only [inRange, row, Bool.and_eq_true, decide_eq_true_eq]
    omega
  have heff : plainCommit p (agIdx n.val 0) 3 (v.toNat % 2) s =
      (.ok, onEng (setReg (agIdx n.val 0) 3 (v.toNat % 2)) s) := by
    simp only [plainCommit, hrow, hrange, if_true, agentEntry_unbanked n.isLt (show 0 < 0x40 by decide)]
    rfl
  rw [← maskValue_bool .rw .ro .rw .rw 0] at heff
  have hwrite := portWrite_ok h hrow heff
  rw [maskValue_bool] at hwrite
  exact congrArg Host.Outcome.next hwrite

/-- The block runs, with every entry at its default. -/
def readyState : State := { pending := [], port := {}, eng := { run := .ready } }

theorem readyState_letThrough : letThrough .h (agIdx (0 : Fin 24).val 0) 3 readyState := ⟨.inl (by decide), by decide⟩

end Sys2Proof.Machine

namespace Sys2Proof.Proofs

open Sys2Proof Sys2Proof.Machine

/-- Refutes O43: the statement asks that a write of more than 1 to FREEZE ends with BAD_VALUE. FREEZE is a BOOL, whose bits
[7:1] are reserved and which has no write check (R46): in `readyState` the host's write of 2 to FREEZE of agent 0 ends
with OK. -/
theorem not_refreshAndService : ¬ Obligations.RefreshAndService := by
  intro h
  obtain ⟨-, -, -, -, hrange, -⟩ := h 0 readyState
  obtain ⟨t, hexec, -, hout⟩ := hrange .h 2 readyState_letThrough (by decide)
  rw [exec_freeze readyState_letThrough] at hexec
  cases Host.Outcome.next.inj hexec
  exact absurd hout (by decide)

end Sys2Proof.Proofs
end

section
/-! PROOFS. Requests that reach a stack agent (O42; spec/10_stack_agents.md R247, R253, spec/11_crossings.md R263, R267):
the agent's counters, waits counted once, and the request that goes down. -/

namespace Sys2Proof.Machine

/-! ### An agent's entries -/

/-- Entries of one agent share a cell where they are the same entry. -/
theorem cellKey_agent {n a k b k' : Nat} (hk : k < 256) (hk' : k' < 256) :
    cellKey 0 (agIdx n a) k = cellKey 0 (agIdx n b) k' ↔ a = b ∧ k = k' := by
  unfold cellKey agIdx
  omega

theorem agIdx_lt {n a : Nat} (hn : n < 24) (ha : a < 0x40) : agIdx n a < 65536 := by
  unfold agIdx
  omega

/-- An agent's counters are 64 bits wide (R261). -/
theorem wrapWidth_agCounter {n k : Nat} (hn : n < 24) (hk : 1 ≤ k ∧ k ≤ 21) : wrapWidth (agIdx n 8) k = 64 := by
  have hwide : ∀ j < 21, 8 * ((agentRows08[j]?).map (·.ty.width)).getD 8 = 64 := by decide
  have hrows : ∀ m < 24, rowsAt (agIdx m 8) = agentRows08 := by decide
  obtain ⟨j, rfl⟩ := Nat.exists_eq_add_of_le' hk.1
  unfold wrapWidth rowOf
  rw [hrows n hn]
  exact hwide j (by omega)

section
variable {n k : Nat}

theorem reg_agBump_same (hn : n < 24) (hk : 1 ≤ k ∧ k ≤ 21) (m : Nat) (e : Eng) :
    reg (agBump n k m e) (agIdx n 8) k = (reg e (agIdx n 8) k + m) % 2 ^ 64 := by
  rw [agBump, reg_bumpBy_same, wrapWidth_agCounter hn hk]

theorem reg_agBump_other {i j : Nat} (h : cellKey 0 i j ≠ cellKey 0 (agIdx n 8) k) (m : Nat) (e : Eng) :
    reg (agBump n k m e) i j = reg e i j := reg_bumpBy_other h m e

/-- A counter that is raised leaves the agent's other entries alone. -/
theorem reg_agBump_apart {a j : Nat} (hk : k < 256) (hj : j < 256) (h : ¬(a = 8 ∧ j = k)) (m : Nat) (e : Eng) :
    reg (agBump n k m e) (agIdx n a) j = reg e (agIdx n a) j :=
  reg_agBump_other (fun hc => h ((cellKey_agent hj hk).mp hc)) m e

theorem agBump_entries (hn : n < 24) (hk : k < 256) (m : Nat) (e : Eng) :
    sameEntries [(agIdx n 8, k)] e (agBump n k m e) :=
  (sameEntries_refl _ e).bumpBy (List.mem_singleton.mpr rfl) (agIdx_lt hn (by decide)) hk m

@[simp] theorem agentOf_agBump (m : Nat) (e : Eng) (q : Nat) : agentOf (agBump n k m e) q = agentOf e q := rfl

@[simp] theorem agentOf_advanceSp (t : Nat) (e : Eng) (q : Nat) : agentOf (advanceSp t e) q = agentOf e q := rfl

theorem advanceSp_now (t : Nat) (e : Eng) : (advanceSp t e).now = max e.now (e.spBase.getD 0 + 2 * t) := rfl

end

/-! ### Waits -/

/-- A waiting request, marked where its wait is to be counted. -/
def countedWait (counter : Nat) (waits : Req → Bool) (r : Req) : Req :=
  if waits r && !r.waited.contains counter then { r with waited := counter :: r.waited } else r

theorem countedWait_id (counter : Nat) (waits : Req → Bool) (r : Req) : (countedWait counter waits r).id = r.id := by
  unfold countedWait
  split <;> rfl

theorem countedWait_of_not {waits : Req → Bool} {r : Req} (h : waits r = false) (counter : Nat) :
    countedWait counter waits r = r := by
  rw [countedWait, h]
  rfl

theorem noteWaits_eq (n counter : Nat) (waits : Req → Bool) (e : Eng) : noteWaits n counter waits e =
    agBump n counter ((agentOf e n).inbox.filter fun r => waits r && !r.waited.contains counter).length
      (onAgent n (fun a => { a with inbox := a.inbox.map (countedWait counter waits) }) e) := rfl

section
variable {n : Nat} (counter : Nat) (waits : Req → Bool) (e : Eng)

theorem noteWaits_agent : agentOf (noteWaits n counter waits e) n =
    { agentOf e n with inbox := (agentOf e n).inbox.map (countedWait counter waits) } := by
  rw [noteWaits_eq, agentOf_agBump, agentOf_onAgent_same]

theorem reg_noteWaits (hn : n < 24) (hc : 1 ≤ counter ∧ counter ≤ 21) :
    reg (noteWaits n counter waits e) (agIdx n 8) counter = (reg e (agIdx n 8) counter +
      ((agentOf e n).inbox.filter fun r => waits r && !r.waited.contains counter).length) % 2 ^ 64 := by
  rw [noteWaits_eq, reg_agBump_same hn hc, reg_onAgent]

theorem noteWaits_entries (hn : n < 24) (hc : counter < 256) :
    sameEntries [(agIdx n 8, counter)] e (noteWaits n counter waits e) := agBump_entries hn hc _ _

end

theorem map_countedWait_id (counter : Nat) (waits : Req → Bool) (rs : List Req) :
    (rs.map (countedWait counter waits)).map (·.id) = rs.map (·.id) := by
  rw [List.map_map]
  exact List.map_congr_left fun r _ => countedWait_id counter waits r

/-- The requests of an inbox that are not `r`, before and after waits are counted. -/
theorem filter_countedWait_id (counter : Nat) (waits : Req → Bool) (id : Nat) (rs : List Req) :
    ((rs.map (countedWait counter waits)).filter fun x => x.id ≠ id).map (·.id) =
      (rs.filter fun x => x.id ≠ id).map (·.id) := by
  have hmark : ((fun x : Req => decide (x.id ≠ id)) ∘ countedWait counter waits) = fun x => decide (x.id ≠ id) :=
    funext fun r => by rw [Function.comp_apply, countedWait_id]
  rw [List.filter_map, hmark, map_countedWait_id]

/-- Requests chosen by what no wait depends on, of which none waits: counting waits does not change them. -/
theorem filter_countedWait {p waits : Req → Bool} (counter : Nat) (hmark : ∀ r, p (countedWait counter waits r) = p r)
    (hgo : ∀ r, p r = true → waits r = false) (rs : List Req) :
    (rs.map (countedWait counter waits)).filter p = rs.filter p := by
  have hp : p ∘ countedWait counter waits = p := funext hmark
  rw [List.filter_map, hp, List.map_congr_left (g := id), List.map_id]
  exact fun r hr => countedWait_of_not (hgo r (List.mem_filter.mp hr).2) counter

/-! ### The request that goes down -/

theorem requestArrive_untagged {n : Nat} {e : Eng} (hup : partUp e (48 + n) = true) (ht : freeTag (agentOf e n) = none) :
    requestArrive n e = noteWaits n 11 (fun _ => true) e := by
  simp only [requestArrive, hup, ht, Bool.not_true, Bool.false_eq_true, if_false]

/-- The waits for room in the staging are counted. -/
def stagingNoted (n : Nat) (e : Eng) : Eng := noteWaits n 13 (fun r => !stagingRoom (agentOf e n) r) e

/-- Whether a request can reach its agent, and finds room there (R247, R273). -/
def goesDown (e : Eng) (n : Nat) (r : Req) : Bool := (canArrive e n r).isSome && stagingRoom (agentOf e n) r

theorem goesDown_countedWait (e : Eng) (n counter : Nat) (waits : Req → Bool) (r : Req) :
    goesDown e n (countedWait counter waits r) = goesDown e n r := by
  unfold countedWait
  split <;> rfl

/-- Counting the waits leaves the requests that can go down as they are. -/
theorem stagingNoted_goesDown (n : Nat) (e : Eng) :
    (agentOf (stagingNoted n e) n).inbox.filter (goesDown e n) = (agentOf e n).inbox.filter (goesDown e n) := by
  rw [stagingNoted, noteWaits_agent]
  refine filter_countedWait 13 (goesDown_countedWait e n 13 _) (fun r hr => ?_) _
  rw [(Bool.and_eq_true_iff.mp hr).2]
  rfl

theorem stagingNoted_downFree (n : Nat) (e : Eng) : downFree (stagingNoted n e) n = downFree e n := by
  simp only [downFree, stagingNoted, noteWaits_agent]
  rfl

/-- The first in order of the requests that can go down, where it crosses no stitch line, is admitted. -/
theorem requestArrive_admits {n tag : Nat} {r : Req} {e : Eng} (hup : partUp e (48 + n) = true)
    (ht : freeTag (agentOf e n) = some tag) (hfree : downFree e n = true)
    (hr : leastReq Req.downBefore ((agentOf e n).inbox.filter (goesDown e n)) = some r) (hs : r.spine = none) :
    requestArrive n e = admitRequest n tag r (leaveInbox n r (crossDown none r (stagingNoted n e))) := by
  rw [← stagingNoted_goesDown] at hr
  have hcan : canArrive (stagingNoted n e) n r = some none := by rw [canArrive, hs]
  have harrive : requestArrive n e = match leastReq Req.downBefore
        ((agentOf (stagingNoted n e) n).inbox.filter (goesDown e n)) with
      | some r => if downFree (stagingNoted n e) n then admitRequest n tag r (leaveInbox n r
          (crossDown ((canArrive (stagingNoted n e) n r).getD none) r (stagingNoted n e))) else stagingNoted n e
      | none => stagingNoted n e := by
    simp only [requestArrive, hup, ht, Bool.not_true, Bool.false_eq_true, if_false]
    rfl
  rw [harrive, hr]
  simp only [stagingNoted_downFree, hfree, if_true, hcan, Option.getD_some]

/-- A request that crosses no stitch line is 48 SPCLK on its way; the agent's own requests cross nothing (R267). -/
theorem crossDown_near (r : Req) (e : Eng) : crossDown none r e =
    if r.owner = .scrub ∨ r.owner = .repair then e else advanceSp (r.since + 48) e := by
  unfold crossDown
  cases r.owner <;> simp

theorem crossDown_now (r : Req) (e : Eng) : (crossDown none r e).now =
    if r.owner = .scrub ∨ r.owner = .repair then e.now else max e.now (e.spBase.getD 0 + 2 * (r.since + 48)) := by
  rw [crossDown_near]
  split <;> rfl

theorem crossDown_only (r : Req) (e : Eng) : crossDown none r e = { e with now := (crossDown none r e).now } := by
  rw [crossDown_near]
  split <;> rfl

theorem agentOf_of_agents {e e' : Eng} (h : e'.agents = e.agents) (n : Nat) : agentOf e' n = agentOf e n := by
  rw [agentOf, agentOf, h]

/-- The agent once a request has been admitted. -/
theorem admitted_agent (n tag : Nat) (r : Req) (e : Eng) :
    agentOf (admitRequest n tag r (leaveInbox n r e)) n = { agentOf e n with
      inbox := (agentOf e n).inbox.filter (·.id ≠ r.id)
      epochs := storeSet (fun _ => 0) tag ((storeGet (fun _ => 0) (agentOf e n).epochs tag + 1) % 16) (agentOf e n).epochs
      arrivals := (agentOf e n).arrivals + 1
      pending := (agentOf e n).pending ++ [{ r with
        tag, epoch := (storeGet (fun _ => 0) (agentOf e n).epochs tag + 1) % 16, arrival := (agentOf e n).arrivals,
        waited := [] }] } := by
  simp only [admitRequest, leaveInbox, agentOf_onAgent_same]

/-- What an admission changes, and that nothing else does. -/
theorem admission_frame {n : Nat} (hn : n < 24) (tag : Nat) (r : Req) (e : Eng) :
    let a := agentOf e n
    let epoch := (storeGet (fun _ => 0) a.epochs tag + 1) % 16
    let u := admitRequest n tag r (leaveInbox n r (crossDown none r (stagingNoted n e)))
    (agentOf u n).inbox.map (·.id) = (a.inbox.filter fun x => x.id ≠ r.id).map (·.id) ∧
    (agentOf u n).arrivals = a.arrivals + 1 ∧
    (agentOf u n).epochs = storeSet (fun _ => 0) tag epoch a.epochs ∧
    (agentOf u n).pending = a.pending ++ [{ r with tag := tag, epoch := epoch, arrival := a.arrivals, waited := [] }] ∧
    reg u (agIdx n 8) 13 = (reg e (agIdx n 8) 13 +
      (a.inbox.filter fun x => !stagingRoom a x && !x.waited.contains 13).length) % 2 ^ 64 ∧
    sameEntries [(agIdx n 8, 13)] e u ∧
    u.now = (if r.owner = .scrub ∨ r.owner = .repair then e.now
      else max e.now (e.spBase.getD 0 + 2 * (r.since + 48))) ∧
    u = { e with now := u.now, regs := u.regs, agents := u.agents } := by
  intro a epoch u
  have hcross := crossDown_only r (stagingNoted n e)
  have hagent : agentOf (crossDown none r (stagingNoted n e)) n =
      { a with inbox := a.inbox.map (countedWait 13 fun r => !stagingRoom a r) } :=
    (agentOf_of_agents (congrArg Eng.agents hcross) n).trans (noteWaits_agent ..)
  have hregs : u.regs = (stagingNoted n e).regs := (congrArg Eng.regs hcross :)
  have hua := admitted_agent n tag r (crossDown none r (stagingNoted n e))
  rw [hagent] at hua
  refine ⟨?_, congrArg Agent.arrivals hua, congrArg Agent.epochs hua, congrArg Agent.pending hua, ?_, ?_, ?_, ?_⟩
  · exact (congrArg (fun b : Agent => b.inbox.map (·.id)) hua).trans (filter_countedWait_id ..)
  · rw [reg_of_regs hregs, stagingNoted, reg_noteWaits _ _ _ hn (by decide)]
  · exact (noteWaits_entries 13 _ e hn (by decide)).congr hregs
  · exact crossDown_now r (stagingNoted n e)
  · exact congrArg (fun v : Eng => { v with now := u.now, regs := u.regs, agents := u.agents }) hcross

theorem exec_requestArrive {n : Fin 24} {s : State} {u : Eng} (h : requestArrive n.val s.eng = u) :
    exec (.requestArrive n) s = .next { s with eng := u } := by
  rw [← h]
  rfl

end Sys2Proof.Machine
end

section
/-! PROOFS. The Dealer's decision of a card for which nothing waits, or one read that fits it whole (O42;
spec/10_stack_agents.md R236, R248, R249): what a decision reads, what it leaves alone, and whom it grants the card. -/

namespace Sys2Proof.Machine

/-! ### What a decision reads -/

/-- Two states with the same Hands: the Deck, the Hands' contents, and the entries that say which are in force. -/
structure SameHands (e e' : Eng) : Prop where
  deck : e'.deck = e.deck
  dom : e'.dom = e.dom
  pattern : reg e' 0x3800 2 = reg e 0x3800 2
  counts : reg e' 0x3800 3 = reg e 0x3800 3
  blank : reg e' 0x3800 6 = reg e 0x3800 6

section
variable {e e' : Eng} (h : SameHands e e')
include h

theorem SameHands.blankAt_eq : blankAt e' = blankAt e := by
  funext n f
  rw [blankAt, blankAt, decidedFor, decidedFor, h.deck, h.blank]

theorem SameHands.patternAt_eq : patternAt e' = patternAt e := by
  funext f
  rw [patternAt, patternAt, decidedFor, decidedFor, h.deck, h.pattern]

theorem SameHands.countsAt_eq : countsAt e' = countsAt e := by
  funext f
  rw [countsAt, countsAt, decidedFor, decidedFor, h.deck, h.counts]

theorem SameHands.handEntry_eq : handEntry e' = handEntry e := by
  funext n hand i
  rw [handEntry, handEntry, domNat, domNat, domBytes, domBytes, h.dom]

theorem SameHands.mergedEntry_eq : mergedEntry e' = mergedEntry e := by
  funext n i p
  rw [mergedEntry, mergedEntry, h.handEntry_eq]

theorem SameHands.kindAt_eq : kindAt e' = kindAt e := by
  funext n abs g
  simp only [kindAt, cardAt, h.blankAt_eq, h.patternAt_eq, h.mergedEntry_eq, h.deck]

theorem SameHands.shadowed_eq : shadowed e' = shadowed e := by
  funext n abs g bank
  simp only [shadowed, refreshBank, h.kindAt_eq, h.blankAt_eq, h.countsAt_eq]

theorem SameHands.cardRule_eq : cardRule e' = cardRule e := by
  funext n abs g others kept off
  simp only [cardRule, h.shadowed_eq]

theorem SameHands.fitPrefix_eq (n abs g : Nat) (a : Agent) (r : Req) (xs : List Sect) (kept : List Nat) :
    fitPrefix e' n abs g a r xs kept = fitPrefix e n abs g a r xs kept := by
  induction xs generalizing kept with
  | nil => rfl
  | cons x xs ih => rw [fitPrefix, fitPrefix, h.cardRule_eq, ih]

omit h in
theorem roomFor_congr (ha : ∀ m, agentOf e' m = agentOf e m) : roomFor e' = roomFor e := by
  have hdue : dueAt e' = dueAt e := by
    funext s
    simp only [dueAt, ha]
  funext n abs r j count
  rw [roomFor, roomFor, hdue]

/-- What of a request fits a card, where it crosses no stitch line: the Hands and the agents decide it. -/
theorem SameHands.fitOn_eq (ha : ∀ m, agentOf e' m = agentOf e m) {r : Req} (hs : r.spine = none) (n abs g : Nat)
    (kept : List Nat) : fitOn e' n abs g kept r = fitOn e n abs g kept r := by
  have heighth (u : Eng) : eighthFor u n abs r = true := by simp [eighthFor, hs]
  rw [fitOn, fitOn, heighth, heighth, h.fitPrefix_eq, ha, roomFor_congr ha]

end

/-! ### The decision point -/

/-- The state in which a card is decided: 32 SPCLK before it, with the read phases that wait for the lock table
counted. -/
def decisionState (n abs g : Nat) (e : Eng) : Eng := countLockWaits n g (advanceSp (8 * abs - 32) e)

/-- The requests that a decision chooses from (R249, R251, R402): those that fit the card; under FREEZE those that drain;
under throttling those of classes 0 and 1 and those that a Trump cut. -/
def fitting (n abs g : Nat) (e : Eng) : List Req :=
  let fit := (agentOf e n).pending.filter fun r => !(fitOn e n abs g [] r).isEmpty
  let fit := if reg e (agIdx n 0) 3 = 1 then fit.filter (·.drain) else fit
  if bit (reg e 0x1104 1) n then fit.filter fun r => r.cls < 2 || r.trumped else fit

section
variable {n abs g : Nat} {e : Eng}

theorem dealerDecision_plain (hinit : (agentOf e n).initDone = true)
    (hfree : ((agentOf e n).grants.any fun x => x.abs == abs && x.group == g) = false)
    (hkind : kindAt e n abs g = .dynamic) : dealerDecision n abs g e = settleCatchups n abs g
      (decidePlain n abs g (fitting n abs g (decisionState n abs g e)) (decisionState n abs g e)) := by
  simp only [dealerDecision, hinit, hfree, hkind]
  rfl

theorem dealerDecision_reserved (hinit : (agentOf e n).initDone = true)
    (hfree : ((agentOf e n).grants.any fun x => x.abs == abs && x.group == g) = false)
    (hkind : kindAt e n abs g = .class0 ∨ kindAt e n abs g = .splinter) : ∃ splinter, dealerDecision n abs g e =
      decideReserved n abs g splinter (fitting n abs g (decisionState n abs g e)) (decisionState n abs g e) := by
  rcases hkind with hkind | hkind
  · exact ⟨false, by simp only [dealerDecision, hinit, hfree, hkind]; rfl⟩
  · exact ⟨true, by simp only [dealerDecision, hinit, hfree, hkind]; rfl⟩

theorem decisionState_now (n abs g : Nat) (e : Eng) : (decisionState n abs g e).now =
    max e.now (e.spBase.getD 0 + 2 * (8 * abs - 32)) := rfl

theorem decisionState_out (n abs g : Nat) (e : Eng) : (decisionState n abs g e).out = e.out := rfl

theorem decisionState_memory (n abs g : Nat) (e : Eng) : sameMemory e (decisionState n abs g e) :=
  sameMemory_of rfl rfl rfl rfl rfl

theorem reg_decisionState {i k : Nat} (h : cellKey 0 i k ≠ cellKey 0 (agIdx n 8) 12) (abs g : Nat) (e : Eng) :
    reg (decisionState n abs g e) i k = reg e i k := reg_agBump_other h _ _

/-- Where no read phase of a merge waits, no wait for the lock table is counted. -/
theorem agentOf_decisionState (h : ∀ r ∈ (agentOf e n).pending, r.kind ≠ .mergeRead) (m : Nat) :
    agentOf (decisionState n abs g e) m = agentOf e m := by
  have hfull (b : Bool) : ∀ r ∈ (agentOf e n).pending, (r.kind == ReqKind.mergeRead && b) = false := fun r hr => by
    rw [beq_eq_false_iff_ne.mpr (h r hr), Bool.false_and]
  by_cases hm : m = n
  · subst hm
    simp only [decisionState, countLockWaits, agentOf_agBump, agentOf_onAgent_same, agentOf_advanceSp, Bool.and_assoc]
    rw [List.map_congr_left (g := id) fun r hr => by simp only [hfull _ r hr]; rfl, List.map_id]
  · simp only [decisionState, countLockWaits, agentOf_agBump, agentOf_onAgent_other hm, agentOf_advanceSp]

/-- Counting the waits for the lock table leaves the Hands as they are. -/
theorem decisionState_hands (hn : n < 24) (abs g : Nat) (e : Eng) :
    SameHands (advanceSp (8 * abs - 32) e) (decisionState n abs g e) := by
  have hdeck (k : Nat) (hk : k < 256) : cellKey 0 0x3800 k ≠ cellKey 0 (agIdx n 8) 12 :=
    cellKey_ne (by unfold agIdx; omega) hk (by decide) (by decide) (agIdx_lt hn (by decide))
  exact ⟨rfl, rfl, reg_decisionState (hdeck 2 (by decide)) .., reg_decisionState (hdeck 3 (by decide)) ..,
    reg_decisionState (hdeck 6 (by decide)) ..⟩

theorem fitting_of_idle (h : (agentOf e n).pending = []) : fitting n abs g e = [] := by
  simp [fitting, h]

/-- One request that waits, fits the card, and is held back neither by FREEZE nor by throttling. -/
theorem fitting_of_single {r : Req} (h : (agentOf e n).pending = [r]) (hfit : fitOn e n abs g [] r ≠ [])
    (hfreeze : reg e (agIdx n 0) 3 ≠ 1 ∨ r.drain = true)
    (hthrottle : r.cls < 2 ∨ r.trumped = true ∨ bit (reg e 0x1104 1) n = false) : fitting n abs g e = [r] := by
  have hfits : [r].filter (fun x => !(fitOn e n abs g [] x).isEmpty) = [r] := by simp [hfit]
  have hdrains : (if reg e (agIdx n 0) 3 = 1 then [r].filter (·.drain) else [r]) = [r] := by
    rcases hfreeze with hf | hd
    · rw [if_neg hf]
    · simp [hd]
  have hserved : (if bit (reg e 0x1104 1) n then [r].filter fun x => x.cls < 2 || x.trumped else [r]) = [r] := by
    rcases hthrottle with hc | ht | hb
    · simp [Nat.le_of_lt_succ hc]
    · simp [ht]
    · simp [hb]
  rw [fitting, h, hfits, hdrains, hserved]

end

/-! ### What a decision leaves alone -/

/-- The steps of a decision move neither the clock nor memory, send nothing, and let catch-ups and hints be. -/
structure Decides (n : Nat) (e e' : Eng) : Prop where
  now : e'.now = e.now
  out : e'.out = e.out
  memory : sameMemory e e'
  catchups : (agentOf e' n).catchups = (agentOf e n).catchups
  hints : reg e' (agIdx n 1) 3 = reg e (agIdx n 1) 3

theorem Decides.refl (n : Nat) (e : Eng) : Decides n e e := ⟨rfl, rfl, sameMemory_refl e, rfl, rfl⟩

theorem Decides.trans {n : Nat} {a b c : Eng} (h : Decides n a b) (g : Decides n b c) : Decides n a c :=
  ⟨g.now.trans h.now, g.out.trans h.out, h.memory.trans g.memory, g.catchups.trans h.catchups, g.hints.trans h.hints⟩

theorem Decides.agBump {n k : Nat} {a b : Eng} (h : Decides n a b) (hk : k < 256) (m : Nat) :
    Decides n a (Machine.agBump n k m b) :=
  h.trans ⟨rfl, rfl, sameMemory_of rfl rfl rfl rfl rfl, rfl, reg_agBump_apart hk (by decide) (by omega) m b⟩

theorem Decides.onAgent {n : Nat} {a b : Eng} (h : Decides n a b) {f : Agent → Agent}
    (hf : (f (agentOf b n)).catchups = (agentOf b n).catchups) : Decides n a (Machine.onAgent n f b) :=
  h.trans ⟨rfl, rfl, sameMemory_of rfl rfl rfl rfl rfl, by rw [agentOf_onAgent_same, hf], rfl⟩

theorem settleCatchups_none {n : Nat} {e : Eng} (h : (agentOf e n).catchups = []) (abs g : Nat) :
    settleCatchups n abs g e = e := by
  rw [settleCatchups, h]
  rfl

theorem sendHints_off {n : Nat} {e : Eng} (h : reg e (agIdx n 1) 3 = 0) (abs g : Nat) (pool : List Req) :
    sendHints n abs g pool e = e := if_pos h

/-- Where no request waits, no hint is sent. -/
theorem sendHints_idle {n : Nat} {e : Eng} (h : (agentOf e n).pending = []) (abs g : Nat) (pool : List Req) :
    Decides n e (sendHints n abs g pool e) ∧ (sendHints n abs g pool e).regs = e.regs ∧
      (agentOf (sendHints n abs g pool e) n).grants = (agentOf e n).grants := by
  by_cases hoff : reg e (agIdx n 1) 3 = 0
  · rw [sendHints_off hoff]
    exact ⟨.refl n e, rfl, rfl⟩
  · simp only [sendHints, if_neg hoff, h, List.filter_nil, List.foldl_nil]
    exact ⟨(Decides.refl n e).onAgent rfl, rfl, by rw [agentOf_onAgent_same]⟩

/-! ### A card for which nothing waits -/

section
variable {n abs g : Nat} {e : Eng}

theorem catchupsAt_none (h : (agentOf e n).catchups = []) (abs g : Nat) : catchupsAt e n abs g = [] := by
  rw [catchupsAt, h]
  rfl

theorem lanePool_nil (lane : Nat) : lanePool lane [] = [] := rfl

theorem decidePlain_idle (h : (agentOf e n).catchups = []) :
    decidePlain n abs g [] e = sendHints n abs g [] (unused n e) := by
  simp only [decidePlain, catchupsAt_none h, lanePool_nil]
  cases decide ((agentOf e n).allowance ≤ (agentOf e n).windowCards) <;> cases ageTurn e n g <;> rfl

theorem decideReserved_idle (splinter : Bool) :
    decideReserved n abs g splinter [] e = sendHints n abs g [] (unused n e) := by
  cases splinter <;> rfl

/-- A card for which nothing waits is decided: it stays unused. -/
theorem dealerDecision_idle (hinit : (agentOf e n).initDone = true)
    (hfree : ((agentOf e n).grants.any fun x => x.abs == abs && x.group == g) = false)
    (hkind : kindAt e n abs g = .dynamic ∨ kindAt e n abs g = .class0 ∨ kindAt e n abs g = .splinter)
    (hpending : (agentOf e n).pending = []) (hcatchups : (agentOf e n).catchups = []) :
    dealerDecision n abs g e = sendHints n abs g [] (unused n (decisionState n abs g e)) := by
  have hagent : agentOf (decisionState n abs g e) n = agentOf e n :=
    agentOf_decisionState (fun r hr => by rw [hpending] at hr; cases hr) n
  have hfit : fitting n abs g (decisionState n abs g e) = [] := fitting_of_idle (by rw [hagent, hpending])
  rcases hkind with hkind | hkind
  · rw [dealerDecision_plain hinit hfree hkind, hfit, decidePlain_idle (by rw [hagent, hcatchups]), settleCatchups_none]
    have hidle := (sendHints_idle (e := unused n (decisionState n abs g e)) (by
      rw [unused, agentOf_agBump, hagent, hpending]) abs g []).1
    rw [hidle.catchups, unused, agentOf_agBump, hagent, hcatchups]
  · obtain ⟨splinter, hdecide⟩ := dealerDecision_reserved hinit hfree hkind
    rw [hdecide, hfit, decideReserved_idle]

end

/-! ### A card that one read takes whole -/

/-- A card has been granted to one request, which does not wait any more. -/
structure GrantedTo (n abs g : Nat) (r : Req) (e e' : Eng) : Prop extends Decides n e e' where
  grants : (agentOf e' n).grants = (agentOf e n).grants ++ [{ abs := abs, group := g, parts := [r] }]
  pending : (agentOf e' n).pending = []

section
variable {n abs g : Nat} {r : Req} {e e' u : Eng}

theorem GrantedTo.agBump (h : GrantedTo n abs g r e e') {k : Nat} (hk : k < 256) (m : Nat) :
    GrantedTo n abs g r e (Machine.agBump n k m e') := ⟨h.toDecides.agBump hk m, h.grants, h.pending⟩

/-- Steps before a grant that leave the grants alone. -/
theorem GrantedTo.after (h : GrantedTo n abs g r u e') (hd : Decides n e u)
    (hg : (agentOf u n).grants = (agentOf e n).grants) : GrantedTo n abs g r e e' :=
  ⟨hd.trans h.toDecides, hg ▸ h.grants, h.pending⟩

/-- The sectors of a read that crosses no stitch line leave their request: all that it has. -/
theorem grantPart_whole (hk : r.kind = .read) (hs : r.spine = none) (hp : (agentOf e n).pending = [r]) :
    Decides n e (grantPart n abs r r.sects e) ∧
      (agentOf (grantPart n abs r r.sects e) n).grants = (agentOf e n).grants ∧
      (agentOf (grantPart n abs r r.sects e) n).pending = [] := by
  simp only [grantPart, hk, hs]
  exact ⟨(Decides.refl n e).onAgent rfl, by rw [agentOf_onAgent_same], by simp [hp, hk]⟩

theorem grantCard_single (n abs g : Nat) (plain : Bool) (r : Req) (xs : List Sect) (e : Eng) :
    grantCard n abs g plain [(r, xs)] e = onAgent n (fun a => { a with
      grants := a.grants ++ [{ abs := abs, group := g, parts := [{ r with sects := xs }] }]
      windowCards := if plain then a.windowCards + 1 else a.windowCards })
      (agBump n (laneCounter r.lane) 1 (grantPart n abs r xs e)) := rfl

/-- A card is granted to a read with all its sectors. -/
theorem grantCard_whole (hk : r.kind = .read) (hs : r.spine = none) (hp : (agentOf e n).pending = [r]) (plain : Bool) :
    GrantedTo n abs g r e (grantCard n abs g plain [(r, r.sects)] e) := by
  obtain ⟨hdec, hgrants, hpending⟩ := grantPart_whole (abs := abs) hk hs hp
  have hlane : laneCounter r.lane < 256 := by
    unfold laneCounter
    split
    · decide
    · split <;> decide
  rw [grantCard_single]
  refine ⟨(hdec.agBump hlane 1).onAgent rfl, ?_, ?_⟩
  · rw [agentOf_onAgent_same, agentOf_agBump, hgrants]
  · rw [agentOf_onAgent_same, agentOf_agBump, hpending]

/-- A plain dynamic card is given to a request with what of it fits; the grant counts towards the age grant (R250) unless
the request was cut by a Trump. -/
def givePlain (n abs g : Nat) (r : Req) (count : Bool) (e : Eng) : Eng :=
  grantCard n abs g true [(r, fitOn e n abs g [] r)] (if count then
    onAgent n (fun a => { a with plain := storeSet (fun _ => 0) g (plainGrants a g + 1) a.plain }) e else e)

theorem givePlain_whole (hk : r.kind = .read) (hs : r.spine = none) (hp : (agentOf e n).pending = [r])
    (hfit : fitOn e n abs g [] r = r.sects) (count : Bool) : GrantedTo n abs g r e (givePlain n abs g r count e) := by
  rw [givePlain, hfit]
  cases count
  · exact grantCard_whole hk hs hp true
  · rw [if_pos rfl]
    exact (grantCard_whole hk hs (by rw [agentOf_onAgent_same, hp]) true).after ((Decides.refl n e).onAgent rfl)
      (by rw [agentOf_onAgent_same])

theorem lanePool_single (hl : r.lane < 3) (lane : Nat) : lanePool lane [r] = [r] := by
  have hsome : ∃ k, k < 3 ∧ r.lane = (lane + k) % 3 := ⟨(r.lane + 3 - lane % 3) % 3, by omega, by omega⟩
  obtain ⟨k, hk, hlane⟩ := hsome
  cases hfind : (below 3).find? fun k => [r].any fun x => x.lane == (lane + k) % 3 with
  | none => simpa [hlane] using List.find?_eq_none.mp hfind k (mem_below.mpr hk)
  | some j =>
    have hj : r.lane = (lane + j) % 3 := by simpa using List.find?_some hfind
    rw [lanePool, hfind]
    simp [← hj]

/-- The only request that fits a plain dynamic card gets it: as one that a Trump cut, as the oldest, or as the first in
order (R249, R250). -/
theorem decidePlain_single (hc : (agentOf e n).catchups = []) (hl : r.lane < 3)
    (ha : (agentOf e n).windowCards < (agentOf e n).allowance) : decidePlain n abs g [r] e = sendHints n abs g [r] (
      if r.trumped then givePlain n abs g r false e
      else if ageTurn e n g then agBump n 8 1 (givePlain n abs g r true e) else givePlain n abs g r true e) := by
  have hopen : decide ((agentOf e n).allowance ≤ (agentOf e n).windowCards) = false := by simpa using ha
  simp only [decidePlain, catchupsAt_none hc, lanePool_single hl, hopen]
  cases ht : r.trumped <;> cases ageTurn e n g <;> simp only [List.filter_cons, List.filter_nil, ht] <;> rfl

theorem decidePlain_whole (hk : r.kind = .read) (hs : r.spine = none) (hp : (agentOf e n).pending = [r])
    (hfit : fitOn e n abs g [] r = r.sects) (hh : reg e (agIdx n 1) 3 = 0) (hc : (agentOf e n).catchups = [])
    (hl : r.lane < 3) (ha : (agentOf e n).windowCards < (agentOf e n).allowance) :
    GrantedTo n abs g r e (decidePlain n abs g [r] e) := by
  have hgive := givePlain_whole hk hs hp hfit
  have hcard : GrantedTo n abs g r e (if r.trumped then givePlain n abs g r false e
      else if ageTurn e n g then Machine.agBump n 8 1 (givePlain n abs g r true e) else givePlain n abs g r true e) := by
    split
    · exact hgive false
    · split
      · exact (hgive true).agBump (by decide) 1
      · exact hgive true
  rw [decidePlain_single hc hl ha, sendHints_off (hcard.hints.trans hh)]
  exact hcard

/-- The only request that fits a class-0 reserved or a splinter card gets it, as a whole Weevil request or not. -/
theorem decideReserved_single (hfit : fitOn e n abs g [] r = r.sects) (splinter : Bool) : ∃ pool,
    decideReserved n abs g splinter [r] e = sendHints n abs g pool (grantCard n abs g false [(r, r.sects)] e) := by
  cases splinter with
  | false =>
    refine ⟨if ([r].filter fun x => x.cls == 0).isEmpty then [r] else [r].filter fun x => x.cls == 0, ?_⟩
    cases hcls : r.cls == 0 <;> simp [decideReserved, leastReq, hcls, hfit]
  | true =>
    cases hw : r.weevil with
    | false => exact ⟨[r], by simp [decideReserved, sortReqs, splinterTake, leastReq, hw, hfit]⟩
    | true => exact ⟨[r], by simp [decideReserved, sortReqs, splinterTake, hw, hfit]⟩

theorem decideReserved_whole (hk : r.kind = .read) (hs : r.spine = none) (hp : (agentOf e n).pending = [r])
    (hfit : fitOn e n abs g [] r = r.sects) (hh : reg e (agIdx n 1) 3 = 0) (splinter : Bool) :
    GrantedTo n abs g r e (decideReserved n abs g splinter [r] e) := by
  have hcard := grantCard_whole (abs := abs) (g := g) hk hs hp false
  obtain ⟨pool, hdecide⟩ := decideReserved_single (e := e) hfit splinter
  rw [hdecide, sendHints_off (hcard.hints.trans hh)]
  exact hcard

/-- A read that waits alone and fits a card whole is granted it. -/
theorem dealerDecision_whole (hn : n < 24) (hinit : (agentOf e n).initDone = true)
    (hfree : ((agentOf e n).grants.any fun x => x.abs == abs && x.group == g) = false)
    (hkind : kindAt e n abs g = .dynamic ∨ kindAt e n abs g = .class0 ∨ kindAt e n abs g = .splinter)
    (hp : (agentOf e n).pending = [r]) (hc : (agentOf e n).catchups = []) (hk : r.kind = .read) (hs : r.spine = none)
    (hl : r.lane < 3) (hserved : r.cls < 2 ∨ r.trumped = true ∨ bit (reg e 0x1104 1) n = false)
    (hfit : fitOn (advanceCycle (2 * (8 * abs - 32)) e) n abs g [] r = r.sects) (hne : r.sects ≠ [])
    (hfreeze : reg e (agIdx n 0) 3 ≠ 1 ∨ r.drain = true) (hh : reg e (agIdx n 1) 3 = 0)
    (ha : kindAt e n abs g = .dynamic → (agentOf e n).windowCards < (agentOf e n).allowance) :
    GrantedTo n abs g r (decisionState n abs g e) (dealerDecision n abs g e) := by
  have hagents := agentOf_decisionState (abs := abs) (g := g) (e := e) (n := n) fun q hq => by
    rw [hp, List.mem_singleton] at hq
    rw [hq, hk]
    exact ReqKind.noConfusion
  have hagent := hagents n
  have hfit' : fitOn (decisionState n abs g e) n abs g [] r = r.sects :=
    ((decisionState_hands hn abs g e).fitOn_eq hagents hs n abs g []).trans hfit
  have hown {a k : Nat} (hk : k < 256) (h : a ≠ 8) :
      reg (decisionState n abs g e) (agIdx n a) k = reg e (agIdx n a) k :=
    reg_decisionState (fun hcell => h ((cellKey_agent hk (by decide)).mp hcell).1) abs g e
  have hthrottle : reg (decisionState n abs g e) 0x1104 1 = reg e 0x1104 1 :=
    reg_decisionState (cellKey_ne (by unfold agIdx; omega) (by decide) (by decide) (by decide) (agIdx_lt hn (by decide)))
      abs g e
  have hfreeze' : reg (decisionState n abs g e) (agIdx n 0) 3 = reg e (agIdx n 0) 3 := hown (by decide) (by decide)
  have hfitting : fitting n abs g (decisionState n abs g e) = [r] :=
    fitting_of_single (hagent ▸ hp) (hfit' ▸ hne) (hfreeze' ▸ hfreeze) (hthrottle ▸ hserved)
  have hhints : reg (decisionState n abs g e) (agIdx n 1) 3 = 0 := (hown (by decide) (by decide)).trans hh
  rcases hkind with hkind | hkind
  · have hcard := decidePlain_whole (abs := abs) (g := g) hk hs (hagent ▸ hp) hfit' hhints (hagent ▸ hc) hl
      (hagent ▸ ha hkind)
    rw [dealerDecision_plain hinit hfree hkind, hfitting,
      settleCatchups_none (hcard.catchups.trans ((congrArg Agent.catchups hagent).trans hc))]
    exact hcard
  · obtain ⟨splinter, hdecide⟩ := dealerDecision_reserved hinit hfree hkind
    rw [hdecide, hfitting]
    exact decideReserved_whole hk hs (hagent ▸ hp) hfit' hhints splinter

end

theorem exec_dealerDecision {n : Fin 24} {abs : Nat} {g : Fin 4} {s : State} {u : Eng}
    (h : dealerDecision n.val abs g.val s.eng = u) :
    exec (.dealerDecision n abs g) s = .next { s with eng := u } := by
  rw [← h]
  rfl

end Sys2Proof.Machine
end

section
/-! PROOFS. Granted cards that refresh or read (O42; spec/10_stack_agents.md R236, R241, R243 to R245): a refresh issued,
the bursts of a read, and a Trump. -/

namespace Sys2Proof.Machine

/-! ### Refreshes -/

/-- Steps that move the throttling and nothing of the agents, the clock or memory (R402). -/
structure Throttles (e e' : Eng) : Prop where
  now : e'.now = e.now
  agents : e'.agents = e.agents
  memory : sameMemory e e'
  entries : sameEntries [(0x1104, 1), (0x1103, 5)] e e'

theorem Throttles.refl (e : Eng) : Throttles e e := ⟨rfl, rfl, sameMemory_refl e, sameEntries_refl _ e⟩

theorem Throttles.setReg {a b : Eng} (h : Throttles a b) (v : Nat) : Throttles a (Machine.setReg 0x1104 1 v b) :=
  ⟨h.now, h.agents, h.memory.trans (sameMemory_of rfl rfl rfl rfl rfl),
    h.entries.setReg (by decide) (by decide) (by decide) v⟩

theorem Throttles.withPower {a b : Eng} (h : Throttles a b) (p : Power) : Throttles a { b with power := p } :=
  ⟨h.now, h.agents, h.memory.trans (sameMemory_of rfl rfl rfl rfl rfl), h.entries.congr rfl⟩

theorem Throttles.message {a b : Eng} (h : Throttles a b) (n on : Nat) : Throttles a (throttleMessage n on b) := by
  unfold throttleMessage
  split
  · exact ⟨h.now, h.agents, h.memory.trans (sameMemory_of rfl rfl rfl rfl rfl),
      (h.entries.bump (by decide) (by decide) (by decide)).congr rfl⟩
  · exact ⟨h.now, h.agents, h.memory.trans (sameMemory_of rfl rfl rfl rfl rfl), h.entries.congr rfl⟩

theorem checkThrottle_throttles (n : Nat) (e : Eng) : Throttles e (checkThrottle n e) := by
  simp only [checkThrottle]
  split
  · exact (((Throttles.refl e).setReg _).message n 1).withPower _
  · split
    · exact ((Throttles.refl e).setReg _).message n 0
    · exact .refl e

/-- The entries that a refresh of an agent's bank may move: OWED_MAX, and those of the throttling. -/
def refreshEntries (n : Nat) : List (Nat × Nat) := [(agIdx n 2, 3), (0x1104, 1), (0x1103, 5)]

theorem setOwed_frame {n : Nat} (hn : n < 24) (g bank : Nat) (v : Int) (e : Eng) :
    let u := setOwed n g bank v e
    owedOf u n g bank = v ∧ (agentOf u n).grants = (agentOf e n).grants ∧ u.now = e.now ∧
      sameMemory e u ∧ sameEntries [(agIdx n 2, 3)] e u := by
  intro u
  have hagents : u.agents = (onAgent n (fun a => { a with
      owed := storeSet (fun _ => 0) (16 * g + bank) v a.owed }) e).agents := by
    simp only [u, setOwed]
    split <;> rfl
  have hagent := (agentOf_of_agents hagents n).trans (agentOf_onAgent_same ..)
  refine ⟨?_, ?_, ?_, ?_, ?_⟩
  · rw [owedOf, hagent, storeGet_set_same]
  · rw [hagent]
  all_goals
    simp only [u, setOwed]
    split
  · rfl
  · rfl
  · exact sameMemory_of rfl rfl rfl rfl rfl
  · exact sameMemory_of rfl rfl rfl rfl rfl
  · exact ((sameEntries_refl _ e).congr rfl).setReg (by simp) (agIdx_lt hn (by decide)) (by decide) _
  · exact (sameEntries_refl _ e).congr rfl

/-- A refresh issued to a bank lowers its owed count, and leaves the agent's grants alone (R243). -/
theorem issueRefresh_frame {n : Nat} (hn : n < 24) (g bank : Nat) (e : Eng) :
    let u := issueRefresh n g bank e
    owedOf u n g bank = owedOf e n g bank - 1 ∧ (agentOf u n).grants = (agentOf e n).grants ∧
      u.now = e.now ∧ sameMemory e u ∧ sameEntries (refreshEntries n) e u := by
  intro u
  obtain ⟨howed, hgrants, hnow, hmem, hentries⟩ := setOwed_frame hn g bank (owedOf e n g bank - 1) e
  have hthrottle := checkThrottle_throttles n (setOwed n g bank (owedOf e n g bank - 1) e)
  have hsame : agentOf u n = agentOf (setOwed n g bank (owedOf e n g bank - 1) e) n :=
    agentOf_of_agents hthrottle.agents n
  refine ⟨?_, ?_, hthrottle.now.trans hnow, hmem.trans hthrottle.memory, ?_⟩
  · rw [← howed, owedOf, owedOf, hsame]
  · rw [hsame, hgrants]
  · exact (hentries.mono (by simp [refreshEntries])).trans (hthrottle.entries.mono (by simp [refreshEntries]))

/-- A counter of the agent after a refresh. -/
theorem reg_issueRefresh {n k : Nat} (hn : n < 24) (hk : k < 256) (g bank : Nat) (e : Eng) :
    reg (issueRefresh n g bank e) (agIdx n 8) k = reg e (agIdx n 8) k := by
  obtain ⟨-, -, -, -, hentries⟩ := issueRefresh_frame hn g bank e
  refine hentries.reg (agIdx_lt hn (by decide)) hk ?_
  simp only [refreshEntries, List.mem_cons, Prod.mk.injEq, List.not_mem_nil, or_false, agIdx]
  omega

theorem agentOf_emit (o : PortOut) (e : Eng) (n : Nat) : agentOf (emit o e) n = agentOf e n := rfl

theorem sameMemory_agBump (n k m : Nat) (e : Eng) : sameMemory e (agBump n k m e) := sameMemory_of rfl rfl rfl rfl rfl

theorem sameMemory_onAgent (n : Nat) (f : Agent → Agent) (e : Eng) : sameMemory e (onAgent n f e) :=
  sameMemory_of rfl rfl rfl rfl rfl

theorem sameMemory_emit (o : PortOut) (e : Eng) : sameMemory e (emit o e) := sameMemory_of rfl rfl rfl rfl rfl

theorem owedOf_emit (o : PortOut) (e : Eng) (n g bank : Nat) : owedOf (emit o e) n g bank = owedOf e n g bank := rfl

/-! ### A granted card -/

section
variable {n abs g : Nat} {x : Grant} {e : Eng}

/-- A granted card begins: its grant is taken (R236). -/
def cardBegun (n abs : Nat) (x : Grant) (e : Eng) : Eng :=
  advanceSp (8 * abs) (onAgent n (fun a => { a with grants := a.grants.erase x }) e)

theorem cardBegun_agent (n abs : Nat) (x : Grant) (e : Eng) : agentOf (cardBegun n abs x e) n =
    { agentOf e n with grants := (agentOf e n).grants.erase x } := by
  rw [cardBegun, agentOf_advanceSp, agentOf_onAgent_same]

theorem cardBegun_memory (n abs : Nat) (x : Grant) (e : Eng) : sameMemory e (cardBegun n abs x e) :=
  sameMemory_of rfl rfl rfl rfl rfl

theorem cardBegun_now (n abs : Nat) (x : Grant) (e : Eng) :
    (cardBegun n abs x e).now = max e.now (e.spBase.getD 0 + 16 * abs) := by
  rw [cardBegun, advanceSp_now, show 2 * (8 * abs) = 16 * abs by omega]
  rfl

theorem dynamicCard_refreshes (hx : ((agentOf e n).grants.find? fun x => x.abs == abs && x.group == g) = some x)
    (ht : x.trump = false) {bank : Nat} (hr : x.refresh = some bank) : dynamicCard n abs g e =
      emit (.xdn n abs g [.refresh bank]) (issueRefresh n g bank (agBump n 2 1 (cardBegun n abs x e))) := by
  simp only [dynamicCard, hx, ht, hr, Bool.false_eq_true, if_false]
  rfl

/-- What a granted card sends at XDn, and its count in the power estimate (R233, R400). -/
def cardSent (n abs g : Nat) (kind : CardKind) (parts : List Req) (e : Eng) : Eng :=
  xdnCard n abs g (cardCmds abs g parts)
    (if parts.any fun r => !r.sects.isEmpty then countCard (kind == .dynamic) e else e)

theorem dynamicCard_carries (hx : ((agentOf e n).grants.find? fun x => x.abs == abs && x.group == g) = some x)
    (ht : x.trump = false) (hr : x.refresh = none) : dynamicCard n abs g e = settleWrites n abs x.parts
      (carryParts n abs g (kindAt e n abs g) 0 x.parts
        (cardSent n abs g (kindAt e n abs g) x.parts (cardBegun n abs x e))) := by
  simp only [dynamicCard, hx, ht, hr, Bool.false_eq_true, if_false]
  rfl

theorem cardSent_frame (n abs g : Nat) (kind : CardKind) (parts : List Req) (e : Eng) :
    let u := cardSent n abs g kind parts e
    u.now = e.now ∧ u.agents = e.agents ∧ u.regs = e.regs ∧ sameMemory e u ∧
      u.out = (if (cardCmds abs g parts).isEmpty then [] else [.xdn n abs g (cardCmds abs g parts)]) ++ e.out := by
  intro u
  have hcount (plain : Bool) : countCard plain e = { e with power := (countCard plain e).power } := rfl
  simp only [u, cardSent, xdnCard]
  cases (parts.any fun r => !r.sects.isEmpty) <;> cases (cardCmds abs g parts).isEmpty <;>
    exact ⟨rfl, rfl, rfl, sameMemory_of rfl rfl rfl rfl rfl, rfl⟩

/-- A card granted to a catch-up refreshes its bank (R244). -/
theorem dynamicCard_refresh_frame (hn : n < 24)
    (hx : ((agentOf e n).grants.find? fun x => x.abs == abs && x.group == g) = some x) (ht : x.trump = false)
    {bank : Nat} (hr : x.refresh = some bank) :
    let u := dynamicCard n abs g e
    owedOf u n g bank = owedOf e n g bank - 1 ∧ (agentOf u n).grants = (agentOf e n).grants.erase x ∧
      reg u (agIdx n 8) 2 = (reg e (agIdx n 8) 2 + 1) % 2 ^ 64 ∧ u.out.head? = some (.xdn n abs g [.refresh bank]) ∧
      u.now = max e.now (e.spBase.getD 0 + 16 * abs) ∧ sameMemory e u := by
  intro u
  have hu : u = emit (.xdn n abs g [.refresh bank]) (issueRefresh n g bank (agBump n 2 1 (cardBegun n abs x e))) :=
    dynamicCard_refreshes hx ht hr
  obtain ⟨howed, hgrants, hnow, hmem, -⟩ := issueRefresh_frame hn g bank (agBump n 2 1 (cardBegun n abs x e))
  have hbegun : agentOf (agBump n 2 1 (cardBegun n abs x e)) n =
      { agentOf e n with grants := (agentOf e n).grants.erase x } := cardBegun_agent n abs x e
  have hkept : owedOf (agBump n 2 1 (cardBegun n abs x e)) n g bank = owedOf e n g bank := by
    rw [owedOf, owedOf, hbegun]
  rw [hu]
  refine ⟨?_, ?_, ?_, rfl, ?_, ?_⟩
  · rw [owedOf_emit, howed, hkept]
  · rw [agentOf_emit, hgrants, hbegun]
  · rw [reg_emit, reg_issueRefresh hn (by decide), reg_agBump_same hn (by decide)]
    rfl
  · rw [emit_now, hnow]
    exact cardBegun_now n abs x e
  · exact ((cardBegun_memory n abs x e).trans (sameMemory_agBump ..)).trans
      (hmem.trans (sameMemory_emit ..))

end

/-! ### Bursts of a read -/

/-- The burst of the sector at a place of a granted read card (R236, R263). -/
def burstAt (abs g : Nat) (r : Req) (j : Nat) (y : Sect) : Burst :=
  { owner := some r.owner, req := r.id, sender := r.sender, tag := r.tag, epoch := r.epoch, lane := 16 * g + j % 16,
    hand := 8 * abs + 448 + j / 16, station := none, off := y.off, readAt := 8 * abs + 200, merge := y.atoms }

theorem carryReads_length (n abs g : Nat) (r : Req) (j : Nat) (xs : List Sect) :
    (carryReads n abs g r j xs).length = xs.length := by
  induction xs generalizing j with
  | nil => rfl
  | cons x xs ih => rw [carryReads, List.length_cons, List.length_cons, ih]

theorem carryReads_getElem? (n abs g : Nat) (r : Req) (j i : Nat) (xs : List Sect) :
    (carryReads n abs g r j xs)[i]? = (xs[i]?).map (burstAt abs g r (j + i)) := by
  induction xs generalizing j i with
  | nil => rfl
  | cons x xs ih =>
    cases i with
    | zero => rfl
    | succ i => rw [carryReads, List.getElem?_cons_succ, List.getElem?_cons_succ, ih, Nat.add_right_comm, Nat.add_assoc]

section
variable {n abs g : Nat} {r : Req} {e : Eng}

theorem settleWrites_read (hk : r.kind = .read) (n abs : Nat) (e : Eng) : settleWrites n abs [r] e = e := by
  simp [settleWrites, hk]

theorem cardCmds_read (hk : r.kind = .read) (abs g : Nat) : cardCmds abs g [r] =
    activates abs g (r.sects.map (·.off)) ++ r.sects.map fun y => .read y.off := by
  simp [cardCmds, hk]

/-- A Weevil request on a splinter card is counted (R294). -/
def splinterNoted (kind : CardKind) (r : Req) (e : Eng) : Eng :=
  if r.weevil ∧ kind = .splinter ∧ r.kind ≠ .mergeRead then bump 0x4203 2 e else e

theorem splinterNoted_only (kind : CardKind) (r : Req) (e : Eng) : onlyRegs e (splinterNoted kind r e) := by
  unfold splinterNoted
  split
  · exact (onlyRegs.refl e).bump ..
  · exact .refl e

/-- The state in which a granted card's sectors are carried: the card has begun and its commands are sent. -/
def cardCarries (n abs g : Nat) (x : Grant) (r : Req) (e : Eng) : Eng :=
  splinterNoted (kindAt e n abs g) r (cardSent n abs g (kindAt e n abs g) [r] (cardBegun n abs x e))

theorem cardCarries_agent (n abs g : Nat) (x : Grant) (r : Req) (e : Eng) : agentOf (cardCarries n abs g x r e) n =
    { agentOf e n with grants := (agentOf e n).grants.erase x } := by
  obtain ⟨-, hagents, -⟩ := cardSent_frame n abs g (kindAt e n abs g) [r] (cardBegun n abs x e)
  have honly := splinterNoted_only (kindAt e n abs g) r (cardSent n abs g (kindAt e n abs g) [r] (cardBegun n abs x e))
  exact (agentOf_of_agents ((congrArg Eng.agents honly).trans hagents) n).trans (cardBegun_agent n abs x e)

theorem cardCarries_now (n abs g : Nat) (x : Grant) (r : Req) (e : Eng) :
    (cardCarries n abs g x r e).now = max e.now (e.spBase.getD 0 + 16 * abs) := by
  obtain ⟨hnow, -⟩ := cardSent_frame n abs g (kindAt e n abs g) [r] (cardBegun n abs x e)
  have honly := splinterNoted_only (kindAt e n abs g) r (cardSent n abs g (kindAt e n abs g) [r] (cardBegun n abs x e))
  exact (congrArg Eng.now honly).trans (hnow.trans (cardBegun_now n abs x e))

theorem cardCarries_out (n abs g : Nat) (x : Grant) (r : Req) (e : Eng) : (cardCarries n abs g x r e).out =
    (if (cardCmds abs g [r]).isEmpty then [] else [.xdn n abs g (cardCmds abs g [r])]) ++ e.out := by
  obtain ⟨-, -, -, -, hout⟩ := cardSent_frame n abs g (kindAt e n abs g) [r] (cardBegun n abs x e)
  have honly := splinterNoted_only (kindAt e n abs g) r (cardSent n abs g (kindAt e n abs g) [r] (cardBegun n abs x e))
  exact (congrArg Eng.out honly).trans hout

theorem cardCarries_memory (n abs g : Nat) (x : Grant) (r : Req) (e : Eng) :
    sameMemory e (cardCarries n abs g x r e) := by
  obtain ⟨-, -, -, hmem, -⟩ := cardSent_frame n abs g (kindAt e n abs g) [r] (cardBegun n abs x e)
  have honly := splinterNoted_only (kindAt e n abs g) r (cardSent n abs g (kindAt e n abs g) [r] (cardBegun n abs x e))
  exact ((cardBegun_memory n abs x e).trans hmem).trans (honly.aside.memory rfl)

theorem carryParts_read (hk : r.kind = .read) (kind : CardKind) (e : Eng) : carryParts n abs g kind 0 [r] e =
    onAgent n (fun a => { a with bursts := a.bursts ++ carryReads n abs g r 0 r.sects }) (splinterNoted kind r e) := by
  simp [carryParts, hk, splinterNoted]

/-- A card granted to a read carries it as bursts (R236). -/
theorem dynamicCard_read_frame {x : Grant}
    (hx : ((agentOf e n).grants.find? fun x => x.abs == abs && x.group == g) = some x) (ht : x.trump = false)
    (hr : x.refresh = none) (hp : x.parts = [r]) (hk : r.kind = .read) :
    let u := dynamicCard n abs g e
    (agentOf u n).bursts = (agentOf e n).bursts ++ carryReads n abs g r 0 r.sects ∧
      (agentOf u n).grants = (agentOf e n).grants.erase x ∧ u.now = max e.now (e.spBase.getD 0 + 16 * abs) ∧
      sameMemory e u ∧
      u.out = (if r.sects = [] then [] else [.xdn n abs g (activates abs g (r.sects.map (·.off)) ++
        r.sects.map fun y => .read y.off)]) ++ e.out := by
  intro u
  have hu : u = onAgent n (fun a => { a with bursts := a.bursts ++ carryReads n abs g r 0 r.sects })
      (cardCarries n abs g x r e) := by
    have hcarries := dynamicCard_carries hx ht hr
    rwa [hp, settleWrites_read hk, carryParts_read hk] at hcarries
  rw [hu]
  refine ⟨?_, ?_, cardCarries_now n abs g x r e, (cardCarries_memory ..).trans (sameMemory_onAgent ..), ?_⟩
  · rw [agentOf_onAgent_same, cardCarries_agent]
  · rw [agentOf_onAgent_same, cardCarries_agent]
  · refine (cardCarries_out n abs g x r e).trans ?_
    rw [cardCmds_read hk]
    cases hsects : r.sects with
    | nil => rfl
    | cons y ys => simp

end

/-! ### Trumps -/

section
variable {n : Nat} {x : Grant} {e : Eng}

theorem cutPart_grants (a : Agent) (r : Req) : (cutPart a r).grants = a.grants := by
  simp only [cutPart]
  split <;> rfl

theorem foldl_cutPart_grants (rs : List Req) (a : Agent) : (rs.foldl cutPart a).grants = a.grants :=
  foldl_related (R := fun a b : Agent => b.grants = a.grants) (fun _ => rfl) (fun p q => q.trans p)
    (fun b r _ => cutPart_grants b r) a

/-- A grant whose transfer a Trump has stopped after 64 sectors (R245). -/
def cutGrant (x : Grant) : Grant :=
  { x with parts := x.parts.map (fun r => { r with sects := r.sects.take 64 }), refresh := none, trump := false }

/-- The transfer of a trumped card is stopped, and the Trump counted (R245). -/
def transferCut (n : Nat) (x : Grant) (e : Eng) : Eng :=
  onAgent n (fun a => { x.parts.foldl cutPart a with
    grants := (x.parts.foldl cutPart a).grants.map fun y =>
      if y.abs = x.abs ∧ y.group = x.group then cutGrant y else y })
    (advanceSp (8 * x.abs + 4) e) |> agBump n 3 1 |> agBump n 2 1

theorem takeTrump_eq (n : Nat) (x : Grant) (e : Eng) : takeTrump n x e = emit
    (.xdn n x.abs x.group [.refresh (x.refresh.getD 0)])
    (issueRefresh n x.group (x.refresh.getD 0) (transferCut n x e)) :=
  rfl

theorem transferCut_grants (h : (agentOf e n).grants = [x]) : (agentOf (transferCut n x e) n).grants = [cutGrant x] := by
  simp only [transferCut, agentOf_agBump, agentOf_onAgent_same, foldl_cutPart_grants, agentOf_advanceSp, h, List.map_cons,
    List.map_nil, and_self, if_true]

theorem transferCut_memory (n : Nat) (x : Grant) (e : Eng) : sameMemory e (transferCut n x e) :=
  sameMemory_of rfl rfl rfl rfl rfl

theorem cutPart_owed (a : Agent) (r : Req) : (cutPart a r).owed = a.owed := by
  simp only [cutPart]
  split <;> rfl

theorem transferCut_owed (n : Nat) (x : Grant) (e : Eng) (g bank : Nat) :
    owedOf (transferCut n x e) n g bank = owedOf e n g bank := by
  have hfold : (x.parts.foldl cutPart (agentOf (advanceSp (8 * x.abs + 4) e) n)).owed = (agentOf e n).owed :=
    foldl_related (R := fun a b : Agent => b.owed = a.owed) (fun _ => rfl) (fun p q => q.trans p)
      (fun b r _ => cutPart_owed b r) _
  simp only [owedOf, transferCut, agentOf_agBump, agentOf_onAgent_same, hfold]

/-- A Trump on a card: its transfer is cut, and the bank refreshed (R245). -/
theorem takeTrump_frame (hn : n < 24) (h : (agentOf e n).grants = [x]) :
    let u := takeTrump n x e
    (agentOf u n).grants = [cutGrant x] ∧
      reg u (agIdx n 8) 2 = (reg e (agIdx n 8) 2 + 1) % 2 ^ 64 ∧
      reg u (agIdx n 8) 3 = (reg e (agIdx n 8) 3 + 1) % 2 ^ 64 ∧
      owedOf u n x.group (x.refresh.getD 0) = owedOf e n x.group (x.refresh.getD 0) - 1 ∧
      u.out.head? = some (.xdn n x.abs x.group [.refresh (x.refresh.getD 0)]) ∧
      u.now = max e.now (e.spBase.getD 0 + 2 * (8 * x.abs + 4)) ∧ sameMemory e u := by
  intro u
  obtain ⟨howed, hgrants, hnow, hmem, -⟩ := issueRefresh_frame hn x.group (x.refresh.getD 0) (transferCut n x e)
  have hu : u = emit (.xdn n x.abs x.group [.refresh (x.refresh.getD 0)])
      (issueRefresh n x.group (x.refresh.getD 0) (transferCut n x e)) := takeTrump_eq n x e
  rw [hu]
  refine ⟨?_, ?_, ?_, ?_, rfl, ?_, ?_⟩
  · rw [agentOf_emit, hgrants, transferCut_grants h]
  · rw [reg_emit, reg_issueRefresh hn (by decide), transferCut, reg_agBump_same hn (by decide),
      reg_agBump_apart (by decide) (by decide) (by decide)]
    rfl
  · rw [reg_emit, reg_issueRefresh hn (by decide), transferCut, reg_agBump_apart (by decide) (by decide) (by decide),
      reg_agBump_same hn (by decide)]
    rfl
  · rw [owedOf_emit, howed, transferCut_owed]
  · rw [emit_now, hnow]
    rfl
  · exact (transferCut_memory n x e).trans (hmem.trans (sameMemory_emit ..))

end

theorem exec_dynamicCard {n : Fin 24} {abs : Nat} {g : Fin 4} {s : State} {u : Eng}
    (h : dynamicCard n.val abs g.val s.eng = u) : exec (.dynamicCard n abs g) s = .next { s with eng := u } := by
  rw [← h]
  rfl

/-- The only grant, trumped, is the one that TRUMP_GRANT finds. -/
theorem exec_trumpGrant {n : Fin 24} {abs : Nat} {g : Fin 4} {s : State} {x : Grant} {u : Eng}
    (hg : (agentOf s.eng n.val).grants = [x]) (ht : x.trump = true) (ha : x.abs = abs) (hgr : x.group = g.val)
    (h : takeTrump n.val x s.eng = u) : exec (.trumpGrant n abs g) s = .next { s with eng := u } := by
  rw [← h]
  simp only [exec, execTrumpGrant, onEng, hg]
  simp [ht, ha, hgr]

end Sys2Proof.Machine
end

section
/-! PROOFS. Granted cards that carry a repair (O42; spec/10_stack_agents.md R236, R247, R259): the bytes that a write of a
sector puts into memory, and what else its acceptance changes. -/

namespace Sys2Proof.Machine

/-! ### A sector written -/

/-- The first byte of a sector, by local address (R89, R232). -/
def sectorBase (n off : Nat) : Nat := n * 0x1000000000 + off / 32 * 32

theorem mem_putMasked (d : Nat → Byte) (mask base : Nat) (f : Nat → Byte) (lo c : Nat) (m : List Host.Cell) (b : Nat) :
    storeGet d ((upFrom lo c).foldl (fun m k => if bit mask k then memPut (base + k) (f k) m else m) m) b =
      if base + lo ≤ b ∧ b < base + lo + c ∧ bit mask (b - base) = true then f (b - base) else storeGet d m b := by
  induction c generalizing lo m with
  | zero => rw [upFrom, List.foldl_nil, if_neg (by omega)]
  | succ c ih =>
    rw [upFrom, List.foldl_cons, ih]
    by_cases hb : b = base + lo
    · subst hb
      rw [if_neg (by omega), Nat.add_sub_cancel_left]
      cases hm : bit mask lo
      · rw [if_neg (by simp), if_neg (by simp)]
      · rw [if_pos rfl, memPut_get_same, if_pos ⟨Nat.le_refl _, by omega, rfl⟩]
    · have hput : storeGet d (if bit mask lo then memPut (base + lo) (f lo) m else m) b = storeGet d m b := by
        split
        · exact memPut_get_other d hb _ m
        · rfl
      have hrange : (base + (lo + 1) ≤ b ∧ b < base + (lo + 1) + c) ↔
          (base + lo ≤ b ∧ b < base + lo + (c + 1)) := by omega
      rw [hput]
      simp only [← and_assoc, hrange]

/-- The poison of a sector recorded, or lost and counted, is none of memory's bytes (R414). -/
theorem recordPoison_frame (n off touched pois : Nat) (e : Eng) :
    let u := recordPoison n off touched pois e
    (agentOf u n).grants = (agentOf e n).grants ∧ (agentOf u n).granted = (agentOf e n).granted ∧
      reg u (agIdx n 8) 18 = reg e (agIdx n 8) 18 ∧ ∀ b, memByte u b = memByte e b := by
  intro u
  simp only [u, recordPoison]
  split
  · exact ⟨rfl, rfl, reg_bumpBy_other (by unfold cellKey; omega) .., fun _ => rfl⟩
  · exact ⟨by rw [setPoisonMask, agentOf_onAgent_same], by rw [setPoisonMask, agentOf_onAgent_same], rfl,
      fun _ => rfl⟩

/-- The bytes of a sector under a mask, put into memory. -/
def sectorPut (n off data mask : Nat) (e : Eng) : Eng :=
  { e with mem := (below 32).foldl (fun m k =>
      if bit mask k then memPut (sectorBase n off + k) (BitVec.ofNat 8 (bits data (8 * k) 8)) m else m) e.mem }

theorem memByte_sectorPut (n off data mask : Nat) (e : Eng) (b : Nat) : memByte (sectorPut n off data mask e) b =
    if sectorBase n off ≤ b ∧ b < sectorBase n off + 32 ∧ bit mask (b - sectorBase n off) = true
      then BitVec.ofNat 8 (bits data (8 * (b - sectorBase n off)) 8) else memByte e b := by
  have hput := mem_putMasked (undefMem e) mask (sectorBase n off) (fun k => BitVec.ofNat 8 (bits data (8 * k) 8)) 0 32
    e.mem b
  rw [Nat.add_zero] at hput
  exact hput

theorem acceptWrite_eq (n off t data mask pois : Nat) (e : Eng) : acceptWrite n off t data mask pois e =
    recordPoison n off (wordsOf mask) pois (sectorPut n off data mask (beforeWrite n off t e)) := rfl

theorem beforeWrite_memory (n off t : Nat) (e : Eng) : sameMemory e (beforeWrite n off t e) :=
  sameMemory_onAgent ..

/-- What the acceptance of a write of a sector changes: its bytes under the mask, of memory; of the agent, repairs that it
makes moot (R236, R259). -/
theorem acceptWrite_frame (n off t data mask pois : Nat) (e : Eng) :
    let u := acceptWrite n off t data mask pois e
    (agentOf u n).grants.length = (agentOf e n).grants.length ∧
      (agentOf u n).granted ⊆ (agentOf e n).granted ∧ reg u (agIdx n 8) 18 = reg e (agIdx n 8) 18 ∧
      ∀ b, memByte u b = if sectorBase n off ≤ b ∧ b < sectorBase n off + 32 ∧ bit mask (b - sectorBase n off) = true
        then BitVec.ofNat 8 (bits data (8 * (b - sectorBase n off)) 8) else memByte e b := by
  intro u
  obtain ⟨hgrants, hgranted, hreg, hmem⟩ := recordPoison_frame n off (wordsOf mask) pois
    (sectorPut n off data mask (beforeWrite n off t e))
  have hput : agentOf (sectorPut n off data mask (beforeWrite n off t e)) n = agentOf (beforeWrite n off t e) n := rfl
  rw [hput] at hgrants hgranted
  simp only [u, acceptWrite_eq]
  refine ⟨?_, ?_, hreg, fun b => ?_⟩
  · rw [hgrants, beforeWrite, agentOf_onAgent_same, List.length_map]
  · intro q hq
    rw [hgranted, beforeWrite, agentOf_onAgent_same] at hq
    exact (List.mem_filter.mp hq).1
  · rw [hmem, memByte_sectorPut, (beforeWrite_memory n off t e).1]

/-! ### Sectors of a repair -/

section
variable {n abs : Nat} {r : Req}

/-- Sectors of a repair have been written: what their card does to the agent and to memory beyond them. -/
structure Repairs (n : Nat) (xs : List Sect) (e e' : Eng) : Prop where
  grants : (agentOf e' n).grants.length = (agentOf e n).grants.length
  granted : (agentOf e' n).granted ⊆ (agentOf e n).granted
  beyond : ∀ b, (∀ y ∈ xs, b < sectorBase n y.off ∨ sectorBase n y.off + 32 ≤ b) → memByte e' b = memByte e b

/-- The counter of a sector with additions: `COMBINES` (R256). -/
def combineNoted (n : Nat) (x : Sect) (e : Eng) : Eng := if x.atoms.any Atom.isAdd then agBump n 14 1 e else e

theorem carryWrite_repair (hk : r.kind = .repair) (n abs j : Nat) (x : Sect) (e : Eng) : carryWrite n abs j r x e =
    agBump n 18 1 (combineNoted n x (acceptWrite n x.off (8 * abs + j / 16) (atomsData x.atoms).1
      (atomsData x.atoms).2.1 (atomsData x.atoms).2.2 e)) := by
  simp only [carryWrite, hk]
  rfl

theorem combineNoted_only (n : Nat) (x : Sect) (e : Eng) : onlyRegs e (combineNoted n x e) := by
  unfold combineNoted
  split
  · exact (onlyRegs.refl e).setReg ..
  · exact .refl e

theorem reg_combineNoted (n : Nat) (x : Sect) (e : Eng) :
    reg (combineNoted n x e) (agIdx n 8) 18 = reg e (agIdx n 8) 18 := by
  unfold combineNoted
  split
  · exact reg_agBump_apart (by decide) (by decide) (by decide) ..
  · rfl

/-- One sector of a repair: its bytes under the mask of its atoms, and the repair counted (R259). -/
theorem carryWrite_repair_frame (hn : n < 24) (hk : r.kind = .repair) (abs j : Nat) (x : Sect) (e : Eng) :
    let u := carryWrite n abs j r x e
    Repairs n [x] e u ∧ reg u (agIdx n 8) 18 = (reg e (agIdx n 8) 18 + 1) % 2 ^ 64 ∧
      ∀ k, k < 32 → memByte u (sectorBase n x.off + k) = if bit (atomsData x.atoms).2.1 k
        then BitVec.ofNat 8 (bits (atomsData x.atoms).1 (8 * k) 8) else memByte e (sectorBase n x.off + k) := by
  intro u
  obtain ⟨hgrants, hgranted, hreg, hmem⟩ := acceptWrite_frame n x.off (8 * abs + j / 16) (atomsData x.atoms).1
    (atomsData x.atoms).2.1 (atomsData x.atoms).2.2 e
  have hu : u = agBump n 18 1 (combineNoted n x _) := carryWrite_repair hk n abs j x e
  have honly := combineNoted_only n x (acceptWrite n x.off (8 * abs + j / 16) (atomsData x.atoms).1
    (atomsData x.atoms).2.1 (atomsData x.atoms).2.2 e)
  have hagent : agentOf u n = agentOf (acceptWrite n x.off (8 * abs + j / 16) (atomsData x.atoms).1
      (atomsData x.atoms).2.1 (atomsData x.atoms).2.2 e) n := by
    rw [hu, agentOf_agBump]
    exact agentOf_of_agents (congrArg Eng.agents honly) n
  have hbyte (b : Nat) := (congrArg (memByte · b) hu).trans (((sameMemory_agBump ..).1 b).trans
    (((honly.aside.memory rfl).1 b).trans (hmem b)))
  refine ⟨⟨?_, ?_, fun b hb => ?_⟩, ?_, fun k hk => ?_⟩
  · rw [hagent, hgrants]
  · rwa [hagent]
  · rw [hbyte, if_neg]
    have := hb x (List.mem_singleton.mpr rfl)
    omega
  · rw [hu, reg_agBump_same hn (by decide), reg_combineNoted, hreg]
  · rw [hbyte, Nat.add_sub_cancel_left]
    by_cases hbit : bit (atomsData x.atoms).2.1 k = true
    · rw [if_pos ⟨by omega, by omega, hbit⟩, if_pos hbit]
    · rw [if_neg (fun h => hbit h.2.2), if_neg hbit]

theorem Repairs.cons {x : Sect} {xs : List Sect} {a b c : Eng} (h : Repairs n [x] a b) (g : Repairs n xs b c) :
    Repairs n (x :: xs) a c where
  grants := g.grants.trans h.grants
  granted _ hq := h.granted (g.granted hq)
  beyond k hk := (g.beyond k fun y hy => hk y (List.mem_cons_of_mem x hy)).trans
    (h.beyond k fun y hy => hk y (List.mem_singleton.mp hy ▸ List.mem_cons_self ..))

theorem Repairs.refl (n : Nat) (e : Eng) : Repairs n [] e e := ⟨rfl, fun _ h => h, fun _ _ => rfl⟩

theorem carryWrites_repairs (hn : n < 24) (hk : r.kind = .repair) (abs j : Nat) (xs : List Sect) (e : Eng) :
    Repairs n xs e (carryWrites n abs r j xs e) := by
  induction xs generalizing j e with
  | nil => exact .refl n e
  | cons x xs ih => exact (carryWrite_repair_frame hn hk abs j x e).1.cons (ih (j + 1) _)

/-- Every sector of a repair counts (R259). -/
theorem reg_carryWrites (hn : n < 24) (hk : r.kind = .repair) (abs j : Nat) (x : Sect) (xs : List Sect) (e : Eng) :
    reg (carryWrites n abs r j (x :: xs) e) (agIdx n 8) 18 =
      (reg e (agIdx n 8) 18 + (x :: xs).length) % 2 ^ 64 := by
  obtain ⟨-, hone, -⟩ := carryWrite_repair_frame hn hk abs j x e
  induction xs generalizing j x e with
  | nil => exact hone
  | cons y ys ih =>
    obtain ⟨-, hnext, -⟩ := carryWrite_repair_frame hn hk abs (j + 1) y (carryWrite n abs j r x e)
    rw [carryWrites, ih (j + 1) y _ hnext, hone]
    simp only [List.length_cons]
    omega

theorem requestDone_repair (id : Nat) (e : Eng) : requestDone .repair id e = e := rfl

/-- A repair that is settled tells no requester (R259). -/
theorem settleRequest_repair {id : Nat} {e : Eng} (h : ∀ q ∈ (agentOf e n).granted, q.id = id → q.owner = .repair) :
    let u := settleRequest n id e
    (agentOf u n).grants = (agentOf e n).grants ∧ u.regs = e.regs ∧ sameMemory e u := by
  intro u
  simp only [u, settleRequest]
  split
  case h_1 => exact ⟨rfl, rfl, sameMemory_refl e⟩
  case h_2 q hfind =>
    have howner : q.owner = .repair := h q (List.mem_of_find?_eq_some hfind) (by simpa using List.find?_some hfind)
    split
    · exact ⟨rfl, rfl, sameMemory_refl e⟩
    · split
      · exact ⟨by rw [agentOf_onAgent_same], rfl, sameMemory_onAgent ..⟩
      · split
        · exact ⟨rfl, rfl, sameMemory_refl e⟩
        · rw [howner]
          exact ⟨by rw [requestDone_repair, agentOf_onAgent_same], rfl, sameMemory_onAgent ..⟩

theorem settleWrites_repair (hk : r.kind = .repair) (n abs : Nat) (e : Eng) : settleWrites n abs [r] e =
    settleRequest n r.id (advanceSp (8 * abs + 64 + (r.sects.length - 1) / 16) e) := by
  simp [settleWrites, hk]

theorem carryParts_repair (hk : r.kind = .repair) (n abs g : Nat) (kind : CardKind) (e : Eng) :
    carryParts n abs g kind 0 [r] e = carryWrites n abs r 0 r.sects (splinterNoted kind r e) := by
  simp [carryParts, hk, splinterNoted]

/-! ### The card of a repair -/

theorem reg_cardCarries (hn : n < 24) (abs g : Nat) (x : Grant) (r : Req) (e : Eng) :
    reg (cardCarries n abs g x r e) (agIdx n 8) 18 = reg e (agIdx n 8) 18 := by
  obtain ⟨-, -, hregs, -⟩ := cardSent_frame n abs g (kindAt e n abs g) [r] (cardBegun n abs x e)
  have hnoted (kind : CardKind) (u : Eng) : reg (splinterNoted kind r u) (agIdx n 8) 18 = reg u (agIdx n 8) 18 := by
    unfold splinterNoted
    split
    · exact reg_bumpBy_other (by unfold cellKey agIdx; omega) ..
    · rfl
  rw [cardCarries, hnoted, reg_of_regs hregs]
  rfl

theorem dynamicCard_repairs {x : Grant} {g : Nat} {e : Eng}
    (hx : ((agentOf e n).grants.find? fun x => x.abs == abs && x.group == g) = some x) (ht : x.trump = false)
    (hr : x.refresh = none) (hp : x.parts = [r]) (hk : r.kind = .repair) : dynamicCard n abs g e =
      settleRequest n r.id (advanceSp (8 * abs + 64 + (r.sects.length - 1) / 16)
        (carryWrites n abs r 0 r.sects (cardCarries n abs g x r e))) := by
  have hcarries := dynamicCard_carries hx ht hr
  rwa [hp, settleWrites_repair hk, carryParts_repair hk] at hcarries

/-- A card granted to a repair carries it as its sectors' bytes (R247, R259). -/
theorem dynamicCard_repair_frame (hn : n < 24) {x : Grant} {g : Nat} {e : Eng}
    (hx : ((agentOf e n).grants.find? fun x => x.abs == abs && x.group == g) = some x) (ht : x.trump = false)
    (hr : x.refresh = none) (hp : x.parts = [r]) (hk : r.kind = .repair) (hne : r.sects ≠ [])
    (hown : ∀ q ∈ (agentOf e n).granted, q.id = r.id → q.owner = .repair) :
    let u := dynamicCard n abs g e
    (agentOf u n).grants.length + 1 = (agentOf e n).grants.length ∧
      reg u (agIdx n 8) 18 = (reg e (agIdx n 8) 18 + r.sects.length) % 2 ^ 64 ∧
      (∀ y, r.sects = [y] → ∀ k, k < 32 → memByte u (sectorBase n y.off + k) = if bit (atomsData y.atoms).2.1 k
        then BitVec.ofNat 8 (bits (atomsData y.atoms).1 (8 * k) 8) else memByte e (sectorBase n y.off + k)) ∧
      ∀ b, (∀ y ∈ r.sects, b < sectorBase n y.off ∨ sectorBase n y.off + 32 ≤ b) → memByte u b = memByte e b := by
  intro u
  have hagent := cardCarries_agent n abs g x r e
  obtain ⟨hbytes, -, -⟩ := cardCarries_memory n abs g x r e
  have hcarried := carryWrites_repairs hn hk abs 0 r.sects (cardCarries n abs g x r e)
  obtain ⟨hgrants, hregs, hsettled, -, -⟩ := settleRequest_repair (id := r.id)
    (e := advanceSp (8 * abs + 64 + (r.sects.length - 1) / 16)
      (carryWrites n abs r 0 r.sects (cardCarries n abs g x r e))) (n := n) (fun q hq => by
        have hq' := hcarried.granted hq
        rw [hagent] at hq'
        exact hown q hq')
  have hbyte (b : Nat) : memByte u b = memByte (carryWrites n abs r 0 r.sects (cardCarries n abs g x r e)) b :=
    (congrArg (memByte · b) (dynamicCard_repairs hx ht hr hp hk)).trans (hsettled b)
  refine ⟨?_, ?_, fun y hy k hlt => ?_, fun b hb => ?_⟩
  · have hmem := List.mem_of_find?_eq_some hx
    simp only [u]
    rw [dynamicCard_repairs hx ht hr hp hk, hgrants, agentOf_advanceSp, hcarried.grants, hagent,
      List.length_erase_of_mem hmem, Nat.sub_add_cancel (List.length_pos_of_mem hmem)]
  · have hreg : reg u (agIdx n 8) 18 =
        reg (carryWrites n abs r 0 r.sects (cardCarries n abs g x r e)) (agIdx n 8) 18 :=
      reg_of_regs ((congrArg Eng.regs (dynamicCard_repairs hx ht hr hp hk)).trans hregs) ..
    obtain ⟨y, ys, hys⟩ := List.exists_cons_of_ne_nil hne
    rw [hreg, hys, reg_carryWrites hn hk, reg_cardCarries hn]
  · obtain ⟨-, -, hsector⟩ := carryWrite_repair_frame hn hk abs 0 y (cardCarries n abs g x r e)
    have hone : carryWrites n abs r 0 r.sects (cardCarries n abs g x r e) =
        carryWrite n abs 0 r y (cardCarries n abs g x r e) := by rw [hy]; rfl
    rw [hbyte, hone, hsector k hlt, hbytes]
  · rw [hbyte, hcarried.beyond b hb, hbytes]

end

end Sys2Proof.Machine
end

section
/-! PROOFS. The burst that is handed over first (O42; spec/10_stack_agents.md R236 to R238): its crossing to its station,
and what its severity counts, raises and queues. -/

namespace Sys2Proof.Machine

/-! ### The severity of a burst -/

/-- Steps that judge a burst: they move neither the clock, nor the docks, nor memory, nor bursts. -/
structure Judges (n : Nat) (e e' : Eng) : Prop where
  now : e'.now = e.now
  docks : e'.docks = e.docks
  memory : sameMemory e e'
  bursts : (agentOf e' n).bursts = (agentOf e n).bursts

theorem Judges.refl (n : Nat) (e : Eng) : Judges n e e := ⟨rfl, rfl, sameMemory_refl e, rfl⟩

section
variable {n sev off data pois : Nat} {e : Eng}

/-- A corrected burst that is read before its sector is written again is counted, and its repair queued (R238). -/
theorem judgeBurst_corrected (n off data pois : Nat) (e : Eng) : judgeBurst n 1 off data pois false e =
    (pois, queueRepair n off data pois (agBump n 16 1 e)) := rfl

/-- An uncorrectable burst is poisoned whole, counted and raised (R238). -/
theorem judgeBurst_uncorrectable (h : 2 ≤ sev) (n off data pois : Nat) (late : Bool) (e : Eng) :
    judgeBurst n sev off data pois late e =
      (255, raise (48 + n) 0 (setReg (agIdx n 9) 2 off (agBump n 17 1 e))) := by
  obtain ⟨k, rfl⟩ := Nat.exists_eq_add_of_le' h
  rfl

theorem queueRepair_judges (n off data pois : Nat) (e : Eng) : Judges n e (queueRepair n off data pois e) :=
  ⟨rfl, rfl, sameMemory_of rfl rfl rfl rfl rfl, by simp only [queueRepair, agentOf_onAgent_same]; rfl⟩

theorem queueRepair_inbox (n off data pois : Nat) (e : Eng) :
    (agentOf (queueRepair n off data pois e) n).inbox.length = (agentOf e n).inbox.length + 1 := by
  simp only [queueRepair, agentOf_onAgent_same, List.length_append]
  rfl

theorem judgeBurst_pois (sev n off data pois : Nat) (late : Bool) (e : Eng) :
    (judgeBurst n sev off data pois late e).1 = if sev < 2 then pois else 255 := by
  match sev with
  | 0 => rfl
  | 1 => rfl
  | sev + 2 =>
    rw [judgeBurst_uncorrectable (Nat.le_add_left 2 sev), if_neg (by omega)]

theorem sameMemory_setReg (i k v : Nat) (e : Eng) : sameMemory e (setReg i k v e) := sameMemory_of rfl rfl rfl rfl rfl

theorem sameMemory_raise (src detail : Nat) (e : Eng) : sameMemory e (raise src detail e) :=
  sameMemory_of rfl rfl rfl rfl rfl

theorem uncorrectable_judges (n off : Nat) (e : Eng) :
    Judges n e (raise (48 + n) 0 (setReg (agIdx n 9) 2 off (agBump n 17 1 e))) where
  now := by rw [raise_now, setReg_now, agBump, bumpBy_now]
  docks := by rw [raise_docks, setReg_docks, agBump, bumpBy_docks]
  memory := ((sameMemory_agBump ..).trans (sameMemory_setReg ..)).trans (sameMemory_raise ..)
  bursts := congrArg Agent.bursts (agentOf_of_agents (by rw [raise_agents, setReg_agents, agBump, bumpBy_agents]) n)

theorem judgeBurst_judges (sev n off data pois : Nat) (e : Eng) :
    Judges n e (judgeBurst n sev off data pois false e).2 := by
  match sev with
  | 0 => exact .refl n e
  | 1 =>
    obtain ⟨hnow, hdocks, hmem, hbursts⟩ := queueRepair_judges n off data pois (agBump n 16 1 e)
    rw [judgeBurst_corrected]
    exact ⟨hnow, hdocks, (sameMemory_agBump ..).trans hmem, hbursts.trans (by rw [agentOf_agBump])⟩
  | sev + 2 =>
    rw [judgeBurst_uncorrectable (Nat.le_add_left 2 sev)]
    exact uncorrectable_judges n off e

/-- What a corrected burst changes of the entries, and of the inbox (R238, R259). -/
theorem judgeBurst_corrected_frame (hn : n < 24) (off data pois : Nat) (e : Eng) :
    let u := (judgeBurst n 1 off data pois false e).2
    reg u (agIdx n 8) 16 = (reg e (agIdx n 8) 16 + 1) % 2 ^ 64 ∧ sameEntries [(agIdx n 8, 16)] e u ∧
      (agentOf u n).inbox.length = (agentOf e n).inbox.length + 1 := by
  intro u
  simp only [u]
  rw [judgeBurst_corrected]
  have hregs : (queueRepair n off data pois (agBump n 16 1 e)).regs = (agBump n 16 1 e).regs := rfl
  refine ⟨?_, (agBump_entries hn (by decide) 1 e).congr hregs, ?_⟩
  · rw [reg_of_regs hregs, reg_agBump_same hn (by decide)]
  · rw [queueRepair_inbox, agentOf_agBump]

/-- What an uncorrectable burst changes of the entries, and that it is raised (R238). -/
theorem judgeBurst_uncorrectable_frame (hn : n < 24) (h : 2 ≤ sev) (off data pois : Nat) (late : Bool) (e : Eng) :
    let u := (judgeBurst n sev off data pois late e).2
    reg u (agIdx n 8) 17 = (reg e (agIdx n 8) 17 + 1) % 2 ^ 64 ∧ reg u (agIdx n 9) 2 = off ∧
      u.raised = e.raised ++ [(48 + n, 0)] ∧ sameEntries [(agIdx n 8, 17), (agIdx n 9, 2)] e u := by
  intro u
  simp only [u]
  rw [judgeBurst_uncorrectable h]
  refine ⟨?_, reg_setReg_same .., rfl, ?_⟩
  · rw [reg_raise, reg_setReg_other (fun hc => absurd ((cellKey_agent (by decide) (by decide)).mp hc).1 (by decide)),
      reg_agBump_same hn (by decide)]
  · have hcounted : sameEntries [(agIdx n 8, 17), (agIdx n 9, 2)] e (agBump n 17 1 e) :=
      (agBump_entries hn (by decide) 1 e).mono (by simp)
    have hset : sameEntries [(agIdx n 8, 17), (agIdx n 9, 2)] e (setReg (agIdx n 9) 2 off (agBump n 17 1 e)) :=
      hcounted.setReg (by simp) (agIdx_lt hn (by decide)) (by decide) off
    exact hset.congr (raise_regs ..)

end

/-! ### The burst handed over -/

section
variable {n sev : Nat} {b : Burst} {e : Eng}

/-- A burst has left its agent, at the time of its hand-over (R236). -/
def burstLeft (n : Nat) (b : Burst) (e : Eng) : Eng :=
  advanceSp b.hand (onAgent n (fun a => { a with bursts := a.bursts.erase b }) e)

theorem burstLeft_agent (n : Nat) (b : Burst) (e : Eng) : agentOf (burstLeft n b e) n =
    { agentOf e n with bursts := (agentOf e n).bursts.erase b } := by
  rw [burstLeft, agentOf_advanceSp, agentOf_onAgent_same]

theorem burstLeft_memory (n : Nat) (b : Burst) (e : Eng) : sameMemory e (burstLeft n b e) :=
  sameMemory_of rfl rfl rfl rfl rfl

theorem burstLeft_now (n : Nat) (b : Burst) (e : Eng) :
    (burstLeft n b e).now = max e.now (e.spBase.getD 0 + 2 * b.hand) := rfl

theorem burstLeft_poison (n : Nat) (b : Burst) (e : Eng) (off : Nat) :
    poisonMask (burstLeft n b e) n off = poisonMask e n off := by
  rw [poisonMask, poisonMask, burstLeft_agent]

theorem burstLeft_data (n : Nat) (b : Burst) (e : Eng) (off : Nat) :
    sectorData (burstLeft n b e) n off = sectorData e n off := rfl

/-- The judged burst, as its station receives it after the crossing (R264). -/
theorem readBurst_stationed (hb : firstBurst (agentOf e n).bursts = some b) (hc : b.captured = none)
    (hl : b.lostRoute = false) {q slot : Nat} {l : Landed} (hs : b.station = some (q, slot, l)) :
    let judged := judgeBurst n sev b.off (sectorData e n b.off) (poisonMask e n b.off) false (burstLeft n b e)
    let came := crossed (sectorData e n b.off) judged.1 b.hurt b.received
    readBurst n sev e = onDock q (fun d => { d with arriving := d.arriving ++
      [⟨n, b.lane, slot, l.pos, { l with data := came.1, pois := came.2, pos := 0 }⟩] }) judged.2 := by
  intro judged came
  simp only [readBurst, hb, hc, hl, hs, judged, came]
  rw [← burstLeft_poison n b e b.off, ← burstLeft_data n b e b.off]
  rfl

/-- The state in which the burst has been judged (R238). -/
def burstJudged (n sev : Nat) (b : Burst) (e : Eng) : Eng :=
  (judgeBurst n sev b.off (sectorData e n b.off) (poisonMask e n b.off) false (burstLeft n b e)).2

/-- The burst that is handed over first leaves to its station (R236, R237). -/
theorem readBurst_frame (hb : firstBurst (agentOf e n).bursts = some b) (hc : b.captured = none)
    (hl : b.lostRoute = false) {q slot : Nat} {l : Landed} (hs : b.station = some (q, slot, l)) :
    let pois := if sev < 2 then poisonMask e n b.off else 255
    let came := crossed (sectorData e n b.off) pois b.hurt b.received
    let u := readBurst n sev e
    u.now = max e.now (e.spBase.getD 0 + 2 * b.hand) ∧ (agentOf u n).bursts = (agentOf e n).bursts.erase b ∧
      (dockOf u q).arriving = (dockOf e q).arriving ++
        [⟨n, b.lane, slot, l.pos, { l with data := came.1, pois := came.2, pos := 0 }⟩] ∧
      otherDocks q e u ∧ sameMemory e u ∧ u.regs = (burstJudged n sev b e).regs ∧
      u.agents = (burstJudged n sev b e).agents ∧ u.raised = (burstJudged n sev b e).raised := by
  intro pois came u
  obtain ⟨hnow, hdocks, hmem, hbursts⟩ := judgeBurst_judges sev n b.off (sectorData e n b.off) (poisonMask e n b.off)
    (burstLeft n b e)
  have hu : u = onDock q (fun d => { d with arriving := d.arriving ++
      [⟨n, b.lane, slot, l.pos, { l with data := came.1, pois := came.2, pos := 0 }⟩] }) (burstJudged n sev b e) := by
    simp only [u, came, pois]
    rw [readBurst_stationed hb hc hl hs, judgeBurst_pois]
    rfl
  have hdock : (burstJudged n sev b e).docks = e.docks := hdocks
  rw [hu]
  refine ⟨?_, ?_, ?_, ?_, ?_, onDock_regs .., onDock_agents .., onDock_raised ..⟩
  · rw [onDock_now, burstJudged, hnow, burstLeft_now]
  · rw [agentOf_of_agents (onDock_agents ..), burstJudged, hbursts, burstLeft_agent]
  · rw [dockOf_onDock_same, dockOf_congr hdock]
  · exact (otherDocks_of_docks hdock).trans (otherDocks_onDock _ _ _)
  · exact ((burstLeft_memory n b e).trans hmem).trans (sameMemory_onDock ..)

/-- A burst that came without an error changes no entry (R238). -/
theorem burstJudged_sound (n : Nat) (b : Burst) (e : Eng) : (burstJudged n 0 b e).regs = e.regs := rfl

/-- A corrected burst is counted, and its repair queued (R238, R259). -/
theorem burstJudged_corrected (hn : n < 24) (b : Burst) (e : Eng) :
    let u := burstJudged n 1 b e
    reg u (agIdx n 8) 16 = (reg e (agIdx n 8) 16 + 1) % 2 ^ 64 ∧ sameEntries [(agIdx n 8, 16)] e u ∧
      (agentOf u n).inbox.length = (agentOf e n).inbox.length + 1 := by
  have hleft : (burstLeft n b e).regs = e.regs := rfl
  obtain ⟨hreg, hentries, hinbox⟩ := judgeBurst_corrected_frame hn b.off (sectorData e n b.off)
    (poisonMask e n b.off) (burstLeft n b e)
  refine ⟨?_, ((sameEntries_refl _ e).congr hleft).trans hentries, ?_⟩
  · rw [burstJudged, hreg, reg_of_regs hleft]
  · rw [burstJudged, hinbox, burstLeft_agent]

/-- An uncorrectable burst is counted, kept as the last, and raised (R238). -/
theorem burstJudged_uncorrectable (hn : n < 24) (h : 2 ≤ sev) (b : Burst) (e : Eng) :
    let u := burstJudged n sev b e
    reg u (agIdx n 8) 17 = (reg e (agIdx n 8) 17 + 1) % 2 ^ 64 ∧ reg u (agIdx n 9) 2 = b.off ∧
      u.raised = e.raised ++ [(48 + n, 0)] ∧ sameEntries [(agIdx n 8, 17), (agIdx n 9, 2)] e u := by
  have hleft : (burstLeft n b e).regs = e.regs := rfl
  have hraised : (burstLeft n b e).raised = e.raised := rfl
  obtain ⟨hreg, hlast, hraise, hentries⟩ := judgeBurst_uncorrectable_frame hn h b.off (sectorData e n b.off)
    (poisonMask e n b.off) false (burstLeft n b e)
  refine ⟨?_, hlast, ?_, ((sameEntries_refl _ e).congr hleft).trans hentries⟩
  · rw [burstJudged, hreg, reg_of_regs hleft]
  · rw [burstJudged, hraise, hraised]

end

end Sys2Proof.Machine
end

section
/-! PROOFS. O42 assembled from what each event does (spec/10_stack_agents.md R236 to R238, R245, R247, R249, R253). -/

namespace Sys2Proof.Machine

section
variable {n abs g : Nat} {e : Eng}

/-- Requests that find no tag free wait, and each wait is counted once (R253). -/
theorem untagged_frame (hn : n < 24) (e : Eng) :
    let u := noteWaits n 11 (fun _ => true) e
    (agentOf u n).pending = (agentOf e n).pending ∧
      (agentOf u n).inbox.map (·.id) = (agentOf e n).inbox.map (·.id) ∧
      reg u (agIdx n 8) 11 = (reg e (agIdx n 8) 11 +
        ((agentOf e n).inbox.filter fun x => !x.waited.contains 11).length) % 2 ^ 64 ∧
      sameEntries [(agIdx n 8, 11)] e u := by
  intro u
  have hagent : agentOf u n = _ := noteWaits_agent 11 (fun _ => true) e
  refine ⟨?_, ?_, ?_, noteWaits_entries 11 _ e hn (by decide)⟩
  · rw [hagent]
  · rw [hagent, map_countedWait_id]
  · simpa only [Bool.true_and] using reg_noteWaits 11 (fun _ => true) e hn (by decide)

/-- A card for which nothing waits is left unused, and counted (R249). -/
theorem dealerDecision_idle_frame (hn : n < 24) (hinit : (agentOf e n).initDone = true)
    (hfree : ((agentOf e n).grants.any fun x => x.abs == abs && x.group == g) = false)
    (hkind : kindAt e n abs g = .dynamic ∨ kindAt e n abs g = .class0 ∨ kindAt e n abs g = .splinter)
    (hpending : (agentOf e n).pending = []) (hcatchups : (agentOf e n).catchups = []) :
    let u := dealerDecision n abs g e
    reg u (agIdx n 8) 10 = (reg e (agIdx n 8) 10 + 1) % 2 ^ 64 ∧ (agentOf u n).grants = (agentOf e n).grants ∧
      u.out = e.out ∧ u.now = max e.now (e.spBase.getD 0 + 2 * (8 * abs - 32)) ∧ sameMemory e u := by
  intro u
  have hagent : agentOf (decisionState n abs g e) n = agentOf e n :=
    agentOf_decisionState (fun r hr => by rw [hpending] at hr; cases hr) n
  obtain ⟨hdec, hregs, hgrants⟩ := sendHints_idle (e := unused n (decisionState n abs g e))
    (by rw [unused, agentOf_agBump, hagent, hpending]) abs g []
  simp only [u]
  rw [dealerDecision_idle hinit hfree hkind hpending hcatchups]
  refine ⟨?_, ?_, ?_, ?_, ?_⟩
  · rw [reg_of_regs hregs, unused, reg_agBump_same hn (by decide), reg_decisionState]
    exact fun hc => absurd ((cellKey_agent (by decide) (by decide)).mp hc).2 (by decide)
  · rw [hgrants, unused, agentOf_agBump, hagent]
  · exact hdec.out.trans (decisionState_out n abs g e)
  · exact hdec.now.trans (decisionState_now n abs g e)
  · exact ((decisionState_memory ..).trans (sameMemory_agBump ..)).trans hdec.memory

/-- A card that has been granted to a read, seen from the state before its decision. -/
theorem GrantedTo.frame {r : Req} {u : Eng} (h : GrantedTo n abs g r (decisionState n abs g e) u)
    (hpending : (agentOf e n).pending = [r]) (hk : r.kind = .read) :
    (agentOf u n).grants = (agentOf e n).grants ++ [{ abs := abs, group := g, parts := [r] }] ∧
      (agentOf u n).pending = [] ∧ u.out = e.out ∧
      u.now = max e.now (e.spBase.getD 0 + 2 * (8 * abs - 32)) ∧ sameMemory e u := by
  have hagent : agentOf (decisionState n abs g e) n = agentOf e n := agentOf_decisionState (fun q hq => by
    rw [hpending, List.mem_singleton] at hq
    rw [hq, hk]
    exact ReqKind.noConfusion) n
  exact ⟨h.grants.trans (by rw [hagent]), h.pending, h.out.trans (decisionState_out ..),
    h.now.trans (decisionState_now ..), (decisionState_memory ..).trans h.memory⟩

/-- Bursts of a read that follow others: those others stay, and each sector has its own. -/
theorem carryReads_appended {r : Req} {bs bs' : List Burst} (h : bs' = bs ++ carryReads n abs g r 0 r.sects) :
    bs'.take bs.length = bs ∧ bs'.length = bs.length + r.sects.length ∧
      ∀ j y, r.sects[j]? = some y → bs'[bs.length + j]? = some (burstAt abs g r j y) := by
  subst h
  refine ⟨List.take_left, ?_, fun j y hy => ?_⟩
  · rw [List.length_append, carryReads_length]
  · rw [List.getElem?_append_right (Nat.le_add_right ..), Nat.add_sub_cancel_left, carryReads_getElem?, hy, Nat.zero_add]
    rfl

/-- The grant that a card finds is one for that card. -/
theorem find_card {xs : List Grant} {x : Grant} (h : (xs.find? fun x => x.abs == abs && x.group == g) = some x) :
    x.abs = abs ∧ x.group = g := by
  simpa using List.find?_some h

end

theorem exec_readBurst {n : Fin 24} {sev : BitVec 2} {s : State} {u : Eng} (h : readBurst n.val sev.toNat s.eng = u) :
    exec (.readBurst n sev) s = .next { s with eng := u } := by
  rw [← h]
  rfl

end Sys2Proof.Machine

namespace Sys2Proof.Proofs

open Sys2Proof Sys2Proof.Machine

/-- Settles O42, an event at a time: a request's arrival, the Dealer's decision, a granted card, a Trump, a burst. -/
theorem dynamicCards : Obligations.DynamicCards := by
  unfold Obligations.DynamicCards
  intro n abs g s
  refine ⟨?arrives, ?untagged, ?decided, ?granted, ?burst⟩
  case arrives =>
    intro r tag hup htag hfree hr hspine
    obtain ⟨hinbox, harrivals, hepochs, hpending, hreg, hentries, hnow, honly⟩ := admission_frame n.isLt tag r s.eng
    exact ⟨_, exec_requestArrive (requestArrive_admits hup htag hfree hr hspine), hinbox, harrivals, hepochs, hpending,
      hreg, hentries, hnow, congrArg (fun e => { s with eng := e }) honly⟩
  case untagged =>
    intro hup htag
    obtain ⟨hpending, hinbox, hreg, hentries⟩ := untagged_frame n.isLt s.eng
    exact ⟨_, exec_requestArrive (requestArrive_untagged hup htag), hpending, hinbox, hreg, hentries, rfl⟩
  case decided =>
    intro kind hat hinit hfree hkind
    subst hat
    refine ⟨fun hpending hcatchups => ?idle,
      fun r hpending hcatchups hk hspine hlane hserved hfit hne hfreeze hhints hroom => ?whole⟩
    case idle =>
      exact ⟨_, exec_dealerDecision rfl, dealerDecision_idle_frame n.isLt hinit hfree hkind hpending hcatchups⟩
    case whole =>
      have hgrant := dealerDecision_whole n.isLt hinit hfree hkind hpending hcatchups hk hspine hlane hserved hfit hne
        hfreeze hhints hroom
      exact ⟨_, exec_dealerDecision rfl, hgrant.frame hpending hk⟩
  case granted =>
    intro x hx
    refine ⟨fun r ht hr hp hk => ?read, fun r ht hr hp hk hne hown => ?repair, fun bank ht hr => ?refresh,
      fun ht hone => ?trump⟩
    case read =>
      obtain ⟨hbursts, hgrants, hnow, hmem, hout⟩ := dynamicCard_read_frame hx ht hr hp hk
      obtain ⟨hkept, hlength, hsectors⟩ := carryReads_appended hbursts
      exact ⟨_, exec_dynamicCard rfl, hkept, hlength, hsectors, hgrants, hnow, hmem, hout⟩
    case repair =>
      exact ⟨_, exec_dynamicCard rfl, dynamicCard_repair_frame n.isLt hx ht hr hp hk hne hown⟩
    case refresh =>
      exact ⟨_, exec_dynamicCard rfl, dynamicCard_refresh_frame n.isLt hx ht hr⟩
    case trump =>
      obtain ⟨rfl, hgroup⟩ := find_card hx
      have hframe := takeTrump_frame n.isLt hone
      rw [hgroup] at hframe
      exact ⟨_, exec_trumpGrant hone ht rfl hgroup rfl, hframe⟩
  case burst =>
    intro sev b hb hc hl now pois came q slot l hs
    obtain ⟨hnow, hbursts, harriving, hothers, hmem, hregs, hagents, hraised⟩ :=
      readBurst_frame (sev := sev.toNat) hb hc hl hs
    refine ⟨_, exec_readBurst rfl, hnow, hbursts, harriving, hothers, hmem, fun h0 => ?sound, fun h1 => ?corrected,
      fun h2 => ?uncorrectable⟩
    case sound =>
      exact hregs.trans (by rw [h0, burstJudged_sound])
    case corrected =>
      obtain ⟨hreg, hentries, hinbox⟩ := burstJudged_corrected n.isLt b s.eng
      rw [h1] at hregs hagents
      rw [h1, reg_of_regs hregs, agentOf_of_agents hagents]
      exact ⟨hreg, hentries.congr hregs, hinbox⟩
    case uncorrectable =>
      obtain ⟨hreg, hlast, hraise, hentries⟩ := burstJudged_uncorrectable n.isLt h2 b s.eng
      rw [reg_of_regs hregs, reg_of_regs hregs]
      exact ⟨hreg, hlast, hraised.trans hraise, hentries.congr hregs⟩

end Sys2Proof.Proofs
end

section
/-! PROOFS. The counters of crossings (spec/11_crossings.md R276), a start that fails (R387), and O30: the training of a
crossing (R269, R270). -/

namespace Sys2Proof.Machine

/-! ### The counters of crossings -/

/-- The counters of a crossing are 64 bits wide (R276). -/
theorem wrapWidth_crossing {n k : Nat} (hn : n < 24) (hk : 6 ≤ k ∧ k ≤ 11) : wrapWidth (0x3900 + n) k = 64 := by
  have hwide : ∀ m < 24, ∀ j < 6, wrapWidth (0x3900 + m) (j + 6) = 64 := by decide
  obtain ⟨j, rfl⟩ := Nat.exists_eq_add_of_le' hk.1
  exact hwide n hn j (by omega)

/-! ### A start that fails -/

/-- The entries in which a failed start is recorded (R387). -/
def failedStartEntries : List (Nat × Nat) := [(0x1200, 2), (0x1200, 3), (0x1202, 1), (0x1205, 3)]

theorem startFails_entries (detail : Nat) (e : Eng) : sameEntries failedStartEntries e (startFails detail e) := by
  refine sameEntries.bump ?_ (by decide) (by decide) (by decide)
  iterate 3 refine sameEntries.setReg ?_ (by decide) (by decide) (by decide) _
  exact sameEntries_refl _ e

/-- Whether or not a start is under way to fail, the clock and all other entries stay. -/
theorem failStart_keeps (detail : Nat) (e : Eng) :
    (failStart detail e).now = e.now ∧ sameEntries failedStartEntries e (failStart detail e) := by
  unfold failStart
  split
  · exact ⟨rfl, (startFails_entries detail e).congr rfl⟩
  · exact ⟨rfl, sameEntries_refl _ e⟩

/-- R386, R387: in the release of the block a start fails at its step, with its detail. -/
theorem failStart_frame {k since : Nat} {cold power : Bool} {e : Eng} (h : e.run = .release k since cold power)
    (detail : Nat) :
    let u := failStart detail e
    u.run = .failed k ∧ u.raised = e.raised ++ [(84, detail)] ∧ reg u 0x1200 2 = 2 ∧ reg u 0x1200 3 = detail := by
  have hfail : failStart detail e = { startFails detail e with run := .failed k } := by rw [failStart, h]
  have hreg (i j : Nat) : reg (failStart detail e) i j = reg (startFails detail e) i j := by rw [hfail]; rfl
  refine ⟨by rw [hfail], by rw [hfail]; rfl, ?_, ?_⟩
  · rw [hreg]
    simp [startFails, reg_bump_other, reg_setReg, cellKey]
  · rw [hreg]
    simp [startFails, reg_bump_other, reg_setReg, cellKey]

/-! ### The steps of a crossing's training -/

/-- Where a crossing stands in its training. -/
def crossingOf (e : Eng) (n : Nat) : Crossing := storeGet (fun _ => {}) e.crossings n

@[simp] theorem crossingOf_setCrossing_same (n : Nat) (c : Crossing) (e : Eng) : crossingOf (setCrossing n c e) n = c :=
  storeGet_set_same _ _ _ _

theorem crossingOf_setCrossing_other {n m : Nat} (h : m ≠ n) (c : Crossing) (e : Eng) :
    crossingOf (setCrossing n c e) m = crossingOf e m := storeGet_set_other _ h _ _

/-- R269: the step of an attempt passes: reported as passed, within its limit, and step 4 with R up to 88. -/
def stepPasses (e : Eng) (n : Nat) (ok : Bool) (info : Nat) : Prop :=
  ok = true ∧ e.now ≤ (crossingOf e n).since + trainLimit (crossingOf e n).step * 3600 ∧
    ((crossingOf e n).step = 4 → info ≤ 88)

/-- What a report of step 4 records, R and the up padding, whether or not it passes (R269). -/
def roundTripNoted (n : Nat) (ok : Bool) (info : Nat) (e : Eng) : Eng :=
  if ok = true ∧ (crossingOf e n).step = 4 then
    setReg (0x3900 + n) 5 (96 - info) (setReg (0x3900 + n) 4 (min info 255) e)
  else e

section
variable {n : Nat} {ok : Bool} {info : Nat} {e : Eng}

theorem roundTripNoted_only (n : Nat) (ok : Bool) (info : Nat) (e : Eng) : onlyRegs e (roundTripNoted n ok info e) := by
  unfold roundTripNoted
  split
  · exact ((onlyRegs.refl e).setReg ..).setReg ..
  · exact .refl e

theorem roundTripNoted_entries (hn : n < 24) (ok : Bool) (info : Nat) (e : Eng) :
    sameEntries [(0x3900 + n, 4), (0x3900 + n, 5)] e (roundTripNoted n ok info e) := by
  unfold roundTripNoted
  split
  · exact ((sameEntries_refl _ e).setReg (by simp) (by omega) (by decide) _).setReg (by simp) (by omega) (by decide) _
  · exact sameEntries_refl _ e

theorem reg_roundTripNoted (hn : n < 24) {k : Nat} (hk : k < 4) (ok : Bool) (info : Nat) (e : Eng) :
    reg (roundTripNoted n ok info e) (0x3900 + n) k = reg e (0x3900 + n) k :=
  (roundTripNoted_entries hn ok info e).reg (by omega) (by omega) (by simp; omega)

theorem roundTripNoted_same (h : (crossingOf e n).step ≠ 4) (ok : Bool) (info : Nat) : roundTripNoted n ok info e = e :=
  if_neg fun hr => h hr.2

theorem trainStep_idle (h : reg e (0x3900 + n) 1 ≠ 1) (ok : Bool) (info : Nat) : trainStep n ok info e = e := by
  simp only [trainStep, h, false_and, if_false, ne_eq, not_false_eq_true, if_true]

theorem trainStep_training (hn : n < 24) (h : reg e (0x3900 + n) 1 = 1) (ok : Bool) (info : Nat) :
    trainStep n ok info e =
      let c := crossingOf e n
      let u := roundTripNoted n ok info e
      if !ok ∨ c.since + trainLimit c.step * aonT < u.now ∨ (c.step = 4 ∧ 88 < info) then trainFails n c.step info u
      else if c.step < 5 then setCrossing n { c with step := c.step + 1, since := u.now } u
      else endTraining (setReg (0x3900 + n) 1 2 (setCrossing n {} u)) := by
  have hnoted : (if reg e (0x3900 + n) 1 = 1 ∧ ok ∧ (crossingOf e n).step = 4 then
      setReg (0x3900 + n) 5 (96 - info) (setReg (0x3900 + n) 4 (min info 255) e) else e) =
      roundTripNoted n ok info e := by
    simp only [h, true_and, roundTripNoted]
  have hstate : ¬reg (roundTripNoted n ok info e) (0x3900 + n) 1 ≠ 1 :=
    not_not.mpr ((reg_roundTripNoted hn (by decide) ok info e).trans h)
  refine Eq.trans (b := if reg (roundTripNoted n ok info e) (0x3900 + n) 1 ≠ 1 then roundTripNoted n ok info e else _)
    ?_ (if_neg hstate)
  rw [← hnoted]
  rfl

theorem trainStep_fails (hn : n < 24) (h : reg e (0x3900 + n) 1 = 1) (hf : ¬stepPasses e n ok info) :
    trainStep n ok info e = trainFails n (crossingOf e n).step info (roundTripNoted n ok info e) := by
  rw [trainStep_training hn h]
  refine if_pos ?_
  rw [roundTripNoted_only n ok info e]
  by_contra hno
  simp only [not_or, Bool.not_eq_true', Bool.not_eq_false, not_lt, not_and] at hno
  exact hf hno

theorem trainStep_passes (hn : n < 24) (h : reg e (0x3900 + n) 1 = 1) (hp : stepPasses e n ok info) :
    trainStep n ok info e =
      if (crossingOf e n).step < 5 then
        setCrossing n { crossingOf e n with step := (crossingOf e n).step + 1, since := e.now }
          (roundTripNoted n ok info e)
      else endTraining (setReg (0x3900 + n) 1 2 (setCrossing n {} (roundTripNoted n ok info e))) := by
  have hnow : (roundTripNoted n ok info e).now = e.now := by rw [roundTripNoted_only n ok info e]
  obtain ⟨hok, hlimit, hr⟩ := hp
  rw [trainStep_training hn h]
  dsimp only
  rw [hnow]
  refine if_neg ?_
  simp only [hok, not_or, Bool.not_true, Bool.false_eq_true, not_false_eq_true, not_lt, not_and, true_and]
  exact ⟨hlimit, hr⟩

theorem endTraining_only (e : Eng) : onlyRegs e (endTraining e) := by
  unfold endTraining
  split
  · exact (onlyRegs.refl e).setReg ..
  · exact .refl e

theorem endTraining_entries (e : Eng) : sameEntries [(0x39F0, 1)] e (endTraining e) := by
  unfold endTraining
  split
  · exact (sameEntries_refl _ e).setReg (by decide) (by decide) (by decide) _
  · exact sameEntries_refl _ e

theorem reg_endTraining (hn : n < 24) {k : Nat} (hk : k < 256) (e : Eng) :
    reg (endTraining e) (0x3900 + n) k = reg e (0x3900 + n) k :=
  (endTraining_entries e).reg (by omega) hk (by simp; omega)

/-- TRAIN_TIME is set once no crossing trains any more (R276). -/
theorem reg_endTraining_time (e : Eng) : reg (endTraining e) 0x39F0 1 = reg e 0x39F0 1 ∨
    reg (endTraining e) 0x39F0 1 = (e.now - e.trainAt) / 3600 ∧
      ∀ m, m < 24 → 2 ≤ reg (endTraining e) (0x3900 + m) 1 := by
  by_cases hall : ((below 24).all fun n => 2 ≤ reg e (0x3900 + n) 1) = true
  · refine .inr ⟨?_, fun m hm => ?_⟩
    · rw [endTraining, if_pos hall, reg_setReg_same]
      rfl
    · rw [reg_endTraining hm (by decide)]
      exact of_decide_eq_true (List.all_eq_true.mp hall m (mem_below.mpr hm))
  · rw [endTraining, if_neg hall]
    exact .inl rfl

/-- A step before the last that passes: the next one begins (R269). -/
theorem trainStep_advances (hn : n < 24) (h : reg e (0x3900 + n) 1 = 1) (hp : stepPasses e n ok info)
    (hk : (crossingOf e n).step < 5) :
    let c := crossingOf e n
    let u := trainStep n ok info e
    crossingOf u n = { c with step := c.step + 1, since := e.now } ∧ (∀ m, m ≠ n → crossingOf u m = crossingOf e m) ∧
      (c.step = 4 → reg u (0x3900 + n) 4 = info ∧ reg u (0x3900 + n) 5 = 96 - info ∧
        sameEntries [(0x3900 + n, 4), (0x3900 + n, 5)] e u) ∧
      (c.step ≠ 4 → u.regs = e.regs) ∧ u = { e with regs := u.regs, crossings := u.crossings } := by
  intro c u
  have hu : u = setCrossing n { c with step := c.step + 1, since := e.now } (roundTripNoted n ok info e) :=
    (trainStep_passes hn h hp).trans (if_pos hk)
  have honly := roundTripNoted_only n ok info e
  refine ⟨by rw [hu, crossingOf_setCrossing_same], fun m hm => ?_, fun h4 => ?_, fun h4 => ?_, ?_⟩
  · rw [hu, crossingOf_setCrossing_other hm, honly]
    rfl
  · obtain ⟨hok, -, hr⟩ := hp
    have hnoted : roundTripNoted n ok info e = _ := if_pos ⟨hok, h4⟩
    have hmin : min info 255 = info := Nat.min_eq_left ((hr h4).trans (by decide))
    refine ⟨?_, ?_, ?_⟩
    · rw [hu, reg_setCrossing, hnoted, reg_setReg_other (cellKey_sub_ne (by decide)), reg_setReg_same, hmin]
    · rw [hu, reg_setCrossing, hnoted, reg_setReg_same]
    · rw [hu]
      exact (roundTripNoted_entries hn ok info e).congr rfl
  · rw [hu, roundTripNoted_same h4]
    rfl
  · rw [hu, honly]
    rfl

/-- The last step passes: the crossing is pinned (R269, R276). -/
theorem trainStep_pins (hn : n < 24) (h : reg e (0x3900 + n) 1 = 1) (hp : stepPasses e n ok info)
    (hk : (crossingOf e n).step = 5) :
    let u := trainStep n ok info e
    reg u (0x3900 + n) 1 = 2 ∧
      (reg u 0x39F0 1 = reg e 0x39F0 1 ∨
        reg u 0x39F0 1 = (e.now - e.trainAt) / 3600 ∧ ∀ m, m < 24 → 2 ≤ reg u (0x3900 + m) 1) ∧
      sameEntries [(0x3900 + n, 1), (0x39F0, 1)] e u ∧ u = { e with regs := u.regs, crossings := u.crossings } := by
  intro u
  obtain ⟨v, hv⟩ : ∃ v, v = setReg (0x3900 + n) 1 2 (setCrossing n {} e) := ⟨_, rfl⟩
  have hu : u = endTraining v := by
    have hk4 : (crossingOf e n).step ≠ 4 := by omega
    rw [hv, ← roundTripNoted_same hk4 ok info]
    exact (trainStep_passes hn h hp).trans (by rw [if_neg (by omega), roundTripNoted_same hk4])
  have hentries : sameEntries [(0x3900 + n, 1)] e v := by
    rw [hv]
    exact ((sameEntries_refl _ e).congr rfl).setReg (by simp) (by omega) (by decide) 2
  have htime : reg v 0x39F0 1 = reg e 0x39F0 1 := hentries.reg (by decide) (by decide) (by simp; omega)
  refine ⟨?_, ?_, ?_, ?_⟩
  · rw [hu, reg_endTraining hn (by decide), hv, reg_setReg_same]
  · have ht := reg_endTraining_time v
    rw [← hu, htime] at ht
    rw [hv] at ht
    exact ht
  · rw [hu]
    exact (hentries.mono (by simp)).trans ((endTraining_entries v).mono (by simp))
  · rw [hu, endTraining_only v, hv]
    rfl

/-! ### A step that fails -/

theorem trainFails_again {k : Nat} {v : Eng} (h : reg v (0x3900 + n) 3 = 1) : trainFails n k info v =
    setCrossing n { step := 1, since := min v.now ((crossingOf v n).since + trainLimit k * aonT) }
      (setReg (0x3900 + n) 3 2 (setReg (0x3900 + n) 2 (0x3910 + k + info * 2 ^ 16) v)) :=
  if_pos ((reg_setReg_other (cellKey_sub_ne (by decide)) _ v).trans h)

theorem trainFails_last {k : Nat} {v : Eng} (h : reg v (0x3900 + n) 3 ≠ 1) : trainFails n k info v =
    failStart 0x1213 (crossingFails n k (setReg (0x3900 + n) 2 (0x3910 + k + info * 2 ^ 16) v)) :=
  if_neg fun hr => h ((reg_setReg_other (cellKey_sub_ne (by decide)) _ v).symm.trans hr)

/-- The first attempt fails: the second begins, no later than at the step's limit (R269, R270). -/
theorem trainStep_retries (hn : n < 24) (h : reg e (0x3900 + n) 1 = 1) (hf : ¬stepPasses e n ok info)
    (h3 : reg e (0x3900 + n) 3 = 1) :
    let x := 0x3900 + n
    let c := crossingOf e n
    let u := trainStep n ok info e
    reg u x 1 = 1 ∧ reg u x 3 = 2 ∧ reg u x 2 = 0x3910 + c.step + info * 2 ^ 16 ∧
      crossingOf u n = { step := 1, since := min e.now (c.since + trainLimit c.step * 3600) } ∧
      sameEntries [(x, 2), (x, 3), (x, 4), (x, 5)] e u ∧ u = { e with regs := u.regs, crossings := u.crossings } := by
  intro x c u
  have hx : x < 65536 := by omega
  have honly := roundTripNoted_only n ok info e
  have hu : u = setCrossing n { step := 1, since := min e.now (c.since + trainLimit c.step * 3600) }
      (setReg x 3 2 (setReg x 2 (0x3910 + c.step + info * 2 ^ 16) (roundTripNoted n ok info e))) := by
    have h3' : reg (roundTripNoted n ok info e) x 3 = 1 := (reg_roundTripNoted hn (by decide) ok info e).trans h3
    refine (trainStep_fails hn h hf).trans ((trainFails_again h3').trans ?_)
    rw [honly]
    rfl
  refine ⟨?_, ?_, ?_, ?_, ?_, ?_⟩
  · rw [hu, reg_setCrossing, reg_setReg_other (cellKey_sub_ne (by decide)),
      reg_setReg_other (cellKey_sub_ne (by decide)), reg_roundTripNoted hn (by decide), h]
  · rw [hu, reg_setCrossing, reg_setReg_same]
  · rw [hu, reg_setCrossing, reg_setReg_other (cellKey_sub_ne (by decide)), reg_setReg_same]
  · rw [hu, crossingOf_setCrossing_same]
  · have hnoted := (roundTripNoted_entries hn ok info e).mono (ks' := [(x, 2), (x, 3), (x, 4), (x, 5)]) (by simp [x])
    rw [hu]
    exact ((hnoted.setReg (by simp) hx (by decide) _).setReg (by simp) hx (by decide) _).congr rfl
  · rw [hu, honly]
    rfl

/-- A crossing that fails: its state and its record, and its fault (R269, R270). -/
theorem crossingFails_frame (hn : n < 24) (k record : Nat) (v : Eng) :
    let x := 0x3900 + n
    let w := crossingFails n k (setReg x 2 record v)
    reg w x 1 = 3 ∧ reg w x 2 = record ∧ onlyEvents [(48 + n, 0x3910 + k)] v w ∧
      sameEntries [(x, 1), (x, 2), (0x39F0, 1)] v w := by
  intro x w
  have hx : x < 65536 := by omega
  obtain ⟨y, hy⟩ : ∃ y, y = setReg x 1 3 (setReg x 2 record v) := ⟨_, rfl⟩
  have hw : w = endTraining (raise (48 + n) (0x3910 + k) y) := by rw [hy]; rfl
  have hset : onlyRegs v y := by
    rw [hy]
    exact ((onlyRegs.refl v).setReg ..).setReg ..
  have hentries : sameEntries [(x, 1), (x, 2), (0x39F0, 1)] v y := by
    rw [hy]
    exact ((sameEntries_refl _ v).setReg (by simp) hx (by decide) _).setReg (by simp) hx (by decide) _
  refine ⟨?_, ?_, ?_, ?_⟩
  · rw [hw, reg_endTraining hn (by decide), reg_raise, hy, reg_setReg_same]
  · rw [hw, reg_endTraining hn (by decide), reg_raise, hy, reg_setReg_other (cellKey_sub_ne (by decide)),
      reg_setReg_same]
  · rw [onlyEvents, hw, endTraining_only (raise (48 + n) (0x3910 + k) y), hset.raise (48 + n) (0x3910 + k)]
  · rw [hw]
    exact (hentries.congr (raise_regs ..)).trans ((endTraining_entries _).mono (by simp))

/-- The last attempt fails: so does the crossing, and with it the start (R270, R386). -/
theorem trainStep_gives_up (hn : n < 24) (h : reg e (0x3900 + n) 1 = 1) (hf : ¬stepPasses e n ok info)
    (h3 : reg e (0x3900 + n) 3 ≠ 1) {k since : Nat} {cold power : Bool} (hr : e.run = .release k since cold power) :
    let x := 0x3900 + n
    let detail := 0x3910 + (crossingOf e n).step
    let u := trainStep n ok info e
    reg u x 1 = 3 ∧ reg u x 2 = detail + info * 2 ^ 16 ∧ u.run = .failed k ∧
      u.raised = e.raised ++ [(48 + n, detail), (84, 0x1213)] ∧ reg u 0x1200 2 = 2 ∧ reg u 0x1200 3 = 0x1213 ∧
      sameEntries [(x, 1), (x, 2), (x, 4), (x, 5), (0x39F0, 1), (0x1200, 2), (0x1200, 3), (0x1202, 1), (0x1205, 3)]
        e u := by
  intro x detail u
  have honly := roundTripNoted_only n ok info e
  have hnoted := roundTripNoted_entries hn ok info e
  obtain ⟨hthree, hrecord, hevents, hcrossing⟩ :=
    crossingFails_frame hn (crossingOf e n).step (detail + info * 2 ^ 16) (roundTripNoted n ok info e)
  obtain ⟨w, hw⟩ : ∃ w, w = crossingFails n (crossingOf e n).step
    (setReg x 2 (detail + info * 2 ^ 16) (roundTripNoted n ok info e)) := ⟨_, rfl⟩
  rw [← hw] at hthree hrecord hevents hcrossing
  have hu : u = failStart 0x1213 w := by
    have h3' : reg (roundTripNoted n ok info e) x 3 ≠ 1 := by rwa [reg_roundTripNoted hn (by decide)]
    rw [hw]
    exact (trainStep_fails hn h hf).trans (trainFails_last h3')
  have hrun : w.run = .release k since cold power := by
    rw [hevents, honly]
    exact hr
  obtain ⟨hfailed, hraised, hstate, hdetail⟩ := failStart_frame hrun 0x1213
  obtain ⟨-, hstart⟩ := failStart_keeps 0x1213 w
  rw [← hu] at hfailed hraised hstate hdetail hstart
  have hfar (j : Nat) (hj : j < 256) : reg u x j = reg w x j :=
    hstart.reg (by omega) hj (by simp [failedStartEntries, x]; omega)
  refine ⟨(hfar 1 (by decide)).trans hthree, (hfar 2 (by decide)).trans hrecord, hfailed, ?_, hstate, hdetail, ?_⟩
  · rw [hraised, hevents.raised, honly.raised, List.append_assoc]
    rfl
  · exact ((hnoted.mono (by simp [x])).trans (hcrossing.mono (by simp [x]))).trans
      (hstart.mono (by simp [failedStartEntries]))

end

theorem exec_crossingTrainStepDone {n : Fin 24} {ok : Bool} {info : BitVec 14} {s : State} {u : Eng}
    (h : trainStep n.val ok info.toNat s.eng = u) :
    exec (.crossingTrainStepDone n ok info) s = .next { s with eng := u } := by
  rw [← h]
  rfl

end Sys2Proof.Machine

namespace Sys2Proof.Proofs

open Sys2Proof Sys2Proof.Machine

/-- Settles O30: a report finds a crossing that does not train, passes its step, or fails it in either attempt. -/
theorem crossingsTrain : Obligations.CrossingsTrain := by
  unfold Obligations.CrossingsTrain
  intro n ok info s x c limit passes detail
  refine ⟨fun hidle => ?idle, fun htrain hpass hstep => ?advances, fun htrain hpass hstep => ?pinned,
    fun htrain hfail hfirst => ?retries, fun htrain hfail hlast k since cold power hrun => ?fails⟩
  case idle => exact exec_crossingTrainStepDone (trainStep_idle hidle ..)
  case advances =>
    obtain ⟨hcross, hothers, hfour, hregs, honly⟩ := trainStep_advances n.isLt htrain hpass hstep
    exact ⟨_, exec_crossingTrainStepDone rfl, hcross, hothers, hfour, hregs, withEng honly⟩
  case pinned =>
    obtain ⟨hstate, htime, hentries, honly⟩ := trainStep_pins n.isLt htrain hpass hstep
    exact ⟨_, exec_crossingTrainStepDone rfl, hstate, htime, hentries, withEng honly⟩
  case retries =>
    obtain ⟨hstate, hattempt, hdetail, hcross, hentries, honly⟩ := trainStep_retries n.isLt htrain hfail hfirst
    exact ⟨_, exec_crossingTrainStepDone rfl, hstate, hattempt, hdetail, hcross, hentries, withEng honly⟩
  case fails => exact ⟨_, exec_crossingTrainStepDone rfl, trainStep_gives_up n.isLt htrain hfail hlast hrun⟩

end Sys2Proof.Proofs
end

section
/-! PROOFS. O31: what arrives over a boundary, word by word (spec/11_crossings.md R264, R272), control words that are lost
(R265, R266), and the frame marks of pinned crossings (R271). -/

namespace Sys2Proof.Machine

/-! ### Changes to what is on its way -/

/-- A change of docks and agents alone, which depends on them alone. -/
def onlyParts (f : Eng → Eng) : Prop :=
  ∃ g : List (Nat × Dock) × List (Nat × Agent) → List (Nat × Dock) × List (Nat × Agent),
    ∀ e, f e = { e with docks := (g (e.docks, e.agents)).1, agents := (g (e.docks, e.agents)).2 }

theorem onlyParts_id : onlyParts id := ⟨id, fun _ => rfl⟩

theorem onlyParts_onDock (s : Nat) (f : Dock → Dock) : onlyParts (onDock s f) :=
  ⟨fun p => (storeSet (fun _ => {}) s (f (storeGet (fun _ => {}) p.1 s)) p.1, p.2), fun _ => rfl⟩

theorem onlyParts_onAgent (n : Nat) (f : Agent → Agent) : onlyParts (onAgent n f) :=
  ⟨fun p => (p.1, storeSet (fun _ => {}) n (f (storeGet (fun _ => {}) p.2 n)) p.2), fun _ => rfl⟩

theorem onlyParts.comp {f h : Eng → Eng} (hf : onlyParts f) (hh : onlyParts h) : onlyParts (h ∘ f) := by
  obtain ⟨g, hg⟩ := hf
  obtain ⟨k, hk⟩ := hh
  exact ⟨k ∘ g, fun e => by rw [Function.comp_apply, hk, hg]; rfl⟩

theorem onlyParts.foldl {α : Type} {f : Eng → α → Eng} {xs : List α} (h : ∀ x ∈ xs, onlyParts fun e => f e x) :
    onlyParts fun e => xs.foldl f e := by
  induction xs with
  | nil => exact onlyParts_id
  | cons x xs ih => exact (h x (by simp)).comp (ih fun y hy => h y (by simp [hy]))

/-- Such a change leaves everything else as it is. -/
theorem onlyParts.only {f : Eng → Eng} (h : onlyParts f) (e : Eng) :
    f e = { e with docks := (f e).docks, agents := (f e).agents } := by
  obtain ⟨g, hg⟩ := h
  rw [hg]

/-- Such a change does the same wherever docks and agents stand alike. -/
theorem onlyParts.congr {f : Eng → Eng} (h : onlyParts f) {e e' : Eng} (hd : e'.docks = e.docks)
    (ha : e'.agents = e.agents) : (f e').docks = (f e).docks ∧ (f e').agents = (f e).agents := by
  obtain ⟨g, hg⟩ := h
  rw [hg, hg, hd, ha]
  exact ⟨rfl, rfl⟩

/-! ### What the words of a beat belong to -/

theorem hitArriving_parts (s : Nat) (x : InFlight) (mask data : Nat) : onlyParts (hitArriving s x mask data) := by
  unfold hitArriving
  generalize crossed x.sector.data x.sector.pois mask data = vp
  exact onlyParts_onDock s _

theorem hitBurst_parts (n : Nat) (x : Burst) (mask data : Nat) : onlyParts (hitBurst n x mask data) := by
  unfold hitBurst
  generalize crossed x.received x.hurt mask data = vp
  exact onlyParts_onAgent n _

theorem hitDrawn_parts (n : Nat) (x : ListedSector) (mask data : Nat) : onlyParts (hitDrawn n x mask data) := by
  unfold hitDrawn
  exact onlyParts_onAgent n _

theorem hitWrite_parts (n : Nat) (r : Req) (x : Sect) (mask data : Nat) : onlyParts (hitWrite n r x mask data) := by
  unfold hitWrite
  exact onlyParts_onAgent n _

section
variable {e e' : Eng} {b : Sys2Proof.Boundary} {down : Bool} {l : Nat} {hit : Hit}

theorem upTarget_parts {n : Nat} (h : upTarget e n l = some hit) (mask data : Nat) : onlyParts (hit mask data) := by
  unfold upTarget at h
  split at h
  · cases h
    exact hitArriving_parts ..
  · obtain ⟨x, -, rfl⟩ := Option.map_eq_some_iff.mp h
    exact hitBurst_parts ..

theorem downTarget_parts {n : Nat} (h : downTarget e n l = some hit) (mask data : Nat) : onlyParts (hit mask data) := by
  unfold downTarget at h
  dsimp only at h
  split at h
  · cases h
    exact hitDrawn_parts ..
  · obtain ⟨x, -, rfl⟩ := Option.map_eq_some_iff.mp h
    exact hitWrite_parts ..

theorem stitchTargets_parts {k : Nat} (h : hit ∈ stitchTargets e k down) (mask data : Nat) :
    onlyParts (hit mask data) := by
  rcases List.mem_append.mp h with h | h
  · obtain ⟨x, -, rfl⟩ := List.mem_map.mp h
    exact hitArriving_parts ..
  · obtain ⟨n, -, h⟩ := List.mem_flatMap.mp h
    obtain ⟨x, -, rfl⟩ := List.mem_map.mp h
    exact hitDrawn_parts ..

/-- What a lane's words belong to is a sector on its way, or an agent's burst, list or request (R263). -/
theorem beatTarget_parts (h : beatTarget e b down l = some hit) (mask data : Nat) : onlyParts (hit mask data) := by
  cases b with
  | crossing n =>
    cases down with
    | true => exact downTarget_parts h mask data
    | false => exact upTarget_parts h mask data
  | stitch k => exact stitchTargets_parts (List.mem_of_getElem? h) mask data

theorem beatTarget_congr (hd : e'.docks = e.docks) (ha : e'.agents = e.agents) (b : Sys2Proof.Boundary) (down : Bool)
    (l : Nat) : beatTarget e' b down l = beatTarget e b down l := by
  simp only [beatTarget, upTarget, downTarget, stitchTargets, arrivingInOrder, agentOf, hd, ha]

theorem poisonBeat_parts (before : Eng) (b : Sys2Proof.Boundary) (down : Bool) (mask data lanes : Nat) :
    onlyParts (poisonBeat before b down mask data lanes) := by
  refine onlyParts.foldl fun l _ => ?_
  by_cases hm : bits mask (8 * l) 8 = 0
  · simp only [hm, if_true]
    exact onlyParts_id
  · simp only [hm, if_false]
    cases ht : beatTarget before b down l with
    | none => exact onlyParts_id
    | some hit => exact beatTarget_parts ht ..

/-- Words of which none is in the poison code reach nothing. -/
theorem poisonBeat_clean (before : Eng) (b : Sys2Proof.Boundary) (down : Bool) (data lanes : Nat) (e : Eng) :
    poisonBeat before b down 0 data lanes e = e := by
  have hbits (l : Nat) : bits 0 (8 * l) 8 = 0 := by simp [bits]
  simp only [poisonBeat, hbits, if_true]
  exact List.foldl_fixed _

/-- A word in the poison code, alone in its beat, reaches the item of lane 0 (log entry 142). -/
theorem poisonBeat_single {w : Nat} (hw : w < 2 ^ 32) (h : beatTarget e b down 0 = some hit) :
    poisonBeat e b down 1 w 1 e' = hit 1 w e' := by
  have hmask : bits 1 (8 * 0) 8 = 1 := by decide
  have hdata : bits w (256 * 0) 256 = w := by
    rw [bits, Nat.mul_zero, Nat.pow_zero, Nat.div_one]
    exact Nat.mod_eq_of_lt (hw.trans (by decide))
  simp only [poisonBeat, below, upFrom, List.foldl_cons, List.foldl_nil, hmask, hdata, h, Nat.one_ne_zero, if_false]

end

/-! ### A beat at a boundary -/

/-- The data bits of a beat's words, as received. -/
def wordsData (words : List (Word32 × BitVec 7)) : Nat :=
  (words.map fun w => w.1.toNat).foldr (fun w n => w + 2 ^ 32 * n) 0

/-- The words of a beat that R264 finds to be of a kind. -/
def wordsFound (words : List (Word32 × BitVec 7)) (k : WordCheck) : Nat :=
  ((words.map judgeWord).filter (· == k)).length

theorem wordsFound_eq_count (words : List (Word32 × BitVec 7)) (k : WordCheck) :
    wordsFound words k = (words.map judgeWord).count k := List.count_eq_length_filter.symm

/-- The words that are corrected, and those that are uncorrectable, counted (R264). -/
def wordsCounted (idx sub : Nat) (words : List (Word32 × BitVec 7)) (e : Eng) : Eng :=
  bumpBy (wordsFound words .uncorrectable) idx (sub + 1) (bumpBy (wordsFound words .corrected) idx sub e)

/-- A beat's words in the poison code reach what they belong to. -/
def wordsPoisoned (b : Sys2Proof.Boundary) (down : Bool) (mask : Nat) (words : List (Word32 × BitVec 7)) (e : Eng) :
    Eng :=
  poisonBeat e b down mask (wordsData words) ((words.length + 7) / 8) e

theorem wordsPoisoned_only (b : Sys2Proof.Boundary) (down : Bool) (mask : Nat) (words : List (Word32 × BitVec 7))
    (e : Eng) : wordsPoisoned b down mask words e = { e with
      docks := (wordsPoisoned b down mask words e).docks, agents := (wordsPoisoned b down mask words e).agents } :=
  (poisonBeat_parts e b down mask _ _).only e

theorem poisonOf_clean {cs : List WordCheck} (hu : cs.count .uncorrectable = 0) (hp : cs.count .poisoned = 0) :
    poisonOf cs = 0 := by
  have hnone : ∀ x ∈ (below cs.length).zip cs, ¬(x.2 = .uncorrectable ∨ x.2 = .poisoned) := by
    intro x hx hbad
    have hmem : x.2 ∈ cs := (List.of_mem_zip hx).2
    rcases hbad with h | h
    · exact List.count_eq_zero.mp hu (h ▸ hmem)
    · exact List.count_eq_zero.mp hp (h ▸ hmem)
  refine foldl_related (R := fun m n => m = 0 → n = 0) (fun _ h => h) (fun h g m => g (h m)) (fun m x hx hm => ?_) 0 rfl
  rw [if_neg (hnone x hx), hm]

section
variable {b : Sys2Proof.Boundary} {idx sub src : Nat} {words : List (Word32 × BitVec 7)} {e : Eng}

/-- The counters of a boundary for its words are 64 bits wide (R276). -/
theorem boundaryAt_wide (h : boundaryAt b = (idx, sub, src)) :
    idx < 65536 ∧ sub + 1 < 256 ∧ wrapWidth idx sub = 64 ∧ wrapWidth idx (sub + 1) = 64 := by
  cases b with
  | crossing n =>
    cases h
    exact ⟨by omega, by decide, wrapWidth_crossing n.isLt (by decide), wrapWidth_crossing n.isLt (by decide)⟩
  | stitch k =>
    cases h
    have hwide : ∀ k < 3, wrapWidth (0x3920 + k) 1 = 64 ∧ wrapWidth (0x3920 + k) (1 + 1) = 64 := by decide
    obtain ⟨h1, h2⟩ := hwide k.val k.isLt
    exact ⟨by omega, by decide, h1, h2⟩

theorem wordsCounted_frame (h : boundaryAt b = (idx, sub, src)) (words : List (Word32 × BitVec 7)) (e : Eng) :
    let u := wordsCounted idx sub words e
    reg u idx sub = (reg e idx sub + wordsFound words .corrected) % 2 ^ 64 ∧
      reg u idx (sub + 1) = (reg e idx (sub + 1) + wordsFound words .uncorrectable) % 2 ^ 64 ∧
      sameEntries [(idx, sub), (idx, sub + 1)] e u ∧ onlyRegs e u := by
  intro u
  obtain ⟨hi, hs, hw, hw'⟩ := boundaryAt_wide h
  refine ⟨?_, ?_, ?_, ((onlyRegs.refl e).setReg ..).setReg ..⟩
  · rw [← hw, ← reg_bumpBy_same]
    exact reg_bumpBy_other (cellKey_sub_ne (by omega)) ..
  · rw [← reg_bumpBy_other (cellKey_sub_ne (show sub + 1 ≠ sub by omega)) (wordsFound words .corrected) e, ← hw',
      ← reg_bumpBy_same]
    rfl
  · exact ((sameEntries_refl _ e).bumpBy (by simp) hi (by omega) _).bumpBy (by simp) hi hs _

/-- A beat in range, or at a stitch line, is judged word by word (R264). -/
theorem beatReceive_judged (h : boundaryAt b = (idx, sub, src)) {inRange : Bool}
    (hin : ¬(inRange = false ∧ ∃ n, b = .crossing n)) (down : Bool) : beatReceive b down inRange words e =
      let u := wordsPoisoned b down (poisonOf (words.map judgeWord)) words (wordsCounted idx sub words e)
      if wordsFound words .uncorrectable = 0 then u else raise src 0 u := by
  cases b with
  | crossing n =>
    obtain rfl : inRange = true := by simpa using hin
    cases h
    rfl
  | stitch k =>
    cases h
    rfl

/-- A beat of a crossing outside its range is a pin slip, with all its words in the poison code (R272). -/
theorem beatReceive_slips (n : Fin 24) (down : Bool) (words : List (Word32 × BitVec 7)) (e : Eng) :
    beatReceive (.crossing n) down false words e = wordsPoisoned (.crossing n) down (2 ^ words.length - 1) words
      (raise (48 + n.val) 0 (bump (0x3900 + n.val) 8 e)) := rfl

/-- What a beat that is judged word by word counts, raises and poisons (R264). -/
theorem beatReceive_judged_frame (h : boundaryAt b = (idx, sub, src)) {inRange : Bool}
    (hin : ¬(inRange = false ∧ ∃ n, b = .crossing n)) (down : Bool) (words : List (Word32 × BitVec 7)) (e : Eng) :
    let u := beatReceive b down inRange words e
    reg u idx sub = (reg e idx sub + wordsFound words .corrected) % 2 ^ 64 ∧
      reg u idx (sub + 1) = (reg e idx (sub + 1) + wordsFound words .uncorrectable) % 2 ^ 64 ∧
      sameEntries [(idx, sub), (idx, sub + 1)] e u ∧
      u.raised = e.raised ++ (if wordsFound words .uncorrectable = 0 then [] else [(src, 0)]) ∧
      (wordsFound words .uncorrectable = 0 → wordsFound words .poisoned = 0 → u.docks = e.docks ∧ u.agents = e.agents) ∧
      (∀ w hit, words = [w] → judgeWord w = .uncorrectable → beatTarget e b down 0 = some hit →
        u.docks = (hit 1 w.1.toNat e).docks ∧ u.agents = (hit 1 w.1.toNat e).agents) ∧
      u = { e with regs := u.regs, docks := u.docks, agents := u.agents, raised := u.raised } := by
  intro u
  obtain ⟨c, hc⟩ : ∃ c, c = wordsCounted idx sub words e := ⟨_, rfl⟩
  obtain ⟨v, hv⟩ : ∃ v, v = wordsPoisoned b down (poisonOf (words.map judgeWord)) words c := ⟨_, rfl⟩
  obtain ⟨hfixed, hbad, hentries, honly⟩ := wordsCounted_frame h words e
  rw [← hc] at hfixed hbad hentries honly
  have hu : u = if wordsFound words .uncorrectable = 0 then v else raise src 0 v := by
    rw [hv, hc]
    exact beatReceive_judged h hin down
  have hparts : v = { c with docks := v.docks, agents := v.agents } := by
    rw [hv]
    exact wordsPoisoned_only ..
  have hcounted : u = { v with raised := u.raised } := by
    rw [hu]
    split <;> rfl
  have hregs : u.regs = c.regs := by rw [hcounted, hparts]
  have hdocks : u.docks = v.docks := by rw [hcounted]
  have hagents : u.agents = v.agents := by rw [hcounted]
  refine ⟨?_, ?_, hentries.congr hregs, ?_, ?_, ?_, ?_⟩
  · rw [reg_of_regs hregs, hfixed]
  · rw [reg_of_regs hregs, hbad]
  · have hraised : v.raised = e.raised := by rw [hparts, honly]
    rw [hu]
    split
    · rw [hraised, List.append_nil]
    · rw [raise, hraised]
  · intro hu0 hp0
    rw [wordsFound_eq_count] at hu0 hp0
    have hclean : v = c := by
      rw [hv, poisonOf_clean hu0 hp0]
      exact poisonBeat_clean ..
    rw [hdocks, hagents, hclean, honly]
    exact ⟨rfl, rfl⟩
  · rintro w hit rfl hw ht
    have hcd : c.docks = e.docks := by rw [honly]
    have hca : c.agents = e.agents := by rw [honly]
    have hmask : poisonOf ([w].map judgeWord) = 1 := by
      rw [List.map_singleton, hw]
      decide
    have hone : v = hit 1 w.1.toNat c := by
      have hwords : wordsPoisoned b down 1 [w] c = poisonBeat c b down 1 w.1.toNat 1 c := by
        simp [wordsPoisoned, wordsData]
      rw [hv, hmask, hwords]
      exact poisonBeat_single w.1.isLt ((beatTarget_congr hcd hca b down 0).trans ht)
    rw [hdocks, hagents, hone]
    exact (beatTarget_parts ht 1 w.1.toNat).congr hcd hca
  · rw [hcounted, hparts, honly]

/-- What a pin slip counts and raises (R272). -/
theorem beatReceive_slips_frame (n : Fin 24) (down : Bool) (words : List (Word32 × BitVec 7)) (e : Eng) :
    let x := 0x3900 + n.val
    let u := beatReceive (.crossing n) down false words e
    reg u x 8 = (reg e x 8 + 1) % 2 ^ 64 ∧ sameEntries [(x, 8)] e u ∧ u.raised = e.raised ++ [(48 + n.val, 0)] ∧
      u = { e with regs := u.regs, docks := u.docks, agents := u.agents, raised := u.raised } := by
  intro x u
  obtain ⟨c, hc⟩ : ∃ c, c = raise (48 + n.val) 0 (bump x 8 e) := ⟨_, rfl⟩
  have hu : u = wordsPoisoned (.crossing n) down (2 ^ words.length - 1) words c := by
    rw [hc]
    exact beatReceive_slips ..
  have hparts : u = { c with docks := u.docks, agents := u.agents } := by
    rw [hu]
    exact wordsPoisoned_only ..
  have hregs : u.regs = (bump x 8 e).regs := by rw [hparts, hc, raise_regs]
  refine ⟨?_, ?_, ?_, ?_⟩
  · rw [reg_of_regs hregs, reg_bump_same, wrapWidth_crossing n.isLt (by decide)]
  · exact ((sameEntries_refl _ e).bump (List.mem_singleton.mpr rfl) (by omega) (by decide)).congr hregs
  · rw [hparts, hc]
    rfl
  · rw [hparts, hc]
    rfl

end

theorem exec_crossingBeatReceive {b : Sys2Proof.Boundary} {down inRange : Bool} {words : List (Word32 × BitVec 7)}
    {s : State} {u : Eng} (h : beatReceive b down inRange words s.eng = u) :
    exec (.crossingBeatReceive ⟨b, down⟩ inRange words) s = .next { s with eng := u } := by
  rw [← h]
  rfl

/-! ### Control words -/

/-- The lists of a slot, once word `k` of its eight is lost with the three runs that it carried (R265, R266). -/
def listsLeft (k abs : Nat) (a : Agent) : List CardList :=
  loseRuns (fun r => decide (3 * k < r ∧ r ≤ 3 * k + 3)) (a.lists.filter (·.abs == abs)) 0

/-- The sectors that are dropped with that word. -/
def runsLost (k abs : Nat) (a : Agent) : Nat :=
  droppedIn (listsLeft k abs a) - droppedIn (a.lists.filter (·.abs == abs))

/-- A lost control word is counted (R265). -/
def controlLost (n : Nat) (e : Eng) : Eng := bump (0x3900 + n) 10 e

/-- The drop of the runs that a lost control word carried, recorded (R266). -/
def recordRunDrop (n k abs : Nat) (e : Eng) : Eng :=
  raise (48 + n) 0x3901 (setReg (0x3900 + n) 12 (0x3901 + abs % 512 * 2 ^ 16)
    (bumpBy (runsLost k abs (agentOf e n)) (0x3900 + n) 11
      (onAgent n (fun a => { a with lists := listsLeft k abs (agentOf e n) ++ a.lists.filter (·.abs != abs) }) e)))

section
variable {n : Nat} {e : Eng}

theorem reg_controlLost (hn : n < 24) (e : Eng) :
    reg (controlLost n e) (0x3900 + n) 10 = (reg e (0x3900 + n) 10 + 1) % 2 ^ 64 := by
  rw [controlLost, reg_bump_same, wrapWidth_crossing hn (by decide)]

theorem controlLost_entries (hn : n < 24) (e : Eng) : sameEntries [(0x3900 + n, 10)] e (controlLost n e) :=
  (sameEntries_refl _ e).bump (List.mem_singleton.mpr rfl) (by omega) (by decide)

/-- A lost sideband item is counted alone, and lost routing moves no list and raises nothing (R265). -/
theorem loseControl_plain {item : ControlItem} (h : item = .routing ∨ item = .sideband) (n : Nat) (e : Eng) :
    let u := loseControl n item e
    u.regs = (controlLost n e).regs ∧ (agentOf u n).lists = (agentOf e n).lists ∧ u.raised = e.raised ∧
      u = { e with regs := u.regs, agents := u.agents, raised := u.raised } := by
  rcases h with rfl | rfl
  · unfold loseControl
    dsimp only
    split
    · exact ⟨rfl, rfl, rfl, rfl⟩
    · exact ⟨rfl, by rw [agentOf_onAgent_same]; rfl, rfl, rfl⟩
  · exact ⟨rfl, rfl, rfl, rfl⟩

theorem loseControl_runs_none (h : nextListSlot (agentOf e n) = none) (k : Fin 8) :
    loseControl n (.runs k) e = controlLost n e := by
  have hslot : nextListSlot (agentOf (bump (0x3900 + n) 10 e) n) = none := h
  simp only [loseControl, hslot]
  rfl

theorem loseControl_runs {abs : Nat} (h : nextListSlot (agentOf e n) = some abs) (k : Fin 8) :
    loseControl n (.runs k) e =
      if runsLost k.val abs (agentOf e n) = 0 then controlLost n e
      else recordRunDrop n k.val abs (controlLost n e) := by
  have hslot : nextListSlot (agentOf (bump (0x3900 + n) 10 e) n) = some abs := h
  simp only [loseControl, hslot]
  rfl

theorem recordRunDrop_frame (hn : n < 24) (k abs : Nat) (e : Eng) :
    let x := 0x3900 + n
    let u := recordRunDrop n k abs e
    (agentOf u n).lists = listsLeft k abs (agentOf e n) ++ (agentOf e n).lists.filter (·.abs != abs) ∧
      reg u x 11 = (reg e x 11 + runsLost k abs (agentOf e n)) % 2 ^ 64 ∧ reg u x 12 = 0x3901 + abs % 512 * 2 ^ 16 ∧
      sameEntries [(x, 11), (x, 12)] e u ∧ u.raised = e.raised ++ [(48 + n, 0x3901)] ∧
      u = { e with regs := u.regs, agents := u.agents, raised := u.raised } := by
  intro x u
  have hx : x < 65536 := by omega
  obtain ⟨v, hv⟩ : ∃ v, v = onAgent n (fun a => { a with
    lists := listsLeft k abs (agentOf e n) ++ a.lists.filter (·.abs != abs) }) e := ⟨_, rfl⟩
  have hu : u = raise (48 + n) 0x3901 (setReg x 12 (0x3901 + abs % 512 * 2 ^ 16)
      (bumpBy (runsLost k abs (agentOf e n)) x 11 v)) := by rw [hv]; rfl
  have hevents : onlyEvents [(48 + n, 0x3901)] v u := by
    rw [hu]
    exact (((onlyRegs.refl v).setReg ..).setReg ..).raise ..
  have hregs : v.regs = e.regs := by rw [hv, onAgent_regs]
  have hagents : u.agents = v.agents := by rw [hevents]
  refine ⟨?_, ?_, ?_, ?_, ?_, ?_⟩
  · rw [agentOf_of_agents hagents, hv, agentOf_onAgent_same]
  · rw [hu, reg_raise, reg_setReg_other (cellKey_sub_ne (by decide)), reg_bumpBy_same,
      wrapWidth_crossing hn (by decide), reg_of_regs hregs]
  · rw [hu, reg_raise, reg_setReg_same]
  · rw [hu]
    exact ((((sameEntries_refl _ e).congr hregs).bumpBy (by simp) hx (by decide) _).setReg (by simp) hx (by decide)
      _).congr (raise_regs ..)
  · rw [hevents.raised, hv, onAgent_raised]
  · rw [hevents, hv]
    rfl

/-- Whatever a lost control word carried, it is counted, and beside it dropped runs alone (R265, R266). -/
theorem loseControl_frame (hn : n < 24) (item : ControlItem) (e : Eng) :
    let x := 0x3900 + n
    let u := loseControl n item e
    reg u x 10 = (reg e x 10 + 1) % 2 ^ 64 ∧ sameEntries [(x, 10), (x, 11), (x, 12)] e u ∧
      u = { e with regs := u.regs, agents := u.agents, raised := u.raised } := by
  intro x u
  have hx : x < 65536 := by omega
  have hcount := reg_controlLost hn e
  have hlost := controlLost_entries hn e
  have hplain (hr : u.regs = (controlLost n e).regs) :
      reg u x 10 = (reg e x 10 + 1) % 2 ^ 64 ∧ sameEntries [(x, 10), (x, 11), (x, 12)] e u :=
    ⟨(reg_of_regs hr x 10).trans hcount, (hlost.congr hr).mono (by simp [x])⟩
  have hother (h : item = .routing ∨ item = .sideband) : reg u x 10 = (reg e x 10 + 1) % 2 ^ 64 ∧
      sameEntries [(x, 10), (x, 11), (x, 12)] e u ∧
      u = { e with regs := u.regs, agents := u.agents, raised := u.raised } := by
    obtain ⟨hr, -, -, honly⟩ := loseControl_plain h n e
    obtain ⟨h10, hentries⟩ := hplain hr
    exact ⟨h10, hentries, honly⟩
  cases item with
  | sideband => exact hother (.inr rfl)
  | routing => exact hother (.inl rfl)
  | runs k =>
    cases hs : nextListSlot (agentOf e n) with
    | none =>
      have hu : u = controlLost n e := loseControl_runs_none hs k
      obtain ⟨h10, hentries⟩ := hplain (congrArg Eng.regs hu)
      exact ⟨h10, hentries, by rw [hu]; rfl⟩
    | some abs =>
      have hu : u = if runsLost k.val abs (agentOf e n) = 0 then controlLost n e
        else recordRunDrop n k.val abs (controlLost n e) := loseControl_runs hs k
      split at hu
      · obtain ⟨h10, hentries⟩ := hplain (congrArg Eng.regs hu)
        exact ⟨h10, hentries, by rw [hu]; rfl⟩
      · obtain ⟨-, -, -, hdrop, -, honly⟩ := recordRunDrop_frame hn k.val abs (controlLost n e)
        rw [← hu] at hdrop honly
        refine ⟨?_, (hlost.mono (by simp [x])).trans (hdrop.mono (by simp [x])), ?_⟩
        · rw [hdrop.reg hx (by decide) (by simp), hcount]
        · rw [honly]
          rfl

end

theorem exec_controlWordReceive_sound (n : Fin 24) (item : ControlItem) (s : State) :
    exec (.controlWordReceive n true item) s = .next s := rfl

theorem exec_controlWordReceive_lost {n : Fin 24} {item : ControlItem} {s : State} {u : Eng}
    (h : loseControl n.val item s.eng = u) : exec (.controlWordReceive n false item) s = .next { s with eng := u } := by
  rw [← h]
  rfl

/-! ### Frame marks -/

section
variable {n : Nat} {count : Option Nat} {e : Eng}

theorem frameMark_unseen (h : reg e (0x3900 + n) 1 ≠ 2 ∨ e.spBase = none) : frameMark n count e = e := by
  rw [← Option.isNone_iff_eq_none] at h
  exact if_pos h

theorem frameMark_seen (h : reg e (0x3900 + n) 1 = 2) (hb : e.spBase.isSome = true) : frameMark n count e =
    match count.filter fun x => x % 4096 == 0 && decide ((crossingOf e n).marks < x / 4096) with
    | some x => setCrossing n { crossingOf e n with marks := x / 4096 } e
    | none => raise (48 + n) 0 (bump (0x3900 + n) 9 e) := by
  refine if_neg ?_
  rintro (hs | hs)
  · exact hs h
  · rw [Option.isNone_iff_eq_none.mp hs] at hb
    cases hb

/-- The mark of a later frame, at that frame's count, is that frame's (R271). -/
theorem frameMark_taken (h : reg e (0x3900 + n) 1 = 2) (hb : e.spBase.isSome = true) {f : Nat}
    (hf : (crossingOf e n).marks < f) :
    frameMark n (some (4096 * f)) e = setCrossing n { crossingOf e n with marks := f } e := by
  have hdiv : 4096 * f / 4096 = f := Nat.mul_div_cancel_left f (by decide)
  rw [frameMark_seen h hb]
  simp only [Option.filter_some, Nat.mul_mod_right, hdiv, hf, decide_true, beq_self_eq_true, Bool.and_self, if_true]

/-- A mark at any other count, or none, is an error (R271). -/
theorem frameMark_wrong (h : reg e (0x3900 + n) 1 = 2) (hb : e.spBase.isSome = true)
    (hf : ∀ f, count = some (4096 * f) → f ≤ (crossingOf e n).marks) :
    frameMark n count e = raise (48 + n) 0 (bump (0x3900 + n) 9 e) := by
  have hnone : (count.filter fun x => x % 4096 == 0 && decide ((crossingOf e n).marks < x / 4096)) = none := by
    refine Option.filter_eq_none_iff.mpr fun x hx htaken => ?_
    simp only [Bool.and_eq_true, beq_iff_eq, decide_eq_true_eq] at htaken
    obtain ⟨hmod, hlater⟩ := htaken
    have hx' : x = 4096 * (x / 4096) := by omega
    exact Nat.not_lt.mpr (hf (x / 4096) (by rw [← hx']; exact hx)) hlater
  rw [frameMark_seen h hb, hnone]

end

theorem exec_frameMarkArrive {n : Fin 24} {count : Option Nat} {s : State} {u : Eng}
    (h : frameMark n.val count s.eng = u) : exec (.frameMarkArrive n count) s = .next { s with eng := u } := by
  rw [← h]
  rfl

end Sys2Proof.Machine

namespace Sys2Proof.Proofs

open Sys2Proof Sys2Proof.Machine

/-- Settles O31: a beat, a control word and a frame mark, each by what its command does. -/
theorem crossingsDeliver : Obligations.CrossingsDeliver := by
  unfold Obligations.CrossingsDeliver
  refine ⟨fun b down inRange words s => ?beat, fun n item s => ?control, fun n count s => ?mark⟩
  case beat =>
    intro x sub src slips count
    refine ⟨fun hslips => ?slip, fun hin => ?judged⟩
    case slip =>
      obtain ⟨rfl, n, rfl⟩ := hslips
      obtain ⟨hslip, hentries, hraised, honly⟩ := beatReceive_slips_frame n down words s.eng
      exact ⟨_, exec_crossingBeatReceive rfl, hslip, hentries, hraised, withEng honly⟩
    case judged =>
      have hat : boundaryAt b = (x, sub, src) := by cases b <;> rfl
      have hcount : count = wordsFound words := funext fun k => (wordsFound_eq_count words k).symm
      obtain ⟨hfixed, hbad, hentries, hraised, hclean, hsingle, honly⟩ :=
        beatReceive_judged_frame hat hin down words s.eng
      rw [hcount]
      exact ⟨_, exec_crossingBeatReceive rfl, hfixed, hbad, hentries, hraised, hclean, hsingle, withEng honly⟩
  case control =>
    intro x
    obtain ⟨hcount, hentries, honly⟩ := loseControl_frame n.isLt item s.eng
    refine ⟨exec_controlWordReceive_sound n item s, _, exec_controlWordReceive_lost rfl, hcount, hentries,
      withEng honly, fun k abs hitem habs => ⟨fun hnone => ?kept, fun hsome => ?dropped⟩, fun hitem => ?plain⟩
    case kept =>
      subst hitem
      have hlost : loseControl n.val (.runs k) s.eng = controlLost n.val s.eng :=
        (loseControl_runs habs k).trans (if_pos hnone)
      rw [hlost]
      exact ⟨rfl, rfl, controlLost_entries n.isLt s.eng⟩
    case dropped =>
      subst hitem
      have hlost : loseControl n.val (.runs k) s.eng = recordRunDrop n.val k.val abs (controlLost n.val s.eng) :=
        (loseControl_runs habs k).trans (if_neg (Nat.pos_iff_ne_zero.mp hsome))
      obtain ⟨hlists, hdrops, hlast, -, hraised, -⟩ := recordRunDrop_frame n.isLt k.val abs (controlLost n.val s.eng)
      rw [hlost]
      rw [(controlLost_entries n.isLt s.eng).reg (by omega) (by decide) (by simp)] at hdrops
      exact ⟨hlists, hdrops, hlast, hraised⟩
    case plain =>
      obtain ⟨hregs, hlists, hraised, -⟩ := loseControl_plain hitem n.val s.eng
      exact ⟨hraised, (controlLost_entries n.isLt s.eng).congr hregs, hlists⟩
  case mark =>
    intro x c
    refine ⟨fun hunseen => exec_frameMarkArrive (frameMark_unseen hunseen), fun hpinned hruns =>
      ⟨fun f hcount hf => ?taken, fun hwrong => ?wrong⟩⟩
    case taken =>
      subst hcount
      exact ⟨_, exec_frameMarkArrive (frameMark_taken hpinned hruns hf), crossingOf_setCrossing_same .., rfl⟩
    case wrong =>
      refine ⟨_, exec_frameMarkArrive (frameMark_wrong hpinned hruns hwrong), ?_, ?_, rfl, rfl⟩
      · rw [reg_raise, reg_bump_same, wrapWidth_crossing n.isLt (by decide)]
      · exact ((sameEntries_refl _ s.eng).bump (List.mem_singleton.mpr rfl) (by omega) (by decide)).congr rfl

end Sys2Proof.Proofs
end

section
/-! PROOFS. O32: the spine arbiter, what it gives and what lapses (spec/11_crossings.md R273). -/

namespace Sys2Proof.Machine

/-! ### What the arbiter gives -/

/-- The path eighth that a requester can take next. -/
def wantedPath (e : Eng) (dir slot q : Nat) : Option (List Nat) :=
  (uncovered e q).find? fun segs => pathDir q segs == dir && pathFree e dir slot segs

/-- The requester whose turn it is, with the path that it takes. -/
def nextGiven (e : Eng) (dir slot : Nat) : Option (Nat × List Nat) :=
  (rotation e dir).findSome? fun q => (wantedPath e dir slot q).map fun segs => (q, segs)

/-- A path eighth given to a requester, from which the rotation goes on. -/
def giveOne (dir slot q : Nat) (segs : List Nat) (e : Eng) : Eng :=
  { e with spine := { e.spine with
    last := storeSet (fun _ => 73) dir q e.spine.last, held := e.spine.held ++ [(q, slot, segs)] } }

/-- A path eighth of a direction, begun in a slot, for a transfer that its requester has pending. -/
def givenIn (e : Eng) (dir slot : Nat) (h : Nat × Nat × List Nat) : Prop :=
  h.2.1 = slot ∧ pathDir h.1 h.2.2 = dir ∧ h.1 < 74 ∧ h.2.2 ∈ transfersOf e h.1

section
variable {dir slot : Nat} {e e' : Eng}

theorem giveEighths_none (h : nextGiven e dir slot = none) (fuel : Nat) : giveEighths dir slot (fuel + 1) e = e := by
  simp only [nextGiven, wantedPath] at h
  simp only [giveEighths, h]

theorem giveEighths_some {q : Nat} {segs : List Nat} (h : nextGiven e dir slot = some (q, segs)) (fuel : Nat) :
    giveEighths dir slot (fuel + 1) e = giveEighths dir slot fuel (giveOne dir slot q segs e) := by
  simp only [nextGiven, wantedPath] at h
  simp only [giveEighths, h]
  rfl

/-- What a requester has no path eighth for yet is among what it has pending. -/
theorem uncovered_subset (e : Eng) (q : Nat) : uncovered e q ⊆ transfersOf e q :=
  foldl_related (R := fun a b : List (List Nat) => b ⊆ a) (fun _ => List.Subset.refl _)
    (fun h g => List.Subset.trans g h) (fun _ _ _ => List.erase_subset) _

theorem rotation_lt {q : Nat} (h : q ∈ rotation e dir) : q < 74 := by
  obtain ⟨k, -, rfl⟩ := List.mem_map.mp h
  exact Nat.mod_lt _ (by decide)

theorem givenIn_of_next {q : Nat} {segs : List Nat} (h : nextGiven e dir slot = some (q, segs)) :
    givenIn e dir slot (q, slot, segs) := by
  obtain ⟨r, hr, hmap⟩ := List.exists_of_findSome?_eq_some h
  obtain ⟨path, hpath, heq⟩ := Option.map_eq_some_iff.mp hmap
  cases heq
  have hdir : pathDir q segs = dir := (by simpa using List.find?_some hpath : _ ∧ _).1
  exact ⟨rfl, hdir, rotation_lt hr, uncovered_subset e q (List.mem_of_find?_eq_some hpath)⟩

/-- The transfers that requesters have pending lie in agents and links. -/
theorem transfersOf_congr (ha : e'.agents = e.agents) (hl : e'.links = e.links) : transfersOf e' = transfersOf e := by
  funext q
  simp only [transfersOf, pendingTransfers, agentOf, linkOf, ha, hl]

/-- R273: every path eighth that the arbiter gives, and that it changes nothing but its own state. -/
theorem giveEighths_frame (dir slot fuel : Nat) (e : Eng) :
    let u := giveEighths dir slot fuel e
    (∃ given, u.spine.held = e.spine.held ++ given ∧ ∀ h ∈ given, givenIn e dir slot h) ∧
      u = { e with spine := u.spine } := by
  induction fuel generalizing e with
  | zero => exact ⟨⟨[], (List.append_nil _).symm, by simp⟩, rfl⟩
  | succ fuel ih =>
    intro u
    cases hnext : nextGiven e dir slot with
    | none =>
      have hu : u = e := giveEighths_none hnext fuel
      rw [hu]
      exact ⟨⟨[], (List.append_nil _).symm, by simp⟩, rfl⟩
    | some x =>
      obtain ⟨q, segs⟩ := x
      have hu : u = giveEighths dir slot fuel (giveOne dir slot q segs e) := giveEighths_some hnext fuel
      obtain ⟨⟨given, hheld, hgiven⟩, honly⟩ := ih (giveOne dir slot q segs e)
      rw [← hu] at hheld honly
      refine ⟨⟨(q, slot, segs) :: given, ?_, fun h hh => ?_⟩, honly⟩
      · rw [hheld, giveOne, List.append_assoc]
        rfl
      · rcases List.mem_cons.mp hh with rfl | hh
        · exact givenIn_of_next hnext
        · exact hgiven h hh

/-! ### What lapses -/

/-- The eighths of a path that has lapsed, counted segment by segment (R273, R276). -/
def countLapsed (segs : List Nat) (e : Eng) : Eng := segs.foldl (fun e k => bump (0x3920 + k) 4 e) e

/-- Nothing has changed but the counts of lapsed eighths. -/
structure OnlyLapses (e e' : Eng) : Prop where
  regs : onlyRegs e e'
  others : ∀ b i k, k < 256 → k ≠ 4 → regB e' b i k = regB e b i k

theorem OnlyLapses.refl (e : Eng) : OnlyLapses e e := ⟨.refl e, fun _ _ _ _ _ => rfl⟩

theorem OnlyLapses.trans {a b c : Eng} (h : OnlyLapses a b) (g : OnlyLapses b c) : OnlyLapses a c :=
  ⟨h.regs.trans g.regs, fun z i k hk hn => (g.others z i k hk hn).trans (h.others z i k hk hn)⟩

theorem onlyLapses_bump (j : Nat) (e : Eng) : OnlyLapses e (bump (0x3920 + j) 4 e) := by
  refine ⟨(onlyRegs.refl e).bump .., fun z i k hk hn => ?_⟩
  have hcell : cellKey z i k ≠ cellKey 0 (0x3920 + j) 4 := by
    unfold cellKey
    omega
  rw [bump, bumpBy, regB_setReg, if_neg hcell]

theorem countLapsed_only (segs : List Nat) (e : Eng) : OnlyLapses e (countLapsed segs e) :=
  foldl_related .refl .trans (fun e k _ => onlyLapses_bump k e) e

/-- The path eighths that are held for slots before `now`. -/
def lapsedPaths (now : Nat) (e : Eng) : List (Nat × Nat × List Nat) := e.spine.held.filter fun h => h.2.1 < now

theorem lapseEighths_eq (now : Nat) (e : Eng) : lapseEighths now e =
    (lapsedPaths now e).foldl (fun e h => countLapsed h.2.2 e) { e with spine := { e.spine with
      held := e.spine.held.filter fun h => !(h.2.1 < now)
      used := e.spine.used.filter fun u => now ≤ u.2.1 + 8 } } := rfl

theorem lapseEighths_frame (now : Nat) (e : Eng) :
    let u := lapseEighths now e
    u.spine.held = (e.spine.held.filter fun h => now ≤ h.2.1) ∧
      (∀ b i k, k < 256 → k ≠ 4 → regB u b i k = regB e b i k) ∧ u = { e with regs := u.regs, spine := u.spine } := by
  intro u
  have hkept : (fun h : Nat × Nat × List Nat => !decide (h.2.1 < now)) = fun h => decide (now ≤ h.2.1) :=
    funext fun h => by rw [← decide_not, decide_eq_decide, Nat.not_lt]
  have hcount : OnlyLapses { e with spine := { e.spine with
      held := e.spine.held.filter fun h => now ≤ h.2.1, used := e.spine.used.filter fun u => now ≤ u.2.1 + 8 } } u := by
    rw [← hkept]
    exact foldl_related .refl .trans (fun e h _ => countLapsed_only h.2.2 e) _
  obtain ⟨honly, hothers⟩ := hcount
  refine ⟨by rw [honly], hothers, ?_⟩
  rw [honly]

theorem lapsedPaths_nil {now : Nat} (h : ∀ x ∈ e.spine.held, now ≤ x.2.1) : lapsedPaths now e = [] :=
  List.filter_eq_nil_iff.mpr fun x hx => by simpa using h x hx

/-- Where no held slot has passed, nothing is counted. -/
theorem lapseEighths_regs_none {now : Nat} (h : ∀ x ∈ e.spine.held, now ≤ x.2.1) :
    (lapseEighths now e).regs = e.regs := by
  rw [lapseEighths_eq, lapsedPaths_nil h]
  rfl

theorem wrapWidth_lapsed {k : Nat} (hk : k < 3) : wrapWidth (0x3920 + k) 4 = 64 := by
  have hwide : ∀ k < 3, wrapWidth (0x3920 + k) 4 = 64 := by decide
  exact hwide k hk

/-- A single held eighth, whose slot has passed, is counted at its stitch line. -/
theorem reg_lapseEighths_one {now q k : Nat} (h : e.spine.held = [(q, slot, [k])]) (hk : k < 3) (hs : slot < now) :
    reg (lapseEighths now e) (0x3920 + k) 4 = (reg e (0x3920 + k) 4 + 1) % 2 ^ 64 := by
  have hlapsed : lapsedPaths now e = [(q, slot, [k])] := by
    rw [lapsedPaths, h]
    exact List.filter_cons_of_pos (decide_eq_true hs)
  rw [lapseEighths_eq, hlapsed, ← wrapWidth_lapsed hk]
  exact reg_bump_same ..

/-! ### The arbiter's moment -/

theorem spineAllocate_stopped (h : e.spBase = none) (dir abs : Nat) : spineAllocate dir abs e = e := by
  rw [spineAllocate, h]
  rfl

/-- The clock at the arbiter's moment for a slot, 128 slots ahead of it. -/
def arbiterNow (base abs : Nat) (e : Eng) : Nat := max e.now (base + 16 * (abs - 128))

theorem spineAllocate_runs {base : Nat} (h : e.spBase = some base) (dir abs : Nat) : spineAllocate dir abs e =
    giveEighths dir abs 24
      (lapseEighths ((arbiterNow base abs e - base) / 16) { e with now := arbiterNow base abs e }) := by
  have hat : advanceSp (8 * (abs - 128)) e = { e with now := arbiterNow base abs e } := by
    have hslots : 2 * (8 * (abs - 128)) = 16 * (abs - 128) := by omega
    simp only [advanceSp, advanceCycle, advanceTo, h, Option.getD_some, hslots, arbiterNow]
  have hslot : spNow { e with now := arbiterNow base abs e } / 8 = (arbiterNow base abs e - base) / 16 := by
    simp only [spNow, timeline, h, Option.getD_some, Nat.div_div_eq_div_mul]
  have hruns : e.spBase.isNone = false := by rw [h, Option.isNone_some]
  simp only [spineAllocate, hruns, Bool.false_eq_true, if_false, hat, hslot]

end

theorem exec_spineAllocate {dir : Bool} {abs : Nat} {s : State} {u : Eng}
    (h : spineAllocate (if dir then 1 else 0) abs s.eng = u) :
    exec (.spineAllocate dir abs) s = .next { s with eng := u } := by
  rw [← h]
  rfl

end Sys2Proof.Machine

namespace Sys2Proof.Proofs

open Sys2Proof Sys2Proof.Machine

/-- Settles O32: the clock moves to the arbiter's moment, what has passed lapses, and then path eighths are given. -/
theorem spineAllocates : Obligations.SpineAllocates := by
  unfold Obligations.SpineAllocates
  intro dir abs s
  refine ⟨fun hstopped => exec_spineAllocate (spineAllocate_stopped hstopped ..), fun base hbase => ?_⟩
  intro now
  obtain ⟨v, hv⟩ : ∃ v, v = lapseEighths ((now - base) / 16) { s.eng with now := now } := ⟨_, rfl⟩
  obtain ⟨u, hu⟩ : ∃ u, u = giveEighths (if dir then 1 else 0) abs 24 v := ⟨_, rfl⟩
  obtain ⟨hheld, hothers, hlapse⟩ := lapseEighths_frame ((now - base) / 16) { s.eng with now := now }
  obtain ⟨⟨given, hgives, hgiven⟩, hgive⟩ := giveEighths_frame (if dir then 1 else 0) abs 24 v
  rw [← hv] at hheld hothers hlapse
  rw [← hu] at hgives hgive
  have hexec : exec (.spineAllocate dir abs) s = .next { s with eng := u } := by
    rw [hu, hv]
    exact exec_spineAllocate (spineAllocate_runs hbase ..)
  have hregs : u.regs = v.regs := by rw [hgive]
  have htransfers : transfersOf v = transfersOf s.eng := transfersOf_congr (by rw [hlapse]) (by rw [hlapse])
  refine ⟨_, given, hexec, ?now, ?held, ?given, ?others, ?none, ?one, ?only⟩
  case now => rw [hgive, hlapse]
  case held => rw [hgives, hheld]
  case given =>
    intro h hh
    obtain ⟨hslot, hdir, hlt, hmem⟩ := hgiven h hh
    exact ⟨hslot, hdir, hlt, by rwa [htransfers] at hmem⟩
  case others =>
    intro b i k _ hk hn
    rw [regB, hregs]
    exact hothers b i k hk hn
  case none =>
    intro hkept
    rw [hregs, hv]
    exact lapseEighths_regs_none hkept
  case one =>
    intro q slot k hone hk hs
    rw [reg_of_regs hregs, hv]
    exact reg_lapseEighths_one hone hk hs
  case only =>
    refine withEng ?_
    rw [hgive, hlapse]

end Sys2Proof.Proofs
end

section
/-! PROOFS. O33: the units that UCIe modules receive (spec/11_crossings.md R274), and modules that initialise or fail
(R275). -/

namespace Sys2Proof.Machine

/-! ### Units -/

/-- Whether a unit's CRC-32 and, on a link, its sequence number are right (R274). -/
def unitSound (e : Eng) (m seq crc map : Nat) (data : List Byte) : Bool :=
  crc = unitCrc (mapBytes m) data map && decide (m = 4 ∨ seq = (linkOf e (m / 2)).unitSeq)

/-- On a link the next sequence number follows the unit's (R274). -/
def unitNumbered (m seq : Nat) (e : Eng) : Eng :=
  if m = 4 then e else onLink (m / 2) (fun l => { l with unitSeq := (seq + 1) % 16 }) e

/-- A unit taken by its module; a damaged one is counted and raised (R274). -/
def unitTaken (m seq : Nat) (sound : Bool) (e : Eng) : Eng :=
  if sound then unitNumbered m seq e else raise (moduleSource m) 0 (bump (0x3930 + m) 2 (unitNumbered m seq e))

/-- A unit delivered with its poison map; one with any poison is counted (R274, R276). -/
def unitDelivered (m map : Nat) (data : List Byte) (e : Eng) : Eng :=
  emit (.unit m data map) (deliverUnit m map (if map = 0 then e else bump (0x3930 + m) 3 e))

section
variable {m seq crc pois map : Nat} {data : List Byte} {e : Eng} {sound : Bool}

theorem unitSound_iff : unitSound e m seq crc map data = true ↔
    crc = unitCrc (mapBytes m) data map ∧ (m = 4 ∨ seq = (linkOf e (m / 2)).unitSeq) := by
  simp only [unitSound, Bool.and_eq_true, decide_eq_true_eq]

theorem unitReceive_down (h : reg e (0x3930 + m) 1 ≠ 2) : unitReceive m seq crc pois data e = e := if_pos h

theorem unitReceive_running (h : reg e (0x3930 + m) 1 = 2) : unitReceive m seq crc pois data e =
    let map := pois % 2 ^ (data.length / 4)
    let sound := unitSound e m seq crc map data
    unitDelivered m (if sound then map else 2 ^ (data.length / 4) - 1) data (unitTaken m seq sound e) :=
  if_neg (not_not.mpr h)

/-- The counters of a module are 64 bits wide (R276). -/
theorem wrapWidth_module (hm : m < 5) : wrapWidth (0x3930 + m) 2 = 64 ∧ wrapWidth (0x3930 + m) 3 = 64 := by
  have hwide : ∀ m < 5, wrapWidth (0x3930 + m) 2 = 64 ∧ wrapWidth (0x3930 + m) 3 = 64 := by decide
  exact hwide m hm

theorem unitNumbered_only (m seq : Nat) (e : Eng) :
    unitNumbered m seq e = { e with links := (unitNumbered m seq e).links } := by
  unfold unitNumbered
  split <;> rfl

theorem unitNumbered_host (h : m = 4) (seq : Nat) (e : Eng) : unitNumbered m seq e = e := if_pos h

theorem linkOf_unitNumbered (h : m ≠ 4) (seq : Nat) (e : Eng) :
    linkOf (unitNumbered m seq e) (m / 2) = { linkOf e (m / 2) with unitSeq := (seq + 1) % 16 } := by
  rw [unitNumbered, if_neg h, linkOf_onLink_same]

theorem linkOf_of_links {e' : Eng} (h : e'.links = e.links) (p : Nat) : linkOf e' p = linkOf e p := by
  rw [linkOf, linkOf, h]

theorem unitTaken_frame (hm : m < 5) (seq : Nat) (sound : Bool) (e : Eng) :
    let x := 0x3930 + m
    let u := unitTaken m seq sound e
    u.links = (unitNumbered m seq e).links ∧
      reg u x 2 = (if sound then reg e x 2 else (reg e x 2 + 1) % 2 ^ 64) ∧ sameEntries [(x, 2)] e u ∧
      u.raised = e.raised ++ (if sound then [] else [(moduleSource m, 0)]) ∧ (sound = true → u.regs = e.regs) ∧
      u = { e with regs := u.regs, links := u.links, raised := u.raised } := by
  intro x u
  have hnumbered := unitNumbered_only m seq e
  have hregs : (unitNumbered m seq e).regs = e.regs := by rw [hnumbered]
  have hraised : (unitNumbered m seq e).raised = e.raised := by rw [hnumbered]
  obtain ⟨hwide, -⟩ := wrapWidth_module hm
  cases sound with
  | true =>
    have hu : u = unitNumbered m seq e := rfl
    refine ⟨rfl, reg_of_regs hregs x 2, (sameEntries_refl _ e).congr hregs, ?_, fun _ => hregs, ?_⟩
    · rw [hu, hraised]
      exact (List.append_nil _).symm
    · rw [hu, hnumbered]
  | false =>
    have hu : u = raise (moduleSource m) 0 (bump x 2 (unitNumbered m seq e)) := rfl
    refine ⟨rfl, ?_, ?_, congrArg (· ++ [(moduleSource m, 0)]) hraised, nofun, ?_⟩
    · rw [hu, reg_raise, reg_bump_same, hwide, reg_of_regs hregs]
      rfl
    · exact (((sameEntries_refl _ e).congr hregs).bump (List.mem_singleton.mpr rfl) (by omega) (by decide)).congr rfl
    · rw [hu, hnumbered]
      rfl

/-- What a delivered unit leaves with its data, and what it counts (R274). -/
theorem unitDelivered_frame (hm : m < 5) (map : Nat) (data : List Byte) (e : Eng) :
    let x := 0x3930 + m
    let u := unitDelivered m map data e
    (m ≠ 4 → u.hostPois = e.hostPois ∧
      linkOf u (m / 2) = { linkOf e (m / 2) with unitPois := (linkOf e (m / 2)).unitPois ++ [map] }) ∧
      (m = 4 → u.links = e.links ∧ u.hostPois = (e.hostPois || decide (map ≠ 0))) ∧
      u.out = .unit m data map :: e.out ∧ (map = 0 → u.regs = e.regs) ∧
      (map ≠ 0 → reg u x 3 = (reg e x 3 + 1) % 2 ^ 64) ∧ sameEntries [(x, 3)] e u ∧
      u = { e with regs := u.regs, links := u.links, hostPois := u.hostPois, out := u.out } := by
  intro x u
  obtain ⟨v, hv⟩ : ∃ v, v = if map = 0 then e else bump x 3 e := ⟨_, rfl⟩
  have hu : u = emit (.unit m data map) (deliverUnit m map v) := by rw [hv]; rfl
  have honly : onlyRegs e v := by
    rw [hv]
    split
    · exact .refl e
    · exact (onlyRegs.refl e).bump ..
  have hregs : u.regs = v.regs := by
    rw [hu, emit_regs, deliverUnit]
    split <;> rfl
  have hlinks : v.links = e.links := by rw [honly]
  have hleft : v.out = e.out := by rw [honly]
  refine ⟨fun h4 => ?_, fun h4 => ?_, ?_, fun h0 => ?_, fun h0 => ?_, ?_, ?_⟩
  · rw [hu, deliverUnit, if_neg h4]
    refine ⟨by rw [honly]; rfl, ?_⟩
    rw [← linkOf_of_links hlinks]
    exact (linkOf_of_links (emit_links ..) _).trans (linkOf_onLink_same ..)
  · rw [hu, deliverUnit, if_pos h4]
    exact ⟨hlinks, by rw [honly]; rfl⟩
  · rw [hu, out_emit, deliverUnit]
    congr 1
    split <;> exact hleft
  · rw [hregs, hv, if_pos h0]
  · rw [reg_of_regs hregs, hv, if_neg h0, reg_bump_same, (wrapWidth_module hm).2]
  · refine sameEntries.congr (e' := v) ?_ hregs
    rw [hv]
    split
    · exact sameEntries_refl _ e
    · exact (sameEntries_refl _ e).bump (List.mem_singleton.mpr rfl) (by omega) (by decide)
  · rw [hu, deliverUnit]
    split
    all_goals rw [honly]; rfl

/-- The poison map that goes with a unit: its own, or every word where the unit is damaged (R274). -/
def deliveredMap (sound : Bool) (map words : Nat) : Nat := if sound then map else 2 ^ words - 1

/-- What a running module does with a unit: its checks, its delivery, and what they count (R274). -/
theorem unitReceive_frame (hm : m < 5) (h : reg e (0x3930 + m) 1 = 2) (hwords : data.length / 4 ≠ 0)
    (hsound : unitSound e m seq crc (pois % 2 ^ (data.length / 4)) data = sound)
    (hmap : deliveredMap sound (pois % 2 ^ (data.length / 4)) (data.length / 4) = map) :
    let x := 0x3930 + m
    let u := unitReceive m seq crc pois data e
    (m ≠ 4 → u.hostPois = e.hostPois ∧ linkOf u (m / 2) = { linkOf e (m / 2) with
      unitSeq := (seq + 1) % 16, unitPois := (linkOf e (m / 2)).unitPois ++ [map] }) ∧
      (m = 4 → u.links = e.links ∧ u.hostPois = (e.hostPois || decide (map ≠ 0))) ∧
      u.out = .unit m data map :: e.out ∧ u.raised = e.raised ++ (if sound then [] else [(moduleSource m, 0)]) ∧
      reg u x 2 = (if sound then reg e x 2 else (reg e x 2 + 1) % 2 ^ 64) ∧
      (sound = true → map = 0 → u.regs = e.regs) ∧
      (sound = false ∨ map ≠ 0 → reg u x 3 = (reg e x 3 + 1) % 2 ^ 64) ∧ sameEntries [(x, 2), (x, 3)] e u ∧
      u = { e with regs := u.regs, links := u.links, hostPois := u.hostPois, raised := u.raised, out := u.out } := by
  intro x u
  have hx : x < 65536 := by omega
  obtain ⟨v, hv⟩ : ∃ v, v = unitTaken m seq sound e := ⟨_, rfl⟩
  have hu : u = unitDelivered m map data v := by
    rw [hv, ← hmap, ← hsound]
    exact unitReceive_running h
  obtain ⟨hnumbered, hdamaged, htaken, hraised, hclean, honly⟩ := unitTaken_frame hm seq sound e
  obtain ⟨hlink, hhost, hout, hplain, hpoisoned, hdelivered, hrest⟩ := unitDelivered_frame hm map data v
  rw [← hv] at hnumbered hdamaged htaken hraised hclean honly
  rw [← hu] at hlink hhost hout hplain hpoisoned hdelivered hrest
  have hpois : v.hostPois = e.hostPois := by rw [honly]
  refine ⟨fun h4 => ?_, fun h4 => ?_, ?_, ?_, ?_, fun hs h0 => ?_, fun hbad => ?_, ?_, ?_⟩
  · obtain ⟨hkept, hunit⟩ := hlink h4
    rw [hkept, hunit, linkOf_of_links hnumbered, linkOf_unitNumbered h4]
    exact ⟨hpois, rfl⟩
  · obtain ⟨hkept, hunit⟩ := hhost h4
    rw [hkept, hunit, hnumbered, unitNumbered_host h4, hpois]
    exact ⟨rfl, rfl⟩
  · rw [hout, honly]
  · rw [← hraised, hrest]
  · rw [hdelivered.reg hx (by decide) (by simp), hdamaged]
  · rw [hplain h0, hclean hs]
  · have h0 : map ≠ 0 := by
      rcases hbad with hs | h0
      · have hone := Nat.one_lt_two_pow hwords
        rw [← hmap, hs]
        exact Nat.sub_ne_zero_of_lt hone
      · exact h0
    rw [hpoisoned h0, htaken.reg hx (by decide) (by simp)]
  · exact (htaken.mono (by simp [x])).trans (hdelivered.mono (by simp [x]))
  · rw [hrest, honly]

end

theorem exec_ucieUnitReceive {m : Fin 5} {seq : BitVec 4} {crc : Word32} {pois : BitVec 64} {data : List Byte}
    {s : State} {u : Eng} (hlen : data.length = (if m.val = 4 then 128 else 256))
    (h : unitReceive m.val seq.toNat crc.toNat pois.toNat data s.eng = u) :
    exec (.ucieUnitReceive m seq crc pois data) s = .next { s with eng := u } := by
  rw [← h]
  exact if_pos hlen

/-! ### Modules -/

/-- The index of the other module of a link agent's pair (R276). -/
def twinModule (m : Nat) : Nat := 0x3930 + 2 * (m / 2) + (1 - m % 2)

/-- The module whose initialisation completes runs. -/
def moduleRuns (m : Nat) (e : Eng) : Eng := setReg (0x3930 + m) 1 2 e

/-- A link agent is ready, and up where LINK_ENABLE says so (R275, R306). -/
def linkReady (p : Nat) (e : Eng) : Eng :=
  onLink p (fun l => { l with readyAt := e.now }) (setReg (0x5001 + p) 1 (if reg e 0x5000 2 = 1 then 2 else 1) e)

/-- A module at the end of its time to initialise (R275). -/
def moduleLate (m : Nat) (e : Eng) : Eng :=
  setReg (0x3930 + m) 1 3 (advanceTo (storeGet (fun _ => 0) e.modules m + 1000 * 3600) e)

section
variable {m : Nat} {e : Eng}

theorem moduleDone_idle (h : reg e (0x3930 + m) 1 ≠ 1) : moduleDone m e = e := if_pos h

theorem moduleFails_idle (h : reg e (0x3930 + m) 1 ≠ 1) : moduleFails m e = e := if_pos h

/-- A report after the limit finds the module failed (R275). -/
theorem moduleDone_late (h : reg e (0x3930 + m) 1 = 1)
    (hl : storeGet (fun _ => 0) e.modules m + 1000 * 3600 < e.now) : moduleDone m e = moduleFails m e :=
  (if_neg (not_not.mpr h)).trans (if_pos hl)

theorem moduleDone_intime (h : reg e (0x3930 + m) 1 = 1)
    (hl : e.now ≤ storeGet (fun _ => 0) e.modules m + 1000 * 3600) :
    moduleDone m e = if m = 4 then moduleRuns m e else linkRises (m / 2) (moduleRuns m e) :=
  (if_neg (not_not.mpr h)).trans (if_neg (Nat.not_lt.mpr hl))

theorem reg_moduleRuns_other {i k : Nat} (h : i ≠ 0x3930 + m) (hk : k < 256) (e : Eng) :
    reg (moduleRuns m e) i k = reg e i k := by
  refine reg_setReg_other ?_ 2 e
  unfold cellKey
  omega

/-- With one module of a pair running, both run where its twin does. -/
theorem pairRuns_iff (m : Nat) (e : Eng) :
    (reg (moduleRuns m e) (0x3930 + 2 * (m / 2)) 1 = 2 ∧ reg (moduleRuns m e) (0x3931 + 2 * (m / 2)) 1 = 2) ↔
      reg e (twinModule m) 1 = 2 := by
  have hself : reg (moduleRuns m e) (0x3930 + m) 1 = 2 := reg_setReg_same ..
  rcases Nat.mod_two_eq_zero_or_one m with hm | hm
  · have hleft : 0x3930 + 2 * (m / 2) = 0x3930 + m := by omega
    have hright : 0x3931 + 2 * (m / 2) = twinModule m := by
      unfold twinModule
      omega
    rw [hleft, hself, hright, reg_moduleRuns_other (by unfold twinModule; omega) (by decide)]
    simp only [true_and]
  · have hleft : 0x3930 + 2 * (m / 2) = twinModule m := by
      unfold twinModule
      omega
    have hright : 0x3931 + 2 * (m / 2) = 0x3930 + m := by omega
    rw [hright, hself, hleft, reg_moduleRuns_other (by unfold twinModule; omega) (by decide)]
    simp only [and_true]

/-- A link agent rises with its pair, where its link was down (R275). -/
theorem linkRises_moduleRuns (hm : m < 5) (e : Eng) : linkRises (m / 2) (moduleRuns m e) =
    if reg e (twinModule m) 1 = 2 ∧ reg e (0x5001 + m / 2) 1 = 0 then linkReady (m / 2) (moduleRuns m e)
    else moduleRuns m e := by
  have hdown : reg (moduleRuns m e) (0x5001 + m / 2) 1 = reg e (0x5001 + m / 2) 1 :=
    reg_moduleRuns_other (by omega) (by decide) e
  unfold linkRises
  simp only [← and_assoc, pairRuns_iff, hdown]
  rfl

theorem moduleRuns_entries (hm : m < 5) (e : Eng) : sameEntries [(0x3930 + m, 1)] e (moduleRuns m e) :=
  (sameEntries_refl _ e).setReg (List.mem_singleton.mpr rfl) (by omega) (by decide) 2

theorem linkReady_entries {p : Nat} (hp : p < 3) (e : Eng) : sameEntries [(0x5001 + p, 1)] e (linkReady p e) :=
  ((sameEntries_refl _ e).setReg (List.mem_singleton.mpr rfl) (by omega) (by decide) _).congr rfl

/-- A module that completes in time runs, and its link agent with it (R275). -/
theorem moduleDone_frame (hm : m < 5) (h : reg e (0x3930 + m) 1 = 1)
    (hl : e.now ≤ storeGet (fun _ => 0) e.modules m + 1000 * 3600) :
    let x := 0x3930 + m
    let p := m / 2
    let u := moduleDone m e
    reg u x 1 = 2 ∧
      (m < 4 → reg e (twinModule m) 1 = 2 → reg e (0x5001 + p) 1 = 0 →
        reg u (0x5001 + p) 1 = (if reg e 0x5000 2 = 1 then 2 else 1) ∧
          linkOf u p = { linkOf e p with readyAt := e.now }) ∧
      (m < 4 → reg e (twinModule m) 1 ≠ 2 → sameEntries [(x, 1)] e u) ∧
      sameEntries [(x, 1), (0x5001 + p, 1)] e u ∧ u = { e with regs := u.regs, links := u.links } := by
  intro x p u
  have hp : p < 3 := by omega
  have hruns := moduleRuns_entries hm e
  have hself : reg (moduleRuns m e) x 1 = 2 := reg_setReg_same ..
  by_cases hrise : m ≠ 4 ∧ reg e (twinModule m) 1 = 2 ∧ reg e (0x5001 + p) 1 = 0
  · obtain ⟨h4, hpair⟩ := hrise
    have hu : u = linkReady p (moduleRuns m e) := by
      refine (moduleDone_intime h hl).trans ?_
      rw [if_neg h4, linkRises_moduleRuns hm, if_pos hpair]
    have hready := linkReady_entries hp (moduleRuns m e)
    rw [← hu] at hready
    refine ⟨?_, fun _ _ _ => ⟨?_, ?_⟩, fun _ hno => absurd hpair.1 hno, ?_, ?_⟩
    · rw [hready.reg (by omega) (by decide) (by simp; omega), hself]
    · rw [hu, linkReady, reg_onLink, reg_setReg_same, reg_moduleRuns_other (by omega) (by decide)]
    · rw [hu, linkReady, linkOf_onLink_same]
      rfl
    · exact (hruns.mono (by simp [x])).trans (hready.mono (by simp))
    · rw [hu]
      rfl
  · have hu : u = moduleRuns m e := by
      refine (moduleDone_intime h hl).trans ?_
      by_cases h4 : m = 4
      · rw [if_pos h4]
      · rw [if_neg h4, linkRises_moduleRuns hm, if_neg fun hpair => hrise ⟨h4, hpair⟩]
    rw [hu]
    exact ⟨hself, fun hlt htwin hdown => absurd ⟨Nat.ne_of_lt hlt, htwin, hdown⟩ hrise, fun _ _ => hruns,
      hruns.mono (by simp [x]), rfl⟩

theorem moduleLate_entries (hm : m < 5) (e : Eng) : sameEntries [(0x3930 + m, 1)] e (moduleLate m e) :=
  ((sameEntries_refl _ e).congr rfl).setReg (List.mem_singleton.mpr rfl) (by omega) (by decide) 3

theorem moduleFails_host (h : reg e (0x3930 + 4) 1 = 1) : moduleFails 4 e = failStart 0x1212 (moduleLate 4 e) :=
  if_neg (not_not.mpr h)

theorem moduleFails_link (h : reg e (0x3930 + m) 1 = 1) (h4 : m ≠ 4) : moduleFails m e =
    raise (72 + m / 2) 0 (setPhase (72 + m / 2) .stuck (setReg (0x5001 + m / 2) 1 3 (moduleLate m e))) :=
  (if_neg (not_not.mpr h)).trans (if_neg h4)

/-- A link module that fails: its link agent stays in reset, and the start goes on (R275). -/
theorem moduleFails_link_frame (hm : m < 4) (h : reg e (0x3930 + m) 1 = 1) :
    let x := 0x3930 + m
    let p := m / 2
    let u := moduleFails m e
    reg u x 1 = 3 ∧ u.now = max e.now (storeGet (fun _ => 0) e.modules m + 1000 * 3600) ∧ reg u (0x5001 + p) 1 = 3 ∧
      phaseOf u (72 + p) = .stuck ∧ u.raised = e.raised ++ [(72 + p, 0)] ∧ u.run = e.run ∧
      sameEntries [(x, 1), (0x5001 + p, 1)] e u := by
  intro x p u
  have hu : u = _ := moduleFails_link h (Nat.ne_of_lt hm)
  obtain ⟨v, hv⟩ : ∃ v, v = setReg (0x5001 + p) 1 3 (moduleLate m e) := ⟨_, rfl⟩
  rw [← hv] at hu
  have hlate : sameEntries [(0x5001 + p, 1)] (moduleLate m e) v := by
    rw [hv]
    exact (sameEntries_refl _ _).setReg (List.mem_singleton.mpr rfl) (by omega) (by decide) 3
  have hregs : u.regs = v.regs := by rw [hu, raise_regs, setPhase_regs]
  refine ⟨?_, ?_, ?_, ?_, ?_, ?_, ?_⟩
  · rw [reg_of_regs hregs, hlate.reg (by omega) (by decide) (by simp; omega)]
    exact reg_setReg_same ..
  · rw [hu, hv]
    rfl
  · rw [reg_of_regs hregs, hv, reg_setReg_same]
  · rw [hu]
    exact storeGet_set_same (fun _ => Phase.up) (72 + p) .stuck v.parts
  · rw [hu, hv]
    rfl
  · rw [hu, hv]
    rfl
  · exact (((moduleLate_entries (by omega) e).mono (by simp [x])).trans (hlate.mono (by simp))).congr hregs

/-- Without its HST module the start fails, where one is under way (R275, R386). -/
theorem moduleFails_host_frame (h : reg e (0x3930 + 4) 1 = 1) :
    let u := moduleFails 4 e
    reg u (0x3930 + 4) 1 = 3 ∧ u.now = max e.now (storeGet (fun _ => 0) e.modules 4 + 1000 * 3600) ∧
      ∀ k since cold power, e.run = .release k since cold power →
        u.run = .failed k ∧ reg u 0x1200 2 = 2 ∧ reg u 0x1200 3 = 0x1212 ∧ u.raised = e.raised ++ [(84, 0x1212)] := by
  intro u
  have hu : u = failStart 0x1212 (moduleLate 4 e) := moduleFails_host h
  obtain ⟨hnow, hentries⟩ := failStart_keeps 0x1212 (moduleLate 4 e)
  rw [← hu] at hnow hentries
  refine ⟨?_, hnow, fun k since cold power hrun => ?_⟩
  · rw [hentries.reg (by decide) (by decide) (by decide)]
    exact reg_setReg_same ..
  · obtain ⟨hfailed, hraised, hstate, hdetail⟩ := failStart_frame (e := moduleLate 4 e) hrun 0x1212
    rw [← hu] at hfailed hraised hstate hdetail
    exact ⟨hfailed, hstate, hdetail, hraised⟩

end

theorem exec_ucieModuleInitDone {m : Fin 5} {s : State} {u : Eng} (h : moduleDone m.val s.eng = u) :
    exec (.ucieModuleInitDone m) s = .next { s with eng := u } := by
  rw [← h]
  rfl

theorem exec_ucieInitTimeout {m : Fin 5} {s : State} {u : Eng} (h : moduleFails m.val s.eng = u) :
    exec (.ucieInitTimeout m) s = .next { s with eng := u } := by
  rw [← h]
  rfl

end Sys2Proof.Machine

namespace Sys2Proof.Proofs

open Sys2Proof Sys2Proof.Machine

/-- Settles O33: a unit is taken and then delivered; a module's report comes in time or finds it failed. -/
theorem ucieUnitsAndModules : Obligations.UcieUnitsAndModules := by
  unfold Obligations.UcieUnitsAndModules
  intro m s x p
  refine ⟨fun seq crc pois data hlen => ?unit, fun hidle => ?idle,
    fun hinit => ⟨fun hlate => ?late, fun hintime => ?intime, ?timeout⟩⟩
  case unit =>
    intro map good
    refine ⟨fun hdown => exec_ucieUnitReceive hlen (unitReceive_down hdown), fun hruns => ?_⟩
    have hwords : data.length / 4 ≠ 0 := by
      rw [hlen]
      split <;> decide
    have hsound : unitSound s.eng m.val seq.toNat crc.toNat map data = true ↔ good := unitSound_iff
    have hframe (sound : Bool) := unitReceive_frame (seq := seq.toNat) (crc := crc.toNat) (pois := pois.toNat)
      (sound := sound) (map := deliveredMap sound map (data.length / 4)) m.isLt hruns hwords
    refine ⟨_, exec_ucieUnitReceive hlen rfl, ?_⟩
    by_cases hgood : good
    · obtain ⟨hlink, hhost, hout, hraised, hcrc, hclean, hpoisoned, hentries, honly⟩ :=
        hframe true (hsound.mpr hgood) rfl
      refine ⟨fun map' hright _ => ?_, fun _ => ⟨hout, hraised.trans (List.append_nil _), hcrc, hclean rfl⟩,
        fun hbad => absurd hgood hbad, fun hbad => hpoisoned (.inr (hbad.resolve_left (not_not.mpr hgood))), hentries,
        withEng honly⟩
      rw [hright hgood]
      exact ⟨fun hlt => hlink (Nat.ne_of_lt hlt), hhost⟩
    · obtain ⟨hlink, hhost, hout, hraised, hcrc, -, hpoisoned, hentries, honly⟩ :=
        hframe false (Bool.eq_false_iff.mpr fun ht => hgood (hsound.mp ht)) rfl
      refine ⟨fun map' _ hwrong => ?_, fun hg => absurd hg hgood, fun _ => ⟨hout, hraised, hcrc⟩,
        fun _ => hpoisoned (.inl rfl), hentries, withEng honly⟩
      rw [hwrong hgood]
      exact ⟨fun hlt => hlink (Nat.ne_of_lt hlt), hhost⟩
  case idle =>
    exact ⟨exec_ucieModuleInitDone (moduleDone_idle hidle), exec_ucieInitTimeout (moduleFails_idle hidle)⟩
  case late =>
    exact (exec_ucieModuleInitDone (moduleDone_late hinit hlate)).trans (exec_ucieInitTimeout rfl).symm
  case intime =>
    obtain ⟨hself, hrise, hkept, hentries, honly⟩ := moduleDone_frame m.isLt hinit hintime
    exact ⟨_, exec_ucieModuleInitDone rfl, hself, hrise, hkept, hentries, withEng honly⟩
  case timeout =>
    by_cases h4 : m.val = 4
    · have hfails := moduleFails_host_frame (e := s.eng) (by rw [← h4]; exact hinit)
      rw [← h4] at hfails
      obtain ⟨hself, hnow, hstart⟩ := hfails
      exact ⟨_, exec_ucieInitTimeout rfl, hself, hnow, fun hlt => absurd h4 (Nat.ne_of_lt hlt), fun _ => hstart⟩
    · have hlt : m.val < 4 := by omega
      obtain ⟨hself, hnow, hlink, hphase, hraised, hrun, hentries⟩ := moduleFails_link_frame hlt hinit
      exact ⟨_, exec_ucieInitTimeout rfl, hself, hnow, fun _ => ⟨hlink, hphase, hraised, hrun, hentries⟩,
        fun h => absurd h h4⟩

end Sys2Proof.Proofs
end

section
/-! PROOFS. Ring commands and doorbells (O25; spec/12_dynamic_channels.md R288, R289, log entry 139): a state in which the
doorbell of one ring begins the entry read of another. -/

namespace Sys2Proof.Machine

/-- Two enabled rings, with the dispatcher running: ring 0, in the host window, has a scan that waits for an entry read,
and no read is under way. DISABLE leaves the block so when it ends a scan of another ring whose read ring 0 waited for. -/
def waitingScan : State :=
  { pending := [], port := {}
    eng :=
      { run := .ready
        regs := [(cellKey 0 0x4000 1, 1), (cellKey 0 0x4100 1, 0x300000000000), (cellKey 0 0x4100 8, 1),
          (cellKey 0 0x4101 8, 1)]
        rings := [(0, { scanning := true })] } }

theorem waitingScan_letThrough {k : Nat} (hk : k = 7 ∨ k = 9 ∨ k = 13) :
    letThrough .h (0x4100 + (1 : Fin 64).val) k waitingScan := by
  rcases hk with rfl | rfl | rfl <;> exact ⟨.inl (by decide), by decide⟩

theorem waitingScan_enabled : reg waitingScan.eng (0x4100 + (1 : Fin 64).val) 8 = 1 := by decide

/-- No entry read of ring 0 is under way. -/
theorem waitingScan_unread : (ringOf waitingScan.eng 0).reading = none := by decide

/-- Ring 1's doorbell, after which ring 0's entries are being read: of the rings that wait it is served first (R289). -/
theorem waitingScan_served :
    (ringOf (portWrite .h (ringIdx 1) 9 0 (effDoorbell 1) waitingScan).eng 0).reading = some 0 := by decide

end Sys2Proof.Machine

namespace Sys2Proof.Proofs

open Sys2Proof Sys2Proof.Machine

/-- Refutes O25: the statement asks that a doorbell of an enabled ring leave every other ring as it was. A scan that begins
lets the dispatcher issue an entry read where none is under way, and of the rings that wait for one it serves the first
(R289, log entry 139): in `waitingScan` the doorbell of ring 1 begins the entry read of ring 0. -/
theorem not_ringControls : ¬ Obligations.RingControls := by
  intro h
  obtain ⟨-, -, -, -, -, -, -, hbell, -⟩ := h .h 1 waitingScan (waitingScan_letThrough (.inl rfl))
    (waitingScan_letThrough (.inr (.inl rfl))) (waitingScan_letThrough (.inr (.inr rfl)))
  obtain ⟨t, hexec, hothers, -⟩ := hbell waitingScan_enabled
  have ht : t = portWrite .h (ringIdx 1) 9 0 (effDoorbell 1) waitingScan := (Host.Outcome.next.inj hexec).symm
  have hread := congrArg Ring.reading (hothers 0 (by decide))
  rw [ht, waitingScan_served, waitingScan_unread] at hread
  exact absurd hread (by decide)

end Sys2Proof.Proofs
end

section
/-! PROOFS. The entry reads of rings (spec/12_dynamic_channels.md R287, R289): what asking for reads changes, and which ring
the dispatcher serves. -/

namespace Sys2Proof.Machine

/-! ### Asking for reads -/

/-- Nothing has changed but identifiers, the reads of HST, the stack agents and the record of what left the ports. -/
def onlyAsked (e t : Eng) : Prop :=
  t = { e with ids := t.ids, hostReads := t.hostReads, agents := t.agents, out := t.out }

theorem onlyAsked.trans {a b c : Eng} (h : onlyAsked a b) (g : onlyAsked b c) : onlyAsked a c := by
  rw [onlyAsked, g, h]

theorem submitOne_asked (b : AccessBy) (kind : ReqKind) (turn : Nat) (xs : List (Nat × List Atom)) (e : Eng) :
    onlyAsked e (submitOne b kind turn xs e).2 := by
  exact rfl

theorem submitEach_asked {α : Type} {f : α → Eng → Nat × Eng} (h : ∀ x e, onlyAsked e (f x e).2) (xs : List α)
    (e : Eng) : onlyAsked e (submitEach f xs e).2 := by
  induction xs generalizing e with
  | nil => exact rfl
  | cons x xs ih => exact (h x e).trans (ih _)

theorem submitAll_asked (b : AccessBy) (read : Bool) (bs : List Batch) (e : Eng) :
    onlyAsked e (submitAll b read bs e).2 := by
  refine submitEach_asked (fun x e => ?_) bs e
  exact submitOne_asked ..

theorem issueReads_asked (fuel : Nat) (e : Eng) : onlyAsked e (issueReads fuel e) := by
  induction fuel generalizing e with
  | zero => exact rfl
  | succ fuel ih =>
    rw [issueReads]
    split
    · exact rfl
    · split
      · exact rfl
      · refine .trans ?_ (ih _)
        exact rfl

theorem requestRead_asked (use : ReadUse) (cls : Nat) (data : Bool) (a n : Nat) (e : Eng) :
    onlyAsked e (requestRead use cls data a n e).2 := by
  refine .trans ?_ (issueReads_asked _ _)
  exact rfl

/-- A ring whose entries are being read (R289, R301). -/
def Ring.beginRead (id : Option Nat) (g : Ring) : Ring :=
  { g with reading := id, sectors := [], fresh := if g.got.isEmpty then none else g.fresh }

/-- An entry read is asked for wherever the ring lies, and its ring notes it. -/
theorem issueEntryRead_eq (r : Nat) (e : Eng) :
    ∃ id u, onlyAsked e u ∧ issueEntryRead r e = onRing r (Ring.beginRead id) u := by
  unfold issueEntryRead
  dsimp only
  split
  · exact ⟨_, _, requestRead_asked .., rfl⟩
  · exact ⟨_, _, submitAll_asked .., rfl⟩
  · exact ⟨_, (newId e).2, rfl, rfl⟩

/-! ### The dispatcher's reads -/

/-- Nothing has changed but rings and what their reads change: the dictionary, memory and the jobs stand. -/
def onlyScans (e t : Eng) : Prop :=
  t = { e with ids := t.ids, hostReads := t.hostReads, agents := t.agents, rings := t.rings, hostPois := t.hostPois,
               out := t.out }

theorem onlyScans.trans {a b c : Eng} (h : onlyScans a b) (g : onlyScans b c) : onlyScans a c := by
  rw [onlyScans, g, h]

theorem onlyAsked.scans {e t : Eng} (h : onlyAsked e t) : onlyScans e t := by
  rw [h]
  exact rfl

theorem onlyScans.regs {e t : Eng} (h : onlyScans e t) : t.regs = e.regs := by rw [h]

theorem onlyScans.dom {e t : Eng} (h : onlyScans e t) : t.dom = e.dom := by rw [h]

theorem onlyScans.now {e t : Eng} (h : onlyScans e t) : t.now = e.now := by rw [h]

theorem onlyScans.raised {e t : Eng} (h : onlyScans e t) : t.raised = e.raised := by rw [h]

theorem onlyScans.memory {e t : Eng} (h : onlyScans e t) : sameMemory e t := by
  rw [h]
  exact sameMemory_of rfl rfl rfl rfl rfl

theorem issueEntryRead_scans (r : Nat) (e : Eng) : onlyScans e (issueEntryRead r e) := by
  obtain ⟨id, u, hu, hissue⟩ := issueEntryRead_eq r e
  rw [hissue]
  exact hu.scans.trans rfl

theorem ringOf_congr {e t : Eng} (h : t.rings = e.rings) (r : Nat) : ringOf t r = ringOf e r := by
  rw [ringOf, h, ringOf]

theorem ringOf_issueEntryRead_same (r : Nat) (e : Eng) :
    ∃ id, ringOf (issueEntryRead r e) r = (ringOf e r).beginRead id := by
  obtain ⟨id, u, hu, hissue⟩ := issueEntryRead_eq r e
  have hrings : u.rings = e.rings := by rw [hu]
  exact ⟨id, by rw [hissue, ringOf_onRing_same, ringOf_congr hrings]⟩

theorem ringOf_issueEntryRead_other {r q : Nat} (h : q ≠ r) (e : Eng) :
    ringOf (issueEntryRead r e) q = ringOf e q := by
  obtain ⟨id, u, hu, hissue⟩ := issueEntryRead_eq r e
  have hrings : u.rings = e.rings := by rw [hu]
  rw [hissue, ringOf_onRing_other h, ringOf_congr hrings]

/-- The dispatcher issues an entry read of one ring that waits for it, or none (R289). -/
theorem serveRings_cases (e : Eng) :
    serveRings e = e ∨ ∃ q, awaitsRead e q = true ∧ serveRings e = issueEntryRead q e := by
  unfold serveRings
  split
  · exact .inl rfl
  · split
    next q hq =>
      obtain ⟨c, -, hc⟩ := List.exists_of_findSome?_eq_some hq
      have hboth := List.find?_some hc
      exact .inr ⟨q, (Bool.and_eq_true_iff.mp hboth).2, rfl⟩
    next => exact .inl rfl

theorem serveRings_scans (e : Eng) : onlyScans e (serveRings e) := by
  obtain h | ⟨q, -, h⟩ := serveRings_cases e
  · rw [h]
    exact rfl
  · rw [h]
    exact issueEntryRead_scans q e

/-- What becomes of one ring as the dispatcher serves the rings: it stays, or it waited for its entry read, which begins. -/
theorem ringOf_serveRings (e : Eng) (r : Nat) : ringOf (serveRings e) r = ringOf e r ∨
    awaitsRead e r = true ∧ ∃ id, ringOf (serveRings e) r = (ringOf e r).beginRead id := by
  obtain h | ⟨q, hq, h⟩ := serveRings_cases e
  · exact .inl (by rw [h])
  · by_cases hr : r = q
    · subst hr
      rw [h]
      exact .inr ⟨hq, ringOf_issueEntryRead_same r e⟩
    · rw [h]
      exact .inl (ringOf_issueEntryRead_other hr e)

/-- A ring that waits for no entry read stays as it is. -/
theorem ringOf_serveRings_idle {e : Eng} {r : Nat} (h : awaitsRead e r = false) :
    ringOf (serveRings e) r = ringOf e r :=
  (ringOf_serveRings e r).resolve_right fun hw => absurd (hw.1.symm.trans h) (by decide)

/-- Serving the rings leaves alone what a ring holds beside its reads. -/
theorem ringOf_serveRings_kept (e : Eng) (r : Nat) :
    (ringOf (serveRings e) r).scanning = (ringOf e r).scanning ∧ (ringOf (serveRings e) r).again = (ringOf e r).again ∧
      (ringOf (serveRings e) r).paused = (ringOf e r).paused ∧
      (ringOf (serveRings e) r).entries = (ringOf e r).entries ∧ (ringOf (serveRings e) r).door = (ringOf e r).door := by
  obtain h | ⟨-, id, h⟩ := ringOf_serveRings e r
  · rw [h]
    exact ⟨rfl, rfl, rfl, rfl, rfl⟩
  · rw [h]
    exact ⟨rfl, rfl, rfl, rfl, rfl⟩

end Sys2Proof.Machine
end

section
/-! PROOFS. Head writes, failed entry reads, and the ends of scans (O26; spec/12_dynamic_channels.md R287, R289, R297 to
R299, R304; log entries 79 and 139). -/

namespace Sys2Proof.Machine

/-! ### Scans -/

theorem scanHeld_congr {e t : Eng} {r : Nat} (hregs : t.regs = e.regs)
    (hentries : (ringOf t r).entries = (ringOf e r).entries) : scanHeld t r = scanHeld e r := by
  have hreg (i k : Nat) : reg t i k = reg e i k := by rw [reg, hregs, reg]
  simp only [scanHeld, jobsActive, hreg, hentries]
  rfl

/-- A ring's scan begins, before the rings are served (R288). -/
def scanBegun (r : Nat) (e : Eng) : Eng := onRing r (fun g => { g with scanning := true, paused := false, got := [] }) e

theorem scanBegun_scans (r : Nat) (e : Eng) : onlyScans e (scanBegun r e) := rfl

theorem exec_scanResume {r : Fin 64} {s : State} (hpaused : (ringOf s.eng r.val).paused = true)
    (hfree : scanHeld s.eng r.val = false) (hen : reg s.eng (ringIdx r.val) 8 = 1) (hrun : ringsRun s.eng = true) :
    exec (.scanResume r) s = .next (onEng (fun e => serveRings (scanBegun r.val e)) s) := by
  have hgo : scanResume r.val s.eng = beginScan r.val s.eng := by simp [scanResume, hpaused, hfree, hen, hrun]
  have hbegin : beginScan r.val s.eng = serveRings (scanBegun r.val s.eng) := if_neg (by simp [hfree])
  exact congrArg (fun u => Host.Outcome.next { s with eng := u }) (hgo.trans hbegin)

/-- Where an entry read is answered by the host: rings run, and the entries not read yet lie in the host window. -/
theorem exec_entryReadComplete_host {r : Fin 64} {s : State} (hread : (ringOf s.eng r.val).reading.isSome = true)
    (hrun : ringsRun s.eng = true) (hhost : (regionOf (readAddr s.eng r.val)).1 = .host) (ans : HostAnswer) :
    exec (.entryReadComplete r ans) s = hostEntryRead r.val ans (fun e =>
      serveRings (onRing r.val (fun g => { g with retry := some (e.now + 1024 * cclkT) }) (endRead r.val e))) s := by
  have hsome : ¬(ringOf s.eng r.val).reading.isNone = true := by simpa [Option.isNone_iff_eq_none, Option.isSome_iff_ne_none] using hread
  change execEntryReadComplete r ans s = _
  rw [execEntryReadComplete, if_neg hsome, if_neg (by simp [hrun])]
  simp only [hhost]

/-- A read that the host answers with an error: its ring waits for the repeat (R287). -/
def readFailed (r : Nat) (e : Eng) : Eng :=
  onRing r (fun g => { g with retry := some (e.now + 1024 * cclkT) }) (endRead r e)

theorem readFailed_scans (r : Nat) (e : Eng) : onlyScans e (readFailed r e) := rfl

theorem ringOf_readFailed (r : Nat) (e : Eng) : ringOf (readFailed r e) r =
    { ringOf e r with retry := some (e.now + 1024 * 4), reading := none, sectors := [] } := by
  rw [readFailed, ringOf_onRing_same, endRead, ringOf_onRing_same]
  rfl

/-- A ring that waits for its repeat waits for no entry read. -/
theorem awaitsRead_of_retry {r : Nat} {e : Eng} {due : Nat} (h : (ringOf e r).retry = some due) :
    awaitsRead e r = false := by
  simp [awaitsRead, h]

/-- A ring that does not scan waits for no entry read. -/
theorem awaitsRead_of_idle {r : Nat} {e : Eng} (h : (ringOf e r).scanning = false) : awaitsRead e r = false := by
  simp [awaitsRead, h]

theorem ringOf_readFailed_served (r : Nat) (e : Eng) : ringOf (serveRings (readFailed r e)) r =
    { ringOf e r with retry := some (e.now + 1024 * 4), reading := none, sectors := [] } := by
  have hring := ringOf_readFailed r e
  rw [ringOf_serveRings_idle (awaitsRead_of_retry (due := e.now + 1024 * 4) (by rw [hring])), hring]

/-! ### The repeat of an entry read -/

theorem exec_entryReadRetry_error {r : Fin 64} {s : State} {due : Nat} (hretry : (ringOf s.eng r.val).retry = some due)
    (hscan : (ringOf s.eng r.val).scanning = true) (hen : reg s.eng (ringIdx r.val) 8 = 1)
    (hrun : ringsRun s.eng = true) :
    exec (.entryReadRetry r .error) s = .next (onEng (fun e => stopRing r.val (repeatRead r.val due e)) s) := by
  change execEntryReadRetry r .error s = _
  unfold execEntryReadRetry
  split
  next t ht =>
    rw [Option.some.inj (ht.symm.trans hretry), if_pos (by simp [hscan, hen, hrun])]
    rfl
  next hnone => exact absurd (hnone.symm.trans hretry) (by simp)

theorem repeatRead_frame (r due : Nat) (e : Eng) : (repeatRead r due e).now = max e.now due ∧
    (repeatRead r due e).regs = e.regs ∧ (repeatRead r due e).raised = e.raised ∧ sameMemory e (repeatRead r due e) ∧
    (ringOf (repeatRead r due e) r).entries = (ringOf e r).entries := by
  have hscans := issueEntryRead_scans r (onRing r (fun g => { g with retry := none }) (advanceTo due e))
  obtain ⟨id, hring⟩ := ringOf_issueEntryRead_same r (onRing r (fun g => { g with retry := none }) (advanceTo due e))
  refine ⟨hscans.now, hscans.regs, hscans.raised, (sameMemory_of rfl rfl rfl rfl rfl).trans hscans.memory, ?_⟩
  rw [repeatRead, hring, ringOf_onRing_same]
  rfl

theorem endScan_scans (r : Nat) (e : Eng) : onlyScans e (endScan r e) := rfl

/-- A ring whose scan is at an end (R299). -/
theorem ringOf_endScan (r : Nat) (e : Eng) : ringOf (endScan r e) r =
    { ringOf e r with scanning := false, again := false, paused := false, retry := none, got := [], reading := none,
                      sectors := [] } := by
  rw [endScan, ringOf_onRing_same]
  rfl

/-- A ring that stops has its scan ended first; then its state and the counter change, and source 79 is raised. -/
theorem stopRing_only (r : Nat) (e : Eng) : onlyEvents [(79, 0)] (endScan r e) (stopRing r e) :=
  (((onlyRegs.refl (endScan r e)).setReg (ringIdx r) 8 3).bump 0x4002 4).raise 79 0

theorem stopRing_kept (r : Nat) (e : Eng) : (stopRing r e).now = e.now ∧
    (stopRing r e).raised = e.raised ++ [(79, 0)] ∧ sameMemory e (stopRing r e) ∧
    (ringOf (stopRing r e) r).scanning = false ∧ (ringOf (stopRing r e) r).entries = (ringOf e r).entries := by
  have honly := stopRing_only r e
  have hrings : (stopRing r e).rings = (endScan r e).rings := by rw [honly]
  have hring := (ringOf_congr hrings r).trans (ringOf_endScan r e)
  refine ⟨?_, honly.raised, (endScan_scans r e).memory.trans ?_, by rw [hring], by rw [hring]⟩
  · rw [honly]
    rfl
  · rw [honly]
    exact sameMemory_of rfl rfl rfl rfl rfl

theorem ringIdx_lt {r : Nat} (hr : r < 64) : ringIdx r < 65536 := by unfold ringIdx; omega

/-- What a stopping ring's entries of the dictionary hold (R287): state 3, and the counter steps on. -/
theorem stopRing_entries {r : Nat} (hr : r < 64) (e : Eng) : reg (stopRing r e) (ringIdx r) 8 = 3 ∧
    reg (stopRing r e) 0x4002 4 = (reg e 0x4002 4 + 1) % 2 ^ 64 ∧
    sameEntries [(ringIdx r, 8), (0x4002, 4)] e (stopRing r e) := by
  have hne : cellKey 0 (ringIdx r) 8 ≠ cellKey 0 0x4002 4 := by unfold ringIdx cellKey; omega
  have hwidth : wrapWidth 0x4002 4 = 64 := by decide
  have hscan : sameEntries [(ringIdx r, 8), (0x4002, 4)] e (endScan r e) :=
    (sameEntries_refl _ e).congr (endScan_scans r e).regs
  have hkept : reg (endScan r e) 0x4002 4 = reg e 0x4002 4 := by rw [reg, (endScan_scans r e).regs, reg]
  refine ⟨?_, ?_, ((hscan.setReg (by simp) (ringIdx_lt hr) (by decide) 3).bump (by simp) (by decide)
    (by decide)).congr (raise_regs ..)⟩
  · rw [stopRing, reg_raise, reg_bump_other hne, reg_setReg_same]
  · rw [stopRing, reg_raise, reg_bump_same, reg_setReg_other hne.symm, hwidth, hkept]

/-! ### An answer whose first entry is not posted -/

/-- An entry read is answered with the bytes of one entry. -/
theorem rawEntries_single {bs : List (Byte × Bool)} (h : bs.length = 64) :
    rawEntries bs = [⟨bs.map (·.1), bs.any (·.2)⟩] := by
  have htake : (bs.drop (64 * 0)).take 64 = bs := List.take_of_length_le (by simp [h])
  have hone : below (bs.length / 64) = [0] := by rw [h]; rfl
  simp only [rawEntries, hone, List.map_cons, List.map_nil, htake]

/-- The scan of a ring, at an entry that is not posted, ends, and begins anew where one further is marked (R288, R289). -/
def Ring.endOfPosted (g : Ring) : Ring := { g with scanning := g.again, again := false, got := [], door := g.fresh }

theorem scanGot_unposted {r : Nat} {e : Eng} {a : RawEntry} {rest : List RawEntry}
    (hscan : (ringOf e r).scanning = true) (hfree : scanHeld e r = false) (hgot : (ringOf e r).got = a :: rest)
    (hpost : bit (entryByte a.bytes 14) 0 ≠ (reg e (ringIdx r) 10 / ringLen e r % 2 == 0)) (fuel : Nat) :
    scanGot r (fuel + 1) e = onRing r Ring.endOfPosted e := by
  rw [scanGot]
  simp only [hscan, hfree, hgot, Bool.not_true, Bool.false_eq_true, if_false]
  rw [if_pos hpost]
  rfl

theorem readRoom_pos (e : Eng) (r : Nat) : 0 < readRoom e r := by
  have hlen : 0 < ringLen e r := Nat.two_pow_pos _
  have hmod := Nat.mod_lt (reg e (ringIdx r) 10 + (ringOf e r).got.length) hlen
  rw [readRoom]
  exact lt_min (by decide) (Nat.sub_pos_of_lt hmod)

/-- The host's answer of one entry is taken. -/
theorem hostEntryRead_single {bytes : List Byte} (h : bytes.length = 64) (r : Nat) (onError : Eng → Eng) (s : State) :
    hostEntryRead r (.data bytes false) onError s =
      .next (onEng (fun e => takeRead r (bytes.map fun b => (b, e.hostPois)) { e with hostPois := false }) s) := by
  have hroom := readRoom_pos s.eng r
  rw [hostEntryRead, if_neg (by omega)]
  rfl

/-- The entries of an answer enter a ring's scan, before any is looked at. -/
def readTaken (r : Nat) (bs : List (Byte × Bool)) (e : Eng) : Eng :=
  onRing r (fun g => { g with got := g.got ++ rawEntries bs }) (endRead r e)

theorem readTaken_scans (r : Nat) (bs : List (Byte × Bool)) (e : Eng) : onlyScans e (readTaken r bs e) := rfl

theorem ringOf_readTaken (r : Nat) (bs : List (Byte × Bool)) (e : Eng) : ringOf (readTaken r bs e) r =
    { ringOf e r with reading := none, sectors := [], retry := none, got := (ringOf e r).got ++ rawEntries bs } := by
  rw [readTaken, ringOf_onRing_same, endRead, ringOf_onRing_same]
  rfl

/-- A scan that finds the first entry of an answer not posted, before the rings are served. -/
def unpostedRead (r : Nat) (bs : List (Byte × Bool)) (e : Eng) : Eng := onRing r Ring.endOfPosted (readTaken r bs e)

/-- A ring whose entry read has found its first entry not posted. -/
def Ring.afterUnposted (g : Ring) : Ring :=
  { g with scanning := g.again, again := false, got := [], door := g.fresh, reading := none, sectors := [], retry := none }

/-- Where no further scan is marked, such a ring is at rest. -/
theorem Ring.afterUnposted_last {g : Ring} (hno : g.again = false) (hgot : g.got = []) : g.afterUnposted =
    { g with scanning := false, door := g.fresh, retry := none, reading := none, sectors := [] } := by
  rw [Ring.afterUnposted, hno, hgot]

theorem unpostedRead_scans (r : Nat) (bs : List (Byte × Bool)) (e : Eng) : onlyScans e (unpostedRead r bs e) := rfl

theorem ringOf_unpostedRead (r : Nat) (bs : List (Byte × Bool)) (e : Eng) : ringOf (unpostedRead r bs e) r =
    (ringOf e r).afterUnposted := by
  rw [unpostedRead, ringOf_onRing_same, ringOf_readTaken]
  rfl

/-- An answer of one entry that is not posted, taken by a scan that holds no other entry (R289). -/
theorem takeRead_unposted {r : Nat} {e : Eng} {bs : List (Byte × Bool)} (hscan : (ringOf e r).scanning = true)
    (hfree : scanHeld e r = false) (hgot : (ringOf e r).got = []) (hlen : bs.length = 64)
    (hpost : bit (entryByte (bs.map (·.1)) 14) 0 ≠ (reg e (ringIdx r) 10 / ringLen e r % 2 == 0)) :
    takeRead r bs e = serveRings (unpostedRead r bs e) := by
  have hring := ringOf_readTaken r bs e
  rw [hgot, List.nil_append, rawEntries_single hlen] at hring
  have hheld : scanHeld (readTaken r bs e) r = false := (scanHeld_congr (readTaken_scans r bs e).regs (by rw [hring])).trans hfree
  change serveRings (scanGot r ((ringOf (readTaken r bs e) r).got.length + 1) (readTaken r bs e)) = _
  rw [scanGot_unposted (by rw [hring]; exact hscan) hheld (by rw [hring]) hpost, unpostedRead]

/-- The phase bit of an entry against the parity of the ring's passage (R280). -/
theorem unposted_of_parity {b i len : Nat} (h : b % 2 ≠ (if i / len % 2 = 0 then 1 else 0)) :
    bit b 0 ≠ (i / len % 2 == 0) := by
  rw [bit, Nat.pow_zero, Nat.div_one]
  rcases Nat.mod_two_eq_zero_or_one b with hb | hb <;> rcases Nat.mod_two_eq_zero_or_one (i / len) with hp | hp <;>
    simp [hb, hp] at h ⊢

/-- The host answers an entry read with one entry that is not posted: its scan ends, and the rings are served. -/
theorem exec_entryReadComplete_unposted {r : Fin 64} {s : State} {bytes : List Byte}
    (hread : (ringOf s.eng r.val).reading.isSome = true) (hscan : (ringOf s.eng r.val).scanning = true)
    (hgot : (ringOf s.eng r.val).got = []) (hrun : ringsRun s.eng = true)
    (hhost : (regionOf (readAddr s.eng r.val)).1 = .host) (hlen : bytes.length = 64)
    (hfree : scanHeld s.eng r.val = false) (hpost : (bytes.getD 14 0).toNat % 2 ≠
      (if reg s.eng (ringIdx r.val) 10 / 2 ^ reg s.eng (ringIdx r.val) 2 % 2 = 0 then 1 else 0)) :
    ∃ u, exec (.entryReadComplete r (.data bytes false)) s = .next (onEng (fun _ => serveRings u) s) ∧
      onlyScans s.eng u ∧ ringOf u r.val = (ringOf s.eng r.val).afterUnposted := by
  have hbytes : (bytes.map fun b => (b, s.eng.hostPois)).map (·.1) = bytes := by
    rw [List.map_map]
    exact List.map_id bytes
  have hclean : onlyScans s.eng { s.eng with hostPois := false } := rfl
  have htake := takeRead_unposted (r := r.val) (e := { s.eng with hostPois := false })
    (bs := bytes.map fun b => (b, s.eng.hostPois)) hscan hfree hgot (by rw [List.length_map, hlen])
    (by rw [hbytes]; exact unposted_of_parity hpost)
  refine ⟨unpostedRead r.val (bytes.map fun b => (b, s.eng.hostPois)) { s.eng with hostPois := false }, ?_,
    hclean.trans (unpostedRead_scans ..), ringOf_unpostedRead ..⟩
  rw [exec_entryReadComplete_host hread hrun hhost, hostEntryRead_single hlen]
  exact congrArg (fun u => Host.Outcome.next { s with eng := u }) htake

/-! ### Changes of dictionary values -/

/-- Nothing has changed but the values of listed entries. -/
structure Counts (ks : List (Nat × Nat)) (e t : Eng) : Prop where
  only : onlyRegs e t
  entries : sameEntries ks e t

namespace Counts

variable {ks : List (Nat × Nat)} {a b c : Eng}

theorem refl (ks : List (Nat × Nat)) (e : Eng) : Counts ks e e := ⟨.refl e, sameEntries_refl ks e⟩

theorem trans (h : Counts ks a b) (g : Counts ks b c) : Counts ks a c :=
  ⟨h.only.trans g.only, h.entries.trans g.entries⟩

theorem setReg {i k : Nat} (h : Counts ks a b) (hm : (i, k) ∈ ks) (hi : i < 65536) (hk : k < 256) (v : Nat) :
    Counts ks a (Machine.setReg i k v b) := ⟨h.only.setReg i k v, h.entries.setReg hm hi hk v⟩

theorem bump {i k : Nat} (h : Counts ks a b) (hm : (i, k) ∈ ks) (hi : i < 65536) (hk : k < 256) :
    Counts ks a (Machine.bump i k b) := h.setReg hm hi hk _

theorem setRegIf {i k : Nat} {p : Prop} [Decidable p] (h : Counts ks a b) (hm : (i, k) ∈ ks) (hi : i < 65536)
    (hk : k < 256) (v : Nat) : Counts ks a (if p then Machine.setReg i k v b else b) := by
  split
  · exact h.setReg hm hi hk v
  · exact h

theorem bumpIf {i k : Nat} {p : Prop} [Decidable p] (h : Counts ks a b) (hm : (i, k) ∈ ks) (hi : i < 65536)
    (hk : k < 256) : Counts ks a (if p then Machine.bump i k b else b) := h.setRegIf hm hi hk _

end Counts

/-! ### The interrupt -/

/-- The interrupt of a ring is due: it is armed, BT_READY is high, and HEAD_INDEX has reached the mark (R298). -/
def irqFires (r : Nat) (e : Eng) : Prop :=
  reg e (ringIdx r) 15 = 1 ∧ isReady e = true ∧ gateMet (reg e (ringIdx r) 11) (reg e (ringIdx r) 13) = true

theorem checkIrq_silent {r : Nat} {e : Eng} (h : ¬irqFires r e) : checkIrq r e = e := by
  unfold checkIrq
  exact if_neg h

theorem checkIrq_sent {r : Nat} {e : Eng} (h : irqFires r e) (hs : e.fw.suppress = false) :
    checkIrq r e = bump 0x4002 7 (emit (.msi (reg e (ringIdx r) 14)) (setReg (ringIdx r) 15 0 e)) := by
  have hready : isReady (setReg (ringIdx r) 15 0 e) = true := h.2.1
  have hmsi : sendMsi (reg e (ringIdx r) 14) (setReg (ringIdx r) 15 0 e) =
      emit (.msi (reg e (ringIdx r) 14)) (setReg (ringIdx r) 15 0 e) := by
    rw [sendMsi, setReg_fw, hs, hready]
    rfl
  rw [← hmsi]
  unfold checkIrq
  exact if_pos h

/-- What the interrupt check changes, with the host reached (R298). -/
theorem checkIrq_frame {r : Nat} (hr : r < 64) {e : Eng} (hs : e.fw.suppress = false) :
    (irqFires r e → reg (checkIrq r e) (ringIdx r) 15 = 0 ∧
      reg (checkIrq r e) 0x4002 7 = (reg e 0x4002 7 + 1) % 2 ^ 64 ∧
      (checkIrq r e).out = .msi (reg e (ringIdx r) 14) :: e.out) ∧
    sameEntries [(ringIdx r, 15), (0x4002, 7)] e (checkIrq r e) ∧
    checkIrq r e = { e with regs := (checkIrq r e).regs, out := (checkIrq r e).out } := by
  by_cases h : irqFires r e
  · have hne : cellKey 0 (ringIdx r) 15 ≠ cellKey 0 0x4002 7 := by unfold ringIdx cellKey; omega
    have hwidth : wrapWidth 0x4002 7 = 64 := by decide
    have harmed := (Counts.refl [(ringIdx r, 15), (0x4002, 7)] e).setReg (i := ringIdx r) (k := 15)
      (by simp) (ringIdx_lt hr) (by decide) 0
    rw [checkIrq_sent h hs]
    refine ⟨fun _ => ⟨?_, ?_, rfl⟩, (harmed.entries.congr (emit_regs ..)).bump (by simp) (by decide) (by decide), rfl⟩
    · rw [reg_bump_other hne, reg_emit, reg_setReg_same]
    · rw [reg_bump_same, reg_emit, reg_setReg_other hne.symm, hwidth]
  · rw [checkIrq_silent h]
    exact ⟨fun hf => absurd hf h, sameEntries_refl _ e, rfl⟩

/-! ### Head writes -/

theorem writeLocalNat_host {a : Nat} {e : Eng} (h : (regionOf a).1 = .host) (hs : e.fw.suppress = false) (n v : Nat) :
    writeLocalNat a n v e = emit (.hostWrite (a - 0x300000000000) (leBytes n v) false) e := by
  have hclean : ((leBytes n v).map fun b => (b, false)).any (·.2) = false := by simp
  have hbytes : ((leBytes n v).map fun b => (b, false)).map (·.1) = leBytes n v := by
    rw [List.map_map]
    exact List.map_id _
  simp only [writeLocalNat, writeLocal, h, hs, hclean, hbytes, Bool.false_eq_true, if_false]

/-- The counters of class-0 measurements (R304). -/
def class0Counters : List (Nat × Nat) := [(0x4202, 1), (0x4202, 2), (0x4202, 3), (0x4202, 4)]

theorem measureClass0_counts (door first : Option Nat) (e : Eng) :
    Counts class0Counters e (measureClass0 door first e) := by
  unfold measureClass0
  split
  · exact .refl _ e
  · have hin {k : Nat} (hk : 1 ≤ k ∧ k ≤ 4) : (0x4202, k) ∈ class0Counters := by
      simp only [class0Counters, List.mem_cons, Prod.mk.injEq, true_and, List.not_mem_nil, or_false]
      omega
    have hjobs := (Counts.refl class0Counters e).bump (hin (k := 1) (by decide)) (by decide) (by decide)
    exact ((hjobs.bumpIf (hin (by decide)) (by decide) (by decide)).bumpIf (hin (by decide)) (by decide)
      (by decide)).setRegIf (hin (by decide)) (by decide) (by decide) _

/-- The jobs that a head write covers are measured (R304). -/
def measureAll (ms : List (Option Nat × Option Nat)) (e : Eng) : Eng :=
  ms.foldl (fun e m => measureClass0 m.1 m.2 e) e

theorem measureAll_counts (ms : List (Option Nat × Option Nat)) (e : Eng) : Counts class0Counters e (measureAll ms e) :=
  foldl_related (Counts.refl _) Counts.trans (fun e m _ => measureClass0_counts m.1 m.2 e) e

/-- The head is written and the jobs it covers are measured; the interrupt is not checked yet (R297, R304). -/
def headWritten (r : Nat) (e : Eng) : Eng :=
  onRing r (fun g => { g with headDue := false, measure := [] }) (measureAll (ringOf e r).measure
    (emit (.hostWrite (reg e (ringIdx r) 6 - 0x300000000000) (leBytes 4 (reg e (ringIdx r) 11)) false) e))

theorem headWrite_due {r : Nat} {e : Eng} (hdue : (ringOf e r).headDue = true)
    (hhost : (regionOf (reg e (ringIdx r) 6)).1 = .host) (hs : e.fw.suppress = false) :
    headWrite r e = settleAbort r (checkIrq r (headWritten r e)) := by
  have hgo : ¬((!(ringOf e r).headDue) = true) := by simp [hdue]
  unfold headWrite
  rw [if_neg hgo, writeLocalNat_host hhost hs]
  rfl

theorem headWritten_frame (r : Nat) (e : Eng) : ringOf (headWritten r e) r =
      { ringOf e r with headDue := false, measure := [] } ∧
    (headWritten r e).out =
      .hostWrite (reg e (ringIdx r) 6 - 0x300000000000) (leBytes 4 (reg e (ringIdx r) 11)) false :: e.out ∧
    sameEntries class0Counters e (headWritten r e) ∧
    ((ringOf e r).measure = [] → (headWritten r e).regs = e.regs) ∧
    headWritten r e = { e with regs := (headWritten r e).regs, rings := (headWritten r e).rings,
                               out := (headWritten r e).out } := by
  have hm := measureAll_counts (ringOf e r).measure
    (emit (.hostWrite (reg e (ringIdx r) 6 - 0x300000000000) (leBytes 4 (reg e (ringIdx r) 11)) false) e)
  have honly := hm.only
  unfold onlyRegs at honly
  refine ⟨?_, ?_, ?_, fun hnone => ?_, ?_⟩
  · rw [headWritten, ringOf_onRing_same, honly]
    rfl
  · rw [headWritten, onRing_out, honly]
    rfl
  · exact (((sameEntries_refl _ e).congr rfl).trans hm.entries).congr rfl
  · rw [headWritten, hnone]
    rfl
  · rw [headWritten, honly]
    rfl

theorem settleAbort_frame {r : Nat} (hr : r < 64) (e : Eng) :
    reg (settleAbort r e) (ringIdx r) 8 =
      (if reg e (ringIdx r) 8 = 2 ∧ ringQuiet e r = true then 0 else reg e (ringIdx r) 8) ∧
    Counts [(ringIdx r, 8)] e (settleAbort r e) := by
  unfold settleAbort
  by_cases h : reg e (ringIdx r) 8 = 2 ∧ ringQuiet e r = true
  · rw [if_pos h, if_pos h]
    exact ⟨reg_setReg_same .., (Counts.refl _ e).setReg (by simp) (ringIdx_lt hr) (by decide) 0⟩
  · rw [if_neg h, if_neg h]
    exact ⟨rfl, .refl _ e⟩

/-- The ring's own entries stand while the head is written. -/
theorem reg_headWritten {r k : Nat} (hr : r < 64) (hk : k < 256) (e : Eng) :
    reg (headWritten r e) (ringIdx r) k = reg e (ringIdx r) k := by
  obtain ⟨-, -, hclass0, -, -⟩ := headWritten_frame r e
  refine hclass0.reg (ringIdx_lt hr) hk ?_
  simp only [class0Counters, ringIdx, List.mem_cons, Prod.mk.injEq, List.not_mem_nil, or_false]
  omega

theorem irqFires_headWritten {r : Nat} (hr : r < 64) (e : Eng) : irqFires r (headWritten r e) ↔ irqFires r e := by
  obtain ⟨-, -, -, -, honly⟩ := headWritten_frame r e
  have hready : isReady (headWritten r e) = isReady e := by rw [honly]; rfl
  unfold irqFires
  rw [reg_headWritten hr (by decide), reg_headWritten hr (by decide), reg_headWritten hr (by decide), hready]

/-- What the interrupt check does, and after it the end of an abort (R298, R299). -/
theorem irqThenAbort_frame {r : Nat} (hr : r < 64) {e : Eng} (hs : e.fw.suppress = false) :
    let t := settleAbort r (checkIrq r e)
    (¬irqFires r e → reg t (ringIdx r) 15 = reg e (ringIdx r) 15 ∧ reg t 0x4002 7 = reg e 0x4002 7 ∧ t.out = e.out) ∧
    (irqFires r e → reg t (ringIdx r) 15 = 0 ∧ reg t 0x4002 7 = (reg e 0x4002 7 + 1) % 2 ^ 64 ∧
      t.out = .msi (reg e (ringIdx r) 14) :: e.out) ∧
    reg t (ringIdx r) 8 = (if reg e (ringIdx r) 8 = 2 ∧ ringQuiet e r = true then 0 else reg e (ringIdx r) 8) ∧
    sameEntries [(ringIdx r, 8), (ringIdx r, 15), (0x4002, 7)] e t ∧ t = { e with regs := t.regs, out := t.out } := by
  intro t
  obtain ⟨hfires, hirq, hsent⟩ := checkIrq_frame hr hs
  obtain ⟨hstate, hcounts⟩ := settleAbort_frame hr (checkIrq r e)
  have habort : t = { checkIrq r e with regs := t.regs } := hcounts.only
  have hidx := ringIdx_lt hr
  have h15 : reg t (ringIdx r) 15 = reg (checkIrq r e) (ringIdx r) 15 := hcounts.entries.reg hidx (by decide) (by simp)
  have h7 : reg t 0x4002 7 = reg (checkIrq r e) 0x4002 7 := hcounts.entries.reg (by decide) (by decide) (by simp)
  have h8 : reg (checkIrq r e) (ringIdx r) 8 = reg e (ringIdx r) 8 := hirq.reg hidx (by decide) (by simp)
  have hout : t.out = (checkIrq r e).out := by rw [habort]
  have hquiet : ringQuiet (checkIrq r e) r = ringQuiet e r := by rw [hsent]; rfl
  refine ⟨fun hno => ?_, fun hyes => ?_, ?_, (hirq.mono (by simp)).trans (hcounts.entries.mono (by simp)), ?_⟩
  · rw [h15, h7, hout, checkIrq_silent hno]
    exact ⟨rfl, rfl, rfl⟩
  · rw [h15, h7, hout]
    exact hfires hyes
  · rw [hstate, h8, hquiet]
  · rw [habort, hsent]

/-- What a head write that is due does (R297 to R299, R304). -/
theorem headWrite_frame {r : Nat} (hr : r < 64) {e : Eng} (hdue : (ringOf e r).headDue = true)
    (hhost : (regionOf (reg e (ringIdx r) 6)).1 = .host) (hs : e.fw.suppress = false) :
    let t := headWrite r e
    let wrote := PortOut.hostWrite (reg e (ringIdx r) 6 - 0x300000000000) (leBytes 4 (reg e (ringIdx r) 11)) false
    ringOf t r = { ringOf e r with headDue := false, measure := [] } ∧
    (¬irqFires r e → reg t (ringIdx r) 15 = reg e (ringIdx r) 15 ∧ reg t 0x4002 7 = reg e 0x4002 7 ∧
      t.out = wrote :: e.out) ∧
    (irqFires r e → reg t (ringIdx r) 15 = 0 ∧ reg t 0x4002 7 = (reg e 0x4002 7 + 1) % 2 ^ 64 ∧
      t.out = .msi (reg e (ringIdx r) 14) :: wrote :: e.out) ∧
    reg t (ringIdx r) 8 = (if reg e (ringIdx r) 8 = 2 ∧ (ringOf e r).entries.all (fun x => x.stage == .complete)
      then 0 else reg e (ringIdx r) 8) ∧
    sameEntries ([(ringIdx r, 8), (ringIdx r, 15), (0x4002, 7)] ++ class0Counters) e t ∧
    ((ringOf e r).measure = [] → sameEntries [(ringIdx r, 8), (ringIdx r, 15), (0x4002, 7)] e t) ∧
    t = { e with regs := t.regs, rings := t.rings, out := t.out } := by
  intro t wrote
  have ht : t = settleAbort r (checkIrq r (headWritten r e)) := headWrite_due hdue hhost hs
  obtain ⟨hring, hout, hclass0, hnone, hwrote⟩ := headWritten_frame r e
  have hs' : (headWritten r e).fw.suppress = false := by rw [hwrote]; exact hs
  obtain ⟨hsilent, hfires, hstate, htail, honly⟩ := irqThenAbort_frame hr hs'
  rw [irqFires_headWritten hr, ← ht, hout] at hsilent hfires
  rw [← ht] at hstate htail honly
  have hcount : reg (headWritten r e) 0x4002 7 = reg e 0x4002 7 :=
    hclass0.reg (by decide) (by decide) (by decide)
  rw [hcount, reg_headWritten hr (by decide)] at hsilent hfires
  have hrings : t.rings = (headWritten r e).rings := by rw [honly]
  refine ⟨(ringOf_congr hrings r).trans hring, hsilent, hfires, ?_,
    (hclass0.mono (List.subset_append_right ..)).trans (htail.mono (List.subset_append_left ..)), fun hm => ?_, ?_⟩
  · rw [hstate, reg_headWritten hr (by decide), ringQuiet, hring]
    simp only [Bool.not_false, Bool.and_true]
  · exact .trans ((sameEntries_refl _ e).congr (hnone hm)) htail
  · rw [honly, hwrote]

end Sys2Proof.Machine

namespace Sys2Proof.Proofs

open Sys2Proof Sys2Proof.Machine

/-- Settles O26: the head write's own steps, then the interrupt and the abort; an answer's effect on its ring, after which
serving the rings leaves alone what a ring holds beside its reads. -/
theorem headsAndScans : Obligations.HeadsAndScans := by
  unfold Obligations.HeadsAndScans
  intro r s i g
  refine ⟨fun hnone => ?_, fun hdue hhost hs => ?_, fun hread hrun hhost => ?_, fun due hretry hscan hen hrun _ => ?_,
    fun bytes hread hscan hgot hrun hhost hlen hfree hpost => ?_, fun hpaused hfree hen hrun => ?_⟩
  · have hskip : headWrite r.val s.eng = s.eng := by
      unfold headWrite
      exact if_pos (by simpa using hnone)
    exact congrArg (fun u => Host.Outcome.next { s with eng := u }) hskip
  · obtain ⟨hring, hsilent, hfires, hstate, hentries, hfew, honly⟩ := headWrite_frame r.isLt hdue hhost hs
    exact ⟨_, rfl, hring, hsilent, hfires, hstate, hentries, hfew, congrArg (fun u => ({ s with eng := u } : State)) honly⟩
  · have hscans := (readFailed_scans r.val s.eng).trans (serveRings_scans _)
    exact ⟨_, exec_entryReadComplete_host hread hrun hhost .error, ringOf_readFailed_served r.val s.eng, hscans.regs,
      hscans.dom, hscans.memory, rfl⟩
  · obtain ⟨hnow, hregs, hraised, hmem, hentries⟩ := repeatRead_frame r.val due s.eng
    obtain ⟨hstop, hraise, hmem', hscan', hentries'⟩ := stopRing_kept r.val (repeatRead r.val due s.eng)
    obtain ⟨hstate, hcount, hsame⟩ := stopRing_entries r.isLt (repeatRead r.val due s.eng)
    have hold : reg (repeatRead r.val due s.eng) 0x4002 4 = reg s.eng 0x4002 4 := by rw [reg, hregs, reg]
    exact ⟨_, exec_entryReadRetry_error hretry hscan hen hrun, hstop.trans hnow, hstate, hraise.trans (by rw [hraised]),
      hcount.trans (by rw [hold]), .trans ((sameEntries_refl _ _).congr hregs) hsame, hscan', hentries'.trans hentries,
      hmem.trans hmem'⟩
  · obtain ⟨u, hexec, hu, hring⟩ := exec_entryReadComplete_unposted hread hscan hgot hrun hhost hlen hfree hpost
    have hscans := hu.trans (serveRings_scans u)
    obtain ⟨hscanning, hagain, -, hentries, hdoor⟩ := ringOf_serveRings_kept u r.val
    rw [hring] at hscanning hagain hentries hdoor
    refine ⟨_, hexec, fun hno => ?_, hscanning, hagain, hentries, hdoor, hscans.regs, hscans.dom, hscans.memory, rfl⟩
    have hidle : awaitsRead u r.val = false := awaitsRead_of_idle (by rw [hring]; exact hno)
    exact (ringOf_serveRings_idle hidle).trans (hring.trans (Ring.afterUnposted_last hno hgot))
  · have hscans := (scanBegun_scans r.val s.eng).trans (serveRings_scans _)
    obtain ⟨hscanning, -, hpaused', hentries, -⟩ := ringOf_serveRings_kept (scanBegun r.val s.eng) r.val
    rw [scanBegun, ringOf_onRing_same] at hscanning hpaused' hentries
    exact ⟨_, (exec_scanResume hpaused hfree hen hrun), hscanning, hpaused', hentries, hscans.regs, hscans.dom,
      hscans.memory, rfl⟩

end Sys2Proof.Proofs
end

section
/-! PROOFS. The completion of ring entries (spec/12_dynamic_channels.md R286, R297, R299, R300): what it counts, and what it
leaves alone. -/

namespace Sys2Proof.Machine

/-! ### Work on rings -/

/-- Nothing has changed but rings and the values of listed entries of the dictionary. -/
structure RingWork (ks : List (Nat × Nat)) (e t : Eng) : Prop where
  only : t = { e with regs := t.regs, rings := t.rings }
  entries : sameEntries ks e t

namespace RingWork

variable {ks : List (Nat × Nat)} {a b c : Eng}

theorem refl (ks : List (Nat × Nat)) (e : Eng) : RingWork ks e e := ⟨rfl, sameEntries_refl ks e⟩

theorem trans (h : RingWork ks a b) (g : RingWork ks b c) : RingWork ks a c :=
  ⟨by rw [g.only, h.only], h.entries.trans g.entries⟩

theorem mono {ks' : List (Nat × Nat)} (h : RingWork ks a b) (hs : ks ⊆ ks') : RingWork ks' a b :=
  ⟨h.only, h.entries.mono hs⟩

theorem onRing (h : RingWork ks a b) (r : Nat) (f : Ring → Ring) : RingWork ks a (Machine.onRing r f b) :=
  ⟨by rw [h.only]; rfl, h.entries.congr rfl⟩

theorem setReg {i k : Nat} (h : RingWork ks a b) (hm : (i, k) ∈ ks) (hi : i < 65536) (hk : k < 256) (v : Nat) :
    RingWork ks a (Machine.setReg i k v b) :=
  ⟨by rw [h.only]; rfl, h.entries.setReg hm hi hk v⟩

theorem bump {i k : Nat} (h : RingWork ks a b) (hm : (i, k) ∈ ks) (hi : i < 65536) (hk : k < 256) :
    RingWork ks a (Machine.bump i k b) := h.setReg hm hi hk _

theorem memory (h : RingWork ks a b) : sameMemory a b := by
  rw [h.only]
  exact sameMemory_of rfl rfl rfl rfl rfl

theorem dom (h : RingWork ks a b) : b.dom = a.dom := by rw [h.only]

theorem jobs (h : RingWork ks a b) : b.jobs = a.jobs := by rw [h.only]

theorem mem (h : RingWork ks a b) : b.mem = a.mem := by rw [h.only]

theorem out (h : RingWork ks a b) : b.out = a.out := by rw [h.only]

end RingWork

/-! ### An entry that completes -/

/-- An entry of an index and an epoch stands in a ring that is not complete. -/
def openEntry (e : Eng) (r epoch index : Nat) : Prop :=
  ∃ y ∈ (ringOf e r).entries, y.index = index ∧ y.epoch = epoch ∧ y.stage ≠ .complete

theorem openEntry.congr {e t : Eng} {r epoch index : Nat} (h : openEntry e r epoch index) (ht : t.rings = e.rings) :
    openEntry t r epoch index := by
  rwa [openEntry, ringOf_congr ht]

/-- An entry that has started is not complete. -/
theorem openEntry_started {e : Eng} {r epoch index : Nat} (h : openEntry e r epoch index) :
    openEntry (setEntryStage r epoch index .started e) r epoch index := by
  obtain ⟨y, hy, hi, he, -⟩ := h
  rw [openEntry, setEntryStage, ringOf_onRing_same]
  refine ⟨{ y with stage := .started }, List.mem_map.mpr ⟨y, hy, if_pos ⟨hi, he⟩⟩, hi, he, ?_⟩
  exact EntryStage.noConfusion

/-- What the end of an entry counts or marks (R286, R297, R300). -/
def countEntry (r : Nat) (x : RingEntry) (z : Ending) (frag : Nat) (e : Eng) : Eng :=
  if x.epoch ≠ reg e (ringIdx r) 12 then bump 0x4002 5 e
  else if z.status = .done then bump 0x4002 1 e else markBad r x z frag e

/-- An entry is complete, the head passes what it can, and an aborting ring with nothing outstanding is disabled. -/
def closeEntry (r epoch index : Nat) (e : Eng) : Eng :=
  let t := advanceHead r ((ringOf e r).entries.map fun y =>
    if y.index = index ∧ y.epoch = epoch then { y with stage := .complete } else y) e
  if reg t (ringIdx r) 8 = 2 ∧ !((ringOf t r).entries.any fun y => y.stage ≠ .complete) ∧ !(ringOf t r).headDue then
    setReg (ringIdx r) 8 0 t
  else t

theorem completeEntry_open {e : Eng} {r epoch index : Nat} (h : openEntry e r epoch index) (z : Ending) (frag : Nat) :
    ∃ x, x.epoch = epoch ∧ completeEntry r epoch index z frag e = closeEntry r epoch index (countEntry r x z frag e) := by
  unfold completeEntry
  split
  next hnone =>
    obtain ⟨y, hy, hi, he, hst⟩ := h
    exact absurd (List.find?_eq_none.mp hnone y hy) (by simp [hi, he, hst])
  next x hx =>
    have hkey := List.find?_some hx
    simp only [Bool.and_eq_true, beq_iff_eq] at hkey
    exact ⟨x, hkey.1.2, rfl⟩

theorem advanceHead_work {r : Nat} (hr : r < 64) (es : List RingEntry) (e : Eng) :
    RingWork [(ringIdx r, 8), (ringIdx r, 11)] e (advanceHead r es e) := by
  unfold advanceHead
  dsimp only
  split
  · exact ((RingWork.refl _ e).onRing ..).setReg (by simp) (ringIdx_lt hr) (by decide) _
  · exact (RingWork.refl _ e).onRing ..

theorem closeEntry_work {r : Nat} (hr : r < 64) (epoch index : Nat) (e : Eng) :
    RingWork [(ringIdx r, 8), (ringIdx r, 11)] e (closeEntry r epoch index e) := by
  unfold closeEntry
  dsimp only
  split
  · exact (advanceHead_work hr _ e).setReg (by simp) (ringIdx_lt hr) (by decide) _
  · exact advanceHead_work hr _ e

/-- The counters of the dispatcher stand as an entry is closed. -/
theorem reg_closeEntry {r k : Nat} (hr : r < 64) (hk : k < 256) (epoch index : Nat) (e : Eng) :
    reg (closeEntry r epoch index e) 0x4002 k = reg e 0x4002 k := by
  refine (closeEntry_work hr epoch index e).entries.reg (by decide) hk ?_
  simp only [ringIdx, List.mem_cons, Prod.mk.injEq, List.not_mem_nil, or_false]
  omega

theorem countEntry_stale {r : Nat} {x : RingEntry} {e : Eng} (h : x.epoch ≠ reg e (ringIdx r) 12) (z : Ending)
    (frag : Nat) : countEntry r x z frag e = bump 0x4002 5 e := if_pos h

theorem countEntry_done {r : Nat} {x : RingEntry} {e : Eng} (h : x.epoch = reg e (ringIdx r) 12) {z : Ending}
    (hz : z.status = .done) (frag : Nat) : countEntry r x z frag e = bump 0x4002 1 e := by
  rw [countEntry, if_neg (not_not.mpr h), if_pos hz]

/-- What an entry counts that completes DONE: JOBS_DONE where its ring has its epoch, and else STALE_COMPLETIONS. -/
structure DoneEntry (r epoch index : Nat) (e t : Eng) : Prop where
  entry : entryAt t r epoch index .complete
  live : epoch = reg e (ringIdx r) 12 →
    reg t 0x4002 1 = (reg e 0x4002 1 + 1) % 2 ^ 64 ∧ reg t 0x4002 5 = reg e 0x4002 5
  stale : epoch ≠ reg e (ringIdx r) 12 →
    reg t 0x4002 5 = (reg e 0x4002 5 + 1) % 2 ^ 64 ∧ reg t 0x4002 1 = reg e 0x4002 1
  work : RingWork [(0x4002, 1), (0x4002, 5), (ringIdx r, 8), (ringIdx r, 11)] e t

theorem reg_bump_jobs {k j : Nat} (hk : k = 1 ∨ k = 5) (hne : j ≠ k) (e : Eng) :
    reg (bump 0x4002 k e) 0x4002 k = (reg e 0x4002 k + 1) % 2 ^ 64 ∧ reg (bump 0x4002 k e) 0x4002 j = reg e 0x4002 j := by
  have hwidth : wrapWidth 0x4002 1 = 64 ∧ wrapWidth 0x4002 5 = 64 := by decide
  refine ⟨?_, reg_bump_other (by unfold cellKey; omega) e⟩
  rcases hk with rfl | rfl
  · rw [reg_bump_same, hwidth.1]
  · rw [reg_bump_same, hwidth.2]

theorem completeEntry_done {r epoch index : Nat} {e : Eng} (hr : r < 64) (h : openEntry e r epoch index) {z : Ending}
    (hz : z.status = .done) (frag : Nat) : DoneEntry r epoch index e (completeEntry r epoch index z frag e) := by
  have hentry := entryAt_completeEntry r epoch index z frag e
  obtain ⟨x, rfl, heq⟩ := completeEntry_open h z frag
  have hclose (u : Eng) := (closeEntry_work hr x.epoch index u).mono
    (List.subset_append_right [(0x4002, 1), (0x4002, 5)] [(ringIdx r, 8), (ringIdx r, 11)])
  have hstart := RingWork.refl ([(0x4002, 1), (0x4002, 5)] ++ [(ringIdx r, 8), (ringIdx r, 11)]) e
  rw [heq] at hentry ⊢
  by_cases hlive : x.epoch = reg e (ringIdx r) 12
  · obtain ⟨hsame, hother⟩ := reg_bump_jobs (k := 1) (j := 5) (.inl rfl) (by decide) e
    rw [countEntry_done hlive hz] at hentry ⊢
    refine ⟨hentry, fun _ => ?_, fun hne => absurd hlive hne,
      (hstart.bump (by simp) (by decide) (by decide)).trans (hclose _)⟩
    rw [reg_closeEntry hr (by decide), reg_closeEntry hr (by decide)]
    exact ⟨hsame, hother⟩
  · obtain ⟨hsame, hother⟩ := reg_bump_jobs (k := 5) (j := 1) (.inr rfl) (by decide) e
    rw [countEntry_stale hlive] at hentry ⊢
    refine ⟨hentry, fun heq => absurd heq hlive, fun _ => ?_,
      (hstart.bump (by simp) (by decide) (by decide)).trans (hclose _)⟩
    rw [reg_closeEntry hr (by decide), reg_closeEntry hr (by decide)]
    exact ⟨hsame, hother⟩

/-! ### Entries in their turn -/

/-- An entry that the dispatcher looks at next has been taken, and is not complete (R300). -/
theorem openEntry_of_next {e : Eng} {r : Nat} {p : RingEntry → Bool} {x : RingEntry}
    (h : (nextEntries e r).find? p = some x) : openEntry e r x.epoch x.index := by
  have htaken := List.mem_of_mem_filter (List.mem_of_find?_eq_some h)
  obtain ⟨hmem, hstage⟩ := List.mem_filter.mp htaken
  refine ⟨x, hmem, rfl, rfl, ?_⟩
  rw [beq_iff_eq.mp hstage]
  exact EntryStage.noConfusion

end Sys2Proof.Machine
end

section
/-! PROOFS. Entries that complete as they start, and the SEM_OP entries (O27; spec/12_dynamic_channels.md R281, R283 to R285,
R290, spec/13_remote_sync.md R328 to R331). -/

namespace Sys2Proof.Machine

/-! ### Entries that complete as they start -/

/-- An entry has completed DONE, and of the block nothing else has changed that a job or a port sees. -/
def settled (r : Nat) (x : RingEntry) (s t : State) : Prop :=
  (∀ y ∈ (ringOf t.eng r).entries, y.index = x.index → y.epoch = x.epoch → y.stage = .complete) ∧
  (x.epoch = reg s.eng (ringIdx r) 12 → reg t.eng 0x4002 1 = (reg s.eng 0x4002 1 + 1) % 2 ^ 64 ∧
    reg t.eng 0x4002 5 = reg s.eng 0x4002 5) ∧
  (x.epoch ≠ reg s.eng (ringIdx r) 12 → reg t.eng 0x4002 5 = (reg s.eng 0x4002 5 + 1) % 2 ^ 64 ∧
    reg t.eng 0x4002 1 = reg s.eng 0x4002 1) ∧ sameMemory s.eng t.eng ∧ t.eng.out = s.eng.out ∧
  t.eng.jobs = s.eng.jobs ∧ t.port = s.port ∧ t.pending = s.pending

/-- An entry that completes after work that leaves the dispatcher's counters and the ring's epoch alone. -/
theorem settled_after {r : Nat} {x : RingEntry} {s : State} {e t : Eng} (hr : r < 64)
    (h : DoneEntry r x.epoch x.index e t) {ks : List (Nat × Nat)} (hks : ∀ q ∈ ks, q.1 = 0x5120)
    (he : sameEntries ks s.eng e) (hmem : sameMemory s.eng e) (hout : e.out = s.eng.out) (hjobs : e.jobs = s.eng.jobs) :
    settled r x s { s with eng := t } := by
  have h12 : reg e (ringIdx r) 12 = reg s.eng (ringIdx r) 12 :=
    he.reg (ringIdx_lt hr) (by decide) fun hq => by
      have hidx : ringIdx r = 0x5120 := hks _ hq
      unfold ringIdx at hidx
      omega
  have hcount (k : Nat) (hk : k < 256) : reg e 0x4002 k = reg s.eng 0x4002 k :=
    he.reg (by decide) hk fun hq => by
      have hidx : (0x4002 : Nat) = 0x5120 := hks _ hq
      exact absurd hidx (by decide)
  have hlive := h.live
  have hstale := h.stale
  rw [h12, hcount 1 (by decide), hcount 5 (by decide)] at hlive hstale
  exact ⟨h.entry, hlive, hstale, hmem.trans h.work.memory, h.work.out.trans hout, h.work.jobs.trans hjobs, rfl, rfl⟩

/-- NOP, SKIP and FENCE: the entry in its turn completes DONE. -/
theorem completeDone_settles {r op : Nat} {can : Eng → RingEntry → Bool} {s : State} {x : RingEntry} (hr : r < 64)
    (h : (nextEntries s.eng r).find? (fun y => opcodeOf y.bytes == op && can s.eng y) = some x) :
    let t := onEng (onEntry r op can (completeDone r)) s
    settled r x s t ∧ t.eng.dom = s.eng.dom ∧
      sameEntries [(0x4002, 1), (0x4002, 5), (ringIdx r, 8), (ringIdx r, 11)] s.eng t.eng := by
  have hdone := completeEntry_done hr (openEntry_of_next h) (z := okDone) rfl 0
  have hgo : onEntry r op can (completeDone r) s.eng = completeEntry r x.epoch x.index okDone 0 s.eng :=
    onEntry_found h
  simp only [onEng, hgo]
  exact ⟨settled_after hr hdone (ks := []) (by simp) (sameEntries_refl _ _) (sameMemory_refl _) rfl rfl,
    hdone.work.dom, hdone.work.entries⟩

/-! ### Semaphores -/

theorem semVal_congr {e t : Eng} (h : t.dom = e.dom) (p : Nat) : semVal t p = semVal e p := by
  simp only [semVal, domNat, domBytes, h]

/-- With no waiters none is released; the count of those released takes its width. -/
theorem testWaiters_none {e : Eng} (h : e.sems.waiters = []) (p : Nat) : testWaiters p e = bumpBy 0 0x5120 2 e := by
  have hsems : ({ e with sems := { e.sems with waiters := [] } } : Eng) = e := by rw [← h]
  simp only [testWaiters, h, List.filter_nil, List.length_nil, List.foldl_nil, hsems]

/-- A semaphore takes a new value, and its waiters are tested (R328, R329). -/
def semSet (p v : Nat) (e : Eng) : Eng := testWaiters p (setDomNat 0x5100 1 (4 * p) 4 v (bump 0x5120 1 e))

theorem semSet_frame {e : Eng} (h : e.sems.waiters = []) (p v : Nat) :
    sameEntries [(0x5120, 1), (0x5120, 2)] e (semSet p v e) ∧
    semSet p v e = { e with regs := (semSet p v e).regs, dom := (semSet p v e).dom } ∧
    semVal (semSet p v e) p = v % 2 ^ 32 := by
  have hw : (setDomNat 0x5100 1 (4 * p) 4 v (bump 0x5120 1 e)).sems.waiters = [] := h
  rw [semSet, testWaiters_none hw]
  refine ⟨?_, rfl, domNat_setDomNat_same 0x5100 1 (4 * p) 4 v _⟩
  have hcount := (sameEntries_refl [(0x5120, 1), (0x5120, 2)] e).bump (i := 0x5120) (k := 1) (by simp) (by decide)
    (by decide)
  exact (hcount.congr (u := setDomNat 0x5100 1 (4 * p) 4 v (bump 0x5120 1 e)) rfl).bumpBy (by simp) (by decide)
    (by decide) 0

theorem applySem_add {op : SemOp} (h : op.kind = .add) (p : Nat) (e : Eng) :
    applySem p op e = semDone op okDone (semSet p ((semVal e p + op.value) % 2 ^ 32) e) := by
  have hval : semVal (bump 0x5120 1 e) p = semVal e p := semVal_congr rfl p
  simp only [applySem, h, hval]
  rfl

theorem applySem_sub {op : SemOp} (h : op.kind = .sub) (p : Nat) (e : Eng) :
    applySem p op e = semDone op okDone (semSet p ((semVal e p + 2 ^ 32 - op.value % 2 ^ 32) % 2 ^ 32) e) := by
  have hval : semVal (bump 0x5120 1 e) p = semVal e p := semVal_congr rfl p
  simp only [applySem, h, hval]
  rfl

/-- A WAIT_GE whose condition holds is done (R330). -/
theorem applySem_waitGe_met {op : SemOp} (h : op.kind = .waitGe) {p : Nat} {e : Eng}
    (hmet : gateMet (semVal e p) op.value = true) : applySem p op e = semDone op okDone (bump 0x5120 1 e) := by
  have hval : semVal (bump 0x5120 1 e) p = semVal e p := semVal_congr rfl p
  simp only [applySem, h, hval, hmet, if_true]

/-- A WAIT_GE whose condition does not hold becomes a waiter (R330). -/
theorem applySem_waitGe_waits {op : SemOp} (h : op.kind = .waitGe) {p : Nat} {e : Eng}
    (hunmet : gateMet (semVal e p) op.value = false) (hw : e.sems.waiters = []) : applySem p op e =
      { bump 0x5120 1 e with ids := e.ids + 1, sems := { e.sems with waiters := [⟨e.ids, p, op⟩] } } := by
  have hval : semVal (bump 0x5120 1 e) p = semVal e p := semVal_congr rfl p
  have hroom : ¬1024 ≤ (bump 0x5120 1 e).sems.waiters.length := by
    rw [bump_sems, hw]
    decide
  simp only [applySem, h, hval, hunmet, hroom, Bool.false_eq_true, if_false]
  rw [newId]
  simp only [bump_sems, hw, List.nil_append]
  rfl

/-! ### SEM_OP entries -/

/-- The operation of a SEM_OP entry (R285). -/
def entryOp (r : Nat) (kind : SemKind) (limit : Nat) (x : RingEntry) (e : Eng) : SemOp :=
  { kind, ctx := reg e (ringIdx r) 4, v := entryField x.bytes 18 2, value := entryField x.bytes 20 4,
    source := .ring r x.epoch x.index, limit }

/-- A SEM_OP entry whose semaphore is resident starts, and its operation is applied (R331). -/
theorem entrySemOp_resident {r : Nat} {x : RingEntry} {e : Eng}
    (ht : translates e (reg e (ringIdx r) 4) (entryField x.bytes 18 2) = true)
    (hres : resident e (reg e (ringIdx r) 4) (entryField x.bytes 18 2) = true) (kind : SemKind) (limit : Nat) :
    entrySemOp r kind limit x e =
      applySem (physOf e (reg e (ringIdx r) 4) (entryField x.bytes 18 2)) (entryOp r kind limit x e)
        (setEntryStage r x.epoch x.index .started e) := by
  have ht' : translates (setEntryStage r x.epoch x.index .started e) (reg e (ringIdx r) 4)
    (entryField x.bytes 18 2) = true := ht
  have hres' : resident (setEntryStage r x.epoch x.index .started e) (reg e (ringIdx r) 4)
    (entryField x.bytes 18 2) = true := hres
  simp only [entrySemOp, semOp, ht', hres', Bool.not_true, Bool.false_eq_true, if_false, if_true]
  rfl

/-- The end of a SEM_OP entry's operation completes the entry. -/
theorem semDone_entry (r : Nat) (kind : SemKind) (limit : Nat) (x : RingEntry) (e u : Eng) :
    semDone (entryOp r kind limit x e) okDone u = completeEntry r x.epoch x.index okDone 0 u := rfl

/-- An entry starts, gives a semaphore its new value, and completes. -/
def valueSet (r : Nat) (x : RingEntry) (p v : Nat) (e : Eng) : Eng :=
  completeEntry r x.epoch x.index okDone 0 (semSet p v (setEntryStage r x.epoch x.index .started e))

/-- An entry whose operation gives its semaphore a new value completes (R285). -/
theorem semSet_settles {r : Nat} {x : RingEntry} {s : State} (hr : r < 64) (h : openEntry s.eng r x.epoch x.index)
    (hw : s.eng.sems.waiters = []) (p v : Nat) :
    settled r x s { s with eng := valueSet r x p v s.eng } ∧ semVal (valueSet r x p v s.eng) p = v % 2 ^ 32 := by
  obtain ⟨hcounts, honly, hval⟩ := semSet_frame (e := setEntryStage r x.epoch x.index .started s.eng) hw p v
  have hopen : openEntry (semSet p v (setEntryStage r x.epoch x.index .started s.eng)) r x.epoch x.index :=
    (openEntry_started h).congr (by rw [honly])
  have hdone := completeEntry_done hr hopen (z := okDone) rfl 0
  refine ⟨settled_after hr hdone (by simp) (.trans ((sameEntries_refl _ s.eng).congr rfl) hcounts) ?_ ?_ ?_,
    (semVal_congr hdone.work.dom p).trans hval⟩
  · rw [honly]
    exact sameMemory_of rfl rfl rfl rfl rfl
  · rw [honly]
    rfl
  · rw [honly]
    rfl

/-- A WAIT_GE entry starts and completes. -/
def waitMet (r : Nat) (x : RingEntry) (e : Eng) : Eng :=
  completeEntry r x.epoch x.index okDone 0 (bump 0x5120 1 (setEntryStage r x.epoch x.index .started e))

/-- A WAIT_GE entry whose condition holds completes as it starts (R285). -/
theorem waitGe_settles {r : Nat} {x : RingEntry} {s : State} (hr : r < 64) (h : openEntry s.eng r x.epoch x.index) :
    settled r x s { s with eng := waitMet r x s.eng } ∧ (waitMet r x s.eng).dom = s.eng.dom := by
  have hopen : openEntry (bump 0x5120 1 (setEntryStage r x.epoch x.index .started s.eng)) r x.epoch x.index :=
    (openEntry_started h).congr (bump_rings ..)
  have hdone := completeEntry_done hr hopen (z := okDone) rfl 0
  have hcount : sameEntries [(0x5120, 1)] s.eng (bump 0x5120 1 (setEntryStage r x.epoch x.index .started s.eng)) :=
    ((sameEntries_refl _ s.eng).congr rfl).bump (by simp) (by decide) (by decide)
  exact ⟨settled_after hr hdone (by simp) hcount (sameMemory_of rfl rfl rfl rfl rfl) rfl rfl, hdone.work.dom⟩

/-! ### The commands -/

section
variable {r : Fin 64} {s : State} {x : RingEntry}

/-- A SEM_OP ADD or SUB entry in its turn reaches the semaphore memory. -/
theorem semAddSub_found {code : Nat} {kind : SemKind} (h : (nextEntries s.eng r.val).find? (fun y =>
      opcodeOf y.bytes == 5 && (entryByte y.bytes 16 == code && canFollow r.val s.eng y)) = some x) :
    semAddSub r.val code kind s.eng = entrySemOp r.val kind 0 x s.eng :=
  onEntry_found (can := fun e x => entryByte x.bytes 16 == code && canFollow r.val e x) h

/-- The limit of a WAIT_GE entry that starts now, in frames of its own or the default ones (R285). -/
def waitLimit (x : RingEntry) (e : Eng) : Nat :=
  e.now + frameT * (if entryField x.bytes 24 4 = 0 then reg e 0x4001 2 else entryField x.bytes 24 4)

/-- A WAIT_GE entry starts and becomes the waiter of a physical semaphore. -/
def waitBegun (r : Nat) (x : RingEntry) (p : Nat) (e : Eng) : Eng :=
  { bump 0x5120 1 (setEntryStage r x.epoch x.index .started e) with
    ids := e.ids + 1
    sems := { e.sems with waiters := [⟨e.ids, p, entryOp r .waitGe (waitLimit x e) x e⟩] } }

theorem waitBegun_frame (r : Nat) (x : RingEntry) (p : Nat) (e : Eng) :
    entryAt (waitBegun r x p e) r x.epoch x.index .started ∧ (waitBegun r x p e).dom = e.dom ∧
      sameMemory e (waitBegun r x p e) := by
  have hrings : (waitBegun r x p e).rings = (setEntryStage r x.epoch x.index .started e).rings := bump_rings 0x5120 1 _
  refine ⟨(entryAt_setEntryStage r x.epoch x.index .started e).congr hrings, rfl, ?_⟩
  have hstarted : RingWork [(0x5120, 1)] e (setEntryStage r x.epoch x.index .started e) := (RingWork.refl _ e).onRing ..
  have hcounted := (hstarted.bump (i := 0x5120) (k := 1) (by simp) (by decide) (by decide)).memory
  exact hcounted.trans (sameMemory_of rfl rfl rfl rfl rfl)

theorem exec_semOpWaitGe (h : (nextEntries s.eng r.val).find? (fun y =>
      opcodeOf y.bytes == 5 && (entryByte y.bytes 16 == 1 && canStart r.val s.eng y)) = some x) :
    exec (.semOpWaitGe r) s =
      .next { s with eng := entrySemOp r.val .waitGe (waitLimit x s.eng) x s.eng } := by
  have hgo := onEntry_found (can := fun e x => entryByte x.bytes 16 == 1 && canStart r.val e x)
    (f := fun x e => entrySemOp r.val .waitGe (waitLimit x e) x e) h
  exact congrArg (fun u => Host.Outcome.next { s with eng := u }) hgo

variable (htr : translates s.eng (reg s.eng (ringIdx r.val) 4) (entryField x.bytes 18 2) = true)
  (hres : resident s.eng (reg s.eng (ringIdx r.val) 4) (entryField x.bytes 18 2) = true)
include htr hres

theorem exec_semOpAdd (h : (nextEntries s.eng r.val).find? (fun y =>
      opcodeOf y.bytes == 5 && (entryByte y.bytes 16 == 2 && canFollow r.val s.eng y)) = some x) :
    let p := physOf s.eng (reg s.eng (ringIdx r.val) 4) (entryField x.bytes 18 2)
    exec (.semOpAdd r) s =
      .next (onEng (valueSet r.val x p ((semVal s.eng p + entryField x.bytes 20 4) % 2 ^ 32)) s) := by
  intro p
  have hgo := (semAddSub_found (kind := .add) h).trans (entrySemOp_resident htr hres .add 0)
  rw [applySem_add rfl, semDone_entry] at hgo
  exact congrArg (fun u => Host.Outcome.next { s with eng := u }) hgo

theorem exec_semOpSub (h : (nextEntries s.eng r.val).find? (fun y =>
      opcodeOf y.bytes == 5 && (entryByte y.bytes 16 == 3 && canFollow r.val s.eng y)) = some x) :
    let p := physOf s.eng (reg s.eng (ringIdx r.val) 4) (entryField x.bytes 18 2)
    exec (.semOpSub r) s = .next (onEng
      (valueSet r.val x p ((semVal s.eng p + 2 ^ 32 - entryField x.bytes 20 4 % 2 ^ 32) % 2 ^ 32)) s) := by
  intro p
  have hgo := (semAddSub_found (kind := .sub) h).trans (entrySemOp_resident htr hres .sub 0)
  rw [applySem_sub rfl, semDone_entry] at hgo
  exact congrArg (fun u => Host.Outcome.next { s with eng := u }) hgo

theorem exec_semOpWaitGe_met (h : (nextEntries s.eng r.val).find? (fun y =>
      opcodeOf y.bytes == 5 && (entryByte y.bytes 16 == 1 && canStart r.val s.eng y)) = some x)
    (hmet : gateMet (semVal s.eng (physOf s.eng (reg s.eng (ringIdx r.val) 4) (entryField x.bytes 18 2)))
      (entryField x.bytes 20 4) = true) :
    exec (.semOpWaitGe r) s = .next (onEng (waitMet r.val x) s) := by
  have happly := applySem_waitGe_met (op := entryOp r.val .waitGe (waitLimit x s.eng) x s.eng)
    (e := setEntryStage r.val x.epoch x.index .started s.eng) rfl hmet
  rw [exec_semOpWaitGe h, entrySemOp_resident htr hres, happly, semDone_entry]
  rfl

theorem exec_semOpWaitGe_waits (h : (nextEntries s.eng r.val).find? (fun y =>
      opcodeOf y.bytes == 5 && (entryByte y.bytes 16 == 1 && canStart r.val s.eng y)) = some x)
    (hunmet : gateMet (semVal s.eng (physOf s.eng (reg s.eng (ringIdx r.val) 4) (entryField x.bytes 18 2)))
      (entryField x.bytes 20 4) = false) (hw : s.eng.sems.waiters = []) :
    exec (.semOpWaitGe r) s = .next (onEng
      (waitBegun r.val x (physOf s.eng (reg s.eng (ringIdx r.val) 4) (entryField x.bytes 18 2))) s) := by
  have happly := applySem_waitGe_waits (op := entryOp r.val .waitGe (waitLimit x s.eng) x s.eng)
    (e := setEntryStage r.val x.epoch x.index .started s.eng) rfl hunmet hw
  rw [exec_semOpWaitGe h, entrySemOp_resident htr hres, happly]
  rfl

end

end Sys2Proof.Machine

namespace Sys2Proof.Proofs

open Sys2Proof Sys2Proof.Machine

/-- Settles O27: an entry completes once, whatever has gone before on its semaphore; without waiters an operation on a
resident semaphore sets its value and no more. -/
theorem entriesInTurn : Obligations.EntriesInTurn := by
  unfold Obligations.EntriesInTurn
  intro r s x next ctx v k ph done
  refine ⟨fun h => ?_, fun h => ?_, fun h => ?_, fun hres htr hw => ⟨fun h => ?_, fun h => ?_, fun h => ⟨fun hmet => ?_, fun hunmet => ?_⟩⟩⟩
  · exact ⟨_, rfl, completeDone_settles r.isLt h⟩
  · exact ⟨_, rfl, completeDone_settles r.isLt h⟩
  · exact ⟨_, rfl, completeDone_settles r.isLt h⟩
  · obtain ⟨hdone, hval⟩ := semSet_settles r.isLt (openEntry_of_next h) hw ph ((semVal s.eng ph + k) % 2 ^ 32)
    exact ⟨_, exec_semOpAdd htr hres h, hdone, hval.trans (Nat.mod_mod ..)⟩
  · obtain ⟨hdone, hval⟩ := semSet_settles r.isLt (openEntry_of_next h) hw ph
      ((semVal s.eng ph + 2 ^ 32 - k % 2 ^ 32) % 2 ^ 32)
    exact ⟨_, exec_semOpSub htr hres h, hdone, hval.trans (Nat.mod_mod ..)⟩
  · exact ⟨_, exec_semOpWaitGe_met htr hres h hmet, waitGe_settles r.isLt (openEntry_of_next h)⟩
  · exact ⟨_, _, exec_semOpWaitGe_waits htr hres h hunmet hw, rfl, rfl, rfl, rfl, waitBegun_frame ..⟩

end Sys2Proof.Proofs
end

section
/-! PROOFS. Jobs that start and jobs that complete (O29; spec/12_dynamic_channels.md R286, R287, R290, R296, R297,
spec/07_weight_compression.md R179, spec/14_placement_resharding.md R348). -/

namespace Sys2Proof.Machine

theorem jobOf_congr {e t : Eng} (h : t.jobs = e.jobs) (j : Nat) : jobOf t j = jobOf e j := by rw [jobOf, jobOf, h]

namespace onlyAsked

variable {e t : Eng} (h : onlyAsked e t)
include h

theorem jobs : t.jobs = e.jobs := by rw [h]

theorem regs : t.regs = e.regs := by rw [h]

theorem dom : t.dom = e.dom := by rw [h]

theorem mem : t.mem = e.mem := by rw [h]

end onlyAsked

/-! ### Reads of stack memory -/

theorem submitEach_ids_length {α : Type} (f : α → Eng → Nat × Eng) (xs : List α) (e : Eng) :
    (submitEach f xs e).1.length = xs.length := by
  induction xs generalizing e with
  | nil => rfl
  | cons x xs ih => exact congrArg (· + 1) (ih _)

theorem batches_ne_nil (whole : List Atom → Bool) (x : Nat × List Atom) (t : List (Nat × List Atom)) :
    batches whole (x :: t) ≠ [] := by
  rw [batches]
  split
  · exact List.cons_ne_nil _ _
  · split <;> exact List.cons_ne_nil _ _

/-- Sectors that are read take at least one request. -/
theorem submitSectors_ids_ne_nil (b : AccessBy) {sectors : List Nat} (h : sectors ≠ []) (e : Eng) :
    (submitSectors b sectors e).1 ≠ [] := by
  obtain ⟨x, t, rfl⟩ := List.exists_cons_of_ne_nil h
  refine List.ne_nil_of_length_pos ?_
  rw [submitSectors, submitAll, submitEach_ids_length, List.map_cons]
  exact List.length_pos_iff.mpr (batches_ne_nil _ _ _)

/-- A range that is not empty touches a sector. -/
theorem sectorsOf_ne_nil {n : Nat} (hn : 0 < n) (a : Nat) : sectorsOf [(a, n)] ≠ [] := by
  have hfirst : a / 32 ∈ upFrom (a / 32) ((a + n + 31) / 32 - a / 32) := mem_upFrom.mpr (by omega)
  have hheld : (upFrom (a / 32) ((a + n + 31) / 32 - a / 32)).foldl
      (fun (acc : List Nat) s => if acc.contains s then acc else s :: acc) [] ≠ [] := by
    refine foldl_reaches (P := fun acc : List Nat => acc ≠ []) hfirst (fun acc => ?_) (fun acc s _ h => ?_) []
    · by_cases hin : acc.contains (a / 32) = true
      · rw [if_pos hin]
        rintro rfl
        simp at hin
      · rw [if_neg hin]
        exact List.cons_ne_nil _ _
    · split
      · exact h
      · exact List.cons_ne_nil _ _
  rw [sectorsOf]
  exact List.reverse_ne_nil_iff.mpr hheld

/-- A job that reads a range of stack memory alone waits for its requests. -/
theorem readInto_stack {a n : Nat} (h : (regionOf a).1 = .stack) (hn : 0 < n) (x : Job) (e : Eng) :
    ∃ ids u, ids ≠ [] ∧ onlyAsked e u ∧ readInto x [(a, n)] e = setJob { x with waits := ids } u := by
  have hpool : ([(a, n)].filter fun r => (regionOf r.1).1 = .pool) = [] := by simp [h]
  have hhost : ([(a, n)].filter fun r => (regionOf r.1).1 = .host) = [] := by simp [h]
  have hstack : ([(a, n)].filter fun r => (regionOf r.1).1 = .stack) = [(a, n)] := by simp [h]
  have hplain : ((sectorsOf [(a, n)]).filter fun s => !([] : List (List Nat)).any (·.contains s)) = sectorsOf [(a, n)] :=
    List.filter_eq_self.mpr fun _ _ => rfl
  refine ⟨_, (submitSectors (jobAccess x laneRead) (sectorsOf [(a, n)]) e).2,
    submitSectors_ids_ne_nil (jobAccess x laneRead) (sectorsOf_ne_nil hn a) e, submitAll_asked _ _ _ e, ?_⟩
  unfold readInto readTurned
  simp only [hpool, hhost, hstack, hplain]
  simp [mergeRanges, submitTurned, submitEach, submitSectors]

/-! ### Jobs that start -/

/-- A ready job in its turn goes on, on the station that takes it (R290). -/
theorem startJob_starts {j r st : Nat} {x : Job} {e : Eng} (hj : jobOf e j = some x) (hring : x.ring = some r)
    (hready : x.stage = .ready) (hop : x.op ≠ 10) (hturn : mayStart e r x.epoch x.index = true)
    (hheld : e.fw.ringHeld = false) (hgo : dispatching e = true) (hst : chooseStation e x = some st) :
    startJob j e = continueJob j (setJob { x with stage := .reading, station := some st }
      (setEntryStage r x.epoch x.index .started e)) := by
  simp only [startJob, hj, if_neg hop]
  simp [jobStart, hj, hring, hready, hop, hturn, hheld, hgo, hst]

theorem runJob_expandStep {j : Nat} {x : Job} {e : Eng} (h : jobOf e j = some x) (hop : x.op = 9) (hgo : steps x = true)
    (fuel : Nat) : runJob (fuel + 1) j e = runJob fuel j (stepExpand x e) := by
  rw [runJob, h]
  simp only [hgo, if_true, hop]

/-- An EXPAND job that has just started asks for the header of its first block and waits (R179). -/
theorem continueJob_readsHeader {x : Job} {e : Eng} (h : jobOf e x.id = some x) (hop : x.op = 9)
    (hst : x.stage = .reading) (hw : x.waits = []) (hstep : x.step = 0)
    (hstack : (regionOf (blockPlace e x x.block).header).1 = .stack) :
    ∃ ids u, ids ≠ [] ∧ onlyAsked e u ∧
      continueJob x.id e = setJob { x with step := 11, stage := .reading, waits := ids } u := by
  obtain ⟨ids, u, hids, hu, hread⟩ :=
    readInto_stack hstack (n := 128) (by decide) { x with step := 11, stage := .reading } e
  have hgo : steps x = true := by simp [steps, hst, hw]
  have hfuel : jobFuel x = jobFuel x - 1 + 1 := by rw [jobFuel]; omega
  have hholds : holdsJob u x.id := (holdsJob_of_jobOf h).congr hu.jobs
  have hstepped : stepExpand x e = readInto { x with step := 11, stage := .reading }
      [((blockPlace e x x.block).header, 128)] e := by
    simp only [stepExpand, hstep]
    rfl
  refine ⟨ids, u, hids, hu, ?_⟩
  rw [continueJob, h]
  dsimp only
  rw [hfuel, runJob_expandStep h hop hgo, hstepped, hread]
  exact runJob_waiting (jobOf_setJob (x := { x with step := 11, stage := .reading, waits := ids }) hholds) hids _

/-- A ready re-shard in its turn starts (R290). -/
theorem startJob_reshard {j r : Nat} {x : Job} {e : Eng} (hj : jobOf e j = some x) (hring : x.ring = some r)
    (hready : x.stage = .ready) (hop : x.op = 10) (hplan : planning e = true)
    (hturn : mayStart e r x.epoch x.index = true) (hheld : e.fw.ringHeld = false) (hgo : dispatching e = true) :
    startJob j e = startReshard x e := by
  simp [startJob, hj, hring, hready, hop, hturn, hheld, hgo, hplan]

/-- A re-shard that sends asks HST for its peer table (R348). -/
theorem startReshard_reads {r : Nat} {x : Job} {e : Eng} (hring : x.ring = some r)
    (hsends : (parseReshard x.desc).targets ≠ []) (hhost : (regionOf (parseReshard x.desc).peers).1 = .host) :
    let u := requestRead (.job x.id) x.cls false (parseReshard x.desc).peers (4 * (parseReshard x.desc).dst.positions)
      (setEntryStage r x.epoch x.index .started e)
    startReshard x e = setJob { x with stage := .reading, buf := [], waits := u.1 } u.2 := by
  have hne : (parseReshard x.desc).targets.isEmpty = false := by simpa using hsends
  simp only [startReshard, hring, hne, Bool.false_eq_true, if_false, fetchRecord, hhost]

theorem exec_jobStart (j : Nat) (s : State) : exec (.jobStart j) s = .next (onEng (startJob j) s) := rfl

/-- An EXPAND job starts and reads its first header. -/
theorem exec_jobStart_expand {r st : Nat} {x : Job} {s : State} (hj : jobOf s.eng x.id = some x) (hring : x.ring = some r)
    (hready : x.stage = .ready) (hop : x.op = 9) (hstep : x.step = 0) (hw : x.waits = [])
    (hturn : mayStart s.eng r x.epoch x.index = true) (hheld : s.eng.fw.ringHeld = false)
    (hgo : dispatching s.eng = true) (hst : chooseStation s.eng x = some st)
    (hstack : (regionOf (blockPlace s.eng { x with station := some st } x.block).header).1 = .stack) :
    ∃ t y, exec (.jobStart x.id) s = .next t ∧ jobOf t.eng x.id = some y ∧ y.station = some st ∧ y.stage = .reading ∧
      y.step = 11 ∧ y.waits ≠ [] ∧ t.eng.dom = s.eng.dom ∧ t.eng.mem = s.eng.mem ∧ t.port = s.port ∧
      t.pending = s.pending := by
  have hstarts := startJob_starts hj hring hready (by omega) hturn hheld hgo hst
  have hheldJob : holdsJob (setEntryStage r x.epoch x.index .started s.eng) x.id := (holdsJob_of_jobOf hj).congr rfl
  have hfound := jobOf_setJob (x := { x with stage := .reading, station := some st }) hheldJob
  obtain ⟨ids, u, hids, hu, hgoes⟩ := continueJob_readsHeader hfound hop rfl hw hstep hstack
  have hasks : holdsJob u x.id := (holdsJob_setJob (x := { x with stage := .reading, station := some st }) hheldJob).congr
    hu.jobs
  have heq := hstarts.trans hgoes
  exact ⟨_, _, exec_jobStart x.id s, (congrArg (jobOf · x.id) heq).trans (jobOf_setJob hasks), rfl, rfl, rfl, hids,
    (congrArg Eng.dom heq).trans hu.dom, (congrArg Eng.mem heq).trans hu.mem, rfl, rfl⟩

/-- A re-shard starts and reads its peer table. -/
theorem exec_jobStart_reshard {r : Nat} {x : Job} {s : State} (hj : jobOf s.eng x.id = some x) (hring : x.ring = some r)
    (hready : x.stage = .ready) (hop : x.op = 10) (hplan : planning s.eng = true)
    (hturn : mayStart s.eng r x.epoch x.index = true) (hheld : s.eng.fw.ringHeld = false)
    (hgo : dispatching s.eng = true) (hsends : (parseReshard x.desc).targets ≠ [])
    (hhost : (regionOf (parseReshard x.desc).peers).1 = .host) (hpos : 0 < (parseReshard x.desc).dst.positions) :
    ∃ t y, exec (.jobStart x.id) s = .next t ∧ jobOf t.eng x.id = some y ∧ y.stage = .reading ∧ y.waits ≠ [] ∧
      t.eng.dom = s.eng.dom ∧ t.eng.regs = s.eng.regs ∧ t.eng.mem = s.eng.mem ∧ t.port = s.port ∧
      t.pending = s.pending := by
  have hstarts := (startJob_reshard hj hring hready hop hplan hturn hheld hgo).trans
    (startReshard_reads (e := s.eng) hring hsends hhost)
  have hasked := requestRead_asked (.job x.id) x.cls false (parseReshard x.desc).peers
    (4 * (parseReshard x.desc).dst.positions) (setEntryStage r x.epoch x.index .started s.eng)
  have hids := requestRead_ids_ne_nil (.job x.id) x.cls false (parseReshard x.desc).peers
    (n := 4 * (parseReshard x.desc).dst.positions) (by omega) (setEntryStage r x.epoch x.index .started s.eng)
  have hholds := (holdsJob_of_jobOf hj).congr hasked.jobs
  exact ⟨_, _, exec_jobStart x.id s, (congrArg (jobOf · x.id) hstarts).trans (jobOf_setJob hholds), rfl, hids,
    (congrArg Eng.dom hstarts).trans hasked.dom,
    (congrArg Eng.regs hstarts).trans hasked.regs,
    (congrArg Eng.mem hstarts).trans hasked.mem, rfl, rfl⟩

/-! ### Marks of entries -/

/-- Writes of memory leave the jobs, the DOMAIN data and the count of bad entries alone. -/
structure MemoryWork (e t : Eng) : Prop where
  jobs : t.jobs = e.jobs
  dom : t.dom = e.dom
  bad : reg t 0x4002 2 = reg e 0x4002 2

namespace MemoryWork

variable {a b c : Eng}

theorem refl (e : Eng) : MemoryWork e e := ⟨rfl, rfl, rfl⟩

theorem trans (h : MemoryWork a b) (g : MemoryWork b c) : MemoryWork a c :=
  ⟨g.jobs.trans h.jobs, g.dom.trans h.dom, g.bad.trans h.bad⟩

theorem ite {p : Prop} [Decidable p] (h : MemoryWork a b) (g : MemoryWork a c) : MemoryWork a (if p then b else c) := by
  split <;> assumption

theorem foldl {α : Type} {f : Eng → α → Eng} (h : ∀ e x, MemoryWork e (f e x)) (xs : List α) (e : Eng) :
    MemoryWork e (xs.foldl f e) := foldl_related refl trans (fun e x _ => h e x) e

end MemoryWork

theorem recordPoison_memoryWork (n off touched pois : Nat) (e : Eng) :
    MemoryWork e (recordPoison n off touched pois e) := by
  unfold recordPoison
  dsimp only
  split
  · refine ⟨rfl, rfl, ?_⟩
    exact reg_bumpBy_other (by unfold cellKey; omega) _ e
  · exact ⟨rfl, rfl, rfl⟩

theorem poolWrite_memoryWork (a : Nat) (bs : List (Byte × Bool)) (e : Eng) : MemoryWork e (poolWrite a bs e) := by
  rw [poolWrite_only]
  exact ⟨rfl, rfl, rfl⟩

theorem putByte_memoryWork (a : Nat) (b : Byte) (pois : Bool) (e : Eng) : MemoryWork e (putByte a b pois e) := by
  have hset : MemoryWork e (setMemByte a b e) := ⟨rfl, rfl, rfl⟩
  unfold putByte
  split
  · exact .refl e
  · split
    · exact .ite (hset.trans (recordPoison_memoryWork ..)) hset
    · exact poolWrite_memoryWork ..
    · exact .refl e

theorem cleanWords_memoryWork (a n : Nat) (e : Eng) : MemoryWork e (cleanWords a n e) := by
  refine .foldl (fun e w => ?_) _ e
  split
  · exact recordPoison_memoryWork ..
  · exact ⟨rfl, rfl, rfl⟩
  · exact .refl e

theorem beforeWrite_memoryWork (n off t : Nat) (e : Eng) : MemoryWork e (beforeWrite n off t e) := ⟨rfl, rfl, rfl⟩

theorem beforeBytes_memoryWork (a n : Nat) (e : Eng) : MemoryWork e (beforeBytes a n e) := by
  unfold beforeBytes
  split
  · exact .foldl (fun e w => beforeWrite_memoryWork ..) _ e
  · exact .refl e

theorem writeLocal_memoryWork (a : Nat) (bs : List (Byte × Bool)) (e : Eng) : MemoryWork e (writeLocal a bs e) := by
  unfold writeLocal
  split
  · exact .ite (.refl e) ⟨rfl, rfl, rfl⟩
  · have hwords : MemoryWork e
        (if partAnswers e a then cleanWords a bs.length (beforeBytes a bs.length e) else e) :=
      .ite ((beforeBytes_memoryWork ..).trans (cleanWords_memoryWork ..)) (.refl e)
    exact hwords.trans (.foldl (fun e x => putByte_memoryWork ..) _ _)

theorem writeLocalNat_memoryWork (a n v : Nat) (e : Eng) : MemoryWork e (writeLocalNat a n v e) :=
  writeLocal_memoryWork ..

/-- A bad entry is marked in its place; then ENTRIES_BAD, the ring's count and LAST_FAILURE change (R286). -/
theorem markBad_marked (r : Nat) (x : RingEntry) (z : Ending) (frag : Nat) (e : Eng) :
    ∃ u v, MemoryWork e u ∧ markBad r x z frag e = setReg 0x4003 1 v (bump (ringIdx r) 17 (bump 0x4002 2 u)) := by
  refine ⟨_, _, ?_, rfl⟩
  refine .trans ?_ (writeLocalNat_memoryWork ..)
  have hfrag := MemoryWork.ite (p := opcodeOf x.bytes = 3) (writeLocalNat_memoryWork (x.addr + 6) 2 frag e) (.refl e)
  split
  · exact hfrag.trans (writeLocalNat_memoryWork ..)
  · split
    · exact hfrag.trans (writeLocalNat_memoryWork ..)
    · exact hfrag

theorem markBad_frame {r : Nat} (hr : r < 64) (x : RingEntry) (z : Ending) (frag : Nat) (e : Eng) :
    (markBad r x z frag e).jobs = e.jobs ∧ (markBad r x z frag e).dom = e.dom ∧
      reg (markBad r x z frag e) 0x4002 2 = (reg e 0x4002 2 + 1) % 2 ^ 64 := by
  obtain ⟨u, v, hu, heq⟩ := markBad_marked r x z frag e
  have hwidth : wrapWidth 0x4002 2 = 64 := by decide
  rw [heq]
  refine ⟨hu.jobs, hu.dom, ?_⟩
  rw [reg_setReg_other (by unfold cellKey; omega), reg_bump_other (by unfold ringIdx cellKey; omega), reg_bump_same,
    hwidth, hu.bad]

/-- An entry of its ring's epoch that completes with another status than DONE counts as bad (R286). -/
theorem completeEntry_bad {r epoch index : Nat} {e : Eng} (hr : r < 64) (h : openEntry e r epoch index)
    (hlive : epoch = reg e (ringIdx r) 12) {z : Ending} (hz : z.status ≠ .done) (frag : Nat) :
    let t := completeEntry r epoch index z frag e
    t.jobs = e.jobs ∧ t.dom = e.dom ∧ reg t 0x4002 2 = (reg e 0x4002 2 + 1) % 2 ^ 64 := by
  obtain ⟨x, rfl, heq⟩ := completeEntry_open h z frag
  have hmark : countEntry r x z frag e = markBad r x z frag e := by
    rw [countEntry, if_neg (not_not.mpr hlive), if_neg hz]
  obtain ⟨hjobs, hdom, hbad⟩ := markBad_frame hr x z frag e
  have hclose := closeEntry_work hr x.epoch index (markBad r x z frag e)
  intro t
  have ht : t = closeEntry r x.epoch index (markBad r x z frag e) := by rw [← hmark]; exact heq
  rw [ht, reg_closeEntry hr (by decide)]
  exact ⟨hclose.jobs.trans hjobs, hclose.dom.trans hdom, hbad⟩

/-! ### Jobs that complete -/

/-- A job is gone, its handles are unpinned, and its ending is counted (R338, R366, R374): its ring has not heard yet. -/
def released (x : Job) (z : Ending) (e : Eng) : Eng :=
  countEnding z (x.pins.foldl (fun e h => unpinHandle h e) (removeJob x.id e))

theorem finishJob_ring {x : Job} {r : Nat} (h : x.ring = some r) (z : Ending) (frag : Nat) (e : Eng) :
    finishJob x z frag e = completeEntry r x.epoch x.index z frag (released x z e) := by
  rw [finishJob, h]
  rfl

theorem countEnding_counts (z : Ending) (e : Eng) : Counts [(0x6020, 5), (0x6020, 6)] e (countEnding z e) := by
  unfold countEnding
  split
  · exact (Counts.refl _ e).bump (by simp) (by decide) (by decide)
  · exact (Counts.refl _ e).bumpIf (by simp) (by decide) (by decide)

/-- Nothing has changed but the handles. -/
def onlyHandles (e t : Eng) : Prop := t = { e with heap := t.heap }

theorem onlyHandles.trans {a b c : Eng} (h : onlyHandles a b) (g : onlyHandles b c) : onlyHandles a c := by
  rw [onlyHandles, g, h]

theorem unpinHandle_onlyHandles (h : Nat) (e : Eng) : onlyHandles e (unpinHandle h e) := rfl

theorem unpin_onlyHandles (hs : List Nat) (e : Eng) : onlyHandles e (hs.foldl (fun e h => unpinHandle h e) e) :=
  foldl_related (R := onlyHandles) (fun e => (rfl : onlyHandles e e)) onlyHandles.trans
    (fun e h _ => unpinHandle_onlyHandles h e) e

theorem released_frame (x : Job) (z : Ending) (e : Eng) : (released x z e).jobs = e.jobs.filter (·.id ≠ x.id) ∧
    (released x z e).dom = e.dom ∧ (released x z e).mem = e.mem ∧ (released x z e).rings = e.rings ∧
    sameEntries [(0x6020, 5), (0x6020, 6)] e (released x z e) := by
  have hunpin := unpin_onlyHandles x.pins (removeJob x.id e)
  have hcount := countEnding_counts z (x.pins.foldl (fun e h => unpinHandle h e) (removeJob x.id e))
  have honly := hcount.only
  unfold onlyHandles at hunpin
  unfold onlyRegs at honly
  have hregs : sameEntries [(0x6020, 5), (0x6020, 6)] e (x.pins.foldl (fun e h => unpinHandle h e) (removeJob x.id e)) :=
    (sameEntries_refl _ e).congr (by rw [hunpin]; rfl)
  refine ⟨?_, ?_, ?_, ?_, hregs.trans hcount.entries⟩ <;> rw [released, honly, hunpin] <;> rfl

theorem timeEntry_ring {x : Job} {r : Nat} (h : x.ring = some r) (e : Eng) :
    timeEntry x e = onRing r (fun g => { g with entries := g.entries.map fun y =>
      if y.index = x.index ∧ y.epoch = x.epoch then { y with timed := x.cls == 0, first := x.firstData } else y }) e := by
  rw [timeEntry, h]

/-- An entry that will be measured stands where it stood. -/
theorem openEntry_timed {x : Job} {r : Nat} (hring : x.ring = some r) {e : Eng} (h : openEntry e r x.epoch x.index) :
    openEntry (timeEntry x e) r x.epoch x.index := by
  obtain ⟨y, hy, hi, he, hst⟩ := h
  rw [openEntry, timeEntry_ring hring, ringOf_onRing_same]
  exact ⟨_, List.mem_map.mpr ⟨y, hy, if_pos ⟨hi, he⟩⟩, hi, he, hst⟩

/-- The block as a job of a ring leaves it, just before its entry completes. -/
def jobLeft (x : Job) (e : Eng) : Eng := released x (jobEnding x) (timeEntry x e)

theorem jobLeft_frame {x : Job} {r : Nat} (hring : x.ring = some r) (e : Eng) :
    (∀ y ∈ (jobLeft x e).jobs, y.id ≠ x.id) ∧ (jobLeft x e).dom = e.dom ∧ (jobLeft x e).mem = e.mem ∧
      sameEntries [(0x6020, 5), (0x6020, 6)] e (jobLeft x e) ∧
      (openEntry e r x.epoch x.index → openEntry (jobLeft x e) r x.epoch x.index) := by
  obtain ⟨hjobs, hdom, hmem, hrings, hregs⟩ := released_frame x (jobEnding x) (timeEntry x e)
  have htime := timeEntry_ring hring e
  refine ⟨fun y hy => ?_, hdom.trans (by rw [htime]; rfl), hmem.trans (by rw [htime]; rfl),
    .trans ((sameEntries_refl _ e).congr (by rw [htime]; rfl)) hregs, fun h => (openEntry_timed hring h).congr hrings⟩
  rw [jobLeft, hjobs] at hy
  simpa using (List.mem_filter.mp hy).2

/-- A job of a ring that has ended, waits for nothing and has no signal to give completes (R297). -/
theorem jobComplete_ended {j r : Nat} {x : Job} {e : Eng} (hj : jobOf e j = some x) (hring : x.ring = some r)
    (hop : x.op ≠ 10) (hst : x.stage = .ended) (hw : x.waits = []) (hs : x.sends = []) (hp : x.parent = none)
    (hsig : jobSignal e x = none) :
    jobComplete j e = completeEntry r x.epoch x.index (jobEnding x) x.fragFail (jobLeft x e) := by
  have hready : x.stage = .ended ∧ x.waits.isEmpty = true ∧ x.sends.isEmpty = true := by simp [hst, hw, hs]
  have hdone : completeJob x e = completeEntry r x.epoch x.index (jobEnding x) x.fragFail (jobLeft x e) := by
    rw [jobLeft, ← finishJob_ring hring]
    simp only [completeJob, hsig]
  simp only [jobComplete, hj, if_neg hop, if_pos hready, hp, hdone]

section
variable {j : Nat} {x : Job} {s : State} (hj : jobOf s.eng j = some x)
include hj

theorem exec_jobComplete (h : (jobEnding x).status ≠ .hostError) :
    exec (.jobComplete j) s = .next (onEng (jobComplete j) s) := by
  change execJobComplete j s = _
  simp only [execJobComplete, onEng, hj, if_neg h]

theorem exec_jobComplete_hostError (h : (jobEnding x).status = .hostError) : exec (.jobComplete j) s = .next s := by
  change execJobComplete j s = _
  simp only [execJobComplete, onEng, hj, if_pos h]

theorem exec_jobHostError (h : (jobEnding x).status = .hostError) :
    exec (.jobHostError j) s = .next (onEng (jobComplete j) s) := by
  change execJobHostError j s = _
  simp only [execJobHostError, onEng, hj, if_pos h]

theorem exec_jobHostError_other (h : (jobEnding x).status ≠ .hostError) : exec (.jobHostError j) s = .next s := by
  change execJobHostError j s = _
  simp only [execJobHostError, onEng, hj, if_neg h]

end

/-- What a completed job leaves: it is gone, and its ring's entry is complete. -/
def completed (x : Job) (r : Nat) (s t : State) : Prop :=
  (∀ y ∈ t.eng.jobs, y.id ≠ x.id) ∧
    (∀ y ∈ (ringOf t.eng r).entries, y.index = x.index → y.epoch = x.epoch → y.stage = .complete) ∧
    t.eng.dom = s.eng.dom ∧ t.port = s.port ∧ t.pending = s.pending

section
variable {r : Nat} {x : Job} {s : State}
  (hends : jobComplete x.id s.eng = completeEntry r x.epoch x.index (jobEnding x) x.fragFail (jobLeft x s.eng))
  (hring : x.ring = some r) (hr : r < 64) (hlive : x.epoch = reg s.eng (ringIdx r) 12)
  (hopen : openEntry s.eng r x.epoch x.index)
include hends hring hr hlive hopen

/-- A job with status DONE counts as done, and memory stays (R297). -/
theorem ended_done (hz : (jobEnding x).status = .done) : let t := onEng (jobComplete x.id) s
    completed x r s t ∧ t.eng.mem = s.eng.mem ∧ reg t.eng 0x4002 1 = (reg s.eng 0x4002 1 + 1) % 2 ^ 64 := by
  obtain ⟨hgone, hdom, hmem, hregs, hstays⟩ := jobLeft_frame hring s.eng
  have hdone := completeEntry_done hr (hstays hopen) hz x.fragFail
  have hepoch := hregs.reg (i := ringIdx r) (k := 12) (by unfold ringIdx; omega) (by omega) (by simp)
  have hcount := hregs.reg (i := 0x4002) (k := 1) (by omega) (by omega) (by simp)
  obtain ⟨hjobs, -⟩ := hdone.live (hlive.trans hepoch.symm)
  rw [← hends] at hdone hjobs
  exact ⟨⟨fun y hy => hgone y (hdone.work.jobs ▸ hy), hdone.entry, hdone.work.dom.trans hdom, rfl, rfl⟩,
    hdone.work.mem.trans hmem, hjobs.trans (by rw [hcount])⟩

/-- A job with any other status counts as bad (R286). -/
theorem ended_bad (hz : (jobEnding x).status ≠ .done) : let t := onEng (jobComplete x.id) s
    completed x r s t ∧ reg t.eng 0x4002 2 = (reg s.eng 0x4002 2 + 1) % 2 ^ 64 := by
  obtain ⟨hgone, hdom, -, hregs, hstays⟩ := jobLeft_frame hring s.eng
  have hepoch := hregs.reg (i := ringIdx r) (k := 12) (by unfold ringIdx; omega) (by omega) (by simp)
  have hcount := hregs.reg (i := 0x4002) (k := 2) (by omega) (by omega) (by simp)
  obtain ⟨hjobs, hdom', hbad⟩ := completeEntry_bad hr (hstays hopen) (hlive.trans hepoch.symm) hz x.fragFail
  have hentry := entryAt_completeEntry r x.epoch x.index (jobEnding x) x.fragFail (jobLeft x s.eng)
  rw [← hends] at hjobs hdom' hbad hentry
  exact ⟨⟨fun y hy => hgone y (hjobs ▸ hy), hentry, hdom'.trans hdom, rfl, rfl⟩, hbad.trans (by rw [hcount])⟩

end

/-! ### Reads of HST that the host has answered -/

/-- The read that an answer names, where its number is its own. -/
theorem issuedRead_found {reads : List HostRead} {h : HostRead} {j : Nat} (hmem : h ∈ reads) (hissued : h.issued = true)
    (huse : h.use = .job j) (hone : ∀ g ∈ reads, g.id = h.id → g = h) :
    reads.find? (fun g => g.id == h.id && g.issued && !g.ofRing) = some h := by
  have hring : h.ofRing = false := by rw [HostRead.ofRing, huse]
  have hsome : (reads.find? fun g => g.id == h.id && g.issued && !g.ofRing).isSome = true :=
    List.find?_isSome.mpr ⟨h, hmem, by simp [hissued, hring]⟩
  obtain ⟨g, hg⟩ := Option.isSome_iff_exists.mp hsome
  have hkey := List.find?_some hg
  simp only [Bool.and_eq_true, beq_iff_eq] at hkey
  rw [hg, hone g (List.mem_of_find?_eq_some hg) hkey.1.1]

theorem noteFirst_eq (x : Job) (e : Eng) : ∃ f, noteFirst x e = { x with firstData := f } := by
  unfold noteFirst
  split
  · exact ⟨_, rfl⟩
  · exact ⟨x.firstData, rfl⟩

/-- A job that waits for more takes the bytes of one read and waits on (R296). -/
theorem hostDataFor_waits {h : HostRead} {x : Job} (hmore : x.waits.erase h.id ≠ []) (bs : List (Byte × Bool)) (e : Eng) :
    ∃ f, hostDataFor h x bs e =
      setJob { x.put h.addr bs with waits := x.waits.erase h.id, firstData := f } e := by
  have hnot : (x.waits.erase h.id).isEmpty = false := by simpa using hmore
  have hy : ∃ f, (if h.data then noteFirst { x.put h.addr bs with waits := x.waits.erase h.id } e
      else { x.put h.addr bs with waits := x.waits.erase h.id }) =
      { x.put h.addr bs with waits := x.waits.erase h.id, firstData := f } := by
    split
    · exact noteFirst_eq _ e
    · exact ⟨x.firstData, rfl⟩
  obtain ⟨f, hf⟩ := hy
  refine ⟨f, ?_⟩
  simp only [hostDataFor, hf, hnot, Bool.false_eq_true, if_false]

/-- The bytes put into a buffer one by one, from byte `lo` of their run. -/
def putFrom (a lo : Nat) (bs : List (Byte × Bool)) (m : List (Nat × (Nat × Bool))) : List (Nat × (Nat × Bool)) :=
  ((upFrom lo bs.length).zip bs).foldl (fun m y => storeSet (fun _ => (0, false)) (a + y.1) (y.2.1.toNat, y.2.2) m) m

theorem storeGet_putFrom_before (a : Nat) (bs : List (Byte × Bool)) {lo k : Nat} (h : k < lo)
    (m : List (Nat × (Nat × Bool))) :
    storeGet (fun _ => (0, false)) (putFrom a lo bs m) (a + k) = storeGet (fun _ => (0, false)) m (a + k) := by
  induction bs generalizing lo m with
  | nil => rfl
  | cons b t ih =>
    change storeGet _ (putFrom a (lo + 1) t _) _ = _
    rw [ih (by omega), storeGet_set_other _ (by omega)]

/-- Each byte of a run stands in the buffer at its place. -/
theorem storeGet_putFrom (a : Nat) (bs : List (Byte × Bool)) (lo : Nat) (m : List (Nat × (Nat × Bool))) {k : Nat}
    (hk : k < bs.length) : storeGet (fun _ => (0, false)) (putFrom a lo bs m) (a + (lo + k)) =
      ((bs[k]).1.toNat, (bs[k]).2) := by
  induction bs generalizing lo m k with
  | nil => exact absurd hk (Nat.not_lt_zero k)
  | cons b t ih =>
    change storeGet _ (putFrom a (lo + 1) t _) _ = _
    cases k with
    | zero => exact (storeGet_putFrom_before a t (Nat.lt_add_one lo) _).trans (storeGet_set_same ..)
    | succ k =>
      have hplace : lo + (k + 1) = lo + 1 + k := by omega
      rw [hplace, ih (lo + 1) _ (Nat.lt_of_succ_lt_succ hk), List.getElem_cons_succ]

/-- The bytes that a job takes stand in its buffer. -/
theorem storeGet_put (x : Job) (a : Nat) (bs : List (Byte × Bool)) {k : Nat} (hk : k < bs.length) :
    storeGet (fun _ => (0, false)) (x.put a bs).buf (a + k) = ((bs[k]).1.toNat, (bs[k]).2) := by
  have h := storeGet_putFrom a bs 0 x.buf hk
  rwa [Nat.zero_add] at h

/-- HST goes on to the reads that wait (R296). -/
def askNext (e : Eng) : Eng := issueReads e.hostReads.length e

/-- A host read of a job that waits for more is answered: the read is gone, and HST issues the next (R296). -/
theorem exec_hostReadCompletion_waits {h : HostRead} {x : Job} {s : State} {bytes : List Byte} (hmem : h ∈ s.eng.hostReads)
    (hissued : h.issued = true) (huse : h.use = .job x.id) (hone : ∀ g ∈ s.eng.hostReads, g.id = h.id → g = h)
    (hj : jobOf s.eng x.id = some x) (hwaits : h.id ∈ x.waits) (hmore : x.waits.erase h.id ≠ [])
    (hlen : bytes.length = h.len) : ∃ f,
      exec (.hostReadCompletion h.id (.data bytes false)) s = .next (onEng (fun e => askNext (setJob
        { x.put h.addr (bytes.map fun b => (b, e.hostPois)) with waits := x.waits.erase h.id, firstData := f }
        { e with hostReads := e.hostReads.filter fun g => g.id ≠ h.id, hostPois := false })) s) := by
  have hfound := issuedRead_found hmem hissued huse hone
  obtain ⟨f, hf⟩ := hostDataFor_waits hmore (bytes.map fun b => (b, s.eng.hostPois))
    { s.eng with hostReads := s.eng.hostReads.filter fun g => g.id ≠ h.id, hostPois := false }
  have hjob : (jobOf { s.eng with hostReads := s.eng.hostReads.filter fun g => g.id ≠ h.id } x.id).filter
      (fun y => y.waits.contains h.id) = some x := by
    change (jobOf s.eng x.id).filter _ = some x
    rw [hj, Option.filter_some, if_pos (by simpa using hwaits)]
  refine ⟨f, ?_⟩
  change execHostReadCompletion h.id (.data bytes false) s = _
  simp only [execHostReadCompletion, hfound, huse, hjob, hostBytes, Bool.false_or, if_neg (not_not.mpr hlen), onEng,
    hf, askNext]

theorem askNext_requests (e : Eng) : Requests e (askNext e) := issueReads_requests _ e

/-- No read of an identifier is left among the reads that stay, however many of them are issued. -/
theorem askNext_gone {id : Nat} {e : Eng} (h : ∀ g ∈ e.hostReads, g.id ≠ id) :
    ∀ g ∈ (askNext e).hostReads, g.id ≠ id := by
  intro g hg
  have hrange : g.range ∈ e.hostReads.map HostRead.range := by
    rw [← issueReads_ranges]
    exact List.mem_map_of_mem hg
  obtain ⟨y, hy, heq⟩ := List.mem_map.mp hrange
  have hid : y.id = g.id := congrArg Prod.fst heq
  exact hid ▸ h y hy

/-- The bytes of an answered read stand in the buffer of the job that waits on (R296). -/
theorem exec_hostReadCompletion_data {h : HostRead} {x : Job} {s : State} {bytes : List Byte} (hmem : h ∈ s.eng.hostReads)
    (hissued : h.issued = true) (huse : h.use = .job x.id) (hone : ∀ g ∈ s.eng.hostReads, g.id = h.id → g = h)
    (hj : jobOf s.eng x.id = some x) (hwaits : h.id ∈ x.waits) (hmore : x.waits.erase h.id ≠ [])
    (hlen : bytes.length = h.len) :
    ∃ t y, exec (.hostReadCompletion h.id (.data bytes false)) s = .next t ∧ jobOf t.eng x.id = some y ∧
      y.waits = x.waits.erase h.id ∧ (∀ g ∈ t.eng.hostReads, g.id ≠ h.id) ∧
      (∀ k (hk : k < bytes.length), storeGet (fun _ => (0, false)) y.buf (h.addr + k) =
        (bytes[k].toNat, s.eng.hostPois)) ∧
      t.eng.regs = s.eng.regs ∧ t.eng.dom = s.eng.dom ∧ sameMemory s.eng t.eng ∧ t.port = s.port ∧
      t.pending = s.pending := by
  obtain ⟨f, hnext⟩ := exec_hostReadCompletion_waits hmem hissued huse hone hj hwaits hmore hlen
  have hset := jobOf_setJob
    (x := { x.put h.addr (bytes.map fun b => (b, s.eng.hostPois)) with waits := x.waits.erase h.id, firstData := f })
    (e := { s.eng with hostReads := s.eng.hostReads.filter fun g => g.id ≠ h.id, hostPois := false })
    ((holdsJob_of_jobOf hj).congr rfl)
  have hasks := askNext_requests (setJob
    { x.put h.addr (bytes.map fun b => (b, s.eng.hostPois)) with waits := x.waits.erase h.id, firstData := f }
    { s.eng with hostReads := s.eng.hostReads.filter fun g => g.id ≠ h.id, hostPois := false })
  refine ⟨_, _, hnext, (jobOf_congr hasks.jobs x.id).trans hset, rfl, ?_, fun k hk => ?_, hasks.regs, hasks.dom,
    (sameMemory_of rfl rfl rfl rfl rfl).trans hasks.memory, rfl, rfl⟩
  · refine askNext_gone fun g hg => ?_
    simpa using (List.mem_filter.mp hg).2
  · have hbyte := storeGet_put x h.addr (bytes.map fun b => (b, s.eng.hostPois)) (k := k) (by rwa [List.length_map])
    rwa [List.getElem_map] at hbyte

end Sys2Proof.Machine

namespace Sys2Proof.Proofs

open Sys2Proof Sys2Proof.Machine

/-- Settles O29: each clause cites the law of its command. The bytes of an answered read stand in the buffer because each
byte of a run is put at its own place (`storeGet_putFrom`), and a job that completes is taken away before its ring's entry
completes (`jobLeft_frame`), so that the rules of completed entries (R286, R297) apply. -/
theorem jobsRun : Obligations.JobsRun := by
  unfold Obligations.JobsRun
  rintro s j x hj rfl
  refine ⟨fun r st hring hready hop hstep hw hturn hheld hgo hst hstack => ?_,
    fun r hring hready hop hplan hturn hheld hgo hsends hhost hpos => ?_,
    fun r hring hop hst hw hs hp hsig hlive hr hopen => ?_,
    fun h bytes hmem hissued huse hone hwaits hmore hlen => ?_⟩
  · exact exec_jobStart_expand hj hring hready hop hstep hw hturn hheld hgo hst hstack
  · exact exec_jobStart_reshard hj hring hready hop hplan hturn hheld hgo hsends hhost hpos
  · have hends := jobComplete_ended hj hring hop hst hw hs hp hsig
    exact ⟨fun hz => ⟨_, exec_jobComplete hj (by rw [hz]; decide), ended_done hends hring hr hlive hopen hz⟩,
      fun hz hhost => ⟨exec_jobHostError_other hj hhost, _, exec_jobComplete hj hhost,
        ended_bad hends hring hr hlive hopen hz⟩,
      fun hz => ⟨exec_jobComplete_hostError hj hz, _, exec_jobHostError hj hz,
        ended_bad hends hring hr hlive hopen (by rw [hz]; decide)⟩⟩
  · exact exec_hostReadCompletion_data hmem hissued huse hone hj hwaits hmore hlen

end Sys2Proof.Proofs
end
